-- ==== Sys2Proof/Word.lean ====
section
/-! DEFINITION. The word types of the Umaku and the coordinates of a gang slot (00 R4 to R6, 01 R14). -/

namespace Sys2Proof

/-- 64-bit scalar registers, addresses and record words (00 R12, 01 R19). -/
abbrev Word := BitVec 64
/-- 32-bit instruction words and lane elements (00 R12, 09 R263). -/
abbrev W32 := BitVec 32
/-- One byte of a memory (04, "Locations and the order of writes"). -/
abbrev Byte := BitVec 8
/-- A seven-bit register field (09 R270). -/
abbrev Reg := BitVec 7

/-- A sparse map from numbers: strictly rising keys, no entry equal to the default. -/
abbrev Cells (α : Type) := List (Nat × α)

/-- The coordinates of a gang slot: package, die, cluster, core and slot (01 R14). -/
structure Coords where
  pkg : Nat
  die : Nat
  cluster : Nat
  core : Nat
  slot : Nat
deriving DecidableEq, Repr, Inhabited

/-- The six levels (01 R14). -/
inductive Level where
  | g | c | cl | d | p | pod
deriving DecidableEq, Repr, Inhabited

/-- The level code of R14. -/
def Level.code : Level → Nat
  | .g => 0 | .c => 1 | .cl => 2 | .d => 3 | .p => 4 | .pod => 5

/-- The level of a code of R14; codes above 5 are reserved. -/
def Level.ofCode : Nat → Option Level
  | 0 => some .g | 1 => some .c | 2 => some .cl | 3 => some .d | 4 => some .p | 5 => some .pod
  | _ => none

end Sys2Proof
end

