-- ==== Sys2Proof/Syntax.lean ====
section
/-! DEFINITION. The instructions and events of the Umaku: one constructor of `Instr` for each row of
spec/opcode_table.json (09 R281; 95_what_each_step_holds.md lists the rows as the machine's steps). -/

namespace Sys2Proof

/-- Function of `sadd` and `ssub` (10 R323). -/
inductive SAddOp where
  | wrap | w | ss | us
deriving DecidableEq, Repr
/-- Function of `smul` (10 R323). -/
inductive SMulOp where
  | lo | hs | hu | ww
deriving DecidableEq, Repr
/-- Function of `sand`, `sor` and `sxor`: plain, or with the second operand inverted (10 R323). -/
inductive SLogOp where
  | plain | inv
deriving DecidableEq, Repr
/-- Function of `sshl` (10 R323). -/
inductive SShlOp where
  | shl | rol
deriving DecidableEq, Repr
/-- Function of `sshr` and `vshr` (10 R323, 11 R335). -/
inductive ShrOp where
  | shr | sra | ror
deriving DecidableEq, Repr
/-- Minimum and maximum, signed and unsigned (10 R323, 11 R336). -/
inductive MinMaxOp where
  | min | max | minu | maxu
deriving DecidableEq, Repr
/-- Integer comparison (10 R323, 11 R337). -/
inductive CmpOp where
  | eq | ne | lt | ge | ltu | geu
deriving DecidableEq, Repr
/-- Condition of `ssel` (10 R323). -/
inductive SSelOp where
  | nz | neg
deriving DecidableEq, Repr
/-- Function of `slogi` (10 R325). -/
inductive SLogiOp where
  | and | or | xor | shl | shr | sra | ror | ins
deriving DecidableEq, Repr
/-- Function of `sbit` (10 R324). -/
inductive SBitOp where
  | popc | clz | ctz | brev | bswap | ext | exts | tok | fromk
deriving DecidableEq, Repr

/-- The routes of R277; route 15 is reserved. -/
inductive Route where
  | none | rot1 | rot2 | rot4 | rot8 | rot16 | xor1 | xor2 | xor4 | xor8 | xor16 | mir | b0 | b31 | scalar
deriving DecidableEq, Repr

/-- Form of `vmov` with its operands (11 R339). -/
inductive VMovForm where
  | v (d a : Reg) | s (d a : Reg) | sh (d a : Reg) | lane (d : Reg)
  | x (d a : Reg) (n : BitVec 5) | ins (d a : Reg) (n : BitVec 5) | k (d : Reg) (a : BitVec 3)
deriving DecidableEq, Repr
/-- Function of `vvote` (11 R341). -/
inductive VVoteOp where
  | any | all | uni | popc | ballot | first
deriving DecidableEq, Repr
/-- Operation of `vscan` (11 R342). -/
inductive VScanOp where
  | add | fadd | min | max | minu | maxu
deriving DecidableEq, Repr
/-- Operation of `vredl` (11 R343). -/
inductive VRedlOp where
  | add | fadd | min | max | minu | maxu | fmin | fmax | and | or | xor
deriving DecidableEq, Repr
/-- Selector of `fminmax` (11 R346). -/
inductive FMinMaxOp where
  | min | max | minp | maxp
deriving DecidableEq, Repr
/-- Condition of `fcmp` (11 R347). -/
inductive FCmpOp where
  | eq | ne | lt | le | gt | ge | un | ord
deriving DecidableEq, Repr
/-- Function of `ffun` (11 R348). -/
inductive FFunOp where
  | rcp | sqrt | rsqrt | exp2 | log2 | sinpi | cospi | tanh | abs | neg | rint
deriving DecidableEq, Repr
/-- Type of a 4-bit block code (05 R168). -/
inductive F4Type where
  | int | e2m1 | pow2 | hyb
deriving DecidableEq, Repr
/-- Format of `fcvt` (11 R349). -/
inductive CvtFmt where
  | fp16 | bf16 | e4m3 | e5m2 | e3m2 | e2m3 | f4 (t : F4Type) | i32 | u32 | i8
deriving DecidableEq, Repr
/-- Rounding mode named by an encoding; `dyn` is rm of `%fpcsr` (11 R349). -/
inductive RndSel where
  | rne | rtz | rdn | rup | sr | dyn
deriving DecidableEq, Repr
/-- Code width of `fpack` (11 R351). -/
inductive PackW where
  | h2 | b4 | n8 | s6
deriving DecidableEq, Repr
/-- Format that `fclass` classifies (11 R352). -/
inductive ClassFmt where
  | fp32 | bf16 | fp16
deriving DecidableEq, Repr

/-- Access size (12 R357). -/
inductive Size where
  | b | h | w | d
deriving DecidableEq, Repr
/-- Address form of `ld`, `st` and `pref` (12 R357). -/
inductive AddrForm where
  | vz (rb : Reg) | vs (rb : Reg) | lin
deriving DecidableEq, Repr

/-- Operation of `atom` (12 R382). -/
inductive AtomOp where
  | add | and | or | xor | min | max | minu | maxu | swap | fadd | faddOf
deriving DecidableEq, Repr
/-- Operation of `atom64` (12 R382). -/
inductive Atom64Op where
  | add | and | or | xor | min | max | minu | maxu | swap
deriving DecidableEq, Repr
/-- Operation of `red` (12 R382). -/
inductive RedOp where
  | add | and | or | xor | min | max | minu | maxu | faddOf | addD | andD | orD | minD | maxD | minuD | maxuD
deriving DecidableEq, Repr

/-- An engine timeline's owner: the cart of a level unit, the kiln of a cluster, the granary of a die (12 R374). -/
inductive Engine where
  | cart (l : Level) (c : Coords)
  | kiln (c : Coords)
  | granary (c : Coords)
deriving DecidableEq, Repr
/-- One engine operation: its engine, its job and its number (04, "Engines and timelines"). -/
structure OpId where
  eng : Engine
  job : Nat
  n : Nat
deriving DecidableEq, Repr
/-- The request that a fabric timeout answers (19 R511). One of a cart operation is named by the rank of the child whose memory it is for
(none for the issuer's side), whether it writes, and its address (02 R79). -/
inductive TimedOut where
  | req (id : Nat) | load (c : Coords) (i : Nat) | cart (o : OpId) (child : Option Nat) (wr : Bool) (addr : Word)
  | kiln (e : Nat) (step : Nat) (addr : Word) | granary (c : Coords) (addr : Word)
deriving DecidableEq, Repr
/-- The functions of a package that report ready (21 R528, R530). -/
inductive Func where
  | die (n : Nat) | stack (n : Nat) | port (n : Nat) | granary (n : Nat) | security | morcy | baseDie
deriving DecidableEq, Repr
/-- A host command's session and sequence number (17 R450). -/
structure Cmd where
  pkg : Nat
  sess : Nat
  seq : Nat
deriving DecidableEq, Repr
/-- A firmware image as the driver writes it (21 R518). -/
structure Image where
  kind : Nat
  version : Nat
  rollback : Nat
  body : List Byte
  key : List Byte
  sig : List Byte
deriving DecidableEq, Repr
/-- One link of a pod's wiring: package and port at each end (19 R538). -/
structure Link where
  pkgA : Nat
  portA : Nat
  pkgB : Nat
  portB : Nat
deriving DecidableEq, Repr
/-- One finalised function as the finaliser places it (16 R440, R444): entry address, level, register need,
scratch need and costart group. -/
structure Kernel where
  entry : Word
  level : Nat
  regs : Nat
  scratch : Nat
  costart : Nat
deriving DecidableEq, Repr
/-- The figures of the telemetry page that the manual derives from sensors (21 R530). -/
structure Sensors where
  ce : Nat
  power : Nat
  tmax : Nat
deriving DecidableEq, Repr

/-- The instructions and events, one constructor for each row of the opcode table. -/
inductive Instr where
  -- group 0: control (10)
  | nop
  | bra (o : BitVec 18)
  | braIndirect (a : Reg) (o : BitVec 18)
  | brcNz (n : BitVec 6) (o : BitVec 18)
  | brcZ (n : BitVec 6) (o : BitVec 18)
  | brd (k : BitVec 3) (o j : BitVec 18)
  | join
  | call (o : BitVec 18)
  | callIndirect (a : Reg) (o : BitVec 18)
  | ret
  | exit
  | yield
  | yieldPath
  | trap (i : BitVec 11)
  | bkpt
  | tret
  | term
  | rget (n : BitVec 11)
  | rgetGrant (c : Coords)
  | rput
  | winb (b : BitVec 11)
  -- group 1: scalar (10)
  | sadd (d a b : Reg) (m : SAddOp)
  | ssub (d a b : Reg) (m : SAddOp)
  | smul (d a b : Reg) (m : SMulOp)
  | sand (d a b : Reg) (m : SLogOp)
  | sor (d a b : Reg) (m : SLogOp)
  | sxor (d a b : Reg) (m : SLogOp)
  | sshl (d a b : Reg) (m : SShlOp)
  | sshr (d a b : Reg) (m : ShrOp)
  | sminmax (d a b : Reg) (m : MinMaxOp)
  | scmp (d a b : Reg) (m : CmpOp)
  | ssel (d a b : Reg) (m : SSelOp)
  | saddi (d a : Reg) (i : BitVec 11)
  | slogi (d a : Reg) (f : SLogiOp) (i : BitVec 8)
  | sli (d : Reg) (i : BitVec 18)
  | sbit (d a b : Reg) (m : SBitOp)
  | ssprRd (d : Reg) (n : BitVec 8)
  | ssprWr (a : Reg) (n : BitVec 8)
  | ssprOr (a : Reg) (n : BitVec 8)
  | ssprAndn (a : Reg) (n : BitVec 8)
  -- group 2: vector integer and lane (11)
  | vadd (d a b : Reg) (r : Route)
  | vsub (d a b : Reg) (r : Route)
  | vmul (d a b : Reg) (r : Route)
  | vand (d a b : Reg) (r : Route)
  | vor (d a b : Reg) (r : Route)
  | vxor (d a b : Reg) (r : Route)
  | vshl (d a b : Reg) (x : Bool) (m : SShlOp)
  | vshr (d a b : Reg) (x : Bool) (m : ShrOp)
  | vminmax (d a b : Reg) (x : Bool) (m : MinMaxOp)
  | vcmp (k : BitVec 3) (a b : Reg) (x : Bool) (m : CmpOp)
  | vsel (d a b : Reg) (x : Bool) (k : BitVec 3)
  | vmov (f : VMovForm)
  | vperm (d a b : Reg) (z : Bool)
  | vvote (d a : Reg) (m : VVoteOp)
  | vscan (d a : Reg) (ex : Bool) (o : VScanOp)
  | vredl (d a : Reg) (o : VRedlOp)
  -- group 3: vector floating point (11)
  | fadd (d a b : Reg) (r : Route)
  | fsub (d a b : Reg) (r : Route)
  | fmul (d a b : Reg) (r : Route)
  | ffma (d a b : Reg) (r : Route)
  | fminmax (d a b : Reg) (x : Bool) (m : FMinMaxOp)
  | fcmp (k : BitVec 3) (a b : Reg) (x : Bool) (m : FCmpOp)
  | ffun (d a : Reg) (f : FFunOp)
  | fcvt (d a : Reg) (m : RndSel) (f : CvtFmt) (frm : Bool)
  | fpack (d a : Reg) (un : Bool) (w : PackW)
  | hadd2 (d a b : Reg) (r : Route)
  | hmul2 (d a b : Reg) (r : Route)
  | hfma2 (d a b : Reg) (r : Route)
  | fclass (d a : Reg) (m : ClassFmt)
  | frng (d : Reg) (u01 : Bool)
  | fscale (d a b : Reg) (x : Bool) (ex : Bool)
  | fdot2 (d a b : Reg) (r : Route)
  -- group 4: memory and timelines (12)
  | ld (d a : Reg) (f : AddrForm) (z : Size)
  | st (d a : Reg) (f : AddrForm) (z : Size)
  | lds (d a : Reg) (o : BitVec 9) (z : Size)
  | sts (d a : Reg) (o : BitVec 9) (z : Size)
  | ldc (d a : Reg) (o : BitVec 9) (z : Size)
  | ldsp (d a b : Reg) (col sk : Bool)
  | stsp (d a b : Reg) (col sk : Bool)
  | ldb (d a b : Reg) (n : BitVec 4)
  | stb (d a b : Reg) (n : BitVec 4)
  | pref (a : Reg) (f : AddrForm)
  | pfence (m : BitVec 4)
  | drain
  | cpy (t : BitVec 3) (d p : Reg) (l : Level)
  | tlwait (t : BitVec 3)
  | tlwaitN (t : BitVec 3) (n : Reg)
  | tlreadCnt (d : Reg) (t : BitVec 3)
  | tlreadLast (d : Reg) (t : BitVec 3)
  | tlreadSkip (d : Reg) (t : BitVec 3)
  | sleept (a : Reg)
  | sleepEnd (c : Coords)
  | promiseExpiry (o : OpId)
  -- group 5: atomics, queues and levels (12)
  | atom (d a b : Reg) (o : AtomOp)
  | atom64 (d a b : Reg) (o : Atom64Op)
  | casW (d a b : Reg)
  | casD (d a b : Reg)
  | red (d a b : Reg) (o : RedOp)
  | chunk (d a b : Reg)
  | qpush (d a : Reg)
  | qpop (d a : Reg) (k : BitVec 3)
  | qpops (d a : Reg)
  | qclose (a : Reg)
  | lnch (d : Reg) (f : BitVec 6) (t : Reg) (l : Level)
  | lnchTry (d : Reg) (f : BitVec 6) (t : Reg) (l : Level)
  | joinw (d a : Reg)
  | bar (l : Level)
  | mcopy (t : BitVec 3) (d p : Reg) (l : Level)
  | reduce (t : BitVec 3) (d p : Reg) (l : Level)
  | fencePub (l : Level)
  | fenceAcq (l : Level)
  | fenceAr (l : Level)
  | cancelL (a : Reg)
  | cancelG
  | cancelJ
  -- group 6: matrix, lookup and training (13)
  | mma (t : BitVec 4) (a b : Reg) (h : BitVec 3)
  | mldw (h : BitVec 3) (b : Reg)
  | accz (t : BitVec 4)
  | accrd (d : Reg) (t : BitVec 4) (c : Reg) (n : BitVec 3)
  | accwr (t : BitVec 4) (s : Reg) (n : BitVec 3)
  | acccvt (d : Reg) (t : BitVec 4) (m : RndSel) (n : BitVec 3)
  | accadd (d s : BitVec 4) (n : BitVec 3)
  | acccp (d s : BitVec 4) (n : BitVec 3)
  | shset (n : BitVec 3) (a : Reg)
  | shget (d : Reg) (n : BitVec 3)
  | pkld (h : BitVec 3) (a : Reg)
  | pkq (h : BitVec 3) (d : Reg)
  | pkb (h : BitVec 3) (d : Reg)
  | ovfq (d : Reg)
  | lsapp (d a : Reg)
  | accmx (d : Reg) (t : BitVec 4) (n : BitVec 3)
  -- events of a gang, its memory requests and its core
  | tileHoldEnd (c : Coords)
  | loadReply (c : Coords) (i : Nat)
  | replyToImage (job pkg : Nat) (c : Coords) (i : Nat)
  | atomicErrorReply (id : Nat)
  | postedPermissionTest (id : Nat)
  | storeAtHome (id : Nat)
  | storeFaultDelivery (c : Coords)
  | updateOnlyEviction (i : Nat)
  | combineMerge (a b : Nat)
  | replySplit (id : Nat)
  | atomicAtHome (id : Nat)
  | chunkGroup (id : Nat)
  | queueOpArrival (c : Coords)
  | queueOpAccept (c : Coords)
  | poolRecordGrant (l : Level) (c : Coords)
  | reeveChildStart (launch k : Nat)
  | gangEnd (c : Coords)
  | launchComplete (launch : Nat)
  | barrierOpen (launch : Nat)
  | pathAgeingTakeover (c : Coords)
  | rootLaunchStart (pkg q : Nat)
  -- events of the engines
  | mmaStart (e : Nat)
  | mmaStepComplete (e : Nat)
  | mmaRestart (e : Nat)
  | operandFetchFailure (e : Nat) (step : Nat) (addr : Word)
  | weightLatchLoaded (c : Coords) (i : Nat) (ok : Bool)
  | granaryOpStart (c : Coords)
  | granaryOpComplete (c : Coords)
  | cartOpComplete (o : OpId)
  -- events of the fabric
  | fabricTimeout (t : TimedOut)
  | laneLoss (pkg port lane : Nat)
  | retrainComplete (pkg group : Nat)
  | portRejoin (pkg port : Nat)
  | capabilityWord (pkg port : Nat) (w : Word)
  | capabilityTimeout (pkg port : Nat)
  | linkDown (pkg port : Nat)
  | podBringUp (pod count : Nat) (links : List Link)
  | memberFailure (pkg : Nat)
  -- host commands and sessions
  | hello (pkg : Nat) (minMajor minMinor maxMajor maxMinor : Nat) (ct : List Byte)
  | confirm (pkg sess : Nat)
  | messageAuthFailure (pkg sess : Nat)
  | sessionClose (pkg sess : Nat)
  | sessionLinkLoss (pkg sess : Nat)
  | jobCreate (h : Cmd) (rec : List Word)
  | jobEnd (h : Cmd) (job : Nat)
  | keyInstall (h : Cmd) (job slot : Nat) (wrapped : List Byte)
  | load (h : Cmd) (job : Nat) (obj : List Byte) (buf codeAt dataAt : Word)
  | memWrite (h : Cmd) (job : Nat) (addr : Word) (data : List Byte)
  | memRead (h : Cmd) (job : Nat) (addr : Word) (n : Nat)
  | graphCreate (h : Cmd) (job : Nat)
  | queueBindCmd (h : Cmd) (q job : Nat)
  | submit (h : Cmd) (q : Nat) (recs : List (List Word))
  | cancelLaunch (h : Cmd) (q n : Nat)
  | cancelGraph (h : Cmd) (job graph : Nat)
  | cancelJob (h : Cmd) (job : Nat)
  | counterRead (h : Cmd) (job : Nat) (graph : Option Nat)
  | save (h : Cmd) (req : List Word)
  | saveComplete (job pkg : Nat)
  | saveDeadlineExpiry (job pkg : Nat)
  | resume (h : Cmd) (req : List Word)
  | resumeRestore (job pkg : Nat)
  -- events of the package
  | packageReset (pkg : Nat)
  | functionReady (pkg : Nat) (f : Func)
  | commandReadyTimeout (h : Cmd)
  | functionFailure (pkg : Nat) (f : Func)
  | uncorrectableStateError (c : Coords)
  | scrubPass (pkg : Nat)
  | telemetryUpdate (pkg : Nat) (v : Sensors)
  | powerLimit (pkg : Nat) (v : Sensors)
  | thermalShutdown (pkg : Nat) (tmax : Nat)
  | checkpoint (h : Cmd) (rec : List Word)
  | checkpointRestore (h : Cmd) (rec : List Word)
  | checkpointComplete (pkg : Nat) (failedAt : Option Nat)
  -- the fate of an illegal word, and the rows listed last in the table
  | illegalInstruction (w : W32)
  | granarySegmentWrite (c : Coords)
  | granaryQueryBoundary (c : Coords)
  | linkUp (pkg port : Nat) (w : Word)
  | flitCrcFailure (pkg port : Nat)
  | jobClaim (pkg sess job : Nat) (owner : Word)
deriving DecidableEq, Repr

end Sys2Proof
end

