-- ==== Sys2Proof/WellFormed.lean ====
section
/-! DEFINITION. Which words of an instruction's fields are legal where the field types of `Instr` do not say it already
(09 R274 to R276 and the entries of 10 to 13), and which constructors are instruction words. -/

namespace Sys2Proof

/-- The special registers of R297 that a word can name; `%lane` is for vector instructions only (R299). -/
def sprNumbers : List Nat :=
  [0x00, 0x01, 0x03, 0x04, 0x05, 0x06, 0x07, 0x08, 0x09, 0x0A, 0x0B, 0x0C, 0x0D, 0x10, 0x11, 0x12, 0x14, 0x15, 0x16, 0x17,
   0x20, 0x21, 0x22, 0x23, 0x24, 0x25, 0x26]
/-- The special registers whose access lets software write (R297, R300). -/
def sprWritable : List Nat := [0x00, 0x10, 0x11, 0x12, 0x14, 0x15, 0x16, 0x17, 0x20, 0x25, 0x26]

/-- The functions of `sbit` that read rb (R324). -/
def SBitOp.usesB : SBitOp → Bool
  | .ext | .exts => true
  | .popc | .clz | .ctz | .brev | .bswap | .tok | .fromk => false
/-- The shift forms of `slogi`, whose imm11 [7:6] must be 0 (R325). -/
def SLogiOp.isShift : SLogiOp → Bool
  | .shl | .shr | .sra | .ror => true
  | .and | .or | .xor | .ins => false

/-- The instruction's fields are legal: the device raises no illegal-instruction trap for them (R274 to R280). Events
have no word and are legal with any operands. -/
def Instr.wf : Instr → Bool
  | .braIndirect a _ | .callIndirect a _ => a != 0
  | .rget n => 1 ≤ n.toNat && n.toNat ≤ 3
  | .winb b => b.toNat == 0 || b.toNat == 64 || b.toNat == 128
  | .slogi _ _ f i => !f.isShift || i.toNat < 64
  | .sbit d a b m =>
    (m.usesB || b == 0) && (m != .tok || d.toNat < 8) && (m != .fromk || a.toNat < 8)
  | .ssprRd _ n => sprNumbers.contains n.toNat
  | .ssprWr _ n | .ssprOr _ n | .ssprAndn _ n => sprWritable.contains n.toNat
  | .vvote d _ m => m != .ballot || d.toNat < 8
  | .fscale _ _ b x ex => !ex || (b == 0 && !x)
  | .pfence m => m != 0
  | .cpy _ d _ l => d.toNat ≤ 124 && (l == .cl || l == .d || l == .p || l == .pod)
  | .mcopy _ d _ l | .reduce _ d _ l => d.toNat ≤ 124 && l != .g
  | .qpops d _ => d.toNat ≤ 120
  | .lnch _ _ t l | .lnchTry _ _ t l => t.toNat ≤ 120 && l != .g
  | .mma _ a b _ => a.toNat ≤ 126 && b.toNat ≤ 126
  | .mldw _ b => b.toNat ≤ 126
  | .pkq _ d | .pkb _ d => d.toNat ≤ 122
  | .nop | .bra _ | .brcNz _ _ | .brcZ _ _ | .brd _ _ _ | .join | .call _ | .ret | .exit | .yield | .yieldPath | .trap _
  | .bkpt | .tret | .term | .rgetGrant _ | .rput | .sadd _ _ _ _ | .ssub _ _ _ _ | .smul _ _ _ _ | .sand _ _ _ _
  | .sor _ _ _ _ | .sxor _ _ _ _ | .sshl _ _ _ _ | .sshr _ _ _ _ | .sminmax _ _ _ _ | .scmp _ _ _ _ | .ssel _ _ _ _
  | .saddi _ _ _ | .sli _ _ | .vadd _ _ _ _ | .vsub _ _ _ _ | .vmul _ _ _ _ | .vand _ _ _ _ | .vor _ _ _ _
  | .vxor _ _ _ _ | .vshl _ _ _ _ _ | .vshr _ _ _ _ _ | .vminmax _ _ _ _ _ | .vcmp _ _ _ _ _ | .vsel _ _ _ _ _
  | .vmov _ | .vperm _ _ _ _ | .vscan _ _ _ _ | .vredl _ _ _ | .fadd _ _ _ _ | .fsub _ _ _ _ | .fmul _ _ _ _
  | .ffma _ _ _ _ | .fminmax _ _ _ _ _ | .fcmp _ _ _ _ _ | .ffun _ _ _ | .fcvt _ _ _ _ _ | .fpack _ _ _ _
  | .hadd2 _ _ _ _ | .hmul2 _ _ _ _ | .hfma2 _ _ _ _ | .fclass _ _ _ | .frng _ _ | .fdot2 _ _ _ _ | .ld _ _ _ _
  | .st _ _ _ _ | .lds _ _ _ _ | .sts _ _ _ _ | .ldc _ _ _ _ | .ldsp _ _ _ _ _ | .stsp _ _ _ _ _ | .ldb _ _ _ _
  | .stb _ _ _ _ | .pref _ _ | .drain | .tlwait _ | .tlwaitN _ _ | .tlreadCnt _ _ | .tlreadLast _ _ | .tlreadSkip _ _
  | .sleept _ | .sleepEnd _ | .promiseExpiry _ | .atom _ _ _ _ | .atom64 _ _ _ _ | .casW _ _ _ | .casD _ _ _
  | .red _ _ _ _ | .chunk _ _ _ | .qpush _ _ | .qpop _ _ _ | .qclose _ | .joinw _ _ | .bar _ | .fencePub _ | .fenceAcq _
  | .fenceAr _ | .cancelL _ | .cancelG | .cancelJ | .accz _ | .accrd _ _ _ _ | .accwr _ _ _ | .acccvt _ _ _ _
  | .accadd _ _ _ | .acccp _ _ _ | .shset _ _ | .shget _ _ | .pkld _ _ | .ovfq _ | .lsapp _ _ | .accmx _ _ _
  | .tileHoldEnd _ | .loadReply _ _ | .replyToImage _ _ _ _ | .atomicErrorReply _ | .postedPermissionTest _
  | .storeAtHome _ | .storeFaultDelivery _ | .updateOnlyEviction _ | .combineMerge _ _ | .replySplit _ | .atomicAtHome _
  | .chunkGroup _ | .queueOpArrival _ | .queueOpAccept _ | .poolRecordGrant _ _ | .reeveChildStart _ _ | .gangEnd _
  | .launchComplete _ | .barrierOpen _ | .pathAgeingTakeover _ | .rootLaunchStart _ _ | .mmaStart _ | .mmaStepComplete _
  | .mmaRestart _ | .operandFetchFailure _ _ _ | .weightLatchLoaded _ _ _ | .granaryOpStart _ | .granaryOpComplete _
  | .cartOpComplete _ | .fabricTimeout _ | .laneLoss _ _ _ | .retrainComplete _ _ | .portRejoin _ _ | .capabilityWord _ _ _
  | .capabilityTimeout _ _ | .linkDown _ _ | .podBringUp _ _ _ | .memberFailure _ | .hello _ _ _ _ _ _ | .confirm _ _
  | .messageAuthFailure _ _ | .sessionClose _ _ | .sessionLinkLoss _ _ | .jobCreate _ _ | .jobEnd _ _ | .keyInstall _ _ _ _
  | .load _ _ _ _ _ _ | .memWrite _ _ _ _ | .memRead _ _ _ _ | .graphCreate _ _ | .queueBindCmd _ _ _ | .submit _ _ _
  | .cancelLaunch _ _ _ | .cancelGraph _ _ _ | .cancelJob _ _ | .counterRead _ _ _ | .save _ _ | .saveComplete _ _
  | .saveDeadlineExpiry _ _ | .resume _ _ | .resumeRestore _ _ | .packageReset _ | .functionReady _ _
  | .commandReadyTimeout _ | .functionFailure _ _ | .uncorrectableStateError _ | .scrubPass _ | .telemetryUpdate _ _
  | .powerLimit _ _ | .thermalShutdown _ _ | .checkpoint _ _ | .checkpointRestore _ _ | .checkpointComplete _ _
  | .illegalInstruction _ | .granarySegmentWrite _ | .granaryQueryBoundary _ | .linkUp _ _ _ | .flitCrcFailure _ _
  | .jobClaim _ _ _ _ => true

end Sys2Proof
end

