-- ==== Sys2Proof/Decode.lean ====
section
/-! DEFINITION. The decoder of body words (09 R270 to R282 and the encodings of 10 to 13), total on all words, and the
encoder. `brd` is two words: the body word and its J word (R272). -/

namespace Sys2Proof

/-- Why a word names no instruction (R279 step 2, R280). -/
inductive DecodeErr where
  /-- op in 0x70 to 0x7F (R282). -/
  | opcode
  /-- A field that the form does not use is not zero (R274). -/
  | field
  /-- A reserved selector, route or register-field value (R275 to R277). -/
  | selector
  /-- The fields stand outside the limits of the instruction's own entry (`Instr.wf`). -/
  | limits
  /-- Bits [31:18] of the J word of a `brd` are not zero (R272). -/
  | jword
  /-- The bytes end before the instruction does. -/
  | short
deriving DecidableEq, Repr

/-- op of R270. -/
def opOf (w : W32) : Nat := (w.extractLsb' 25 7).toNat
/-- Bits [24:18] of R270. -/
def fldD (w : W32) : Reg := w.extractLsb' 18 7
/-- Bits [17:11] of R270. -/
def fldA (w : W32) : Reg := w.extractLsb' 11 7
/-- Bits [10:4] of R270. -/
def fldB (w : W32) : Reg := w.extractLsb' 4 7
/-- mod, bits [3:0] of R270. -/
def fldM (w : W32) : BitVec 4 := w.extractLsb' 0 4
/-- imm11 of R270. -/
def fldI (w : W32) : BitVec 11 := w.extractLsb' 0 11
/-- imm18, offset18 or join18 of R270. -/
def fldL (w : W32) : BitVec 18 := w.extractLsb' 0 18

/-- A word of format R (R270). -/
def wordR (op : Nat) (d a b : Reg) (m : BitVec 4) : W32 := ((((BitVec.ofNat 7 op) ++ d) ++ a) ++ b) ++ m
/-- A word of format I (R270). -/
def wordI (op : Nat) (d a : Reg) (i : BitVec 11) : W32 := (((BitVec.ofNat 7 op) ++ d) ++ a) ++ i
/-- A word of format L or B (R270). -/
def wordL (op : Nat) (d : Reg) (i : BitVec 18) : W32 := ((BitVec.ofNat 7 op) ++ d) ++ i

/-- The entry of a selector table at a code. -/
def pick {α : Type} (t : List (Option α)) (n : Nat) : Option α := (t[n]?).join
/-- The code of a value in a selector table. -/
def code {α : Type} [DecidableEq α] (t : List (Option α)) (x : α) : Nat := t.findIdx (fun y => y = some x)

/-- Functions of `sadd` and `ssub` by mod (R323). -/
def tblSAdd : List (Option SAddOp) := [some .wrap, some .w, some .ss, some .us]
/-- Functions of `smul` by mod (R323). -/
def tblSMul : List (Option SMulOp) := [some .lo, some .hs, some .hu, some .ww]
/-- Functions of `sand`, `sor` and `sxor` by mod (R323). -/
def tblSLog : List (Option SLogOp) := [some .plain, some .inv]
/-- Functions of `sshl` and `vshl` (R323, R335). -/
def tblShl : List (Option SShlOp) := [some .shl, some .rol]
/-- Functions of `sshr` and `vshr` (R323, R335). -/
def tblShr : List (Option ShrOp) := [some .shr, some .sra, some .ror]
/-- Functions of `sminmax` and `vminmax` (R323, R336). -/
def tblMinMax : List (Option MinMaxOp) := [some .min, some .max, some .minu, some .maxu]
/-- Conditions of `scmp` and `vcmp` (R323, R337). -/
def tblCmp : List (Option CmpOp) := [some .eq, some .ne, some .lt, some .ge, some .ltu, some .geu]
/-- Conditions of `ssel` (R323). -/
def tblSSel : List (Option SSelOp) := [some .nz, some .neg]
/-- Functions of `slogi` by imm11 [10:8] (R325). -/
def tblSLogi : List (Option SLogiOp) :=
  [some .and, some .or, some .xor, some .shl, some .shr, some .sra, some .ror, some .ins]
/-- Functions of `sbit` by mod (R324). -/
def tblSBit : List (Option SBitOp) :=
  [some .popc, some .clz, some .ctz, some .brev, some .bswap, some .ext, some .exts, none, some .tok, some .fromk]
/-- Routes (R277). -/
def tblRoute : List (Option Route) :=
  [some .none, some .rot1, some .rot2, some .rot4, some .rot8, some .rot16, some .xor1, some .xor2, some .xor4, some .xor8,
   some .xor16, some .mir, some .b0, some .b31, some .scalar]
/-- Functions of `vvote` by mod (R341). -/
def tblVVote : List (Option VVoteOp) := [some .any, some .all, some .uni, some .popc, some .ballot, some .first]
/-- Operations of `vscan` by mod [2:0] (R342). -/
def tblVScan : List (Option VScanOp) := [some .add, some .fadd, some .min, some .max, some .minu, some .maxu]
/-- Operations of `vredl` by mod (R343). -/
def tblVRedl : List (Option VRedlOp) :=
  [some .add, some .fadd, some .min, some .max, some .minu, some .maxu, some .fmin, some .fmax, some .and, some .or,
   some .xor]
/-- Selectors of `fminmax` (R346). -/
def tblFMinMax : List (Option FMinMaxOp) := [some .min, some .max, some .minp, some .maxp]
/-- Conditions of `fcmp` (R347). -/
def tblFCmp : List (Option FCmpOp) := [some .eq, some .ne, some .lt, some .le, some .gt, some .ge, some .un, some .ord]
/-- Functions of `ffun` by mod (R348). -/
def tblFFun : List (Option FFunOp) :=
  [some .rcp, some .sqrt, some .rsqrt, some .exp2, some .log2, some .sinpi, some .cospi, some .tanh, some .abs, some .neg,
   some .rint]
/-- Rounding modes of `fcvt` and `acccvt` (R349). -/
def tblRnd : List (Option RndSel) := [some .rne, some .rtz, some .rdn, some .rup, some .sr, none, none, some .dyn]
/-- Types of a 4-bit code (R349). -/
def tblF4 : List (Option F4Type) := [some .int, some .e2m1, some .pow2, some .hyb]
/-- Widths of `fpack` (R351). -/
def tblPack : List (Option PackW) := [some .h2, some .b4, some .n8, some .s6]
/-- Formats of `fclass` (R352). -/
def tblClass : List (Option ClassFmt) := [some .fp32, some .bf16, some .fp16]
/-- Access sizes (R357). -/
def tblSize : List (Option Size) := [some .b, some .h, some .w, some .d]
/-- Operations of `atom` (R382). -/
def tblAtom : List (Option AtomOp) :=
  [some .add, some .and, some .or, some .xor, some .min, some .max, some .minu, some .maxu, some .swap, some .fadd,
   some .faddOf]
/-- Operations of `atom64` (R382). -/
def tblAtom64 : List (Option Atom64Op) :=
  [some .add, some .and, some .or, some .xor, some .min, some .max, some .minu, some .maxu, some .swap]
/-- Operations of `red` (R382). -/
def tblRed : List (Option RedOp) :=
  [some .add, some .and, some .or, some .xor, some .min, some .max, some .minu, some .maxu, some .faddOf, some .addD,
   some .andD, some .orD, some .minD, some .maxD, some .minuD, some .maxuD]

/-- The format and type fields of `fcvt` (R349): fmt in [7:4], type in [1:0]. -/
def tblCvt : List (Option CvtFmt) :=
  [some .fp16, some .bf16, some .e4m3, some .e5m2, some .e3m2, some .e2m3, none, some .i32, some .u32, some .i8]
/-- Format of `fcvt` from its fmt code and its type code. -/
def cvtOf (f t : Nat) : Option CvtFmt :=
  if f = 6 then (pick tblF4 t).map .f4 else if t = 0 then pick tblCvt f else none
/-- fmt and type codes of a format of `fcvt`. -/
def cvtCode : CvtFmt → Nat × Nat
  | .f4 t => (6, code tblF4 t)
  | x => (code tblCvt x, 0)

/-- Continue when a reserved field is zero. -/
def need (c : Bool) (k : Except DecodeErr Instr) : Except DecodeErr Instr := if c then k else .error .field
/-- Continue with a selector's value. -/
def sel {α : Type} (o : Option α) (k : α → Instr) : Except DecodeErr Instr :=
  match o with
  | some x => .ok (k x)
  | none => .error .selector
/-- A lane-mask, timeline-handle or shape field: 0 to 7 (R275). -/
def reg8 (r : Reg) : Option (BitVec 3) := if r.toNat < 8 then some (r.setWidth 3) else none
/-- An accumulator field: 0 to 15 (R275). -/
def reg16 (r : Reg) : Option (BitVec 4) := if r.toNat < 16 then some (r.setWidth 4) else none
/-- Bit 3 of mod: the scalar source of an S-form word, or the form bit (R328). -/
def modX (w : W32) : Bool := (fldM w).getLsbD 3
/-- Bits [2:0] of mod. -/
def modS (w : W32) : BitVec 3 := (fldM w).setWidth 3

/-- Group 0: control (10). `j` is the word after `w`. -/
def decode0 (w j : W32) : Except DecodeErr Instr :=
  let d := fldD w; let a := fldA w; let m := (fldM w).toNat
  match opOf w % 16 with
  | 0 => need (w == 0) (.ok .nop)
  | 1 => .ok (if d = 0 then .bra (fldL w) else .braIndirect d (fldL w))
  | 2 => .ok (if d.getLsbD 6 then .brcZ (d.setWidth 6) (fldL w) else .brcNz (d.setWidth 6) (fldL w))
  | 3 => if j.extractLsb' 18 14 = 0 then sel (reg8 d) (fun k => .brd k (fldL w) (fldL j)) else .error .jword
  | 4 => need (fldL w == 0 && d == 0) (.ok .join)
  | 5 => .ok (if d = 0 then .call (fldL w) else .callIndirect d (fldL w))
  | 6 => need (fldL w == 0 && d == 0) (.ok .ret)
  | 7 => need (fldL w == 0 && d == 0) (.ok .exit)
  | 8 => need (d == 0 && a == 0 && fldB w == 0) (sel (pick [some Instr.yield, some .yieldPath] m) id)
  | 9 => need (d == 0 && a == 0) (.ok (.trap (fldI w)))
  | 10 => need (fldL w == 0 && d == 0) (.ok .bkpt)
  | 11 => need (fldL w == 0 && d == 0) (.ok .tret)
  | 12 => need (fldL w == 0 && d == 0) (.ok .term)
  | 13 => need (d == 0 && a == 0) (.ok (.rget (fldI w)))
  | 14 => need (fldL w == 0 && d == 0) (.ok .rput)
  | _ => need (d == 0 && a == 0) (.ok (.winb (fldI w)))

/-- Group 1: scalar (10). -/
def decode1 (w : W32) : Except DecodeErr Instr :=
  let d := fldD w; let a := fldA w; let b := fldB w; let m := (fldM w).toNat
  match opOf w % 16 with
  | 0 => sel (pick tblSAdd m) (.sadd d a b)
  | 1 => sel (pick tblSAdd m) (.ssub d a b)
  | 2 => sel (pick tblSMul m) (.smul d a b)
  | 3 => sel (pick tblSLog m) (.sand d a b)
  | 4 => sel (pick tblSLog m) (.sor d a b)
  | 5 => sel (pick tblSLog m) (.sxor d a b)
  | 6 => sel (pick tblShl m) (.sshl d a b)
  | 7 => sel (pick tblShr m) (.sshr d a b)
  | 8 => sel (pick tblMinMax m) (.sminmax d a b)
  | 9 => sel (pick tblCmp m) (.scmp d a b)
  | 10 => sel (pick tblSSel m) (.ssel d a b)
  | 11 => .ok (.saddi d a (fldI w))
  | 12 => sel (pick tblSLogi ((fldI w).extractLsb' 8 3).toNat) (fun f => .slogi d a f ((fldI w).setWidth 8))
  | 13 => .ok (.sli d (fldL w))
  | 14 => sel (pick tblSBit m) (.sbit d a b)
  | _ =>
    let n : BitVec 8 := (fldI w).setWidth 8
    match ((fldI w).extractLsb' 8 3).toNat with
    | 0 => need (a == 0) (.ok (.ssprRd d n))
    | 2 => need (d == 0) (.ok (.ssprWr a n))
    | 4 => need (d == 0) (.ok (.ssprOr a n))
    | 6 => need (d == 0) (.ok (.ssprAndn a n))
    | _ => .error .field

/-- `vmov` (R339). -/
def decodeVmov (w : W32) : Except DecodeErr Instr :=
  let d := fldD w; let a := fldA w; let b := fldB w
  match (fldM w).toNat with
  | 0 => need (b == 0) (.ok (.vmov (.v d a)))
  | 1 => need (b == 0) (.ok (.vmov (.s d a)))
  | 2 => need (b == 0) (.ok (.vmov (.sh d a)))
  | 3 => need (a == 0 && b == 0) (.ok (.vmov (.lane d)))
  | 4 => if b.toNat < 32 then .ok (.vmov (.x d a (b.setWidth 5))) else .error .selector
  | 5 => if b.toNat < 32 then .ok (.vmov (.ins d a (b.setWidth 5))) else .error .selector
  | 6 => need (b == 0) (sel (reg8 a) (fun k => .vmov (.k d k)))
  | _ => .error .selector

/-- Group 2: vector integer and lane (11). -/
def decode2 (w : W32) : Except DecodeErr Instr :=
  let d := fldD w; let a := fldA w; let b := fldB w; let m := (fldM w).toNat; let s := (modS w).toNat; let x := modX w
  match opOf w % 16 with
  | 0 => sel (pick tblRoute m) (.vadd d a b)
  | 1 => sel (pick tblRoute m) (.vsub d a b)
  | 2 => sel (pick tblRoute m) (.vmul d a b)
  | 3 => sel (pick tblRoute m) (.vand d a b)
  | 4 => sel (pick tblRoute m) (.vor d a b)
  | 5 => sel (pick tblRoute m) (.vxor d a b)
  | 6 => sel (pick tblShl s) (.vshl d a b x)
  | 7 => sel (pick tblShr s) (.vshr d a b x)
  | 8 => sel (pick tblMinMax s) (.vminmax d a b x)
  | 9 =>
    match reg8 d with
    | some k => sel (pick tblCmp s) (.vcmp k a b x)
    | none => .error .selector
  | 10 => .ok (.vsel d a b x (modS w))
  | 11 => decodeVmov w
  | 12 => sel (pick [some false, some true] m) (.vperm d a b)
  | 13 => need (b == 0) (sel (pick tblVVote m) (.vvote d a))
  | 14 => need (b == 0) (sel (pick tblVScan s) (.vscan d a x))
  | _ => need (b == 0) (sel (pick tblVRedl m) (.vredl d a))

/-- Group 3: vector floating point (11). -/
def decode3 (w : W32) : Except DecodeErr Instr :=
  let d := fldD w; let a := fldA w; let b := fldB w; let m := (fldM w).toNat; let s := (modS w).toNat; let x := modX w
  match opOf w % 16 with
  | 0 => sel (pick tblRoute m) (.fadd d a b)
  | 1 => sel (pick tblRoute m) (.fsub d a b)
  | 2 => sel (pick tblRoute m) (.fmul d a b)
  | 3 => sel (pick tblRoute m) (.ffma d a b)
  | 4 => sel (pick tblFMinMax s) (.fminmax d a b x)
  | 5 =>
    match reg8 d with
    | some k => sel (pick tblFCmp s) (.fcmp k a b x)
    | none => .error .selector
  | 6 => need (b == 0) (sel (pick tblFFun m) (.ffun d a))
  | 7 =>
    need (!(fldM w).getLsbD 2)
      (match pick tblRnd (b.extractLsb' 4 3).toNat with
       | some r => sel (cvtOf (b.setWidth 4).toNat ((fldM w).setWidth 2).toNat) (fun f => .fcvt d a r f x)
       | none => .error .selector)
  | 8 => need (b == 0 && !(fldM w).getLsbD 2) (sel (pick tblPack ((fldM w).setWidth 2).toNat) (.fpack d a x))
  | 9 => sel (pick tblRoute m) (.hadd2 d a b)
  | 10 => sel (pick tblRoute m) (.hmul2 d a b)
  | 11 => sel (pick tblRoute m) (.hfma2 d a b)
  | 12 => need (b == 0) (sel (pick tblClass m) (.fclass d a))
  | 13 => need (a == 0 && b == 0) (sel (pick [some false, some true] m) (.frng d))
  | 14 => sel (pick [some false, some true] s) (.fscale d a b x)
  | _ => sel (pick tblRoute m) (.fdot2 d a b)

/-- The address form of `ld`, `st` and `pref` (R357): mod [3:2] and rb. -/
def addrForm (m : Nat) (b : Reg) : Option AddrForm :=
  match m with
  | 0 => some (.vz b)
  | 1 => some (.vs b)
  | 2 => if b = 0 then some .lin else none
  | _ => none
/-- mod [3:2] and rb of an address form. -/
def addrCode : AddrForm → BitVec 2 × Reg
  | .vz b => (0, b)
  | .vs b => (1, b)
  | .lin => (2, 0)

/-- Group 4: memory and timelines (12). -/
def decode4 (w : W32) : Except DecodeErr Instr :=
  let d := fldD w; let a := fldA w; let b := fldB w; let m := (fldM w).toNat
  let hi := ((fldM w).extractLsb' 2 2).toNat
  match opOf w % 16 with
  | 0 =>
    match addrForm hi b with
    | some f => sel (pick tblSize (m % 4)) (.ld d a f)
    | none => .error .selector
  | 1 =>
    match addrForm hi b with
    | some f => sel (pick tblSize (m % 4)) (.st d a f)
    | none => .error .selector
  | 2 => sel (pick tblSize (m % 4)) (.lds d a ((fldI w).extractLsb' 2 9))
  | 3 => sel (pick tblSize (m % 4)) (.sts d a ((fldI w).extractLsb' 2 9))
  | 4 => sel (pick tblSize (m % 4)) (.ldc d a ((fldI w).extractLsb' 2 9))
  | 5 => need (hi == 0) (.ok (.ldsp d a b ((fldM w).getLsbD 1) ((fldM w).getLsbD 0)))
  | 6 => need (hi == 0) (.ok (.stsp d a b ((fldM w).getLsbD 1) ((fldM w).getLsbD 0)))
  | 7 => .ok (.ldb d a b (fldM w))
  | 8 => .ok (.stb d a b (fldM w))
  | 9 => need (d == 0 && m % 4 == 0) (sel (addrForm hi b) (.pref a))
  | 10 => need (d == 0 && a == 0 && b == 0) (.ok (.pfence (fldM w)))
  | 11 => need (fldL w == 0 && d == 0) (.ok .drain)
  | 12 =>
    match Level.ofCode m with
    | some l => sel (reg8 d) (fun t => .cpy t a b l)
    | none => .error .selector
  | 13 =>
    match m with
    | 0 => need (d == 0 && b == 0) (sel (reg8 a) .tlwait)
    | 1 => need (d == 0) (sel (reg8 a) (fun t => .tlwaitN t b))
    | _ => .error .selector
  | 14 =>
    need (b == 0)
      (match m with
       | 0 => sel (reg8 a) (.tlreadCnt d)
       | 1 => sel (reg8 a) (.tlreadLast d)
       | 2 => sel (reg8 a) (.tlreadSkip d)
       | _ => .error .selector)
  | _ => need (d == 0 && fldI w == 0) (.ok (.sleept a))

/-- Group 5: atomics, queues and levels (12). -/
def decode5 (w : W32) : Except DecodeErr Instr :=
  let d := fldD w; let a := fldA w; let b := fldB w; let m := (fldM w).toNat
  match opOf w % 16 with
  | 0 => sel (pick tblAtom m) (.atom d a b)
  | 1 => sel (pick tblAtom64 m) (.atom64 d a b)
  | 2 => sel (pick [some false, some true] m) (fun x => if x then .casD d a b else .casW d a b)
  | 3 => sel (pick tblRed m) (.red d a b)
  | 4 => need (m == 0) (.ok (.chunk d a b))
  | 5 => need (fldI w == 0) (.ok (.qpush d a))
  | 6 => need (m == 0) (sel (reg8 b) (.qpop d a))
  | 7 => need (fldI w == 0) (.ok (.qpops d a))
  | 8 => need (d == 0 && fldI w == 0) (.ok (.qclose a))
  | 9 => sel (Level.ofCode m) (fun l => if a.getLsbD 6 then .lnchTry d (a.setWidth 6) b l else .lnch d (a.setWidth 6) b l)
  | 10 => need (fldI w == 0) (.ok (.joinw d a))
  | 11 => need (d == 0 && a == 0 && b == 0) (sel (Level.ofCode m) .bar)
  | 12 =>
    match Level.ofCode m with
    | some l => sel (reg8 d) (fun t => .mcopy t a b l)
    | none => .error .selector
  | 13 =>
    match Level.ofCode m with
    | some l => sel (reg8 d) (fun t => .reduce t a b l)
    | none => .error .selector
  | 14 =>
    need (a == 0 && b == 0)
      (match d.toNat with
       | 1 => sel (Level.ofCode m) .fencePub
       | 2 => sel (Level.ofCode m) .fenceAcq
       | 3 => sel (Level.ofCode m) .fenceAr
       | _ => .error .selector)
  | _ =>
    need (d == 0 && b == 0)
      (match m with
       | 0 => .ok (.cancelL a)
       | 1 => need (a == 0) (.ok .cancelG)
       | 2 => need (a == 0) (.ok .cancelJ)
       | _ => .error .selector)

/-- Group 6: matrix, lookup and training (13). -/
def decode6 (w : W32) : Except DecodeErr Instr :=
  let d := fldD w; let a := fldA w; let b := fldB w; let n := modS w
  match opOf w % 16 with
  | 0 => need (!modX w) (sel (reg16 d) (fun t => .mma t a b n))
  | 1 => need (a == 0 && fldM w == 0) (sel (reg8 d) (fun h => .mldw h b))
  | 2 => need (fldL w == 0) (sel (reg16 d) .accz)
  | 3 => need (!modX w) (sel (reg16 a) (fun t => .accrd d t b n))
  | 4 => need (!modX w && b == 0) (sel (reg16 d) (fun t => .accwr t a n))
  | 5 =>
    need (!modX w && b.extractLsb' 3 4 == 0)
      (match pick tblRnd (b.setWidth 3).toNat with
       | some r => sel (reg16 a) (fun t => .acccvt d t r n)
       | none => .error .selector)
  | 6 =>
    need (!modX w && b == 0)
      (match reg16 d with
       | some t => sel (reg16 a) (fun s => .accadd t s n)
       | none => .error .selector)
  | 7 =>
    need (!modX w && b == 0)
      (match reg16 d with
       | some t => sel (reg16 a) (fun s => .acccp t s n)
       | none => .error .selector)
  | 8 => need (fldI w == 0) (sel (reg8 d) (fun h => .shset h a))
  | 9 => need (fldI w == 0) (sel (reg8 a) (.shget d))
  | 10 => need (fldI w == 0) (sel (reg8 d) (fun h => .pkld h a))
  | 11 => need (fldI w == 0) (sel (reg8 d) (fun h => .pkq h a))
  | 12 => need (fldI w == 0) (sel (reg8 d) (fun h => .pkb h a))
  | 13 => need (fldL w == 0) (.ok (.ovfq d))
  | 14 => need (fldI w == 0) (.ok (.lsapp d a))
  | _ => need (!modX w && b == 0) (sel (reg16 a) (fun t => .accmx d t n))

/-- Fields of a word, before the limits of `Instr.wf`. -/
def decodeRaw (w j : W32) : Except DecodeErr Instr :=
  match opOf w / 16 with
  | 0 => decode0 w j
  | 1 => decode1 w
  | 2 => decode2 w
  | 3 => decode3 w
  | 4 => decode4 w
  | 5 => decode5 w
  | 6 => decode6 w
  | _ => .error .opcode

/-- The decoder (R279 step 2): the instruction of body word `w`, whose following word is `j`. -/
def decode (w j : W32) : Except DecodeErr Instr :=
  match decodeRaw w j with
  | .ok i => if i.wf then .ok i else .error .limits
  | .error e => .error e

/-- Four bytes as a little-endian word (R263). -/
def wordOfBytes (a b c d : Byte) : W32 := ((d ++ c) ++ b) ++ a
/-- The decoder on bytes; a lone word stands before a J word of zeros, which only `brd` reads. -/
def decodeBytes : List Byte → Except DecodeErr Instr
  | [a, b, c, d] => decode (wordOfBytes a b c d) 0
  | a :: b :: c :: d :: e :: f :: g :: h :: _ => decode (wordOfBytes a b c d) (wordOfBytes e f g h)
  | _ => .error .short
/-- The two words of a table row's bits as bytes: word 0 at the lower address, each little-endian (R263). -/
def bytesOfBits (w : Nat) : List Byte := (List.range 8).map (fun k => BitVec.ofNat 8 (w >>> (8 * k)))
/-- The instruction read from a word of `nbits` bits of the opcode table; bits above `nbits` are 0. -/
def decodeTableWord (nbits w : Nat) : Option Instr := (decodeBytes (bytesOfBits (w % 2 ^ nbits))).toOption

/-- The flagged opcodes (R102): the loads, the value-returning atomics, the pops, `accrd`, `tlread` and `ovfq`. -/
def flaggedWord (w : W32) : Bool :=
  [0x40, 0x42, 0x44, 0x45, 0x47, 0x4E, 0x50, 0x51, 0x52, 0x54, 0x56, 0x57, 0x63, 0x6D].contains (opOf w)
/-- The control transfers (R266): `bra`, `brc`, `brd`, `call`, `ret`, `exit`, `tret`, `term`. -/
def transferWord (w : W32) : Bool := [0x01, 0x02, 0x03, 0x05, 0x06, 0x07, 0x0B, 0x0C].contains (opOf w)

/-- A mod field that is a small number. -/
def m4 (n : Nat) : BitVec 4 := BitVec.ofNat 4 n
/-- mod of an S-form word: the scalar bit and the selector. -/
def mS (x : Bool) (n : Nat) : BitVec 4 := BitVec.ofBool x ++ BitVec.ofNat 3 n
/-- mod of an engine word: bit 3 zero and a 3-bit register. -/
def mN (n : BitVec 3) : BitVec 4 := (0#1) ++ n
/-- imm11 of a scalar access: offset and size (R364). -/
def iOff (o : BitVec 9) (z : Size) : BitVec 11 := o ++ BitVec.ofNat 2 (code tblSize z)
/-- mod of a vector access: address mode and size (R357). -/
def mAddr (f : AddrForm) (z : BitVec 2) : BitVec 4 := (addrCode f).1 ++ z
/-- A 3-bit register in a 7-bit field. -/
def r3 (n : BitVec 3) : Reg := (0#4) ++ n
/-- A 4-bit register in a 7-bit field. -/
def r4 (n : BitVec 4) : Reg := (0#3) ++ n
/-- A level in mod (R286). -/
def mL (l : Level) : BitVec 4 := BitVec.ofNat 4 l.code

/-- The word of a `vmov` form (R339). -/
def encodeVmov : VMovForm → W32
  | .v d a => wordR 0x2B d a 0 0
  | .s d a => wordR 0x2B d a 0 1
  | .sh d a => wordR 0x2B d a 0 2
  | .lane d => wordR 0x2B d 0 0 3
  | .x d a n => wordR 0x2B d a ((0#2) ++ n) 4
  | .ins d a n => wordR 0x2B d a ((0#2) ++ n) 5
  | .k d a => wordR 0x2B d (r3 a) 0 6

/-- The encoder: the words of an instruction, the J word of a `brd` among them; no word for an event. -/
def encode : Instr → List W32
  | .nop => [wordL 0x00 0 0]
  | .bra o => [wordL 0x01 0 o]
  | .braIndirect a o => [wordL 0x01 a o]
  | .brcNz n o => [wordL 0x02 ((0#1) ++ n) o]
  | .brcZ n o => [wordL 0x02 ((1#1) ++ n) o]
  | .brd k o j => [wordL 0x03 (r3 k) o, wordL 0 0 j]
  | .join => [wordL 0x04 0 0]
  | .call o => [wordL 0x05 0 o]
  | .callIndirect a o => [wordL 0x05 a o]
  | .ret => [wordL 0x06 0 0]
  | .exit => [wordL 0x07 0 0]
  | .yield => [wordR 0x08 0 0 0 0]
  | .yieldPath => [wordR 0x08 0 0 0 1]
  | .trap i => [wordI 0x09 0 0 i]
  | .bkpt => [wordL 0x0A 0 0]
  | .tret => [wordL 0x0B 0 0]
  | .term => [wordL 0x0C 0 0]
  | .rget n => [wordI 0x0D 0 0 n]
  | .rput => [wordL 0x0E 0 0]
  | .winb b => [wordI 0x0F 0 0 b]
  | .sadd d a b m => [wordR 0x10 d a b (m4 (code tblSAdd m))]
  | .ssub d a b m => [wordR 0x11 d a b (m4 (code tblSAdd m))]
  | .smul d a b m => [wordR 0x12 d a b (m4 (code tblSMul m))]
  | .sand d a b m => [wordR 0x13 d a b (m4 (code tblSLog m))]
  | .sor d a b m => [wordR 0x14 d a b (m4 (code tblSLog m))]
  | .sxor d a b m => [wordR 0x15 d a b (m4 (code tblSLog m))]
  | .sshl d a b m => [wordR 0x16 d a b (m4 (code tblShl m))]
  | .sshr d a b m => [wordR 0x17 d a b (m4 (code tblShr m))]
  | .sminmax d a b m => [wordR 0x18 d a b (m4 (code tblMinMax m))]
  | .scmp d a b m => [wordR 0x19 d a b (m4 (code tblCmp m))]
  | .ssel d a b m => [wordR 0x1A d a b (m4 (code tblSSel m))]
  | .saddi d a i => [wordI 0x1B d a i]
  | .slogi d a f i => [wordI 0x1C d a (BitVec.ofNat 3 (code tblSLogi f) ++ i)]
  | .sli d i => [wordL 0x1D d i]
  | .sbit d a b m => [wordR 0x1E d a b (m4 (code tblSBit m))]
  | .ssprRd d n => [wordI 0x1F d 0 ((0#3) ++ n)]
  | .ssprWr a n => [wordI 0x1F 0 a ((2#3) ++ n)]
  | .ssprOr a n => [wordI 0x1F 0 a ((4#3) ++ n)]
  | .ssprAndn a n => [wordI 0x1F 0 a ((6#3) ++ n)]
  | .vadd d a b r => [wordR 0x20 d a b (m4 (code tblRoute r))]
  | .vsub d a b r => [wordR 0x21 d a b (m4 (code tblRoute r))]
  | .vmul d a b r => [wordR 0x22 d a b (m4 (code tblRoute r))]
  | .vand d a b r => [wordR 0x23 d a b (m4 (code tblRoute r))]
  | .vor d a b r => [wordR 0x24 d a b (m4 (code tblRoute r))]
  | .vxor d a b r => [wordR 0x25 d a b (m4 (code tblRoute r))]
  | .vshl d a b x m => [wordR 0x26 d a b (mS x (code tblShl m))]
  | .vshr d a b x m => [wordR 0x27 d a b (mS x (code tblShr m))]
  | .vminmax d a b x m => [wordR 0x28 d a b (mS x (code tblMinMax m))]
  | .vcmp k a b x m => [wordR 0x29 (r3 k) a b (mS x (code tblCmp m))]
  | .vsel d a b x k => [wordR 0x2A d a b (BitVec.ofBool x ++ k)]
  | .vmov f => [encodeVmov f]
  | .vperm d a b z => [wordR 0x2C d a b (m4 (if z then 1 else 0))]
  | .vvote d a m => [wordR 0x2D d a 0 (m4 (code tblVVote m))]
  | .vscan d a ex o => [wordR 0x2E d a 0 (mS ex (code tblVScan o))]
  | .vredl d a o => [wordR 0x2F d a 0 (m4 (code tblVRedl o))]
  | .fadd d a b r => [wordR 0x30 d a b (m4 (code tblRoute r))]
  | .fsub d a b r => [wordR 0x31 d a b (m4 (code tblRoute r))]
  | .fmul d a b r => [wordR 0x32 d a b (m4 (code tblRoute r))]
  | .ffma d a b r => [wordR 0x33 d a b (m4 (code tblRoute r))]
  | .fminmax d a b x m => [wordR 0x34 d a b (mS x (code tblFMinMax m))]
  | .fcmp k a b x m => [wordR 0x35 (r3 k) a b (mS x (code tblFCmp m))]
  | .ffun d a f => [wordR 0x36 d a 0 (m4 (code tblFFun f))]
  | .fcvt d a m f frm => [wordR 0x37 d a (BitVec.ofNat 3 (code tblRnd m) ++ BitVec.ofNat 4 (cvtCode f).1) (mS frm (cvtCode f).2)]
  | .fpack d a un w => [wordR 0x38 d a 0 (mS un (code tblPack w))]
  | .hadd2 d a b r => [wordR 0x39 d a b (m4 (code tblRoute r))]
  | .hmul2 d a b r => [wordR 0x3A d a b (m4 (code tblRoute r))]
  | .hfma2 d a b r => [wordR 0x3B d a b (m4 (code tblRoute r))]
  | .fclass d a m => [wordR 0x3C d a 0 (m4 (code tblClass m))]
  | .frng d u01 => [wordR 0x3D d 0 0 (m4 (if u01 then 1 else 0))]
  | .fscale d a b x ex => [wordR 0x3E d a b (mS x (if ex then 1 else 0))]
  | .fdot2 d a b r => [wordR 0x3F d a b (m4 (code tblRoute r))]
  | .ld d a f z => [wordR 0x40 d a (addrCode f).2 (mAddr f (BitVec.ofNat 2 (code tblSize z)))]
  | .st d a f z => [wordR 0x41 d a (addrCode f).2 (mAddr f (BitVec.ofNat 2 (code tblSize z)))]
  | .lds d a o z => [wordI 0x42 d a (iOff o z)]
  | .sts d a o z => [wordI 0x43 d a (iOff o z)]
  | .ldc d a o z => [wordI 0x44 d a (iOff o z)]
  | .ldsp d a b col sk => [wordR 0x45 d a b (((0#2) ++ BitVec.ofBool col) ++ BitVec.ofBool sk)]
  | .stsp d a b col sk => [wordR 0x46 d a b (((0#2) ++ BitVec.ofBool col) ++ BitVec.ofBool sk)]
  | .ldb d a b n => [wordR 0x47 d a b n]
  | .stb d a b n => [wordR 0x48 d a b n]
  | .pref a f => [wordR 0x49 0 a (addrCode f).2 (mAddr f 0)]
  | .pfence m => [wordR 0x4A 0 0 0 m]
  | .drain => [wordL 0x4B 0 0]
  | .cpy t d p l => [wordR 0x4C (r3 t) d p (mL l)]
  | .tlwait t => [wordR 0x4D 0 (r3 t) 0 0]
  | .tlwaitN t n => [wordR 0x4D 0 (r3 t) n 1]
  | .tlreadCnt d t => [wordR 0x4E d (r3 t) 0 0]
  | .tlreadLast d t => [wordR 0x4E d (r3 t) 0 1]
  | .tlreadSkip d t => [wordR 0x4E d (r3 t) 0 2]
  | .sleept a => [wordI 0x4F 0 a 0]
  | .atom d a b o => [wordR 0x50 d a b (m4 (code tblAtom o))]
  | .atom64 d a b o => [wordR 0x51 d a b (m4 (code tblAtom64 o))]
  | .casW d a b => [wordR 0x52 d a b 0]
  | .casD d a b => [wordR 0x52 d a b 1]
  | .red d a b o => [wordR 0x53 d a b (m4 (code tblRed o))]
  | .chunk d a b => [wordR 0x54 d a b 0]
  | .qpush d a => [wordI 0x55 d a 0]
  | .qpop d a k => [wordR 0x56 d a (r3 k) 0]
  | .qpops d a => [wordI 0x57 d a 0]
  | .qclose a => [wordI 0x58 0 a 0]
  | .lnch d f t l => [wordR 0x59 d ((0#1) ++ f) t (mL l)]
  | .lnchTry d f t l => [wordR 0x59 d ((1#1) ++ f) t (mL l)]
  | .joinw d a => [wordI 0x5A d a 0]
  | .bar l => [wordR 0x5B 0 0 0 (mL l)]
  | .mcopy t d p l => [wordR 0x5C (r3 t) d p (mL l)]
  | .reduce t d p l => [wordR 0x5D (r3 t) d p (mL l)]
  | .fencePub l => [wordR 0x5E 1 0 0 (mL l)]
  | .fenceAcq l => [wordR 0x5E 2 0 0 (mL l)]
  | .fenceAr l => [wordR 0x5E 3 0 0 (mL l)]
  | .cancelL a => [wordR 0x5F 0 a 0 0]
  | .cancelG => [wordR 0x5F 0 0 0 1]
  | .cancelJ => [wordR 0x5F 0 0 0 2]
  | .mma t a b h => [wordR 0x60 (r4 t) a b (mN h)]
  | .mldw h b => [wordR 0x61 (r3 h) 0 b 0]
  | .accz t => [wordL 0x62 (r4 t) 0]
  | .accrd d t c n => [wordR 0x63 d (r4 t) c (mN n)]
  | .accwr t s n => [wordR 0x64 (r4 t) s 0 (mN n)]
  | .acccvt d t m n => [wordR 0x65 d (r4 t) ((0#4) ++ BitVec.ofNat 3 (code tblRnd m)) (mN n)]
  | .accadd d s n => [wordR 0x66 (r4 d) (r4 s) 0 (mN n)]
  | .acccp d s n => [wordR 0x67 (r4 d) (r4 s) 0 (mN n)]
  | .shset n a => [wordI 0x68 (r3 n) a 0]
  | .shget d n => [wordI 0x69 d (r3 n) 0]
  | .pkld h a => [wordI 0x6A (r3 h) a 0]
  | .pkq h d => [wordI 0x6B (r3 h) d 0]
  | .pkb h d => [wordI 0x6C (r3 h) d 0]
  | .ovfq d => [wordL 0x6D d 0]
  | .lsapp d a => [wordI 0x6E d a 0]
  | .accmx d t n => [wordR 0x6F d (r4 t) 0 (mN n)]
  | .rgetGrant _ | .sleepEnd _ | .promiseExpiry _ | .tileHoldEnd _ | .loadReply _ _ | .replyToImage _ _ _ _
  | .atomicErrorReply _ | .postedPermissionTest _ | .storeAtHome _ | .storeFaultDelivery _ | .updateOnlyEviction _
  | .combineMerge _ _ | .replySplit _ | .atomicAtHome _ | .chunkGroup _ | .queueOpArrival _ | .queueOpAccept _
  | .poolRecordGrant _ _ | .reeveChildStart _ _ | .gangEnd _ | .launchComplete _ | .barrierOpen _
  | .pathAgeingTakeover _ | .rootLaunchStart _ _ | .mmaStart _ | .mmaStepComplete _ | .mmaRestart _
  | .operandFetchFailure _ _ _ | .weightLatchLoaded _ _ _ | .granaryOpStart _ | .granaryOpComplete _
  | .cartOpComplete _ | .fabricTimeout _ | .laneLoss _ _ _ | .retrainComplete _ _ | .portRejoin _ _
  | .capabilityWord _ _ _ | .capabilityTimeout _ _ | .linkDown _ _ | .podBringUp _ _ _ | .memberFailure _
  | .hello _ _ _ _ _ _ | .confirm _ _ | .messageAuthFailure _ _ | .sessionClose _ _ | .sessionLinkLoss _ _
  | .jobCreate _ _ | .jobEnd _ _ | .keyInstall _ _ _ _ | .load _ _ _ _ _ _ | .memWrite _ _ _ _ | .memRead _ _ _ _
  | .graphCreate _ _ | .queueBindCmd _ _ _ | .submit _ _ _ | .cancelLaunch _ _ _ | .cancelGraph _ _ _ | .cancelJob _ _
  | .counterRead _ _ _ | .save _ _ | .saveComplete _ _ | .saveDeadlineExpiry _ _ | .resume _ _ | .resumeRestore _ _
  | .packageReset _ | .functionReady _ _ | .commandReadyTimeout _ | .functionFailure _ _ | .uncorrectableStateError _
  | .scrubPass _ | .telemetryUpdate _ _ | .powerLimit _ _ | .thermalShutdown _ _ | .checkpoint _ _
  | .checkpointRestore _ _ | .checkpointComplete _ _ | .illegalInstruction _ | .granarySegmentWrite _
  | .granaryQueryBoundary _ | .linkUp _ _ _ | .flitCrcFailure _ _ | .jobClaim _ _ _ _ => []

/-- Whether the instruction is a word of the code stream; the other constructors are events. -/
def Instr.isWord (i : Instr) : Bool := !(encode i).isEmpty

end Sys2Proof
end

