-- ==== Sys2Proof/Config.lean ====
section
/-! DEFINITION. What one Umaku fixes (00 R2, 01 R17, 17 R465) and the values the manual leaves open, as constants
without a body: nothing can evaluate them or prove a value of them (notes/assumptions/6.md and 9.md). -/

namespace Sys2Proof.Config

/-- Bytes of HBM per package: 768 GiB (01 R17). -/
def hbmBytes : Nat := 768 * 2 ^ 30
/-- Bytes of die SRAM per die: 160 MiB (01 R17). -/
def dsramBytes : Nat := 160 * 2 ^ 20
/-- Bytes of cluster memory per cluster: 8 MiB (01 R17). -/
def cmemBytes : Nat := 8 * 2 ^ 20
/-- Bytes of scratchpad per core: 256 KiB (01 R17). -/
def spadBytes : Nat := 256 * 2 ^ 10
/-- The first byte of the transpose bank in a cluster memory (01 R17). -/
def transBase : Nat := 0x600000
/-- The driver region of a package's HBM: 0xBC_0000_0000 to 0xBF_FFFF_FFFF (18 R466). -/
def driverBase : Nat := 0xBC00000000
/-- Bytes of the driver region: 16 GiB (18 R466). -/
def driverBytes : Nat := 2 ^ 34
/-- Extended register blocks in a core's pool (03 R116). -/
def corePool : Nat := 48
/-- Gang slots of a core (01 R16). -/
def coreSlots : Nat := 16
/-- Records of the pending-launch pool of a level (02 R55); a level-5 launch uses the package pool. -/
def poolSize : Nat → Nat
  | 1 => 64 | 2 => 256 | 3 => 1024 | _ => 4096
/-- The largest nesting depth (02 R45). -/
def maxDepth : Nat := 8
/-- Reservation entries of a kiln (03 R124). -/
def kilnEntries : Nat := 32
/-- Entries of a granary's operation queue (07 R227). -/
def granaryQueue : Nat := 16
/-- Records that a woodpile holds (08, "Woodpiles and woodsheds"). -/
def pileRecords : Nat := 32
/-- Records of a core's store-fault queue (18 R479). -/
def faultQueue : Nat := 16
/-- Instructions that may issue after a posted store before its W test (12 R362). -/
def skidLimit : Nat := 16
/-- The fabric timeout of 1 ms in cycles of the 1.7 GHz clock (19 R511). -/
def fabricTimeout : Nat := 1700000
/-- Launch queues of a package and unstarted records of a queue (17 R459). -/
def launchQueues : Nat := 2048
/-- Unstarted records that a launch queue holds (17 R459). -/
def queueDepth : Nat := 256
/-- Completions held for a job that no session owns (17 R451). -/
def heldCompletions : Nat := 4096
/-- Sessions of a package (17 R449). -/
def maxSessions : Nat := 8
/-- The device code of the identification page (17 R465). -/
def deviceCode : Word := 0x554D414B0001
/-- The stepping that the manual describes (17 R465). -/
def stepping : Word := 1
/-- The arithmetic clock in Hz (17 R465). -/
def clockHz : Word := 1700000000
/-- The finaliser version of the identification page: the manual gives no figure (17 R465, 16 R445). -/
opaque finaliserVersion : BitVec 32

/-- A free 32-bit value, one for each number: the contents of newly acquired registers (03 R116) and every other
32-bit value that the manual leaves undefined. -/
opaque freeWord : Nat → BitVec 32
/-- A free byte, one for each number: a byte read under a key other than the one it was stored under (01 R34),
and a byte of a fresh scratch window (01 R42). -/
opaque freeByte : Nat → BitVec 8
/-- A free 64-bit value, one for each number: a join handle, of which the manual gives bit 63 alone (02 R57). -/
opaque freeHandle : Nat → BitVec 64
/-- Which of several registers outside a gang's blocks a register-block trap names: 18 R474 gives 'register number' alone. A
choice among the numbers of the list. -/
opaque freePick : List Nat → Nat
/-- The key under which ciphertext that was written at another address would read back (21 R523): none that a program holds. -/
opaque movedKey : Nat → BitVec 512 → BitVec 512
/-- How many flits pass a port or a bonded link, or are acknowledged, in a cycle: the manual leaves the flits of a request to the UALink
specification (19 R514, R537). -/
opaque flitCount : Nat → BitVec 64
/-- Whether a signing key chains to the fused root key (21 R518): key, root hash. -/
opaque keyChains : List (BitVec 8) → BitVec 256 → Bool
/-- The stored form of a byte of a save image under the job's transfer key (18 R491): key, location, byte. -/
opaque imageCipher : Option (BitVec 512) → Nat → BitVec 8 → BitVec 8
/-- The binding field of a saved timeline handle (18 R494), whose form the manual does not give, for a number that tells the
engine instances apart. -/
opaque bindingCode : Nat → BitVec 48
/-- SHA3-256 of a byte string (21 R518), an external standard. -/
opaque sha3 : List (BitVec 8) → BitVec 256
/-- Whether an ML-DSA-44 signature verifies (21 R518): key, hash, signature; an external standard. -/
opaque mldsaVerify : List (BitVec 8) → BitVec 256 → List (BitVec 8) → Bool
/-- The device's ML-DSA-44 signature over a hash (17 R448), by package. -/
opaque mldsaSign : Nat → BitVec 256 → List (BitVec 8)
/-- What the identity certificate of a package holds besides its version and stepping (21 R520), by package and byte: the serial number, the
two public keys, the hash of the issuing key and the signature. -/
opaque serialNumber : Nat → BitVec 64
opaque identityKey : Nat → Nat → BitVec 8
opaque kemKey : Nat → Nat → BitVec 8
opaque issuerHash : Nat → BitVec 256
opaque certSignature : Nat → Nat → BitVec 8
/-- The ML-KEM-768 shared secret that a package decapsulates from a ciphertext (17 R448). -/
opaque mlkemDecaps : Nat → List (BitVec 8) → BitVec 256
/-- HKDF over HMAC-SHA3-256 with a label (21 R521): salt, secret, label, transcript. -/
opaque hkdf : BitVec 256 → BitVec 256 → List (BitVec 8) → BitVec 256 → BitVec 256
/-- The XTS key pair that the security engine unwraps from a KeyInstall payload (17 R457); none when it fails. -/
opaque unwrapKey : Nat → List (BitVec 8) → Option (BitVec 512)
/-- The firmware images that the bytes of the driver region from 0x3_0000_0000 on hold (21 R518, R519), whose layout the manual
does not give: kind, version, rollback number, body, signing key and signature of each. -/
opaque firmwareIn : List (Nat × BitVec 8) → List (Nat × Nat × Nat × List (BitVec 8) × List (BitVec 8) × List (BitVec 8))
/-- The bytes of a Hello message (17 R448), whose layout the manual does not give: versions and ciphertext. -/
opaque helloBytes : Nat × Nat → Nat × Nat → List (BitVec 8) → List (BitVec 8)
/-- The bytes of the reply before its signature (17 R448, 21 R522): version, certificate, measurement record. -/
opaque replyBytes : Nat × Nat → List (BitVec 8) → List (BitVec 8) → List (BitVec 8)
/-- The hash of the issuing root key in the fuses (21, "Root of trust and firmware"). -/
opaque fusedRoot : BitVec 256

end Sys2Proof.Config
end

