-- ==== Sys2Proof/Machine/State.lean ====
section
/-! DEFINITION. The state of a pod of Umaku packages as plain data, and its value at reset. Each field's docstring
names the rule of spec/ that gives it, or says that the field is the model's own. -/

namespace Sys2Proof.Machine

/-- Why a step stops the machine. No meaning raises one: the manual turns every fault into a trap, an error reply
or a failure that the machine goes on from (18 R474). -/
inductive Fault where
  /-- Raised by nobody. Safe: it would stop the model where the machine goes on. -/
  | unreachable
deriving DecidableEq, Repr

/-- Why an instruction has no meaning. -/
inductive Refusal where
  /-- Raised by an arm of exec whose instruction is not modelled yet. Safe: the model stops. -/
  | notModelled (mnemonic : String)
deriving DecidableEq, Repr

/-- State of a path-table entry (03 R92). The entry that `Gang.act` names is the active one; it is `ready` here, and
its code in a save image is 0b10. -/
inductive PState where
  | free | ready | parked
deriving DecidableEq, Repr, Inhabited

/-- A path-table entry (03 R92): the path, and the frame that the entry holds. -/
structure PathEntry where
  lanes : W32 := 0
  exec : W32 := 0
  state : PState := .free
  frameV : Bool := false
  frame : Fin 16 := 0
  joinV : Bool := false
  pc : Word := 0
  members : W32 := 0
  parentV : Bool := false
  parent : Fin 16 := 0
  age : Nat := 0
  join : Word := 0
deriving DecidableEq, Repr, Inhabited

/-- The 32 lane elements of a vector register (03, R89). -/
abbrev Lanes := Vector W32 32

/-- A timeline handle: binding, last and skip (12 R374). -/
structure TlHandle where
  eng : Option Engine := none
  last : Nat := 0
  skip : BitVec 16 := 0
deriving DecidableEq, Repr, Inhabited

/-- A write of a register that an instruction has issued and that is not visible yet (03 R103, R106). Vector register
numbers count without the window; `xs` holds the 32 lane values, and only the lanes of `mask` are written. -/
inductive RegWrite where
  | s (n : Nat) (x : Word)
  /-- The bits of a scalar register that a mask names. -/
  | sPart (n : Nat) (mask x : Word)
  | v (n : Nat) (mask : W32) (xs : Lanes)
  | k (n : Nat) (x : W32)
  | sh (n : Nat) (x : Word)
  | fp (f : BitVec 6)
  | ovfOr (x : Word)
  | ovfSet (x : Word)
  | lscale (x : W32)
deriving DecidableEq, Repr

/-- A fixed-latency result on its way (03 R106): visible to instructions that issue in cycle `due` or later. -/
structure Inflight where
  due : Nat
  w : RegWrite
deriving DecidableEq, Repr

/-- A trap that waits for a boundary: atomic-error and memory-error (clause boundary) and promise-missed
(instruction boundary) (18 R474, R475). -/
structure Deferred where
  cause : Nat
  addr : Word
  info : Word
  anyBoundary : Bool
  /-- The access that failed was the handler's own: the trap arises with inh 1 (10 R318, log 29). -/
  inh : Bool := false
deriving DecidableEq, Repr

/-- A flagged result that is pending (03 R102, R103). `left` counts the replies still to come, `flag` is 15 for none. -/
structure Pend where
  id : Nat
  flag : Nat
  left : Nat
  ws : List RegWrite
  trap : List Deferred
  /-- The cycle of the request, and what it asks of other packages (19 R511): each lane's first address there, the lane, the package. -/
  sent : Nat
  far : List (Word × Nat × Nat)
  /-- `%xctl`.inh when the instruction issued (10 R318). -/
  inh : Bool := false
  /-- Whether it asks anything outside the core, whose own units finish with a Save (18 R495). -/
  away : Bool := false
deriving DecidableEq, Repr

/-- A queue instruction as its path sends it to the queue unit (08 R258): active lanes, first destination register (counted
without the window), mask register, flag. `recs` holds the records of a push. -/
structure QOp where
  kind : Nat          -- 0 qpush, 1 qpop, 2 qpops, 3 qclose
  desc : Word
  act : W32
  dst : Nat
  mask : Nat
  flag : Nat
  recs : List (List W32)
deriving DecidableEq, Repr

/-- What holds a whole gang back (10 R314, 12 R156, 13 R396). The constructors: nothing; asleep until `%cycle` reaches
a value; a tile-ordered instruction that has entered the order of its tiles with a ticket. -/
inductive Hold where
  | none
  | sleep (till : Word)
  | tile (ticket : Nat)
deriving DecidableEq, Repr

/-- The life of a gang slot: free; running; ended and draining (10 R311); ended and counted (02 R59). -/
inductive Phase where
  | free | running | draining | ended
deriving DecidableEq, Repr, Inhabited

/-- A gang slot and the gang in it. -/
structure Gang where
  /-- The slot's coordinates: `%gang`, `%core`, `%cluster`, `%die`, `%pkg` (01 R14, R15). -/
  at_ : Coords := ⟨0, 0, 0, 0, 0⟩
  /-- The model's own: tells apart the gangs that a slot holds one after another. -/
  uid : Nat := 0
  phase : Phase := .free
  /-- The job, the level `%level`, the root level, the nesting depth (02 R43, R52; 10 R297). -/
  job : Nat := 0
  level : Nat := 0
  root : Nat := 0
  depth : Nat := 0
  /-- The gang belongs to the root tree (02 R43). -/
  inRoot : Bool := false
  /-- The launch that started the gang, and the gang's child index in it (02 R52). -/
  launch : Nat := 0
  child : Nat := 0
  /-- `%prio` (03 R113). -/
  prio : BitVec 2 := 0
  /-- The path table (03 R92) and the index of the active entry. -/
  paths : Vector PathEntry 16 := Vector.replicate 16 {}
  act : Fin 16 := 0
  /-- Scalar registers s0 to s127 (00 R12). -/
  s : Vector Word 128 := Vector.replicate 128 0
  /-- Vector registers 0 to 255 of 32 lanes (03 R114). -/
  v : Vector Lanes 256 := Vector.replicate 256 (Vector.replicate 32 0)
  /-- Lane masks k0 to k7 (00 R12). -/
  k : Vector W32 8 := Vector.replicate 8 0
  /-- Shape records sh0 to sh7 (13 R400). -/
  sh : Vector Word 8 := Vector.replicate 8 0
  /-- Timeline handles tl0 to tl7 (12 R374). -/
  tl : Vector TlHandle 8 := Vector.replicate 8 {}
  /-- `%fpcsr` (05 R171). -/
  fpcsr : W32 := 0x2000
  /-- The flags that replies and engine operations have ORed into `%fpcsr` in this cycle: a write in the same cycle goes before them (05
  R174). The model's own. -/
  orNow : BitVec 6 := 0
  /-- `%lscale` (06 R216, 02 R53). -/
  lscale : W32 := 0x3F800000
  /-- `%ovf` (06 R217). -/
  ovf : Word := 0
  /-- The rounding key (05 R173). -/
  rkseed : Word := 0
  rkid : W32 := 0
  rkstep : W32 := 0
  rkbase : Word := 0
  /-- Trap registers (10 R297, 18 R474). -/
  xpc : Word := 0
  xcause : BitVec 8 := 0x40
  xaddr : Word := 0
  xmask : W32 := 0
  xinfo : Word := 0
  xvec : Word := 0
  /-- The fields of `%xctl` (10 R300). -/
  inh : Bool := false
  prec : Bool := false
  pair : Bool := false
  pme : Bool := false
  /-- `%window` and `%blocks` (03 R114, R116). -/
  window : Nat := 0
  blocks : Nat := 0
  /-- The return stack, newest first; its length is `%rsp` (10 R305). -/
  rstack : List Word := []
  /-- Pending counts of f0 to f11 (03 R104). -/
  flags : Vector Nat 12 := Vector.replicate 12 0
  inflight : List Inflight := []
  pend : List Pend := []
  deferred : List Deferred := []
  hold : Hold := .none
  /-- The barrier at which the active path waits has opened (02 R67). -/
  barOpen : Bool := false
  /-- The active path stands at an instruction that found its wait unmet (03 R99, R111). The model's own. -/
  blocked : Bool := false
  /-- The paths that have found their waits unmet in this cycle (03 R99): bit i for entry i. The model's own. -/
  tried : BitVec 16 := 0
  /-- A path has taken over by ageing since the gang's last instruction (03 R100): none does so again at that boundary. The
  model's own. -/
  tookOver : Bool := false
  /-- The cycle since which the gang has been eligible without issuing, while it is (03 R112). The model's own. -/
  eligFrom : Option Nat := none
  /-- The gang's last instruction holds it for an address check, which a miss lengthens (03 R105). The model's own. -/
  memHold : Bool := false
  /-- The handler waits until every flag is zero (03 R110). -/
  drainFlags : Bool := false
  /-- Earliest cycle of the next instruction (03 R105, R109; 16 R426), and the cycle of the last one (03 R112). -/
  notBefore : Nat := 0
  lastIssue : Nat := 0
  /-- The cycle in which the gang became resident (03 R112). -/
  resident : Nat := 0
  /-- Instructions issued since the gang started: measures the store skid (12 R362). -/
  icount : Nat := 0
  /-- The level of the gang's start acquire (02 R65). -/
  startLevel : Nat := 0
  /-- The gang's view: for each location the position of a write (04 R130), default 0. -/
  view : Cells Nat := []
  /-- The locations of which the view holds the first contents for good: the gang has loaded or reduced them (04 R132, R146,
  R147). -/
  seen : Cells Bool := []
  /-- The positions of the gang's own writes, its engines' writes among them (02 R61, 04 R153). -/
  own : Cells Nat := []
  /-- Per path 1 to 3, the view that a `pfence` fixed (04 R150): location · 4 + path to position. -/
  fenced : Cells Nat := []
  /-- The gang's failure cause and origin level, once it fails (02 R63). -/
  fail : Option (Nat × Nat) := none
  /-- A cancel stops the gang at its next instruction boundary (02 R85). -/
  cancelled : Bool := false
  /-- A Save stops the gang (18 R486). -/
  stopping : Bool := false
deriving DecidableEq, Repr, Inhabited

/-- The issue resources of a core (16 R424): vector pipes, lane unit, transcendental unit, scalar pipes, branch unit, memory
unit, matrix port, engine port. -/
inductive Pipe where
  | vector | lane | trans | scalar | branch | memory | matrix | engine
deriving DecidableEq, Repr
/-- An instruction that a core has issued (03 R112, 16 R424): core, `%gang`, resource, cycle. -/
structure Slot where
  core : Nat
  gang : Nat
  pipe : Pipe
  cycle : Nat
deriving DecidableEq, Repr

/-- The instruction word that is issuing: the address of its clause header, and the flag it counts on, 15 for none
(03 R103, 09 R269). `yield` says that a yield hint follows it (03 R109), `enters` that a tile-ordered instruction enters the order of its
tiles and takes no issue slot yet (13 R396). What its issue has changed and an instruction that must wait gives back (03 R99, R111; the
model's own): the paths that aged, the gang's instruction count, the cycle of its instruction before, the issue slots in use, the gang's
earliest cycle, whether an address check held it, and whether a path had taken over by ageing. -/
structure Issue where
  hdr : Word := 0
  flag : Nat := 15
  yield : Bool := false
  enters : Bool := false
  aged : BitVec 16 := 0
  count : Nat := 0
  last : Nat := 0
  slots : List Slot := []
  notBefore : Nat := 0
  memHold : Bool := false
  took : Bool := false
deriving DecidableEq, Repr, Inhabited

/-- One byte of a store: lane, virtual address, location, value, key, whether the mapping grants W (12 R362), and which mapping it is. -/
structure ByteWrite where
  lane : Nat
  va : Word
  loc : Nat
  val : Byte
  key : Option (BitVec 512)
  w : Bool
  /-- The mapping of the byte (01 R38). -/
  part : Nat
  /-- The first address of the aligned access that the byte belongs to, its own address for a misaligned one (04 R128,
  01 R26). -/
  acc : Word
  /-- No higher lane of the store writes the location: the byte is the store's write there (04 R129). -/
  last : Bool
deriving DecidableEq, Repr

/-- A store on its way to the homes (04 R127, 12 R362). `tested` says that its W test has ended; `seq` is the gang's
instruction count at issue. -/
structure StoreReq where
  id : Nat
  uid : Nat
  at_ : Coords
  job : Nat
  global : Bool
  tested : Bool
  /-- The store has placed its record in the store-fault queue (18 R479). -/
  faulted : Bool
  /-- The lowest lane's first byte that has failed at its home so far (18 R479). -/
  err : Option ByteWrite := none
  seq : Nat
  sent : Nat
  pc : Word
  bytes : List ByteWrite
deriving DecidableEq, Repr

/-- Operation of an atomic at the home (12 R382, R385, 08 R252). `cas` carries its compare value. -/
inductive HomeOp where
  | atom (o : AtomOp)
  | atom64 (o : Atom64Op)
  | cas (cmp : Word)
  | chunk
deriving DecidableEq, Repr

/-- An atomic request, or a merged group of them (08 R244): location, size, operand, requester count, the gang, lane
and pending result that its reply goes to, the address, key and job. A merged request has `uid` 0 and its members in
`State.merges`. -/
structure AtomReq where
  id : Nat
  op : HomeOp
  size : Nat
  loc : Nat
  x : Word
  count : Nat
  uid : Nat
  lane : Nat
  pend : Nat
  dst : Nat
  va : Word
  job : Nat
  key : Option (BitVec 512)
  at_ : Coords
  sent : Nat
  /-- The combining points still ahead of the request, and the one where it stands queued with another merged into it (08 R242,
  R243). -/
  route : List Nat
  queued : Option Nat
deriving DecidableEq, Repr

/-- A wait-buffer entry of a combining point (08 R243, R244): the merged request and its two members, the point (none for a core's own
merger) and the input port. -/
structure Merge where
  id : Nat
  a : AtomReq
  b : AtomReq
  point : Option Nat
  port : Nat
deriving DecidableEq, Repr

/-- A reply on its way back to a combining point: the request and the value, or an error (08 R246, R250). -/
structure AtomReply where
  id : Nat
  v : Option Word
  fl : BitVec 6
  /-- The words that a `chunk` reply carries: total, divisor and min (08 R246). -/
  ws : List Word
deriving DecidableEq, Repr

/-- An update-only line of a core (04 R146): location, operation, merged contribution and contributors. -/
structure RedLine where
  core : Coords
  loc : Nat
  op : RedOp
  x : Word
  uids : List Nat
  key : Option (BitVec 512)
deriving DecidableEq, Repr

/-- A published view: the publishing gang's uid and slot (none for the host), level, and the positions it covers (04 R133, 17 R453). -/
structure Pub where
  by_ : Option (Nat × Coords)
  level : Nat
  view : Cells Nat
deriving DecidableEq, Repr

/-- A superseded write of a location: location, position and value (04 R127). -/
structure OldWrite where
  loc : Nat
  pos : Nat
  val : Byte
  key : Option (BitVec 512)
  /-- A member of a merged atomic: the position of the group's one write (08 R247, R248); 0 for a write of its own. -/
  grp : Nat
  /-- The store whose write it is, 0 for another write, and whether a write of its line under another key has spoiled it since (21 R523). -/
  tag : Nat := 0
  spoilt : Bool := false
deriving DecidableEq, Repr

/-- A record of a core's store-fault queue (18 R479). -/
structure StoreFault where
  core : Coords
  uid : Nat
  cause : Nat
  addr : Word
  info : Word
  /-- The gang's instruction count at the store (12 R362); 2^64 for a record that only a clause boundary delivers. -/
  seq : Nat
deriving DecidableEq, Repr

/-- A blocked `rget` or `lnch`: gang, its coordinates, the blocks wanted or the pool level, and whether a record has
been given to it (03 R117, 02 R56). -/
structure Ticket where
  uid : Nat
  at_ : Coords
  n : Nat
  granted : Bool
  /-- The path that waits, and whether a yield hint follows its instruction (03 R109). -/
  path : Nat
  yield : Bool
deriving DecidableEq, Repr

/-- A bound woodpile (08 R256, R257): home cluster and physical pile, job, descriptor, the descriptor's fields, and the
records that the woodpile holds (record number and its eight elements). -/
structure QUnit where
  at_ : Coords
  pile : Nat
  job : Nat
  desc : Word
  loc : Nat
  key : Option (BitVec 512)
  ring : Word
  cap : Nat
  prod : Nat
  reach : Nat
  head : Nat
  tail : Nat
  closed : Nat
  failed : Bool
  recs : List (Nat × List W32)
deriving DecidableEq, Repr

/-- A queue operation that a path has sent and that is not accepted (08 R258): the gang and path, the unit's cluster and
pile, whether it has reached the unit, the operation, and whether a yield hint follows it (03 R109). -/
structure QWait where
  uid : Nat
  path : Nat
  at_ : Coords
  pile : Nat
  arrived : Bool
  op : QOp
  yield : Bool
deriving DecidableEq, Repr

/-- The state of one child of a launch: not started, running (gang uid), completed, or failed with cause and origin. -/
inductive Child where
  | waiting
  | running (uid : Nat)
  | done
  | failed (cause origin : Nat)
deriving DecidableEq, Repr

/-- A launch: what its reeve keeps (02 R54 to R65, R82 to R85). -/
structure Launch where
  id : Nat
  /-- The issuing gang's uid and coordinates; none for a root launch. -/
  issuer : Option (Nat × Coords)
  /-- The launch that the issuer belongs to (none for a root launch). -/
  parent : Option Nat
  /-- The issuer's own child index in its launch. -/
  parentChild : Nat
  /-- What the subtree's ended gangs wrote (02 R61): uid, slot, positions of its own writes. -/
  sub : List (Nat × Coords × Cells Nat)
  level : Nat
  /-- The coordinates that name the level unit (02 R44). -/
  inst : Coords
  func : Word
  tile : List Word
  job : Nat
  root : Nat
  depth : Nat
  inRoot : Bool
  prio : BitVec 2
  xvec : Word
  startLevel : Nat
  children : List Child
  /-- The launch holds a pool record (02 R55). -/
  record : Bool
  joined : Bool
  cancelled : Bool
  completed : Bool
  /-- The package whose launch queue the tree's root launch came from, and its graph, launch number, queue and tag
  (17 R459 to R463). -/
  pkg : Nat
  graph : Nat
  number : Nat
  queue : Nat
  tag : Word
  /-- Extended blocks reserved for a costart launch (03 R119). -/
  reserved : Nat
  /-- Members of the barrier group that have arrived at the current barrier (02 R67). -/
  arrived : List Nat
  /-- The join handle (02 R57). -/
  handle : Word
deriving DecidableEq, Repr

/-- A level-1 scratch window (01 R41, R42): its core, the launch that owns it, base and size. -/
structure Scratch where
  core : Coords
  launch : Nat
  child : Nat
  base : Nat
  size : Nat
  /-- The number of the function's leader gang. -/
  gen : Nat
deriving DecidableEq, Repr

/-- An engine timeline of a job (04 R152, R154): numbers given out, operations completed, flags and faults that no
`tlwait` has covered yet. -/
structure Timeline where
  eng : Engine
  job : Nat
  last : Nat := 0
  done : List Nat := []
  /-- Operation number, uid of its issuer, flags (05 R174). -/
  flags : List (Nat × Nat × BitVec 6) := []
  /-- Operation number, cause, address and information. -/
  faults : List (Nat × Nat × Word × Word) := []
deriving DecidableEq, Repr

/-- A scratch window as space 0x1 uses it (01 R41, R42): base, size, and the number of the level-1 function that owns it, which
stands for its undefined first contents (log 6). -/
abbrev Win := Nat × Nat × Nat

/-- A cart operation that has not completed (12 R378, 02 R75, R76). `kind`: 0 cpy, 1 mcopy, 2 reduce. `tl` is the handle that
returned its number, `win` the issuer's scratch window, `view` what the issuer's `pfence`s have fixed, `bytes` what it has still to
move (12 R379). -/
structure CartOp where
  id : OpId
  kind : Nat
  level : Nat
  words : List Word
  uid : Nat
  at_ : Coords
  /-- The launch of the issuer, which names its launch tree (02 R536). -/
  launch : Nat
  view : Cells Nat
  promise : Nat
  missed : Bool
  bytes : Nat
  tl : Nat
  win : Win
  /-- The cycle of issue, before which none of its requests has left (19 R511). -/
  sent : Nat := 0
  /-- The requests that have failed (02 R79, 19 R511): the child's rank (none for the issuer's side), whether it writes, its address. -/
  errs : List (Option Nat × Bool × Word)
  /-- The elements that have moved before the completion (04 R155, 12 R378), with the positions they wrote, the lowest faulting
  address and the flags so far. -/
  done : List Nat := []
  wr : Cells Nat := []
  low : Option Word := none
  fl : BitVec 6 := 0
  /-- The source words of which only some bytes have been used so far, each read once (04 R128): side, aligned address, bytes. -/
  held : List (Option Nat × Word × List Byte) := []
  /-- At level 1, what the selected slots held when the operation reached them (02 R74): none for a skipped one, or the gang and its
  register block. -/
  slots : Option (List (Option (Nat × List Byte))) := none
deriving DecidableEq, Repr

/-- A kiln reservation entry (03 R124, 06 R201, R212, R215). `state`: 0 queued, 1 started, 2 suspended, 3 to restart (06
R214, R215, R218). -/
structure KilnEntry where
  id : Nat
  op : OpId
  /-- The reservation entry of the cluster's kiln that it holds, 0 to 31 (06 R209). -/
  slot : Nat
  at_ : Coords
  uid : Nat
  /-- The physical tile of the core. -/
  tile : Nat
  opA : Word × Word
  opB : Word × Word
  act : W32
  /-- The registers of an A operand of kind 0b01, register-major, and its scale register; empty for memory. -/
  aRegs : List Lanes
  sRegs : Lanes
  steps : Nat
  next : Nat
  state : Nat
  /-- It has started, be it suspended since (06 R209). -/
  began : Bool := false
  cause : Nat
  addr : Word
  ipc : Word
  body : Nat
  /-- Cycle of issue and priority class (03 R125). -/
  since : Nat
  prio : Nat
  /-- The latch that a started operation uses, and the weights and scales that it began with (06 R206, R207). -/
  latch : Nat
  weights : Array Byte
  wscales : Array Byte
  view : Cells Nat
  flags : BitVec 6
  /-- The cycle of issue or re-issue, before which none of its present requests has left (19 R511). -/
  asked : Nat := 0
deriving DecidableEq, Repr

/-- An `mldw` that the kiln has not served (06 R208). -/
structure KilnLoad where
  op : OpId
  at_ : Coords
  uid : Nat
  opB : Word × Word
  view : Cells Nat
deriving DecidableEq, Repr

/-- A latched weight tile with its tag (06 R206): element bytes by stored row, scale bytes. -/
structure Latch where
  at_ : Coords
  idx : Nat
  valid : Bool
  job : Nat
  opB : Word × Word
  bytes : Array Byte
  scales : Array Byte
  /-- The least recently used latch has the lowest number. -/
  used : Nat
  /-- What it was loaded from (04 R150): runs of locations (first, length), the number of writes of the machine at the load, and the
  positions of the bytes that the load read older than their last writes. -/
  spans : List (Nat × Nat)
  asOf : Nat
  stale : Cells Nat
deriving DecidableEq, Repr

/-- Status of an accumulator tile (06 R209), with the non-finite bit (13, before R414). -/
structure TileStatus where
  ipc : Word := 0
  body : Nat := 0
  busy : Bool := false
  susp : Bool := false
  gang : Nat := 0
  entry : Nat := 0
  cause : Nat := 0
  count : Nat := 0
  resume : Nat := 0
  steps : Nat := 0
  nonfinite : Bool := false
deriving DecidableEq, Repr, Inhabited

/-- The tile-ordered instructions with their fields (13 R395, R406): `accz`, `accwr`, `accadd`, `acccp`, `acccvt`, `accmx`. -/
inductive TileOp where
  | z (t : BitVec 4)
  | wr (t : BitVec 4) (s : Reg) (n : BitVec 3)
  | add (d s : BitVec 4) (n : BitVec 3)
  | cp (d s : BitVec 4) (n : BitVec 3)
  | cvt (d : Reg) (t : BitVec 4) (m : RndSel) (n : BitVec 3)
  | mx (d : Reg) (t : BitVec 4) (n : BitVec 3)
deriving DecidableEq, Repr

/-- A tile-ordered instruction's place in the order of its tiles (13 R396): ticket, gang, core, tiles, the `mma`s that entered the order
earlier, and the instruction. `src` is the gang as the instruction read its operands (00 R11), `yield` says that a yield hint follows it
(03 R109), `since` is the cycle of entry. -/
structure TileTicket where
  ticket : Nat
  uid : Nat
  core : Coords
  tiles : List Nat
  entries : List Nat
  op : TileOp
  src : Gang
  yield : Bool
  since : Nat
deriving DecidableEq, Repr

/-- A 64-byte segment of a row that a granary operation has still to write (07 R235): location, byte and key of each byte, and of
the accumulator word that goes with a row's last segment. -/
structure SegWrite where
  bytes : List (Nat × Byte × Option (BitVec 512))
  acc : List (Nat × Byte × Option (BitVec 512))
deriving DecidableEq, Repr

/-- A granary operation (07 R222, R227, R228). `kind`: 0 pkld, 1 pkq, 2 pkb. -/
structure GranaryOp where
  id : OpId
  kind : Nat
  at_ : Coords
  uid : Nat
  recA : Word
  words : List Word
  view : Cells Nat
  started : Bool
  /-- The 32 words of the record, once it has been read (07 R219). -/
  table : List Word
  /-- The next query of a `pkq` (07 R238). -/
  nextQ : Nat
  /-- A `pkb`'s candidates (slot and weight) and output gradients (07 R233), the distinct slots still to update, the location of
  the row whose update has begun, and its segments still to write. -/
  cands : List (Nat × W32)
  dys : List (List W32)
  rows : List Nat
  cur : Option Nat
  segs : List SegWrite
  fault : Option (Nat × Word)
  flags : BitVec 6
  /-- The positions written in die SRAM, published at completion (07 R229). -/
  wr : Cells Nat
  /-- An error reply of one request: the address it failed at (19 R511); and the cycle of issue, before which no request has left. -/
  err : Option Word
  sent : Nat := 0
deriving DecidableEq, Repr

/-- A physical key slot of a die's granary: its tag (job, record, gen, d, n, kfmt) and the loaded bytes of both halves (07 R222). -/
structure KeySlot where
  at_ : Coords
  slot : Nat
  tag : Option (Nat × Word × Nat × Nat × Nat × Nat)
  keys : Array Byte
  scales : Array Byte
deriving DecidableEq, Repr

/-- A graph of a job (02 R82): index, sealed, launches accepted, and the numbers that have completed. -/
structure Graph where
  idx : Nat
  sealed : Bool
  accepted : Nat
  done : List Nat
  failed : List Nat
  /-- Completion records that wait for an earlier launch number (17 R463): number, tag, status, queue. -/
  ready : List (Nat × Word × Word × Nat)
deriving DecidableEq, Repr

/-- A completion record (17 R463) or trap notice (18 R478), as words. -/
structure Message where
  job : Nat
  notice : Bool
  graph : Nat
  number : Nat
  words : List Word
deriving DecidableEq, Repr

/-- A resident or saved job (17 R454): its record of 16 words, its session, graphs, kernels, keys and counts. -/
structure Job where
  id : Nat
  pkg : Nat
  words : List Word
  resident : Bool
  sess : Option (Nat × Nat)
  graphs : List Graph
  kernels : List Kernel
  /-- The key that protects MemWrite and MemRead (17 R457). -/
  transfer : Option (BitVec 512)
  /-- Missed promises (04 R157). -/
  missed : Nat
  /-- Messages held while no session owns the job (17 R451). -/
  heldMsgs : List Message
  ending : Option Cmd
  /-- Protocol version of the session that created the job (17 R465). -/
  proto : Nat × Nat
deriving DecidableEq, Repr

/-- A launch record in a launch queue (17 R459, R460): words, graph, launch number, and whether a cancel has covered it
(02 R85). -/
structure QRec where
  words : List Word
  graph : Nat
  number : Nat
  cancelled : Bool
deriving DecidableEq, Repr

/-- A bound launch queue (17 R459). -/
structure LQueue where
  pkg : Nat
  q : Nat
  job : Nat
  recs : List QRec
deriving DecidableEq, Repr

/-- A session (17 R448 to R450): the chosen version, whether it is confirmed, the next sequence number, and
consecutive authentication failures. -/
structure Session where
  pkg : Nat
  sess : Nat
  proto : Nat × Nat
  confirmed : Bool
  next : Nat
  fails : Nat
  dropped : Nat
  keyIn : BitVec 256
  keyOut : BitVec 256
  /-- The commands that have arrived and still wait for their turn, in order, with the cycle of their arrival; none for one whose opcode is
  outside the table (R452). -/
  waiting : List (Cmd × Option Instr × Nat) := []
  /-- The device turns to the first of them now (the model's own). -/
  serving : Bool := false
deriving DecidableEq, Repr

/-- What a package sends to a host: replies and messages, newest last. -/
inductive HostOut where
  | helloReply (pkg sess : Nat) (proto : Nat × Nat) (cert : List Byte) (measure : List Byte) (sig : List Byte)
  | refuse (pkg : Nat) (minV maxV : Nat × Nat)
  | ok (c : Cmd) (words : List Word)
  | bytes (c : Cmd) (bs : List Byte)
  | error (c : Cmd)
  | queueFull (c : Cmd)
  | message (pkg sess : Nat) (m : Message)
deriving DecidableEq, Repr

/-- A save image (18 R491 to R494) as its parts: the header's fields and the saved gangs, kiln entries, granary
operations, scratch windows, tiles and store-fault records. -/
structure SaveImage where
  job : Nat
  pkg : Nat
  base : Nat
  mode : Nat
  state : Nat
  cmd : Cmd
  deadline : Nat
  t0 : Nat
  t1 : Nat
  gangs : List Gang
  /-- How many gangs were saved (18 R492). -/
  saved : Nat
  /-- Where the free values of the die and cluster sections start (18 R491, log 18). -/
  fresh : Nat
  stopped : List Nat
  kiln : List KilnEntry
  granary : List GranaryOp
  /-- The released scratch windows with their bytes by window offset (18 R493). -/
  spad : List (Scratch × List (Nat × Byte))
  faults : List StoreFault
  /-- Mode 1: the job's cluster and die windows, as location and byte (18 R491). -/
  windows : Cells Byte
  /-- The elements and statuses of the job's accumulator tiles (18 R493). -/
  acc : Cells W32
  tiles : Cells TileStatus
  resuming : Option Cmd
deriving DecidableEq, Repr

/-- A scale-up port (19 R502, R503, R506, R508, R514). `state`: 0 down, 1 training, 2 up, 3 unhealthy. `pword` is the capability word that
the partner sent, `since` the cycle in which the link came up; `crc` holds the cycles of the flits that failed their CRC or FEC within the last
1 ms; `clean` is the cycle since which an unhealthy port that has retrained has run clean; `flits` and `replays` count flits sent and sent
again. -/
structure Port where
  pkg : Nat
  port : Nat
  state : Nat := 0
  lanes : BitVec 4 := 0
  comb : Bool := false
  std : Bool := false
  bond : Bool := false
  losses : Nat := 0
  crc : List Nat := []
  pword : Word := 0
  since : Nat := 0
  clean : Option Nat := none
  flits : Nat := 0
  replays : Nat := 0
deriving DecidableEq, Repr

/-- A bonded link (19 R505, R507, R514): members, members in use, lanes in use, fallbacks, whether both ends retrain, and of the outbound flit
stream the number of flits sent and the last sequence number that the partner has acknowledged. -/
structure Bond where
  pkg : Nat
  group : Nat
  members : BitVec 4 := 0
  active : BitVec 4 := 0
  width : Nat := 0
  fallbacks : Nat := 0
  retraining : Bool := false
  sent : Nat := 0
  acked : Nat := 0
deriving DecidableEq, Repr

/-- The firmware image of a kind that a package has loaded when it first starts (21 R518, log 22). -/
def factoryImage (kind : Nat) : Image := ⟨kind, 0, 0, [], [], []⟩
/-- A package's own state (19 R504; 21 R518, R528 to R533). -/
structure Package where
  pkg : Nat
  /-- Pod identifier, package count, and whether the package is a member of its pod (19 R504). -/
  pod : Nat := 0
  count : Nat := 1
  member : Bool := true
  ready : List Func := []
  failed : List Func := []
  /-- The fused rollback counter, and the images that have loaded (21 R518, R519). -/
  rollback : Nat := 0
  images : List Image := [0, 1, 2, 3].map factoryImage
  sensors : Sensors := ⟨0, 0, 0⟩
  /-- Uncorrectable errors in a gang's state and in latched weights since reset, and the cycles in which the limiter gated issue (21 R530). -/
  ue : Nat := 0
  throttle : Nat := 0
  gated : Bool := false
  stopped : Bool := false
  /-- The checkpoint control record (21 R532), and the operation that runs: its function and record. -/
  ckpt : List Word := []
  run : Option (Nat × List Word) := none
  /-- The save images in the driver region at the last checkpoint, which its copy holds, with its control record (21 R533). -/
  kept : List Word × List SaveImage := ([], [])
  /-- Cycle of the package's last reset (10 R297). -/
  resetAt : Nat := 0
  scrubs : Nat := 0
deriving DecidableEq, Repr

/-- What moves next (log 3): an event of the table, an instruction of a gang, or time alone; or something that the manual lets
happen inside or beside the table's steps (log 3, 16, 23, 24): elements of a pending result that show early (03 R107), elements of a
cart operation that move before its completion (04 R155, 12 R378), an uncorrectable error that appears in memory (21 R525, R526),
two slots of a paired gang that disagree on the next request (18 R484), a translation miss that lengthens the hold of a gang's
address check (03 R105), a session's waiting command that the device turns to (17 R450), and a command whose opcode is outside the
table (17 R452). The model's own. -/
inductive Move where
  | event (i : Instr)
  | issue (c : Coords)
  | wait (n : Nat)
  | part (c : Coords) (id i : Nat) (m : W32)
  | elements (o : OpId) (es : List Nat)
  | error (l : Nat)
  | mismatch (c : Coords)
  | miss (c : Coords) (n : Nat)
  | serve (pkg sess : Nat)
  | stray (h : Cmd)
deriving DecidableEq, Repr

/-- The state of a pod. -/
structure State where
  /-- The gang that issues (the model's focus), and every other gang slot that is in use. -/
  g : Gang := {}
  others : List Gang := []
  /-- The instruction that is issuing, and what the cores have issued in the last four cycles (03 R112, 16 R424). -/
  iss : Issue := {}
  slots : List Slot := []
  /-- The arithmetic clock (00 R3); `%cycle` of a package counts from its last reset (10 R297). -/
  cycle : Nat := 0
  /-- The bytes at their homes: last writes in the modification orders (04 R127). -/
  mem : Cells Byte := []
  /-- The key under which each byte of HBM is stored (01 R34, 21 R523), default none. -/
  keys : Cells (Option (BitVec 512)) := []
  /-- The lines of HBM, 64 bytes each: the position of the write from which on all writes of the line are under one key, and that key (21
  R523). -/
  lineKeys : Cells (Nat × Option (BitVec 512)) := []
  /-- The store that wrote a location last, 0 where another write did (the model's own: it tells a write on its way from others, log 6). -/
  tags : Cells Nat := []
  /-- Where a checkpoint has put ciphertext at another address: the location and key it was written under (21 R523, R533). -/
  origin : Cells (Option (Nat × BitVec 512)) := []
  /-- The position of the last write of each location, default 0, and the number of writes so far. -/
  top : Cells Nat := []
  wseq : Nat := 0
  hist : List OldWrite := []
  pubs : List Pub := []
  /-- Bytes with an uncorrectable error (21 R525, R526): an input. -/
  poison : List Nat := []
  /-- What the constant, tile and lookup paths last fetched (04 R149): location · 4 + path to position, per cluster. -/
  fetched : List (Coords × Cells Nat) := []
  stores : List StoreReq := []
  atoms : List AtomReq := []
  merges : List Merge := []
  areplies : List AtomReply := []
  lines : List RedLine := []
  faults : List StoreFault := []
  /-- Waiters for register blocks and for pool records, oldest first (03 R117, 02 R56). -/
  rgetQ : List Ticket := []
  poolQ : List Ticket := []
  units : List QUnit := []
  qwaits : List QWait := []
  launches : List Launch := []
  scratch : List Scratch := []
  timelines : List Timeline := []
  carts : List CartOp := []
  kiln : List KilnEntry := []
  mldws : List KilnLoad := []
  latches : List Latch := []
  /-- Accumulator elements: core index · 2^17 + tile · 2^13 + row · 2^8 + column (06 R199), default +0. -/
  acc : Cells W32 := []
  /-- Tile statuses: core index · 16 + tile. -/
  tiles : Cells TileStatus := []
  tickets : List TileTicket := []
  granary : List GranaryOp := []
  keySlots : List KeySlot := []
  /-- Memory-encryption key slots: package · 4096 + slot (00 R2, 17 R457). -/
  xts : Cells (Option (BitVec 512)) := []
  jobs : List Job := []
  queues : List LQueue := []
  sessions : List Session := []
  out : List HostOut := []
  images : List SaveImage := []
  ports : List Port := []
  bonds : List Bond := []
  /-- Routes of a pod: source, target and the packages on the way (19 R538), and the links that are up. -/
  links : List Link := []
  routes : List (Nat × Nat × List Nat) := []
  pkgs : List Package := []
  /-- The header bitmap and the body words of finalised code, by package, job and virtual address (16 R444):
  (package · 2^16 + job) · 2^56 + address to 1 for a header, 2 for a body word, 3 for a J word. -/
  code : Cells Nat := []
  /-- The finalised words of the objects that have been loaded, by the object's bytes: the same ones on every package (16 R431). -/
  finalised : List (List Byte × List (BitVec 32)) := []
  /-- Numbers for the next gang, launch, request and kiln entry (the model's own). -/
  nextId : Nat := 1
  /-- How many free values have been drawn (log 6). The model's own. -/
  fresh : Nat := 0
  /-- What moves next (log 3), the outcomes chosen where R8 leaves a choice (log 4), and the numbers of the writes
  that acquires take in early (log 5). The model's own. -/
  agenda : List Move := []
  /-- Steps for which the agenda named nothing. The model's own. -/
  turn : Nat := 0
  picks : List Nat := []
  early : List (List Nat) := []
  /-- The step at hand has met a request that cannot reach its home now: it then does not take place (19 R507, R538). False between
  steps. The model's own. -/
  cut : Bool := false
deriving DecidableEq, Repr

/-- The state right after reset (log 1, 2): one package, no job, no gang, no session, empty memories. -/
def State.reset : State := { pkgs := [{ pkg := 0 }] }

end Sys2Proof.Machine
end

