-- ==== Sys2Proof/Machine/Cells.lean ====
section
/-! DEFINITION. Operations on sparse maps (`Cells`): reading and writing keep the canonical form, strictly rising keys
and no entry equal to what an unlisted key reads as. -/

namespace Sys2Proof.Machine

variable {α : Type}

/-- The value at key `k`; `d` where no entry lists it. -/
def cget (d : α) : Cells α → Nat → α
  | [], _ => d
  | (j, x) :: r, k => if j = k then x else cget d r k

/-- Write `x` at key `k`, keeping the canonical form. -/
def cset [DecidableEq α] (d : α) : Cells α → Nat → α → Cells α
  | [], k, x => if x = d then [] else [(k, x)]
  | (j, y) :: r, k, x =>
    if k < j then (if x = d then (j, y) :: r else (k, x) :: (j, y) :: r)
    else if j = k then (if x = d then r else (k, x) :: r)
    else (j, y) :: cset d r k x

/-- The canonical form: keys strictly rising, no entry equal to the default. -/
abbrev CellsWf (d : α) (m : Cells α) : Prop := m.Pairwise (fun a b => a.1 < b.1) ∧ ∀ p ∈ m, p.2 ≠ d

/-- Point-wise maximum of two views (04 R132: a view only moves forward). -/
def vjoin (a : Cells Nat) : Cells Nat → Cells Nat
  | [] => a
  | (k, n) :: r => vjoin (cset 0 a k (max (cget 0 a k) n)) r

end Sys2Proof.Machine
end

