-- ==== Sys2Proof/Machine/Ops.lean ====
section
/-! DEFINITION. Named operations over a gang's registers, paths, flags and traps: register reads and writes, results on
their way (03 R103 to R107), path changes (03 R99, R100), taking a trap and escalating it (18 R474 to R478). -/

namespace Sys2Proof.Machine

/-- The outcome of one meaning. -/
abbrev Out := Host.Outcome State Fault Refusal

/-- A trap: cause code, `%xaddr` and `%xinfo` (18 R474). -/
structure Trap where
  cause : Nat
  addr : Word := 0
  info : Word := 0
deriving DecidableEq, Repr

/-- Trap causes of R474 by name. -/
abbrev cIllegal : Nat := 0x01
abbrev cOperand : Nat := 0x02
abbrev cRegBlock : Nat := 0x03
abbrev cDivergent : Nat := 0x04
abbrev cBadTarget : Nat := 0x05
abbrev cBadJoin : Nat := 0x06
abbrev cPathOverflow : Nat := 0x07
abbrev cCallDepth : Nat := 0x08
abbrev cUnderflow : Nat := 0x09
abbrev cSpace : Nat := 0x10
abbrev cBound : Nat := 0x11
abbrev cTranslation : Nat := 0x12
abbrev cPermission : Nat := 0x13
abbrev cDevice : Nat := 0x14
abbrev cMisaligned : Nat := 0x15
abbrev cAtomicError : Nat := 0x16
abbrev cMemory : Nat := 0x17
abbrev cFetch : Nat := 0x18
abbrev cCopy : Nat := 0x19
abbrev cPromise : Nat := 0x1A
abbrev cTimeline : Nat := 0x1B
abbrev cKiln : Nat := 0x20
abbrev cSuspended : Nat := 0x21
abbrev cAccRange : Nat := 0x22
abbrev cOperandBlock : Nat := 0x23
abbrev cKilnFormat : Nat := 0x24
abbrev cGranary : Nat := 0x25
abbrev cDescriptor : Nat := 0x28
abbrev cTileRecord : Nat := 0x29
abbrev cLaunchScope : Nat := 0x2A
abbrev cLaunchDepth : Nat := 0x2B
abbrev cHandle : Nat := 0x2C
abbrev cBarrierScope : Nat := 0x2D
abbrev cDivBarrier : Nat := 0x2E
abbrev cQueueRecord : Nat := 0x30
abbrev cQueueScope : Nat := 0x31
abbrev cQueueClosed : Nat := 0x32
abbrev cOverclose : Nat := 0x33
abbrev cQueueFailed : Nat := 0x34
abbrev cSoftware : Nat := 0x38
abbrev cBreakpoint : Nat := 0x39
abbrev cPaired : Nat := 0x3A
abbrev cTerm : Nat := 0x40
abbrev cCancelled : Nat := 0x41
abbrev cReset : Nat := 0x42
abbrev cDependency : Nat := 0x43
abbrev cBadRecord : Nat := 0x44

/-- Bits [hi:lo] of a word as a number. -/
def fld (w : Word) (hi lo : Nat) : Nat := w.toNat / 2 ^ lo % 2 ^ (hi + 1 - lo)
/-- A number as a word. -/
def wd (n : Nat) : Word := BitVec.ofNat 64 n
/-- A number as a 32-bit word. -/
def w32 (n : Nat) : W32 := BitVec.ofNat 32 n
/-- Whether lane `l` is in a mask. -/
def inMask (m : W32) (l : Nat) : Bool := m.getLsbD l
/-- The lanes of a mask in ascending order. -/
def lanesOf (m : W32) : List Nat := (List.range 32).filter (inMask m)
/-- A mask from a predicate on lanes. -/
def maskOf (f : Nat → Bool) : W32 := (List.range 32).foldr (fun l m => if f l then m ||| (1#32 <<< l) else m) 0
/-- 32 lane values from a function of the lane. -/
def mkLanes (f : Nat → W32) : Lanes := ⟨((List.range 32).map f).toArray, by simp⟩
/-- The value of lane `l`. -/
def lane (xs : Lanes) (l : Nat) : W32 := (xs[l]?).getD 0
/-- Lane values after a write of the lanes of a mask (R90). -/
def mergeLanes (m : W32) (old new : Lanes) : Lanes := mkLanes (fun l => if inMask m l then lane new l else lane old l)
/-- The first true condition's trap. -/
def firstTrap : List (Bool × Trap) → Option Trap
  | [] => none
  | (c, t) :: r => if c then some t else firstTrap r
/-- Replace the entries that satisfy `p` by `f` of them. -/
def upd {α : Type} (p : α → Bool) (f : α → α) (l : List α) : List α := l.map (fun x => if p x then f x else x)
/-- `n` rounded up to a multiple of `m`, divided by `m`. -/
def ceilDiv (n m : Nat) : Nat := (n + m - 1) / m

/-- The active path's entry (R92). -/
def path (g : Gang) : PathEntry := g.paths[g.act]
/-- Replace the active path's entry. -/
def setPath (g : Gang) (p : PathEntry) : Gang := { g with paths := g.paths.set g.act p }
/-- `%exec` of the active path (R89). -/
def execMask (g : Gang) : W32 := (path g).exec
/-- Entry `i` of the path table. -/
def entry (g : Gang) (i : Nat) : PathEntry := (g.paths[i]?).getD {}
/-- How many paths the gang has. -/
def pathCount (g : Gang) : Nat := ((List.range 16).filter (fun i => (entry g i).state ≠ .free)).length
/-- The address of the instruction that is issuing, or that the active path issues next. -/
def pcOf (s : State) : Word := (path s.g).pc
/-- The active path continues at `a`. -/
def setPc (a : Word) (s : State) : State := { s with g := setPath s.g { path s.g with pc := a } }
/-- The instruction completes: the path continues at the next word (R263). -/
def next (s : State) : State := setPc (pcOf s + 4) s

/-- Scalar register `r`. -/
def sreg (g : Gang) (r : Reg) : Word := g.s[r.toNat]'(r.isLt)
/-- Scalar register `n`, counting from `r`. -/
def sregAt (g : Gang) (r : Reg) (i : Nat) : Word := (g.s[r.toNat + i]?).getD 0
/-- Lane mask `k`. -/
def mreg (g : Gang) (k : BitVec 3) : W32 := g.k[k.toNat]'(k.isLt)
/-- The gang's vector register that field `r` names, `i` further on (R275, R276). -/
def vnum (g : Gang) (r : Reg) (i : Nat := 0) : Nat := g.window + r.toNat + i
/-- Vector register number `n` of the gang. -/
def vabs (g : Gang) (n : Nat) : Lanes := (g.v[n]?).getD (Vector.replicate 32 0)
/-- The vector register that field `r` names, `i` further on. -/
def vreg (g : Gang) (r : Reg) (i : Nat := 0) : Lanes := vabs g (vnum g r i)
/-- Whether the gang holds vector register `n` (R115): the base block and its extended blocks. -/
def held (g : Gang) (n : Nat) : Bool := n < 64 * (g.blocks + 1) && n < 256
/-- The registers of the groups `rs` (field and size) that the gang does not hold (R115, R276). -/
def missing (g : Gang) (rs : List (Reg × Nat)) : List Nat :=
  (rs.flatMap (fun r => (List.range r.2).map (fun i => vnum g r.1 i))).filter (fun n => !held g n)
/-- The register-block trap for registers that the gang does not hold: its number, one of them where they are several (log 31). -/
def blockTrapOf (ns : List Nat) : Option Trap :=
  match ns.eraseDups with
  | [] => none
  | [n] => some ⟨cRegBlock, 0, wd (n % 256)⟩
  | n :: r => some ⟨cRegBlock, 0, wd (((n :: r)[Config.freePick (n :: r) % (n :: r).length]?).getD n % 256)⟩
/-- The register-block trap of an instruction that names the groups `rs` of vector registers (R115, R276). -/
def blockTrap (g : Gang) (rs : List (Reg × Nat)) : Option Trap := blockTrapOf (missing g rs)

/-- A register write takes effect. -/
def applyW (g : Gang) : RegWrite → Gang
  | .s n x => { g with s := g.s.setIfInBounds n x }
  | .sPart n m x => { g with s := g.s.setIfInBounds n (((g.s[n]?).getD 0 &&& ~~~m) ||| (x &&& m)) }
  | .v n m xs => { g with v := g.v.setIfInBounds n (mergeLanes m (vabs g n) xs) }
  | .k n x => { g with k := g.k.setIfInBounds n x }
  | .sh n x => { g with sh := g.sh.setIfInBounds n x }
  | .fp f => { g with fpcsr := g.fpcsr ||| f.setWidth 32 }
  | .ovfOr x => { g with ovf := g.ovf ||| x }
  | .ovfSet x => { g with ovf := x }
  | .lscale x => { g with lscale := x }
/-- Whether a result on its way must take effect before another that is due in the same cycle: a write of `%ovf` goes before an OR (05
R174, 06 R217). -/
def writesFirst (a b : RegWrite) : Bool :=
  match a, b with
  | .ovfSet _, .ovfOr _ => true
  | _, _ => false
/-- Insert a result on its way behind every result that is due no later (R106), but a write before the ORs of its cycle (05 R174). -/
def insertDue (i : Inflight) : List Inflight → List Inflight
  | [] => [i]
  | j :: r => if j.due < i.due || (j.due = i.due && !writesFirst i.w j.w) then j :: insertDue i r else i :: j :: r
/-- A fixed-latency result of an instruction that issues now: visible to instructions that issue `lat` cycles later (R106). -/
def fixed (lat : Nat) (w : RegWrite) (s : State) : State :=
  { s with g := { s.g with inflight := insertDue ⟨s.cycle + lat, w⟩ s.g.inflight } }
/-- The results that are due take effect (R106). -/
def settleList (now : Nat) : List Inflight → Gang → Gang
  | [], g => { g with inflight := [] }
  | i :: r, g => if i.due ≤ now then settleList now r (applyW g i.w) else { g with inflight := i :: r }
/-- The gang's results that are due at `now` take effect. -/
def settle (now : Nat) (g : Gang) : Gang := settleList now g.inflight g
/-- The cycle from which every result on its way is visible (11 R333). -/
def lastDue (g : Gang) : Nat := g.inflight.foldl (fun n i => max n i.due) 0

/-- The pending count of flag `f` (R104). -/
def flagCount (g : Gang) (f : Nat) : Nat := (g.flags[f]?).getD 0
/-- A flagged instruction adds 1 to its flag and leaves `left` replies to come (R103); the new result has number
`s.nextId`. -/
def addPend (ws : List RegWrite) (left : Nat) (trap : List Deferred) (s : State) (far : List (Word × Nat × Nat) := [])
    (away : Bool := false) : State :=
  { s with
    nextId := s.nextId + 1
    g := { s.g with
      pend := s.g.pend ++ [⟨s.nextId, s.iss.flag, left, ws, trap, s.cycle, far, s.g.inh, away⟩]
      flags := s.g.flags.setIfInBounds s.iss.flag (flagCount s.g s.iss.flag + 1) } }
/-- A result is written outside the gang's own pipes: flags in it count as ORed in this cycle (05 R174). -/
def applyReply (g : Gang) (w : RegWrite) : Gang :=
  match w with
  | .fp f => { applyW g w with orNow := g.orNow ||| f }
  | _ => applyW g w
/-- A trap comes to wait for a gang; one that has stopped for a Save records it only where none waits (18 R495). -/
def addTraps (ds : List Deferred) (g : Gang) : Gang :=
  if g.stopping && !g.deferred.isEmpty then g else { g with deferred := g.deferred ++ ds }
/-- A pending result is written: its registers change, its flag's count falls and its trap waits (R103). -/
def finishPend (p : Pend) (g : Gang) : Gang :=
  let h := p.ws.foldl applyReply g
  addTraps (p.trap.map (fun d => { d with inh := p.inh })) { h with
    pend := h.pend.filter (fun q => q.id ≠ p.id)
    flags := h.flags.setIfInBounds p.flag (flagCount h p.flag - 1) }

/-- The 32-bit halves of a scalar that the low two bits of a mask name. -/
def halves (m : W32) : Word := (if m.getLsbD 0 then 0xFFFFFFFF else 0) ||| (if m.getLsbD 1 then 0xFFFFFFFF00000000 else 0)
/-- A write of a general register divided into the 32-bit elements that a mask names and the others (03 R107); `.fp 0` writes nothing. -/
def splitWrite (m : W32) : RegWrite → RegWrite × RegWrite
  | .s n x => (.sPart n (halves m) x, .sPart n (~~~halves m) x)
  | .sPart n k x => (.sPart n (k &&& halves m) x, .sPart n (k &&& ~~~halves m) x)
  | .v n k xs => (.v n (k &&& m) xs, .v n (k &&& ~~~m) xs)
  | .k n x => if m.getLsbD 0 then (.k n x, .fp 0) else (.fp 0, .k n x)
  | .sh n x => (.fp 0, .sh n x)
  | .fp f => (.fp 0, .fp f)
  | .ovfOr x => (.fp 0, .ovfOr x)
  | .ovfSet x => (.fp 0, .ovfSet x)
  | .lscale x => (.fp 0, .lscale x)
/-- Elements of write `i` of pending result `id` show before its flag falls; its completion writes the others alone (03 R107). A
result from another package has arrived then, so that no fabric timeout fails it any more (19 R511). -/
def showPart (id i : Nat) (m : W32) (g : Gang) : Gang :=
  match (g.pend.find? (fun p => p.id = id)).bind (fun p => p.ws[i]?) with
  | none => g
  | some w =>
    { applyW g (splitWrite m w).1 with
      pend := upd (fun p => p.id = id) (fun p => { p with ws := p.ws.set i (splitWrite m w).2, far := [] }) g.pend }

/-- A pending result is written into a save image (18 R495): an error writes no destination, and its trap is recorded unless one
is already. -/
def steerPend (p : Pend) (g : Gang) : Gang :=
  let h := finishPend (if p.trap.isEmpty then p else { p with ws := [] }) g
  { h with deferred := if g.deferred.isEmpty then h.deferred else g.deferred }
/-- Every result of the core's own units takes effect before a record is written (18 R495): those on their way, and the flagged ones that ask
nothing outside the core. -/
def settleAll (g : Gang) : Gang :=
  (g.pend.filter (fun p => p.left = 0 && !p.away)).foldl (fun h p => steerPend p h)
    { g.inflight.foldl (fun h i => applyW h i.w) g with inflight := [] }

/-- The gang with number `uid`, if a slot holds it. -/
def gangOf (s : State) (uid : Nat) : Option Gang := (s.g :: s.others).find? (fun g => g.uid = uid && g.phase ≠ .free)
/-- Whether a gang occupies its slot: it runs, or it has ended and drains (10 R311). -/
def inSlot (g : Gang) : Bool := g.phase = .running || g.phase = .draining
/-- The gang in slot `c`. -/
def gangAt (s : State) (c : Coords) : Option Gang := (s.g :: s.others).find? (fun g => g.at_ = c && inSlot g)
/-- Change the gang with number `uid`. -/
def onGang (uid : Nat) (f : Gang → Gang) (s : State) : State :=
  { s with
    g := if s.g.uid = uid && s.g.phase ≠ .free then f s.g else s.g
    others := upd (fun g => g.uid = uid && g.phase ≠ .free) f s.others }
/-- Change the gang with number `uid`, in its slot or in a save image (18 R495). -/
def onGangAny (uid : Nat) (f : Gang → Gang) (s : State) : State :=
  { onGang uid f s with
    images := s.images.map (fun i => { i with gangs := upd (fun g => g.uid = uid) f i.gangs }) }
/-- Change every gang. -/
def onGangs (f : Gang → Gang) (s : State) : State := { s with g := f s.g, others := s.others.map f }
/-- Every gang slot in use. -/
def gangs (s : State) : List Gang := (s.g :: s.others).filter (fun g => g.phase ≠ .free)
/-- Make the gang in slot `c` the one that issues (log 13). -/
def focus (c : Coords) (s : State) : State :=
  if s.g.at_ = c && inSlot s.g then s
  else match s.others.find? (fun g => g.at_ = c && inSlot g) with
    | some h =>
      let rest := s.others.filter (fun g => !(g.at_ = c && inSlot g))
      { s with g := h, others := if s.g.phase = .free then rest else s.g :: rest }
    | none => s

/-- The core, cluster and die numbers of a slot within its package, and a core's number in the pod. -/
def coreIx (c : Coords) : Nat := ((c.pkg * 4 + c.die) * 16 + c.cluster) * 4 + c.core
/-- A cluster's number in the pod. -/
def clIx (c : Coords) : Nat := (c.pkg * 4 + c.die) * 16 + c.cluster
/-- A die's number in the pod. -/
def dieIx (c : Coords) : Nat := c.pkg * 4 + c.die
/-- Whether two slots lie in one unit of level `l` (R14). -/
def sameUnit (l : Nat) (a b : Coords) : Bool :=
  if l = 0 then a = b else if l = 1 then coreIx a = coreIx b else if l = 2 then clIx a = clIx b
  else if l = 3 then dieIx a = dieIx b else if l = 4 then a.pkg = b.pkg else true
/-- The unit of level `l` that contains a slot, with every lower coordinate 0. -/
def unitOf (l : Nat) (c : Coords) : Coords :=
  if l = 0 then c else if l = 1 then { c with slot := 0 } else if l = 2 then { c with slot := 0, core := 0 }
  else if l = 3 then { c with slot := 0, core := 0, cluster := 0 }
  else if l = 4 then { c with slot := 0, core := 0, cluster := 0, die := 0 } else ⟨0, 0, 0, 0, 0⟩

/-- The next choice of the implementation where the manual leaves one (00 R8, log 4). -/
def pick (s : State) : Nat × State :=
  match s.picks with
  | [] => (0, s)
  | n :: r => (n, { s with picks := r })
/-- Draw a free 32-bit value (log 6). -/
def drawWord (s : State) : W32 × State := (Config.freeWord s.fresh, { s with fresh := s.fresh + 1 })

/-- The other ready path of highest age, the lowest index among equals (R99). -/
def readyBest (g : Gang) : Option (Fin 16) :=
  ((List.finRange 16).filter (fun i => i ≠ g.act && (g.paths[i]).state = .ready)).foldl
    (fun b i => match b with
      | none => some i
      | some j => if (g.paths[j]).age < (g.paths[i]).age then some i else some j) none
/-- Path `i` becomes active with age 0. R100 says so of a takeover by ageing alone; that the path which becomes active where another
parks, ends or blocks starts with age 0 too is the model's choice (DESIGN CHOICE, log 28). -/
def activate (i : Fin 16) (g : Gang) : Gang :=
  { g with act := i, paths := g.paths.set i { g.paths[i] with age := 0 } }
/-- Whether the active path can give way: another one is ready, and no handler runs, in which the others issue nothing (R99, R123,
18 R477). -/
def canGiveWay (g : Gang) : Bool := !g.inh && (readyBest g).isSome
/-- The active path gives way to the best ready path, if it can, and stays ready with age 0, as R314 says of `yield.path`, which acts as a
blocked path (R99; that it holds of every blocked one is a DESIGN CHOICE, log 28); the first instruction of the other issues no earlier
than 4 cycles after the gang's previous one (16 R426). -/
def giveWay (g : Gang) : Gang :=
  match g.inh, readyBest g with
  | false, some i => { activate i (setPath g { path g with age := 0 }) with notBefore := max g.notBefore (g.lastIssue + 4) }
  | _, _ => g
/-- The ready path of highest age, the lowest index among equals, when the active path has parked or ended (R99). -/
def bestReady (g : Gang) : Option (Fin 16) :=
  ((List.finRange 16).filter (fun i => (g.paths[i]).state = .ready)).foldl
    (fun b i => match b with
      | none => some i
      | some j => if (g.paths[j]).age < (g.paths[i]).age then some i else some j) none
/-- The active path has parked or ended: the best ready path becomes active (R99), with the cost of 16 R426. In a handler none does
(R123, log 28). -/
def takeOver (g : Gang) : Gang :=
  match g.inh, bestReady g with
  | false, some i => { activate i g with notBefore := max g.notBefore (g.lastIssue + 4) }
  | _, _ => g
/-- The ages of the paths that an instruction has aged by its issue fall back (R100). -/
def unAge (m : BitVec 16) (g : Gang) : Gang :=
  { g with paths := ⟨((List.finRange 16).map (fun (i : Fin 16) =>
    let e := g.paths[i]
    if m.getLsbD i then { e with age := e.age - 1 } else e)).toArray, by simp⟩ }
/-- An instruction that must wait at its start has not issued: no path has aged, it is not counted, it keeps no issue slot of its
core, it leaves no hint and no address check behind, the distance of the next one counts from the one before, and the boundary at which a
path may have taken over is the same (R99, R100, R105, R109, R111, 12 R362). -/
def unissue (s : State) : State :=
  { s with
    g := { unAge s.iss.aged s.g with
      icount := s.iss.count, lastIssue := s.iss.last, notBefore := s.iss.notBefore, memHold := s.iss.memHold, tookOver := s.iss.took }
    slots := s.iss.slots }
/-- The instruction blocks and restarts when its path next issues; another path goes on, if one can (R99). One that has found its own
wait unmet in this cycle already tries again in a later one. -/
def block (s : State) : State :=
  let t := unissue s
  let h := giveWay { t.g with tried := t.g.tried ||| (1#16 <<< t.g.act.val) }
  { t with g := { h with blocked := !canGiveWay t.g || h.tried.getLsbD h.act.val } }
/-- The instruction waits at its start, and no path gives way: a full entry table, a full granary queue, a full store-fault queue
(R124, 07 R227, 18 R479). -/
def stall (s : State) : State :=
  let t := unissue s
  { t with g := { t.g with blocked := true } }

/-- The record of job `j` on package `p`. -/
def jobOn (s : State) (p j : Nat) : Option Job := s.jobs.find? (fun x => x.pkg = p && x.id = j)
/-- Word `i` of the job record that serves gang `g` (17 R454). -/
def jobWord (s : State) (g : Gang) (i : Nat) : Word :=
  match jobOn s g.at_.pkg g.job with
  | some j => (j.words[i]?).getD 0
  | none => 0
/-- The widest level of a gang's job (17 R454). -/
def wideOf (s : State) (g : Gang) : Nat := fld (jobWord s g 0) 10 8

/-- Where `State.code` holds the mark of a code address of a job on a package. -/
def codeKey (pkg job a : Nat) : Nat := (pkg * 2 ^ 16 + job) * 2 ^ 56 + a
/-- The mark of a code address of a gang's job: 1 a clause header, 2 a body word, 3 a J word, 0 no finalised word
(16 R444). -/
def codeMark (s : State) (g : Gang) (a : Word) : Nat :=
  if a.toNat < 2 ^ 56 then cget 0 s.code (codeKey g.at_.pkg g.job a.toNat) else 0

/-- The launches of a set together with every launch issued beneath them (02 R85). -/
def subtree (ls : List Launch) : Nat → List Nat → List Nat
  | 0, ids => ids
  | fuel + 1, ids =>
    subtree ls fuel (ids ++ (ls.filter (fun l => match l.parent with
      | some p => ids.contains p && !ids.contains l.id
      | none => false)).map (·.id))
/-- Whether a child of a launch has still to start or to complete. -/
def Child.isOpen : Child → Bool
  | .waiting | .running _ => true
  | .done | .failed _ _ => false
/-- A launch's failed children: index, cause and origin, in ascending index (02 R62). -/
def failures (l : Launch) : List (Nat × Nat × Nat) :=
  (l.children.zip (List.range l.children.length)).filterMap (fun p => match p.1 with
    | .failed c o => some (p.2, c, o)
    | .waiting | .running _ | .done => none)
/-- The first failure of a child whose leader has ended (02 R63): its own, then those of the launches it issued in their order. -/
def childFate (s : State) (g : Gang) : Child :=
  match g.fail with
  | some (c, o) => .failed c o
  | none =>
    match (s.launches.filter (fun l => (l.issuer.map (·.1)) = some g.uid)).findSome? (fun l => (failures l).head?) with
    | some (_, c, o) => .failed c o
    | none => .done
/-- Launches leave the list: one that was issued beneath them stands beneath the launch above them from now on (02 R85). -/
def reparent (gone : List Launch) (l : Launch) : Launch :=
  match gone.find? (fun x => l.parent = some x.id) with
  | some x => { l with parent := x.parent, parentChild := x.parentChild }
  | none => l
/-- A child completes (02 R59, 01 R42): its leader has ended, every launch that the leader issued has completed, and so have its copies,
which outlast a gang that a Save has taken away (18 R486). Its scratch window is released, in its place or in a save image. -/
def closeChild (uid : Nat) (s : State) : State :=
  match gangOf s uid with
  | none => s
  | some g =>
    let mine (l : Launch) : Bool := (l.issuer.map (·.1)) = some uid
    if g.phase ≠ .ended || s.launches.any (fun l => mine l && !l.completed) || s.carts.any (fun c => c.uid = uid) then s
    else
      let sub := (uid, g.at_, g.own) :: (s.launches.filter mine).flatMap (·.sub)
      let fate := childFate s g
      let rest := (s.launches.filter (fun l => !mine l)).map (reparent (s.launches.filter mine))
      let own (w : Scratch) : Bool := w.launch = g.launch && w.child = g.child
      let close (x : Launch) : Launch := { x with children := x.children.set g.child fate, sub := x.sub ++ sub }
      { s with
        g := if s.g.uid = uid then {} else s.g
        others := s.others.filter (fun h => h.uid ≠ uid)
        scratch := s.scratch.filter (fun w => !own w)
        images := s.images.map (fun i => { i with spad := i.spad.filter (fun w => !own w.1) })
        launches := upd (fun x => x.id = g.launch) close rest }
/-- A gang that has left its slot without ending by itself: a cancel reached it in a save image, or a reset stopped it (18 R488, R490). It
fails with `f` if it ran, and its child completes with the launches that it issued (02 R59). -/
def deadGang (f : Nat × Nat) (g : Gang) : Gang :=
  { g with
    phase := .ended
    fail := match g.fail with
      | some x => some x
      | none => if g.phase = .running then some f else none
    paths := Vector.replicate 16 {}, act := 0, hold := .none, blocked := false, stopping := false, drainFlags := false, blocks := 0
    pend := [], deferred := [], inflight := [], flags := Vector.replicate 12 0 }
/-- The children of dead gangs complete, the records of their completed launches free (02 R55, R59). -/
def closeDead (us : List Nat) (s : State) : State :=
  let done (l : Launch) : Bool := l.completed && (l.issuer.map (fun i => us.contains i.1)).getD false
  us.foldl (fun s u => closeChild u s) { s with launches := upd done (fun l => { l with record := false }) s.launches }

/-- A launch is cancelled (02 R85, R87): its children that have not started fail as cancelled. -/
def cancelOne (l : Launch) : Launch :=
  if l.completed then l
  else { l with
    cancelled := true
    children := l.children.map (fun c => match c with
      | .waiting => .failed cCancelled (l.level - 1)
      | .running u => .running u
      | .done => .done
      | .failed a b => .failed a b) }
/-- A gang that waits in `rget`, `lnch`, `bar`, a queue instruction or a tile's order is interrupted at the start of that instruction, with no
effect left behind (R99, 02 R56, R70, 08 R258, 13 R398). -/
def dropWaits (uid : Nat) (s : State) : State :=
  { s with
    rgetQ := s.rgetQ.filter (fun k => k.uid ≠ uid)
    poolQ := s.poolQ.filter (fun k => k.uid ≠ uid)
    qwaits := s.qwaits.filter (fun k => k.uid ≠ uid)
    tickets := s.tickets.filter (fun k => k.uid ≠ uid)
    launches := s.launches.map (fun l => { l with arrived := l.arrived.filter (fun u => u ≠ uid) }) }

/-- Whether a cancel finds something of a launch's subtree to stop: a child that has not started, or a leader that runs, in its slot
or in a save image. A launch that has not completed but whose leaders have all exited completes as it would have, its bit 48 clear, also where
a child of it has failed by itself: 02 R62 and R87 do not say whether such a launch counts as cancelled (DESIGN CHOICE, log 50). -/
def stoppable (s : State) (saved : List Gang) (l : Launch) : Bool :=
  let ids := subtree s.launches s.launches.length [l.id]
  (s.launches.filter (fun x => ids.contains x.id && !x.completed)).any (fun x => x.children.any (fun c => match c with
    | .waiting => true
    | .running u => ((gangOf s u).map (fun g => decide (g.phase = .running))).getD false || saved.any (fun g => g.uid = u && g.phase = .running)
    | .done | .failed _ _ => false))
/-- CANCEL of a set of launches and all beneath them (02 R85 to R88): no further child starts, no instruction of theirs that waits is
served any more, every running gang stops at its next instruction boundary, one that has ended and drains is marked for its engine operations
(07 R239), and a saved gang never resumes and leaves its launch at once (18 R490). -/
def cancelLaunches (ids0 : List Nat) (s : State) : State :=
  let ids := subtree s.launches s.launches.length ids0
  let hit (g : Gang) : Bool := ids.contains g.launch
  let saved := s.images.flatMap (fun i => i.gangs.filter (fun g => hit g && !i.stopped.contains g.uid))
  let marked (l : Launch) : Bool := ids.contains l.id && !l.completed && stoppable s saved l
  let live := (gangs s).filter (fun g => g.phase = .running && hit g)
  let t := live.foldl (fun t g => dropWaits g.uid t)
    { s with launches := s.launches.map (fun l => if marked l then cancelOne l else l) }
  let change (g : Gang) : Gang := if inSlot g && hit g then { g with cancelled := true, stopping := false } else g
  let u := onGangs change t
  closeDead (saved.map (·.uid)) { u with
    others := u.others ++ saved.map (fun g => deadGang (cCancelled, g.level) g)
    images := s.images.map (fun i => { i with
      stopped := i.stopped ++ ((i.gangs.filter (fun g => hit g && !i.stopped.contains g.uid))).map (·.uid) }) }
/-- Whether the job with identifier `job` on package `p` is the one on package `q`: the same package, or a job that spans
packages (17 R454). -/
def sameJob (s : State) (job p q : Nat) : Bool :=
  p = q ||
    match jobOn s p job, jobOn s q job with
    | some a, some b => fld ((a.words[0]?).getD 0) 10 8 = 5 && fld ((b.words[0]?).getD 0) 10 8 = 5
    | _, _ => false
/-- Cancel every launch of a job, and of one graph of it where one is named, with its queued records (02 R85). A graph
belongs to the package it was created on. -/
def cancelWhole (pkg job : Nat) (graph : Option Nat) (s : State) : State :=
  let hit (p gr : Nat) : Bool := match graph with
    | some k => k = gr && p = pkg
    | none => sameJob s job pkg p
  let roots := (s.launches.filter (fun l => l.job = job && hit l.pkg l.graph)).map (·.id)
  { cancelLaunches roots s with
    queues := upd (fun q => q.job = job)
      (fun q => { q with recs := upd (fun r => hit q.pkg r.graph) (fun r => { r with cancelled := true }) q.recs }) s.queues }
/-- Queue a message for the session that owns a job, or hold it; an overflow of the held ones cancels the job
(17 R451). -/
def sendMessage (pkg : Nat) (m : Message) (s : State) : State :=
  match jobOn s pkg m.job with
  | none => s
  | some j =>
    match j.sess with
    | some (p, n) => { s with out := s.out ++ [.message p n m] }
    | none =>
      if j.heldMsgs.length < Config.heldCompletions then
        { s with jobs := upd (fun x => x.pkg = pkg && x.id = m.job) (fun x => { x with heldMsgs := x.heldMsgs ++ [m] }) s.jobs }
      else cancelWhole pkg m.job none s
/-- Word 2 of a trap notice (18 R478). -/
def coordWord (c : Coords) : Word := wd (c.pkg * 2 ^ 32 + c.die * 2 ^ 24 + c.cluster * 2 ^ 16 + c.core * 2 ^ 8 + c.slot)

/-- The gang stops issuing and starts to drain; it fails with `f` unless it fails already (R311, 02 R63). Its extended blocks return to the pool
now, before its replies and engine operations have drained: R311 lists the release behind the drains and fixes no moment for it (DESIGN
CHOICE, log 35). -/
def endGang (f : Option (Nat × Nat)) (g : Gang) : Gang :=
  { g with
    phase := .draining
    fail := match g.fail with
      | some x => some x
      | none => f
    paths := Vector.replicate 16 {}
    act := 0
    hold := .none
    blocked := false
    drainFlags := false
    blocks := 0 }

/-- The launch with number `l`. Each launch carries the package, graph, launch number and queue of its tree's root launch. -/
def launchOf (s : State) (l : Nat) : Option Launch := s.launches.find? (fun x => x.id = l)

/-- The trap notice of gang `g` for a cause (18 R478). -/
def notice (s : State) (g : Gang) (cause : Nat) : Message :=
  let r := launchOf s g.launch
  let gr := (r.map (·.graph)).getD 0
  let q := (r.map (·.queue)).getD 0
  let n := (r.map (·.number)).getD 0
  { job := g.job, notice := true, graph := gr, number := n
    words := [wd (g.job * 2 ^ 48 + gr * 2 ^ 32 + q * 2 ^ 16), wd n, coordWord g.at_, wd cause,
              g.xpc, g.xaddr, g.xinfo, g.xmask.setWidth 64] }

/-- The trap registers of a trap on the active path (R317, 18 R474, R475). -/
def trapRegs (t : Trap) (xpc : Word) (g : Gang) : Gang :=
  { g with xcause := BitVec.ofNat 8 t.cause, xaddr := t.addr, xinfo := t.info, xpc := xpc, xmask := (path g).lanes }

/-- A trap escalates: the gang ends and fails with the cause, and the device sends a notice (18 R478). -/
def escalate (t : Trap) (xpc : Word) (s : State) : State :=
  let g := trapRegs t xpc s.g
  sendMessage g.at_.pkg (notice s g t.cause)
    { s with g := endGang (some (t.cause, g.level)) g }

/-- TAKING A TRAP, once for every cause (R110, R317, R318, 18 R474 to R478): the trap registers are set, `%xctl`.inh
becomes 1 and the trapping path continues at `%xvec`, where the handler waits for every flag and every result on its way (11
R333); with inh already 1 or
`%xvec` 0 the trap escalates, and a `%xvec` that is no clause header escalates as bad-target. What the gang's other paths wait for is given up too, a place in a
pool's order among it: the manual speaks of pre-emption alone (02 R56; DESIGN CHOICE, log 29). -/
def enterTrap (t : Trap) (xpc : Word) (s : State) : State :=
  let s := dropWaits s.g.uid s
  if s.g.inh || s.g.xvec = 0 then escalate t xpc s
  else if codeMark s s.g s.g.xvec ≠ 1 then escalate ⟨cBadTarget, s.g.xvec, 0⟩ xpc s
  else
    let g := trapRegs t xpc s.g
    let h := { g with inh := true, drainFlags := true, notBefore := max (lastDue g) (max g.notBefore (s.cycle + 4)) }
    { s with g := setPath h { path g with pc := g.xvec } }

/-- A trap at the issuing instruction (18 R475). -/
def raise (t : Trap) (s : State) : State := enterTrap t (pcOf s) s
/-- Raise the trap if there is one; else go on. -/
def orTrap (t : Option Trap) (k : State → State) (s : State) : State :=
  match t with
  | some t => raise t s
  | none => k s

/-- An illegal-instruction trap at an instruction word (18 R474). -/
def illegal (w : W32) (s : State) : State := raise ⟨cIllegal, pcOf s, w.setWidth 64⟩ s

/-- RETURN FROM A TRAP, beside its entry (R317): inh becomes 0, `%xcause` the explicit-termination code, and the path
continues at `%xpc` with its `%exec` as it stands. -/
def leaveTrap (s : State) : State :=
  let g := { s.g with inh := false, xcause := 0x40 }
  { s with g := setPath g { path g with pc := g.xpc } }

end Sys2Proof.Machine
end

