-- ==== Sys2Proof/Machine/Flags.lean ====
section
/-! DEFINITION. The sticky flags, rounding modes and number formats (05 R162 to R186): exact values as rationals, one
rounding function for every format and mode, and the special values. -/

namespace Sys2Proof.Machine

/-- Sticky flags of `%fpcsr` [5:0] (05 R171): invalid, divide by zero, overflow, underflow, inexact, saturation. -/
abbrev Fl := BitVec 6
abbrev fIV : Fl := 1
abbrev fDZ : Fl := 2
abbrev fOF : Fl := 4
abbrev fUF : Fl := 8
abbrev fNX : Fl := 16
abbrev fSA : Fl := 32

/-- The rounding modes of R171 and R176. -/
inductive Rnd where
  | rne | rtz | rdn | rup | sr
deriving DecidableEq, Repr

/-- rm of `%fpcsr` (R171); the reserved codes are never stored (R172). -/
def rmOf (csr : W32) : Rnd :=
  match (csr.extractLsb' 8 3).toNat with
  | 1 => .rtz
  | 2 => .rdn
  | 3 => .rup
  | 4 => .sr
  | _ => .rne
/-- ftz of `%fpcsr`. -/
def ftzOf (csr : W32) : Bool := csr.getLsbD 12
/-- sat of `%fpcsr`. -/
def satOf (csr : W32) : Bool := csr.getLsbD 13
/-- The mode that an encoding names (R175, 11 R349). -/
def rndSel (csr : W32) : RndSel → Rnd
  | .rne => .rne
  | .rtz => .rtz
  | .rdn => .rdn
  | .rup => .rup
  | .sr => .sr
  | .dyn => rmOf csr

/-- A decoded number: a NaN (signalling or quiet), an infinity, or sign and exact magnitude num / den. -/
inductive FVal where
  | nan (sig : Bool)
  | inf (neg : Bool)
  | fin (neg : Bool) (num den : Nat)
deriving DecidableEq, Repr

/-- How a format answers an overflow (R180): IEEE, the E4M3 rule, or a clamp. -/
inductive OvfKind where
  | ieee | e4m3 | clamp
deriving DecidableEq, Repr

/-- A floating-point format of R163, or a 4-bit float type of R168 read as one (R169): mantissa bits, least normal
exponent, largest finite magnitude code, sign bit position, infinity and NaN codes, overflow rule, and whether −0 has a
code. -/
structure Fmt where
  m : Nat
  emin : Int
  maxCode : Nat
  signBit : Nat
  inf : Option Nat
  nan : Option Nat
  ovf : OvfKind
  negZero : Bool
deriving DecidableEq, Repr

/-- The formats of R163. -/
def fFP32 : Fmt := ⟨23, -126, 0x7F7FFFFF, 31, some 0x7F800000, some 0x7FC00000, .ieee, true⟩
def fFP16 : Fmt := ⟨10, -14, 0x7BFF, 15, some 0x7C00, some 0x7E00, .ieee, true⟩
def fBF16 : Fmt := ⟨7, -126, 0x7F7F, 15, some 0x7F80, some 0x7FC0, .ieee, true⟩
def fE4M3 : Fmt := ⟨3, -6, 0x7E, 7, none, some 0x7F, .e4m3, true⟩
def fE5M2 : Fmt := ⟨2, -14, 0x7B, 7, some 0x7C, some 0x7E, .ieee, true⟩
def fE3M2 : Fmt := ⟨2, -2, 0x1F, 5, none, none, .clamp, true⟩
def fE2M3 : Fmt := ⟨3, 0, 0x1F, 5, none, none, .clamp, true⟩
/-- The 4-bit float types of R168 and R169 before scaling. -/
def fE2M1 : Fmt := ⟨1, 0, 7, 3, none, none, .clamp, false⟩
def fPOW2 : Fmt := ⟨0, -3, 7, 3, none, none, .clamp, false⟩
def fHYB : Fmt := ⟨1, 1, 7, 3, none, none, .clamp, false⟩

/-- num / den scaled by 2^q as a pair. -/
def scale2 (n d : Nat) (q : Int) : Nat × Nat :=
  match q with
  | .ofNat k => (n * 2 ^ k, d)
  | .negSucc k => (n, d * 2 ^ (k + 1))
/-- floor(log2 (n / d)) of a positive rational. -/
def flog2 (n d : Nat) : Int :=
  let e : Int := (Nat.log2 n : Int) - (Nat.log2 d : Int)
  let p := scale2 d 1 e
  if n * p.2 < p.1 then e - 1 else e

/-- Whether the candidate of larger magnitude is taken (R176, R177): `r` / `d` is the fraction between the candidates,
`odd` the parity of the smaller one's code, `g` the 16 generator bits. -/
def roundUp (mode : Rnd) (neg odd : Bool) (g r d : Nat) : Bool :=
  if r = 0 then false
  else match mode with
    | .rne => d < 2 * r || (d = 2 * r && odd)
    | .rtz => false
    | .rdn => neg
    | .rup => !neg
    | .sr => 2 ^ 16 ≤ r * 2 ^ 16 / d + g

/-- The magnitude code of n / d in a format, unbounded above, with whether it is inexact (R176, R177). -/
def roundMag (f : Fmt) (mode : Rnd) (neg : Bool) (g n d : Nat) : Nat × Bool :=
  if n = 0 then (0, false)
  else
    let e := flog2 n d
    let e := if e < f.emin then f.emin else e
    let q := e - f.m
    let p := scale2 n d (-q)
    let u := p.1 / p.2
    let r := p.1 % p.2
    let c := (e - f.emin).toNat * 2 ^ f.m + u
    (if roundUp mode neg (c % 2 = 1) g r p.2 then c + 1 else c, r ≠ 0)

/-- Whether n / d is below the smallest normal magnitude of a format (R184). -/
def isTiny (f : Fmt) (n d : Nat) : Bool :=
  let p := scale2 1 1 f.emin
  n * p.2 < p.1 * d
/-- Whether n / d is above the largest finite magnitude of a format (R177). -/
def beyond (f : Fmt) (n d : Nat) : Bool :=
  let e := f.maxCode / 2 ^ f.m
  let u := if e = 0 then f.maxCode else f.maxCode % 2 ^ f.m + 2 ^ f.m
  let p := scale2 u 1 (f.emin + ((e - 1 : Nat) : Int) - f.m)
  p.1 * d < n * p.2

/-- A magnitude code with its sign. -/
def withSign (f : Fmt) (neg : Bool) (c : Nat) : Nat :=
  if neg && (f.negZero || c ≠ 0) then c + 2 ^ f.signBit else c

/-- round_to a floating-point format (00 R12, R176 to R181, R184): the code and its flags. `conv` says that sat governs
(conversions); otherwise overflow follows the FP32 row. -/
def roundTo (f : Fmt) (mode : Rnd) (g : Nat) (conv sat : Bool) (x : FVal) : Nat × Fl :=
  match x with
  | .nan sig =>
    match f.nan with
    | some c => (c, if sig then fIV else 0)
    | none => (0, fIV)
  | .inf neg =>
    match f.inf with
    | some c => (withSign f neg c, 0)
    | none =>
      match f.ovf with
      | .e4m3 => if sat then (withSign f neg f.maxCode, fSA) else (f.nan.getD 0, fIV)
      | .ieee | .clamp => (withSign f neg f.maxCode, fSA)
  | .fin neg n d =>
    let mode := if mode = .sr && beyond f n d then .rne else mode
    let (c, ix) := roundMag f mode neg g n d
    if c ≤ f.maxCode then
      (withSign f neg c, (if ix then fNX else 0) ||| (if ix && isTiny f n d then fUF else 0))
    else
      match f.ovf with
      | .clamp => (withSign f neg f.maxCode, fSA ||| fNX)
      | .e4m3 => if sat then (withSign f neg f.maxCode, fSA ||| fNX) else (f.nan.getD 0, fOF ||| fNX)
      | .ieee =>
        if conv && sat && f.signBit ≠ 31 then (withSign f neg f.maxCode, fSA ||| fNX)
        else
          let toMax := match mode with
            | .rtz => true
            | .rdn => !neg
            | .rup => neg
            | .rne | .sr => false
          (withSign f neg (if toMax then f.maxCode else f.inf.getD 0), fOF ||| fNX)

/-- The exact value of a magnitude code. -/
def magVal (f : Fmt) (c : Nat) : Nat × Nat :=
  let e := c / 2 ^ f.m
  let u := if e = 0 then c else c % 2 ^ f.m + 2 ^ f.m
  scale2 u 1 (f.emin + ((e - 1 : Nat) : Int) - f.m)
/-- The value of a code of a format (R162 to R164). -/
def decodeF (f : Fmt) (code : Nat) : FVal :=
  let neg := code / 2 ^ f.signBit % 2 = 1
  let c := code % 2 ^ f.signBit
  if c ≤ f.maxCode then .fin neg (magVal f c).1 (magVal f c).2
  else if f.inf = some c then .inf neg
  else .nan (f.signBit ≠ 7 && c / 2 ^ (f.m - 1) % 2 = 0)

/-- The largest magnitude of an integer target for R177: that of the bound on the input's side of zero, where the target has one (DESIGN
CHOICE, log 51: the manual names one largest magnitude, and a signed target has two). -/
def intReach (lo hi : Int) (neg : Bool) : Nat := if neg && lo < 0 then lo.natAbs else hi.natAbs
/-- An integer target of R180: least and largest value. -/
def roundInt (lo hi : Int) (mode : Rnd) (g : Nat) (x : FVal) : Int × Fl :=
  match x with
  | .nan _ => (0, fIV)
  | .inf neg => (if neg then lo else hi, fSA)
  | .fin neg n d =>
    let mode := if mode = .sr && intReach lo hi neg * d < n then .rne else mode
    let u := n / d
    let r := n % d
    let a := if roundUp mode neg (u % 2 = 1) g r d then u + 1 else u
    let v : Int := if neg then -(a : Int) else a
    if v < lo then (lo, fSA ||| fNX)
    else if hi < v then (hi, fSA ||| fNX)
    else (v, if r = 0 then 0 else fNX)

/-- An integer as a value. -/
def intVal (i : Int) : FVal := .fin (i < 0) i.natAbs 1
/-- The value of a 4-bit code by type (R168), before scaling. -/
def decodeF4 (t : F4Type) (c : Nat) : FVal :=
  match t with
  | .int => intVal (if c < 8 then c else (c : Int) - 16)
  | .e2m1 => if c = 8 then .fin false 0 1 else decodeF fE2M1 c
  | .pow2 => if c = 8 then .fin false 0 1 else decodeF fPOW2 c
  | .hyb => if c = 8 then .fin false 0 1 else decodeF fHYB c
/-- The 4-bit code of a value by type (R169, R176, R180). -/
def roundF4 (t : F4Type) (mode : Rnd) (g : Nat) (sat : Bool) (x : FVal) : Nat × Fl :=
  match t with
  | .int => let r := roundInt (-8) 7 mode g x; ((r.1 % 16).toNat, r.2)
  | .e2m1 => roundTo fE2M1 mode g true sat x
  | .pow2 => roundTo fPOW2 mode g true sat x
  | .hyb => roundTo fHYB mode g true sat x

/-- A value times 2^k. -/
def scaleVal (x : FVal) (k : Int) : FVal :=
  match x with
  | .fin neg n d => let p := scale2 n d k; .fin neg p.1 p.2
  | .nan s => .nan s
  | .inf s => .inf s
/-- The opposite value. -/
def negVal : FVal → FVal
  | .nan s => .nan s
  | .inf s => .inf !s
  | .fin s n d => .fin (!s) n d
/-- The exact product, with its flags (R345). -/
def mulVal (x y : FVal) : FVal × Fl :=
  match x, y with
  | .nan a, .nan b => (.nan false, if a || b then fIV else 0)
  | .nan a, _ => (.nan false, if a then fIV else 0)
  | _, .nan b => (.nan false, if b then fIV else 0)
  | .inf a, .inf b => (.inf (a != b), 0)
  | .inf a, .fin b n _ => if n = 0 then (.nan false, fIV) else (.inf (a != b), 0)
  | .fin a n _, .inf b => if n = 0 then (.nan false, fIV) else (.inf (a != b), 0)
  | .fin a n d, .fin b m e => (.fin (a != b) (n * m) (d * e), 0)

/-- A signed rational sum over a common denominator. -/
def addQ (a : Int × Nat) (b : Int × Nat) : Int × Nat :=
  if a.2 = b.2 then (a.1 + b.1, a.2)
  else if a.2 % b.2 = 0 then (a.1 + b.1 * ((a.2 / b.2 : Nat) : Int), a.2)
  else if b.2 % a.2 = 0 then (a.1 * ((b.2 / a.2 : Nat) : Int) + b.1, b.2)
  else (a.1 * (b.2 : Int) + b.1 * (a.2 : Int), a.2 * b.2)
/-- A finite value as a signed rational; 0 for the others. -/
def toQ : FVal → Int × Nat
  | .fin neg n d => (if neg then -(n : Int) else n, d)
  | .nan _ => (0, 1)
  | .inf _ => (0, 1)
/-- Whether a value is a NaN. -/
def FVal.isNan : FVal → Bool
  | .nan _ => true
  | .inf _ | .fin _ _ _ => false
/-- Whether a value is a signalling NaN. -/
def FVal.isSig : FVal → Bool
  | .nan s => s
  | .inf _ | .fin _ _ _ => false
/-- Whether a value is an infinity of sign `neg`. -/
def FVal.isInf (neg : Bool) : FVal → Bool
  | .inf s => s = neg
  | .nan _ | .fin _ _ _ => false
/-- The sign of a value. -/
def FVal.neg : FVal → Bool
  | .nan _ => false
  | .inf s => s
  | .fin s _ _ => s
/-- Whether a sum from left to right adds infinities of both signs before it meets a NaN: one of its sums is then invalid (R345,
R355). -/
def infClash (xs : List FVal) : Bool :=
  let pre := xs.takeWhile (fun x => !x.isNan)
  pre.any (FVal.isInf true) && pre.any (FVal.isInf false)
/-- The exact sum of a list, with its flags (R345): ∞ − ∞ is invalid, and an exact zero sum of values that do not all
carry one sign is +0, or −0 under RDN. -/
def sumVal (mode : Rnd) (xs : List FVal) : FVal × Fl :=
  if xs.any FVal.isNan || infClash xs then (.nan false, if xs.any FVal.isSig || infClash xs then fIV else 0)
  else if xs.any (FVal.isInf true) then (.inf true, 0)
  else if xs.any (FVal.isInf false) then (.inf false, 0)
  else
    let q := xs.foldl (fun a x => addQ a (toQ x)) (0, 1)
    if q.1 = 0 then
      (.fin (if xs.all FVal.neg && !xs.isEmpty then true else if xs.all (fun x => !x.neg) then false else mode = .rdn) 0 1, 0)
    else (.fin (q.1 < 0) q.1.natAbs q.2, 0)

/-- An FP32 operand: a denormal reads as zero of its sign when ftz is 1 (R183). -/
def operand32 (ftz : Bool) (a : W32) : FVal :=
  match decodeF fFP32 a.toNat with
  | .fin neg n d => if ftz && a.toNat % 2 ^ 31 < 2 ^ 23 then .fin neg 0 1 else .fin neg n d
  | .nan s => .nan s
  | .inf s => .inf s
/-- An FP32 result: a denormal becomes zero of its sign with uf and nx when ftz is 1 (R183). -/
def result32 (ftz : Bool) (mode : Rnd) (g : Nat) (x : FVal) : W32 × Fl :=
  let r := roundTo fFP32 mode g false false x
  if ftz && 0 < r.1 % 2 ^ 31 && r.1 % 2 ^ 31 < 2 ^ 23 then (w32 (r.1 / 2 ^ 31 * 2 ^ 31), r.2 ||| fUF ||| fNX)
  else (w32 r.1, r.2)
/-- An FP32 sum rounded RNE, denormals kept (R190 to R192). -/
def addRne (a b : W32) : W32 × Fl :=
  let s := sumVal .rne [decodeF fFP32 a.toNat, decodeF fFP32 b.toNat]
  let r := result32 false .rne 0 s.1
  (r.1, s.2 ||| r.2)
/-- Compare two values that are no NaN: whether x < y as numbers. -/
def ltVal (x y : FVal) : Bool :=
  match x, y with
  | .inf a, .inf b => a && !b
  | .inf a, _ => a
  | _, .inf b => !b
  | _, _ => (toQ x).1 * ((toQ y).2 : Int) < (toQ y).1 * ((toQ x).2 : Int)
/-- Whether two values that are no NaN are equal as numbers. -/
def eqVal (x y : FVal) : Bool := !ltVal x y && !ltVal y x
/-- Whether x orders below y with −0 below +0 (11 R346). -/
def belowVal (x y : FVal) : Bool := ltVal x y || (eqVal x y && x.neg && !y.neg)
/-- `fminmax` on codes of a format (11 R346): `x` and `y` are the codes after any flush. -/
def fminmaxF (f : Fmt) (m : FMinMaxOp) (x y : Nat) : Nat × Fl :=
  let a := decodeF f x
  let b := decodeF f y
  let iv : Fl := if a.isSig || b.isSig then fIV else 0
  let c := f.nan.getD 0
  let pickMin := if belowVal b a then y else x
  let pickMax := if belowVal a b then y else x
  (match m with
   | .min => if a.isNan && b.isNan then c else if a.isNan then y else if b.isNan then x else pickMin
   | .max => if a.isNan && b.isNan then c else if a.isNan then y else if b.isNan then x else pickMax
   | .minp => if a.isNan || b.isNan then c else pickMin
   | .maxp => if a.isNan || b.isNan then c else pickMax, iv)

/-- One level of a balanced pairwise tree, the odd last element carried up (00 R12). -/
def pairUp {α : Type} (op : α → α → α × Fl) : List α → List α × Fl
  | a :: b :: r =>
    let p := op a b
    let q := pairUp op r
    (p.1 :: q.1, p.2 ||| q.2)
  | l => (l, 0)
/-- A balanced pairwise tree in index order (00 R12), `fuel` levels high at most. -/
def pairTree {α : Type} (op : α → α → α × Fl) : Nat → List α → List α × Fl
  | 0, l => (l, 0)
  | n + 1, l =>
    if l.length ≤ 1 then (l, 0)
    else
      let p := pairUp op l
      let q := pairTree op n p.1
      (q.1, p.2 ||| q.2)
/-- The sum of two codes of a format rounded RNE, as arithmetic. -/
def addF (f : Fmt) (a b : Nat) : Nat × Fl :=
  let s := sumVal .rne [decodeF f a, decodeF f b]
  let r := roundTo f .rne 0 false false s.1
  (r.1, s.2 ||| r.2)
/-- A lone value of a list: a NaN becomes canonical (00 R12). -/
def loneF (f : Fmt) (a : Nat) : Nat := if (decodeF f a).isNan then f.nan.getD 0 else a
/-- pairwise_sum of codes of a format (00 R12); +0 for no value. -/
def pairwiseSum (f : Fmt) (l : List Nat) : Nat × Fl :=
  let iv : Fl := if l.any (fun a => (decodeF f a).isSig) then fIV else 0
  let t := pairTree (addF f) l.length l
  (loneF f (t.1.headD 0), t.2 ||| iv)
/-- Minimum or maximum of codes over the same tree (02 R76, 11 R343). -/
def pairwiseMinMax (f : Fmt) (m : FMinMaxOp) (l : List Nat) : Nat × Fl :=
  let iv : Fl := if l.any (fun a => (decodeF f a).isSig) then fIV else 0
  let t := pairTree (fminmaxF f m) l.length l
  (loneF f (t.1.headD 0), t.2 ||| iv)

/-- Rotate a 32-bit value left. -/
def rotl32 (v : W32) (c : Nat) : W32 := v.rotateLeft c
/-- One round of CG10 (R187): the four words, the two keys and the round number. -/
def cg10Round (x0 x1 x2 x3 k0 k1 : W32) (r : Nat) : (W32 × W32 × W32 × W32) × (W32 × W32) :=
  let p : Word := wd (0xB5A31C6D * (x0 + k0).toNat)
  let q : Word := wd (0xC3A55E17 * (x2 ^^^ k1).toNat)
  ((p.extractLsb' 32 32 ^^^ x3 ^^^ rotl32 x1 7, q.extractLsb' 0 32, q.extractLsb' 32 32 ^^^ x1 ^^^ w32 r,
    p.extractLsb' 0 32), (rotl32 k0 11 + 0x6A3C95E1, rotl32 k1 19 ^^^ 0x3D2B48F7))
/-- The rounds of CG10 from round `r` on. -/
def cg10Loop : Nat → Nat → (W32 × W32 × W32 × W32) → (W32 × W32) → (W32 × W32 × W32 × W32)
  | 0, _, x, _ => x
  | n + 1, r, (x0, x1, x2, x3), (k0, k1) =>
    let t := cg10Round x0 x1 x2 x3 k0 k1 r
    cg10Loop n (r + 1) t.1 t.2
/-- `cg10_bits` (R187). -/
def cg10 (seed : Word) (id step : W32) (index : Word) : BitVec 128 :=
  let x := cg10Loop 10 0 (index.extractLsb' 0 32, index.extractLsb' 32 32, id, step)
    (seed.extractLsb' 0 32, seed.extractLsb' 32 32)
  ((x.2.2.2 ++ x.2.2.1) ++ x.2.1) ++ x.1
/-- The generator bits of element `e` under a gang's rounding key (R178). -/
def srBits (g : Gang) (e : Word) : Nat :=
  ((cg10 g.rkseed g.rkid g.rkstep (e / 8)).extractLsb' ((e.toNat % 8) * 16) 16).toNat

end Sys2Proof.Machine
end

