-- ==== Sys2Proof/Machine/Functions.lean ====
section
/-! DEFINITION. The unary functions of `ffun` (11 R348). Each returns the exact mathematical value rounded once. An
algebraic value is computed exactly; a transcendental one is enclosed between two rationals of growing precision until both
ends round alike (notes/assumptions/10.md). -/

namespace Sys2Proof.Machine

/-- floor of the square root by bits from `2^k` down. -/
def isqrtLoop (n : Nat) : Nat → Nat → Nat
  | 0, r => r
  | k + 1, r => if (r + 2 ^ k) * (r + 2 ^ k) ≤ n then isqrtLoop n k (r + 2 ^ k) else isqrtLoop n k r
/-- floor of the square root. -/
def isqrt (n : Nat) : Nat := isqrtLoop n (Nat.log2 n / 2 + 1) 0
/-- A rational that rounds as the square root of n / d does: the root itself where it is rational at the working
precision, else the middle of an interval with no rounding boundary inside. -/
def sqrtQ (n d : Nat) : Nat × Nat :=
  let k := 128 + Nat.log2 d
  let t := n * 2 ^ (2 * k)
  let r := isqrt (t / d)
  if r * r * d = t then (r, 2 ^ k) else (2 * r + 1, 2 ^ (k + 1))

/-- Fixed-point terms t, t·x/1, t·x²/(1·2), …: the Taylor sum of the exponential at `x` / 2^p. -/
def expLoop (p : Nat) (x : Nat) : Nat → Nat → Nat → Nat → Nat
  | 0, _, _, acc => acc
  | n + 1, k, t, acc => let u := t * x / 2 ^ p / k; expLoop p x n (k + 1) u (acc + u)
/-- e^(x / 2^p) · 2^p for x / 2^p < 2, below the exact value by less than 2^10. -/
def expFix (p x : Nat) : Nat := expLoop p x (p + 8) 1 (2 ^ p) (2 ^ p)
/-- Terms z³/3 + z⁵/5 + … of the inverse hyperbolic tangent in fixed point. -/
def atanhLoop (p z2 : Nat) : Nat → Nat → Nat → Nat → Nat
  | 0, _, _, acc => acc
  | n + 1, k, t, acc => let u := t * z2 / 2 ^ p; atanhLoop p z2 n (k + 2) u (acc + u / k)
/-- atanh(z / 2^p) · 2^p for z / 2^p ≤ 1/3, below the exact value by less than 2^12. -/
def atanhFix (p z : Nat) : Nat := atanhLoop p (z * z / 2 ^ p) (p / 3 + 4) 3 z z
/-- ln 2 · 2^p. -/
def ln2Fix (p : Nat) : Nat := 2 * atanhFix p (2 ^ p / 3)
/-- The alternating tail of arctan(1 / n) in fixed point. -/
def atanInvLoop (n2 : Nat) : Nat → Nat → Int → Nat → Int → Int
  | 0, _, _, _, acc => acc
  | f + 1, k, sg, t, acc => atanInvLoop n2 f (k + 2) (-sg) (t / n2) (acc + sg * ((t / n2 / k : Nat) : Int))
/-- arctan(1 / n) · 2^p. -/
def atanInv (p n : Nat) : Int := atanInvLoop (n * n) (p / 2 + 4) 3 (-1) (2 ^ p / n) (2 ^ p / n : Nat)
/-- π · 2^p. -/
def piFix (p : Nat) : Nat := (16 * atanInv p 5 - 4 * atanInv p 239).toNat
/-- Alternating Taylor terms from t: t·y²/(k(k+1)), …. -/
def trigLoop (p y2 : Nat) : Nat → Nat → Int → Nat → Int → Int
  | 0, _, _, _, acc => acc
  | f + 1, k, sg, t, acc =>
    let u := t * y2 / 2 ^ p / (k * (k + 1))
    trigLoop p y2 f (k + 2) (-sg) u (acc + sg * (u : Int))
/-- sin(y / 2^p) · 2^p for 0 ≤ y / 2^p < 2. -/
def sinFix (p y : Nat) : Nat := (trigLoop p (y * y / 2 ^ p) (p / 2 + 4) 2 (-1) y y).toNat
/-- cos(y / 2^p) · 2^p for 0 ≤ y / 2^p < 2. -/
def cosFix (p y : Nat) : Nat := (trigLoop p (y * y / 2 ^ p) (p / 2 + 4) 1 (-1) (2 ^ p) (2 ^ p : Nat)).toNat

/-- The error bound of the fixed-point functions at every precision used. -/
def slack : Nat := 2 ^ 16
/-- The code that both ends of an enclosure round to: precisions are tried in turn; the last one decides (log 10). -/
def roundEnclosed (mode : Rnd) (ftz : Bool) (g : Nat) (neg : Bool) (enc : Nat → (Nat × Nat) × (Nat × Nat)) :
    List Nat → W32 × Fl
  | [] => let e := enc 1024; result32 ftz mode g (.fin neg e.1.1 e.1.2)
  | p :: r =>
    let e := enc p
    let a := result32 ftz mode g (.fin neg e.1.1 e.1.2)
    if a = result32 ftz mode g (.fin neg e.2.1 e.2.2) then a else roundEnclosed mode ftz g neg enc r
/-- The precisions that are tried. -/
def precisions : List Nat := [192, 320, 640]
/-- v / 2^p with the error bound on both sides, times 2^k. -/
def around (p v : Nat) (k : Int) : (Nat × Nat) × (Nat × Nat) :=
  (scale2 (v - slack) (2 ^ p) k, scale2 (v + slack) (2 ^ p) k)

/-- 2^x for a finite x that is no integer. -/
def exp2Enc (neg : Bool) (n d p : Nat) : (Nat × Nat) × (Nat × Nat) :=
  let q : Int := if neg then -((n / d : Nat) : Int) - 1 else (n / d : Nat)
  let f : Nat := if neg then d - n % d else n % d
  around p (expFix p (f * 2 ^ p / d * ln2Fix p / 2 ^ p)) q
/-- `ffun.exp2` (R348). -/
def exp2F (mode : Rnd) (ftz : Bool) (g : Nat) (neg : Bool) (n d : Nat) : W32 × Fl :=
  if n % d = 0 then
    let k := min (n / d) 400
    result32 ftz mode g (scaleVal (.fin false 1 1) (if neg then -(k : Int) else k))
  else if 300 * d < n then
    let t : Nat × Nat := if neg then (1, 2 ^ 300) else (2 ^ 300, 1)
    result32 ftz mode g (.fin false t.1 t.2)
  else roundEnclosed mode ftz g false (exp2Enc neg n d) precisions

/-- log2 of a positive rational that is no power of two: magnitude and sign are taken apart by the caller. -/
def log2Enc (n d : Nat) (p : Nat) : (Nat × Nat) × (Nat × Nat) :=
  let e := flog2 n d
  let m := scale2 n d (-e)
  let z := (m.1 - m.2) * 2 ^ p / (m.1 + m.2)
  let f := 2 * atanhFix p z * 2 ^ p / ln2Fix p
  match e with
  | .ofNat k => around p (k * 2 ^ p + f) 0
  | .negSucc k => around p ((k + 1) * 2 ^ p - f) 0
/-- `ffun.log2` of a positive finite value (R348). -/
def log2F (mode : Rnd) (ftz : Bool) (g : Nat) (n d : Nat) : W32 × Fl :=
  let e := flog2 n d
  let m := scale2 n d (-e)
  if m.1 = m.2 then result32 ftz mode g (intVal e)
  else roundEnclosed mode ftz g (e < 0) (log2Enc n d) precisions

/-- sin(π r) for 0 < r < 1/2, r = a / b. -/
def sinEnc (a b p : Nat) : (Nat × Nat) × (Nat × Nat) := around p (sinFix p (a * piFix p / b)) 0
/-- cos(π r) for 0 < r < 1/2. -/
def cosEnc (a b p : Nat) : (Nat × Nat) × (Nat × Nat) := around p (cosFix p (a * piFix p / b)) 0
/-- |sin(π x)| or |cos(π x)| in the first half turn: `c` selects the cosine; x = a / b with 0 ≤ x ≤ 1/2. Exact at 0, 1/6
(the sine's 1/2), 1/3 (the cosine's 1/2) and 1/2; of these a binary fraction reaches only 0 and 1/2. -/
def trigF (mode : Rnd) (ftz : Bool) (g : Nat) (neg c : Bool) (a b : Nat) : W32 × Fl :=
  if a = 0 then result32 ftz mode g (.fin neg (if c then 1 else 0) 1)
  else if 2 * a = b then result32 ftz mode g (.fin neg (if c then 0 else 1) 1)
  else if c then roundEnclosed mode ftz g neg (cosEnc a b) precisions
  else roundEnclosed mode ftz g neg (sinEnc a b) precisions
/-- `ffun.sinpi` of a finite value (R348): an integer gives a zero of the sign of x. -/
def sinpiF (mode : Rnd) (ftz : Bool) (g : Nat) (neg : Bool) (n d : Nat) : W32 × Fl :=
  let r := n % (2 * d)
  let half := d ≤ r
  let a := r % d
  let a := if d < 2 * a then d - a else a
  if a = 0 then result32 ftz mode g (.fin neg 0 1)
  else trigF mode ftz g (neg != half) false a d
/-- `ffun.cospi` of a finite value (R348): an integer and a half gives +0. -/
def cospiF (mode : Rnd) (ftz : Bool) (g : Nat) (n d : Nat) : W32 × Fl :=
  let r := n % (2 * d)
  let r := if d < r then 2 * d - r else r
  if 2 * r = d then result32 ftz mode g (.fin false 0 1)
  else if 2 * r < d then trigF mode ftz g false true r d
  else trigF mode ftz g true true (d - r) d

/-- tanh x for x > 0: small, middle and large arguments. -/
def tanhEnc (n d p : Nat) : (Nat × Nat) × (Nat × Nat) :=
  if n * 2 ^ 40 < d then
    let lo := (n * (3 * d * d - n * n), 3 * d * d * d)
    (lo, (15 * n * (d * d * d * d) - 5 * n * n * n * (d * d) + 2 * n * n * n * n * n, 15 * d * d * d * d * d))
  else if 64 * d < n then ((2 ^ 90 - 1, 2 ^ 90), (2 ^ 91 - 1, 2 ^ 91))
  else
    let y := 2 * n * 2 ^ p / d
    let q := y / ln2Fix p
    let e := expFix p (y % ln2Fix p) * 2 ^ q
    let w := slack * 2 ^ (q + 8)
    ((e - w - 2 ^ p, e - w + 2 ^ p), (e + w - 2 ^ p, e + w + 2 ^ p))
/-- `ffun.tanh` of a finite value (R348). -/
def tanhF (mode : Rnd) (ftz : Bool) (g : Nat) (neg : Bool) (n d : Nat) : W32 × Fl :=
  if n = 0 then result32 ftz mode g (.fin neg 0 1)
  else roundEnclosed mode ftz g neg (tanhEnc n d) precisions

/-- `ffun.rint` of a finite value (R348). -/
def rintF (mode : Rnd) (g : Nat) (neg : Bool) (n d : Nat) : W32 × Fl :=
  let u := n / d
  let r := n % d
  let a := if roundUp mode neg (u % 2 = 1) g r d then u + 1 else u
  (w32 (roundTo fFP32 .rtz 0 false false (.fin neg a 1)).1, if r = 0 then 0 else fNX)

/-- A NaN or the special value of a function: the canonical NaN with iv. -/
def invalid32 : W32 × Fl := (0x7FC00000, fIV)
/-- One lane of `ffun` (R348): rounding mode, ftz, generator bits, function, operand. -/
def ffunLane (mode : Rnd) (ftz : Bool) (g : Nat) (f : FFunOp) (a : W32) : W32 × Fl :=
  match f with
  | .abs => (a &&& 0x7FFFFFFF, 0)
  | .neg => (a ^^^ 0x80000000, 0)
  | .rcp | .sqrt | .rsqrt | .exp2 | .log2 | .sinpi | .cospi | .tanh | .rint =>
    match operand32 ftz a with
    | .nan sig => (0x7FC00000, if sig then fIV else 0)
    | .inf neg =>
      match f with
      | .rcp => (if neg then 0x80000000 else 0, 0)
      | .sqrt => if neg then invalid32 else (0x7F800000, 0)
      | .rsqrt => if neg then invalid32 else (0, 0)
      | .exp2 => (if neg then 0 else 0x7F800000, 0)
      | .log2 => if neg then invalid32 else (0x7F800000, 0)
      | .sinpi | .cospi => invalid32
      | .tanh => (if neg then 0xBF800000 else 0x3F800000, 0)
      | .rint | .abs | .neg => (if neg then 0xFF800000 else 0x7F800000, 0)
    | .fin neg n d =>
      match f with
      | .rcp =>
        if n = 0 then (if neg then 0xFF800000 else 0x7F800000, fDZ) else result32 ftz mode g (.fin neg d n)
      | .sqrt =>
        if n = 0 then (if neg then 0x80000000 else 0, 0) else if neg then invalid32
        else let q := sqrtQ n d; result32 ftz mode g (.fin false q.1 q.2)
      | .rsqrt =>
        if n = 0 then (if neg then 0xFF800000 else 0x7F800000, fDZ) else if neg then invalid32
        else let q := sqrtQ d n; result32 ftz mode g (.fin false q.1 q.2)
      | .exp2 => exp2F mode ftz g neg n d
      | .log2 => if n = 0 then (0xFF800000, fDZ) else if neg then invalid32 else log2F mode ftz g n d
      | .sinpi => sinpiF mode ftz g neg n d
      | .cospi => cospiF mode ftz g n d
      | .tanh => tanhF mode ftz g neg n d
      | .rint | .abs | .neg => if n = 0 then (if neg then 0x80000000 else 0, 0) else rintF mode g neg n d

end Sys2Proof.Machine
end

