-- ==== Sys2Proof/Machine/Links.lean ====
section
/-! DEFINITION. The links between packages (19 R499 to R508, R514, R538): ports, capability words, bonded links and their flits, routes, and
whether a request has a path that is alive. -/

namespace Sys2Proof.Machine

/-- Insert a number into a rising list. -/
def insertNat (n : Nat) : List Nat → List Nat
  | [] => [n]
  | m :: r => if n ≤ m then n :: m :: r else m :: insertNat n r
/-- A list of numbers in rising order. -/
def sortNat (l : List Nat) : List Nat := l.foldr insertNat []
/-- The pod of a package and its members (19 R504). -/
def podOf (s : State) (pkg : Nat) : Option Package := s.pkgs.find? (fun p => p.pkg = pkg)

/-- Port `n` of a package. -/
def portOf (s : State) (pkg n : Nat) : Port := (s.ports.find? (fun p => p.pkg = pkg && p.port = n)).getD { pkg := pkg, port := n }
/-- Change a port. -/
def onPort (pkg n : Nat) (f : Port → Port) (s : State) : State :=
  if s.ports.any (fun p => p.pkg = pkg && p.port = n) then
    { s with ports := upd (fun p => p.pkg = pkg && p.port = n) f s.ports }
  else { s with ports := s.ports ++ [f { pkg := pkg, port := n }] }
/-- The bond record of a group. -/
def bondOf (s : State) (pkg g : Nat) : Bond := (s.bonds.find? (fun b => b.pkg = pkg && b.group = g)).getD { pkg := pkg, group := g }
/-- Change a bond record. -/
def onBond (pkg g : Nat) (f : Bond → Bond) (s : State) : State :=
  if s.bonds.any (fun b => b.pkg = pkg && b.group = g) then
    { s with bonds := upd (fun b => b.pkg = pkg && b.group = g) f s.bonds }
  else { s with bonds := s.bonds ++ [f { pkg := pkg, group := g }] }
/-- Change a package. -/
def onPkg (pkg : Nat) (f : Package → Package) (s : State) : State := { s with pkgs := upd (fun p => p.pkg = pkg) f s.pkgs }
/-- An uncorrectable error outside memory is counted (21 R530). -/
def noteError (pkg : Nat) (s : State) : State := onPkg pkg (fun p => { p with ue := p.ue + 1 }) s
/-- The other end of a port in the wiring. -/
def partner (s : State) (pkg n : Nat) : Option (Nat × Nat) :=
  s.links.findSome? (fun l =>
    if l.pkgA = pkg && l.portA = n then some (l.pkgB, l.portB)
    else if l.pkgB = pkg && l.portB = n then some (l.pkgA, l.portA)
    else none)

/-- Fields of a capability word (19 R502). -/
def capVendor (w : Word) : Nat := fld w 63 48
def capPod (w : Word) : Nat := fld w 47 32
def capPkg (w : Word) : Nat := fld w 31 22
def capPort (w : Word) : Nat := fld w 21 18
def capBond (w : Word) : Bool := w.getLsbD 15
def capComb (w : Word) : Bool := w.getLsbD 14
/-- The capability word that a port sends (19 R502). -/
def capWord (s : State) (pkg n : Nat) : Word :=
  let pod := ((podOf s pkg).map (·.pod)).getD 0
  wd (0x5B4D * 2 ^ 48 + pod % 2 ^ 16 * 2 ^ 32 + pkg % 1024 * 2 ^ 22 + n % 16 * 2 ^ 18 + n % 16 / 4 * 2 ^ 16 + 2 ^ 15 + 2 ^ 14 + 1)
/-- Whether a received word is a Rosolasko one that negotiates combining (19 R503). -/
def capOk (w : Word) : Bool := capVendor w = 0x5B4D && 1 ≤ fld w 7 0 && capComb w

/-- The largest power of two that is at most `n`, up to 4. -/
def pow2Floor (n : Nat) : Nat := if 4 ≤ n then 4 else if 2 ≤ n then 2 else n
/-- The first `n` ports of a list as a mask of the four ports of a group. -/
def portMask (l : List Nat) : BitVec 4 := l.foldl (fun m i => m ||| (1#4 <<< (i % 4))) 0
/-- Whether the lanes of a port's link are healthy: the port is up, and the one at its other end has lost none (19 R506). -/
def healthy (s : State) (pkg n : Nat) : Bool :=
  (portOf s pkg n).state = 2 && !(partner s pkg n).any (fun q => (portOf s q.1 q.2).state = 3)
/-- Whether ports of a group can form one bonded link (19 R505): up or unhealthy, both ends bond capable, one partner package and one group of
its ports, in the same ascending order. -/
def bondFits (s : State) (pkg : Nat) (ns : List Nat) : Bool :=
  let ws := ns.map (fun n => (portOf s pkg n).pword)
  ns.all (fun n => let p := portOf s pkg n; 2 ≤ p.state && p.bond) &&
    ws.all (fun w => capPkg w = capPkg (ws.headD 0) && capPort w / 4 = capPort (ws.headD 0) / 4) &&
    (ws.zip ws.tail).all (fun p => capPort p.1 < capPort p.2)
/-- The ports of a group that bond, for 8 or 16 lanes (19 R505): all four, else two. Of several pairs that could, the manual does not say
which: the one whose higher port is the lowest (DESIGN CHOICE, log 20). -/
def bondMembers (s : State) (pkg g : Nat) : List Nat :=
  let sets := [[0, 1, 2, 3], [0, 1], [0, 2], [1, 2], [0, 3], [1, 3], [2, 3]].map (fun l => l.map (fun i => 4 * g + i))
  (sets.find? (bondFits s pkg)).getD []
/-- The members of a bond that are in use: the lowest healthy ports, a power of two of them (19 R506, R508). -/
def bondActive (s : State) (pkg g : Nat) : List Nat :=
  let up := (bondMembers s pkg g).filter (healthy s pkg)
  up.take (pow2Floor up.length)
/-- Lane `k` of a bonded link: the member of rank k / 4, and its lane (19 R505). -/
def bondLane (s : State) (pkg g k : Nat) : Option (Nat × Nat) := ((bondMembers s pkg g)[k / 4]?).map (fun n => (n, k % 4))
/-- The port that carries flit `n` of a bonded link: the member in use of rank n mod w (19 R505). -/
def flitPort (s : State) (pkg g n : Nat) : Option Nat := let as := bondActive s pkg g; as[n % as.length]?
/-- How many of the flits numbered from `a` to below `b` the member of rank `r` among `w` carries (19 R505). -/
def flitShare (w r a b : Nat) : Nat := (b + (w - 1 - r)) / w - (a + (w - 1 - r)) / w
/-- Settle the bond record of a group after a change of its ports (19 R505, R506). -/
def settleBond (pkg g : Nat) (s : State) : State :=
  let ms := bondMembers s pkg g
  let as := bondActive s pkg g
  if ms.length < 2 then onBond pkg g (fun b => { b with members := 0, active := 0, width := 0 }) s
  else onBond pkg g (fun b => { b with members := portMask ms, active := portMask as, width := 4 * as.length }) s
/-- Settle the bonds of a link at both its ends (19 R507). -/
def settleEnds (pkg port : Nat) (s : State) : State :=
  let s := settleBond pkg (port / 4) s
  match partner s pkg port with
  | some (q, n) => settleBond q (n / 4) s
  | none => s
/-- A bond of which a member in use has been lost falls back to a new width and retrains (19 R507). -/
def fallBack (was : Bool) (pkg g : Nat) (s : State) : State :=
  if was then onBond pkg g (fun b => { b with fallbacks := (b.fallbacks + 1) % 2 ^ 32, retraining := b.width ≠ 0 }) s else s

/-- Whether the word that a port has received names another pod: its link carries management traffic alone (19 R504). -/
def isForeign (s : State) (pkg n : Nat) : Bool :=
  let w := (portOf s pkg n).pword
  capVendor w = 0x5B4D && 1 ≤ fld w 7 0 && capPod w ≠ ((podOf s pkg).map (·.pod)).getD 0 % 2 ^ 16
/-- Whether a wired link carries pod traffic (19 R503, R504, R506): both ports up and of one pod, or not yet trained at pod bring-up where
`cold`. -/
def linkUsable (s : State) (cold : Bool) (l : Link) : Bool :=
  cold || ((portOf s l.pkgA l.portA).state = 2 && (portOf s l.pkgB l.portB).state = 2 &&
    !isForeign s l.pkgA l.portA && !isForeign s l.pkgB l.portB)
/-- The packages one link away, in rising order. -/
def neighbours (s : State) (cold : Bool) (p : Nat) : List Nat :=
  sortNat ((s.links.filter (linkUsable s cold)).filterMap (fun l =>
    if l.pkgA = p then some l.pkgB else if l.pkgB = p then some l.pkgA else none)).eraseDups
/-- The route of at most `n` links from `p` to `q`: fewest links, then the lowest next package hop by hop (19 R538). -/
def routeIn (s : State) (cold : Bool) : Nat → Nat → Nat → Option (List Nat)
  | 0, p, q => if p = q then some [] else none
  | n + 1, p, q =>
    if p = q then some []
    else (neighbours s cold p).foldl (fun best h =>
      match routeIn s cold n h q with
      | none => best
      | some r => match best with
        | none => some (h :: r)
        | some b => if r.length + 1 < b.length then some (h :: r) else some b) none
/-- The routes between members: the least length at which one exists (19 R538). -/
def routeTo (s : State) (cold : Bool) (count p q : Nat) : Option (List Nat) :=
  (List.range count).findSome? (fun n => routeIn s cold n p q)
/-- All routes of a pod of `count` packages. -/
def allRoutes (s : State) (cold : Bool) (count : Nat) : List (Nat × Nat × List Nat) :=
  (List.range count).flatMap (fun p => (List.range count).filterMap (fun q =>
    if p = q then none else (routeTo s cold count p q).map (fun r => (p, q, r))))
/-- Recompute the routes that lead over a link that has gone down (19 R538). -/
def reroute (pkg n : Nat) (s : State) : State :=
  match partner s pkg n with
  | none => s
  | some (q, _) =>
    let uses (r : Nat × Nat × List Nat) : Bool :=
      let hops := r.1 :: r.2.2
      (hops.zip hops.tail).any (fun h => (h.1 = pkg && h.2 = q) || (h.1 = q && h.2 = pkg))
    let count := ((podOf s pkg).map (·.count)).getD 1
    { s with routes := s.routes.filterMap (fun r =>
        if uses r then (routeTo s false count r.1 r.2.1).map (fun h => (r.1, r.2.1, h)) else some r) }

/-- Compute the routes anew when a link has come into service or its word has arrived (19 R538, 20 R515); a pair without one keeps the
route that it has. -/
def refreshRoutes (pkg : Nat) (s : State) : State :=
  let count := ((podOf s pkg).map (·.count)).getD 1
  let new := allRoutes s false count
  { s with routes := new ++ s.routes.filter (fun r => !new.any (fun n => n.1 = r.1 && n.2.1 = r.2.1)) }
/-- Whether a link retrains at one of its ends, so that what would pass it waits (19 R507). -/
def linkPaused (s : State) (l : Link) : Bool :=
  let at_ (p n : Nat) : Bool := let b := bondOf s p (n / 4); b.retraining && b.members.getLsbD (n % 4)
  at_ l.pkgA l.portA || at_ l.pkgB l.portB
/-- Whether two packages have a link that carries pod traffic, and that satisfies `ok`. -/
def linked (ok : Link → Bool) (s : State) (p q : Nat) : Bool :=
  s.links.any (fun l => ((l.pkgA = p && l.pkgB = q) || (l.pkgA = q && l.pkgB = p)) && linkUsable s false l && ok l)
/-- The packages of a request's path from package `p` to package `q`: a direct link where one exists, else the route of R538 (20 R515); none
where no path is alive. -/
def hops (ok : Link → Bool) (s : State) (p q : Nat) : Option (List Nat) :=
  if p = q then some []
  else if linked ok s p q then some [q]
  else match s.routes.find? (fun r => r.1 = p && r.2.1 = q) with
    | some r => if ((p :: r.2.2).zip r.2.2).all (fun h => linked ok s h.1 h.2) then some r.2.2 else none
    | none => none
/-- Whether requests of a package have a live path to another, in its pod (19 R504, R538). -/
def hasPath (s : State) (p q : Nat) : Bool := (hops (fun _ => true) s p q).isSome
/-- Whether they have one that lets them pass now, no end of it retraining (19 R507). -/
def flows (s : State) (p q : Nat) : Bool := (hops (fun l => !linkPaused s l) s p q).isSome
/-- Whether heat has stopped the dies of a package (21 R531). -/
def isStopped (s : State) (pkg : Nat) : Bool := ((podOf s pkg).map (·.stopped)).getD false
/-- A step of an engine of a package: it does not take place where the dies stand still (21 R531), nor where a request of it waits for its
path (19 R507). -/
def uncut (pkg : Nat) (f : State → State) (s : State) : State :=
  let t := f { s with cut := false }
  if isStopped s pkg || t.cut then s else t

/-- Cycles of 10 µs, 1 ms and 1 s (00 R3). -/
def cyclesOf10us : Nat := 17000
def cyclesOfMs : Nat := 1700000
def cyclesOfSec : Nat := 1700000000
/-- Flits pass in the cycle that ends (19 R499, R505, R514): how many, the manual does not say (log 20). A port in use by a bond carries its
share of the bond's one stream. -/
def linkTraffic (s : State) : State :=
  let free (pkg i : Nat) : Nat := (Config.flitCount ((s.cycle * 1024 + pkg) * 512 + i)).toNat
  let grow (b : Bond) : Nat := if b.width = 0 || b.retraining then 0 else free b.pkg (256 + b.group)
  let port (p : Port) : Port :=
    if p.state ≠ 2 then p
    else
      let b := bondOf s p.pkg (p.port / 4)
      let as := bondActive s p.pkg (p.port / 4)
      let n := if b.active.getLsbD (p.port % 4) then flitShare as.length (as.findIdx (fun k => k = p.port)) b.sent (b.sent + grow b)
        else free p.pkg p.port
      { p with flits := (p.flits + n) % 2 ^ 64 }
  let bond (b : Bond) : Bond :=
    let sent := b.sent + grow b
    { b with sent := sent, acked := b.acked + free b.pkg (260 + b.group) % (sent + 1 - b.acked) }
  { s with ports := s.ports.map port, bonds := s.bonds.map bond }
/-- The cycles that pass while the power limiter gates a package are counted (21 R530, R531). -/
def countThrottle (n : Nat) (s : State) : State :=
  { s with pkgs := upd (·.gated) (fun p => { p with throttle := p.throttle + n }) s.pkgs }
/-- The flits of a bonded link after the last acknowledged number are sent again by the members in use (19 R507). -/
def resend (pkg g : Nat) (s : State) : State :=
  let b := bondOf s pkg g
  let as := bondActive s pkg g
  { s with ports := upd (fun p => p.pkg = pkg && as.contains p.port) (fun p =>
      let n := flitShare as.length (as.findIdx (fun k => k = p.port)) b.acked b.sent
      { p with flits := (p.flits + n) % 2 ^ 64, replays := (p.replays + n) % 2 ^ 64 }) s.ports }

end Sys2Proof.Machine
end

