-- ==== Sys2Proof/Machine/Memory.lean ====
section
/-! DEFINITION. The memory model (04): homes and modification orders, views, publish and acquire, stores on their way,
update-only lines, the constant, tile and lookup paths. A position in a location's modification order is the number of the
write, counted over the machine; 0 is the location's first contents. -/

namespace Sys2Proof.Machine

/-- A key of the memory encryption, none where no key applies (01 R34). -/
abbrev Key := Option (BitVec 512)

/-- Kinds of memory in a location number: kind · 2^60 + unit · 2^40 + offset (01 R17). -/
def locOf (kind ix off : Nat) : Nat := kind * 2 ^ 60 + ix * 2 ^ 40 + off
/-- A location in the HBM of a package. -/
def hbmLoc (pkg off : Nat) : Nat := locOf 0 pkg off
/-- The package, die, cluster or core whose memory holds a location. -/
def locUnit (l : Nat) : Nat := l % 2 ^ 60 / 2 ^ 40
/-- The kind of memory of a location: 0 HBM, 1 die SRAM, 2 cluster memory, 3 scratchpad. -/
def locKind (l : Nat) : Nat := l / 2 ^ 60
/-- The offset of a location in its memory. -/
def locOff (l : Nat) : Nat := l % 2 ^ 40

/-- The package whose memory holds a location. -/
def locPkg (l : Nat) : Nat :=
  match locKind l with
  | 0 => locUnit l
  | 1 => locUnit l / 4
  | 2 => locUnit l / 64
  | _ => locUnit l / 256

/-- What a byte of memory that nothing has written reads as (log 2). -/
def memDefault : Byte := 0
/-- The last byte written at a location. -/
def memByte (s : State) (l : Nat) : Byte := cget memDefault s.mem l
/-- The key under which the last byte was written. -/
def memKey (s : State) (l : Nat) : Key := cget none s.keys l
/-- The position of the last write of a location. -/
def topOf (s : State) (l : Nat) : Nat := cget 0 s.top l
/-- The memory's canonical form: addresses strictly rising, no entry equal to what an unlisted address reads as. -/
abbrev Memory.wf (m : Cells Byte) : Prop := CellsWf memDefault m

/-- Since when the line of a location is under one key, and that key (21 R523). -/
def lineOf (s : State) (l : Nat) : Nat × Key := cget (0, none) s.lineKeys (l / 64)
/-- Whether a write under another key has spoilt the last write of a location since: the XTS data unit is a line of 64 bytes, so that a
write to a part of it stores the rest anew (21 R523, log 9). -/
def isSpoilt (s : State) (l : Nat) : Bool := locKind l = 0 && topOf s l < (lineOf s l).1
/-- A byte of store `t`, or of another write for 0, takes position `p` of the modification order of a location at its home (R127). -/
def putTagged (t p l : Nat) (b : Byte) (k : Key) (s : State) : State :=
  { s with
    hist := { loc := l, pos := topOf s l, val := memByte s l, key := memKey s l, grp := 0, tag := cget 0 s.tags l, spoilt := isSpoilt s l } :: s.hist
    mem := cset memDefault s.mem l b
    keys := cset none s.keys l k
    lineKeys := if locKind l = 0 && (lineOf s l).2 ≠ k then cset (0, none) s.lineKeys (l / 64) (p, k) else s.lineKeys
    tags := cset 0 s.tags l t
    origin := cset none s.origin l none
    top := cset 0 s.top l p }
/-- A byte takes position `p` of the modification order of a location at its home (R127). -/
def putByte (p l : Nat) (b : Byte) (k : Key) (s : State) : State := putTagged 0 p l b k s
/-- One write of several bytes, one position in all their modification orders (R127, R128). -/
def homeWrite (bs : List (Nat × Byte)) (k : Key) (s : State) : State :=
  bs.foldl (fun t b => putByte (s.wseq + 1) b.1 b.2 k t) { s with wseq := s.wseq + 1 }
/-- Consecutive locations with the bytes of a list. -/
def consec (l : Nat) : List Byte → List (Nat × Byte)
  | [] => []
  | b :: r => (l, b) :: consec (l + 1) r
/-- A byte as it is stored: its value, the key that gives it back, none where none does (21 R523), and a number of its write. -/
abbrev Stored := Byte × Option Key × Nat
/-- A stored byte of position `p`, written by store `t` (0 for another write). -/
def stored (b : Byte) (k : Key) (spoilt : Bool) (t p : Nat) : Stored :=
  (b, if spoilt then none else some k, if t = 0 then p else 2 ^ 64 + t)
/-- The last write of a location. -/
def lastWrite (s : State) (l : Nat) : Stored := stored (memByte s l) (memKey s l) (isSpoilt s l) (cget 0 s.tags l) (topOf s l)
/-- The write at position `p` of a location: the last write for a position at or past it. -/
def writeAt (s : State) (l p : Nat) : Stored :=
  if topOf s l ≤ p then lastWrite s l
  else match s.hist.find? (fun h => h.loc = l && h.pos = p) with
    | some h => stored h.val h.key h.spoilt h.tag p
    | none => lastWrite s l
/-- The byte read under key `want` of a stored byte (01 R34): under a key that does not give it back, a value that the manual does not give
(log 6, 9), the same for every read of that write. -/
def decrypt (l : Nat) (want : Key) (x : Stored) : Byte :=
  if x.2.1 = some want then x.1
  else Config.freeByte ((l * 2 ^ 65 + x.2.2) * 2 ^ 513 + match want with
    | some k => k.toNat + 1
    | none => 0)

/-- The gang's own write to a location that has not reached its home, the newest first (R131). -/
def ownByte (s : State) (uid l : Nat) : Option Stored :=
  (s.stores.reverse.findSome? (fun r =>
    if r.uid = uid then (r.bytes.find? (fun b => b.last && b.loc = l && (b.w || !r.tested))).map (fun b => stored b.val b.key false r.id 0)
    else none))
/-- The byte of a location in a gang's view (R130, R131), read under key `k`. -/
def viewByte (s : State) (g : Gang) (l : Nat) (k : Key) : Byte :=
  match ownByte s g.uid l with
  | some x => decrypt l k x
  | none => decrypt l k (writeAt s l (cget 0 g.view l))
/-- The byte that the home holds, read under key `k`. -/
def homeByte (s : State) (l : Nat) (k : Key) : Byte := decrypt l k (lastWrite s l)
/-- Whether a location has an uncorrectable error (21 R526). -/
def poisoned (s : State) (l : Nat) : Bool := s.poison.contains l

/-- Whether a gang's view holds a location (R131, R132): a write of its own that is on its way, a write that it has taken in, or the
first contents, once it has loaded them. -/
def holds (s : State) (g : Gang) (l : Nat) : Bool :=
  cget 0 g.view l ≠ 0 || cget false g.seen l || (ownByte s g.uid l).isSome
/-- The gang's view holds locations from now on. -/
def markSeen (ls : List Nat) (g : Gang) : Gang := { g with seen := ls.foldl (fun c l => cset false c l true) g.seen }
/-- `n` bytes as a little-endian number. -/
def leNat : List Byte → Nat
  | [] => 0
  | b :: r => b.toNat + 256 * leNat r
/-- The low `n` bytes of a number, little-endian. -/
def leBytes : Nat → Nat → List Byte
  | 0, _ => []
  | n + 1, x => BitVec.ofNat 8 x :: leBytes n (x / 256)
/-- `n` consecutive bytes at the home, in the clear: the device's own reads of its tables (18 R469). -/
def homeNat (s : State) (l n : Nat) : Nat := leNat ((List.range n).map (fun i => memByte s (l + i)))

/-- The lowest level whose unit contains both gangs (04, "Publish, acquire and scope"); the host's is the widest level of
the reader's job (17 R453). -/
def commonLevel (s : State) (by_ : Option (Nat × Coords)) (q : Gang) : Nat :=
  match by_ with
  | none => wideOf s q
  | some (u, c) =>
    if u = q.uid then 0 else if sameUnit 1 c q.at_ then 1 else if sameUnit 2 c q.at_ then 2
    else if sameUnit 3 c q.at_ then 3 else if sameUnit 4 c q.at_ then 4 else 5
/-- The locations that write number `n` covers, with that position (R128): a write of its own, not a member of a merged
atomic (08 R247). -/
def writeView (s : State) (n : Nat) : Cells Nat :=
  if n = 0 then []
  else (s.hist.filter (fun h => h.pos = n && h.grp = 0)).foldl (fun v h => cset 0 v h.loc n) (s.top.filter (fun p => p.2 = n))
/-- The view of gang `q` after an acquire at level `l` (R135), with what it takes in early besides (R136, log 5); at level 0 nothing
(R137). -/
def acquired (s : State) (l : Nat) (q : Gang) : Cells Nat :=
  let v := s.pubs.foldl (fun v p =>
    if commonLevel s p.by_ q ≤ p.level && commonLevel s p.by_ q ≤ l then vjoin v p.view else v) q.view
  match l, s.early with
  | 0, _ | _, [] => v
  | _, e :: _ => e.foldl (fun v n => vjoin v (writeView s n)) v
/-- ACQUIRE at level `l` by the issuing gang (R135, R136). -/
def acquire (l : Nat) (s : State) : State :=
  { s with g := { s.g with view := acquired s l s.g }, early := s.early.drop 1 }
/-- An acquire at level `l` on behalf of gang `uid` (02 R66). -/
def acquireFor (uid l : Nat) (s : State) : State :=
  { onGang uid (fun g => { g with view := acquired s l g }) s with early := s.early.drop 1 }
/-- Add a published view (R133). -/
def addPub (p : Pub) : List Pub → List Pub
  | [] => [p]
  | q :: r => if q.by_ = p.by_ && q.level = p.level then { q with view := vjoin q.view p.view } :: r else q :: addPub p r

/-- Record that a gang's own write took a position (R131). -/
def ownWrite (l p : Nat) (g : Gang) : Gang :=
  { g with view := cset 0 g.view l (max (cget 0 g.view l) p), own := cset 0 g.own l p }

/-- The store-fault queue of a core (18 R479): the oldest records, up to its size. A record that arrives at a full queue enters when one
leaves (the manual does not say where it waits: DESIGN CHOICE, log 49). -/
def faultQueueOf (s : State) (core : Coords) : List StoreFault := (s.faults.filter (fun f => f.core = core)).take Config.faultQueue
/-- Place a record for the store-fault queue of a store's core (18 R479). One that arrives while a handler of its gang runs waits for the
first clause boundary after the `tret`, whatever the skid (18 R481). -/
def storeFault (r : StoreReq) (cause : Nat) (addr info : Word) (s : State) : State :=
  let inh := (s.g :: s.others ++ s.images.flatMap (·.gangs)).any (fun g => g.uid = r.uid && g.phase = .running && g.inh)
  { s with faults := s.faults ++ [⟨unitOf 1 r.at_, r.uid, cause, addr, info, if cause = cPermission && !inh then r.seq else 2 ^ 64⟩] }
/-- Whether byte `a` of a store stands before byte `b`: a lower lane, or a lower address of it. -/
def byteBefore (a b : ByteWrite) : Bool := a.lane < b.lane || (a.lane = b.lane && a.va.toNat < b.va.toNat)
/-- The lowest lane's first byte of a store that satisfies `p`. -/
def firstByte (p : ByteWrite → Bool) (bs : List ByteWrite) : Option ByteWrite :=
  (bs.filter p).foldl (fun m b => match m with
    | none => some b
    | some x => if byteBefore b x then some b else some x) none
/-- `%xinfo` of a posted fault of a store: lane, posted bit, address bits for a permission fault (18 R474). -/
def postedInfo (b : ByteWrite) (perm : Bool) : Word :=
  wd (b.lane + 32 + if perm then b.va.toNat % 2 ^ 56 * 256 else 0)
/-- The W test of a posted store ends (12 R362): a failure places one record for the store (18 R479), and the bytes that
failed are never written. -/
def testStore (r : StoreReq) (s : State) : StoreReq × State :=
  if r.tested then (r, s)
  else match firstByte (fun b => !b.w) r.bytes with
    | none => ({ r with tested := true }, s)
    | some b => ({ r with tested := true, faulted := true },
        if r.faulted then s else storeFault r cPermission b.va (postedInfo b true) s)
/-- Whether two bytes of a store belong to one part (01 R38): one lane's access of at most 64 consecutive bytes, under one mapping. -/
def samePart (a b : ByteWrite) : Bool :=
  a.lane = b.lane && a.part = b.part && a.va.toNat / 2 ^ 60 = b.va.toNat / 2 ^ 60 && ((a.va - b.va).toNat < 64 || (b.va - a.va).toNat < 64)
/-- The first byte of a store that has failed at its home: of the parts that have arrived, or of its bytes `r.bytes` now (18 R479). -/
def homeError (r : StoreReq) (s : State) : Option ByteWrite :=
  match r.err, firstByte (fun b => poisoned s b.loc && b.w) r.bytes with
  | some a, some b => if byteBefore b a then some b else some a
  | some a, none => some a
  | none, b => b
/-- The bytes of a tested store enter their modification orders (R127, R129, R160); an uncorrectable error writes nothing of
its part (12 R362). -/
def storeBytes (r : StoreReq) (s : State) : State :=
  let bad := r.bytes.filter (fun b => poisoned s b.loc && b.w)
  let ok := r.bytes.filter (fun b => b.w && b.last && !bad.any (samePart b))
  let pos (b : ByteWrite) : Nat := s.wseq + 1 + ok.findIdx (fun c => c.lane = b.lane && c.acc = b.acc)
  ok.foldl (fun t b => onGang r.uid (ownWrite b.loc (pos b)) (putTagged r.id (pos b) b.loc b.val b.key t))
    { s with wseq := s.wseq + ok.length }
/-- The last bytes of a store reach their homes: where one of its bytes has failed, one record is placed for the store, which names the
lowest lane that failed (12 R362, 18 R479). -/
def storeHome (r : StoreReq) (s : State) : State :=
  match homeError r s with
  | some b => if r.faulted then storeBytes r s else storeFault r cMemory b.va (postedInfo b false) (storeBytes r s)
  | none => storeBytes r s
/-- A store reaches its homes, after its W test. -/
def deliverStore (r : StoreReq) (s : State) : State :=
  let (q, s1) := testStore r s
  storeHome q { s1 with stores := s1.stores.filter (fun x => x.id ≠ r.id) }
/-- One part of a store reaches its home, after the W test of the whole store: the one of byte `n`. The others stay on their way (R161), and
so does the store's record, which the last part places (18 R479). -/
def deliverPart (n : Nat) (r : StoreReq) (s : State) : State :=
  let (q, s1) := testStore r s
  match q.bytes[n]? with
  | none => s
  | some b =>
    let part := { q with bytes := q.bytes.filter (samePart b) }
    let rest := q.bytes.filter (fun c => !samePart b c)
    if rest.isEmpty then storeHome part { s1 with stores := s1.stores.filter (fun x => x.id ≠ r.id) }
    else storeBytes part { s1 with
      stores := upd (fun x => x.id = r.id) (fun _ => { q with bytes := rest, err := homeError part s1 }) s1.stores }
/-- Whether bytes of a store have a path that lets them pass to their homes now (19 R507, R538). -/
def storeFlows (s : State) (r : StoreReq) (bs : List ByteWrite) : Bool := bs.all (fun b => flows s r.at_.pkg (locPkg b.loc))
/-- A store reaches its homes: as a whole, or one of its parts (R161), as a pick says (R8); what has no path waits (19 R507, R538). -/
def storeArrives (r : StoreReq) (s : State) : State :=
  match pick s with
  | (0, t) => if storeFlows s r r.bytes then deliverStore r t else s
  | (n + 1, t) => if storeFlows s r (r.bytes[n % r.bytes.length]?).toList then deliverPart (n % r.bytes.length) r t else s
/-- The moment of the modification orders at which a path last fetched the 4-byte element of a location, in a cluster (R149). -/
def fetchedPos (s : State) (cl : Coords) (pth l : Nat) : Nat :=
  match s.fetched.find? (fun f => f.1 = cl) with
  | some f => cget 0 f.2 (l / 4 * 4 + pth)
  | none => 0
/-- Record the moment at which a path has fetched the element of a location. -/
def setFetched (cl : Coords) (pth l pos : Nat) (s : State) : State :=
  { s with fetched :=
      if s.fetched.any (fun f => f.1 = cl) then
        upd (fun f => f.1 = cl) (fun f => (f.1, cset 0 f.2 (l / 4 * 4 + pth) pos)) s.fetched
      else s.fetched ++ [(cl, cset 0 [] (l / 4 * 4 + pth) pos)] }
/-- The last position of a location's modification order up to `p`. -/
def lastUpTo (s : State) (l p : Nat) : Nat :=
  if topOf s l ≤ p then topOf s l
  else ((s.hist.find? (fun h => h.loc = l && h.grp = 0 && h.pos ≤ p)).map (·.pos)).getD 0
/-- The four locations of the element that holds a location (R128). -/
def elemLocs (l : Nat) : List Nat := (List.range 4).map (fun i => l / 4 * 4 + i)
/-- The moment of the modification orders at which a read through the constant, tile or lookup path takes the 4-byte element of a location
(R128, R149, R150): that of the last write to it, or of the `d`-th write before it, but none before the write last fetched for the element or
fixed by a `pfence`, whichever is later. -/
def pathCut (s : State) (cl : Coords) (pth : Nat) (floor : Cells Nat) (d l : Nat) : Nat :=
  let ls := elemLocs l
  let hi := ls.foldl (fun m l => max m (topOf s l)) 0
  if d = 0 then hi
  else
    let lo := ls.foldl (fun m l => max m (cget 0 floor (l * 4 + pth))) (fetchedPos s cl pth l)
    let older := (s.hist.filter (fun h => ls.contains h.loc && h.grp = 0)).map (·.pos) ++ ls.map (topOf s)
    let ps := sortNat ((older.filter (fun p => lo ≤ p && p < hi)).eraseDups)
    (ps.reverse[d - 1]?).getD lo
/-- Read bytes through a path: one choice for each 4-byte element, whose bytes all stand at one moment of their modification orders,
taken from the digits of one pick (R8, R128, R149). -/
def pathRead (cl : Coords) (pth : Nat) (floor : Cells Nat) (hs : List (Nat × Key)) (s : State) : List Byte × State :=
  let (ch, s) := pick s
  let e0 := hs.foldl (fun m h => min m (h.1 / 4)) ((hs.head?.map (·.1 / 4)).getD 0)
  let ps := hs.map (fun h => (h, pathCut s cl pth floor ((ch >>> (8 * (h.1 / 4 - e0))) % 256) h.1))
  (ps.map (fun p => decrypt p.1.1 p.1.2 (writeAt s p.1.1 (lastUpTo s p.1.1 p.2))),
   ps.foldl (fun s p => setFetched cl pth p.1.1 p.2 s) s)
/-- Requests of a package for locations leave: one that cannot reach its home now makes its step wait (19 R507, R538). -/
def reach (pkg : Nat) (ls : List Nat) (s : State) : State :=
  if ls.all (fun l => flows s pkg (locPkg l)) then s else { s with cut := true }
/-- What a `pfence` fixes (R150): for each selected path 1 to 3, the positions in the gang's view. -/
def fixPaths (m : BitVec 4) (view : Cells Nat) (fenced : Cells Nat) : Cells Nat :=
  view.foldl (fun f e =>
    [1, 2, 3].foldl (fun f p => if m.getLsbD p then cset 0 f (e.1 * 4 + p) (max e.2 (cget 0 f (e.1 * 4 + p))) else f) f)
    fenced

/-- Two 32-bit values under an integer operation of `atom` (12 R382). -/
def intOp32 (o : AtomOp) (a b : W32) : W32 :=
  match o with
  | .add | .fadd | .faddOf => a + b
  | .and => a &&& b
  | .or => a ||| b
  | .xor => a ^^^ b
  | .min => if a.slt b then a else b
  | .max => if a.slt b then b else a
  | .minu => if a.ult b then a else b
  | .maxu => if a.ult b then b else a
  | .swap => b
/-- Two 64-bit values under an operation of `atom64` (12 R382). -/
def intOp64 (o : Atom64Op) (a b : Word) : Word :=
  match o with
  | .add => a + b
  | .and => a &&& b
  | .or => a ||| b
  | .xor => a ^^^ b
  | .min => if a.slt b then a else b
  | .max => if a.slt b then b else a
  | .minu => if a.ult b then a else b
  | .maxu => if a.ult b then b else a
  | .swap => b
/-- The operation and size in bytes of a `red` (12 R382). -/
def redSize : RedOp → Nat
  | .add | .and | .or | .xor | .min | .max | .minu | .maxu | .faddOf => 4
  | .addD | .andD | .orD | .minD | .maxD | .minuD | .maxuD => 8

end Sys2Proof.Machine
end

