-- ==== Sys2Proof/Machine/Translate.lean ====
section
/-! DEFINITION. From addresses to locations: the job windows of the local spaces (01 R19 to R27), the range and page tables
of the global space (01 R30 to R38, 18 R466 to R473), permissions (01 R33), and the checks of branch targets (01 R29,
09 R267). -/

namespace Sys2Proof.Machine

/-- Where a byte of an access lands: location, permissions (bit 0 R, 1 W, 2 A, 3 X; every local space grants R, W and
A), the key of its mapping, and a number of the mapping, 0 in a local space: the range entry and its stripe granule, or the page (01 R38). -/
structure Hit where
  loc : Nat
  perm : BitVec 4
  key : Key
  part : Nat
deriving DecidableEq, Repr

abbrev permR : BitVec 4 := 1
abbrev permW : BitVec 4 := 2
abbrev permA : BitVec 4 := 4
abbrev permX : BitVec 4 := 8

/-- Whether package `q` is a member of the pod of package `p`. -/
def inPod (s : State) (p q : Nat) : Bool :=
  match podOf s p, podOf s q with
  | some a, some b => a.pkg = b.pkg || (a.pod = b.pod && a.member && b.member)
  | _, _ => false
/-- Whether the power limiter gates a package (21 R531). -/
def isGated (s : State) (pkg : Nat) : Bool := ((podOf s pkg).map (·.gated)).getD false
/-- Whether a package serves management alone: a function of it has failed, or heat has stopped its dies (21 R529, R531). -/
def isOut (s : State) (pkg : Nat) : Bool := ((podOf s pkg).map (fun p => !p.failed.isEmpty || p.stopped)).getD false
/-- The key in a key slot of a package. -/
def slotKey (s : State) (pkg slot : Nat) : Key := cget none s.xts (pkg * 4096 + slot)

/-- A mapping's result: package, HBM address, permissions, key slot, and a number of the mapping (01 R38). -/
structure Mapped where
  pkg : Nat
  hbm : Nat
  perm : BitVec 4
  slot : Nat
  part : Nat
deriving DecidableEq, Repr

/-- Word `i` of range entry `n` of a job (18 R470). -/
def rangeWord (s : State) (pkg rtab n i : Nat) : Word := wd (homeNat s (hbmLoc pkg (rtab + 32 * n + 8 * i)) 8)
/-- The lowest-numbered range entry from `n` on that covers `va` (01 R31, 18 R471). -/
def findRange (s : State) (pkg rtab va : Nat) : Nat → Nat → Option Nat
  | 0, _ => none
  | f + 1, n =>
    let w0 := rangeWord s pkg rtab n 0
    if w0.getLsbD 63 && fld w0 55 0 ≤ va && va < fld (rangeWord s pkg rtab n 1) 55 0 then some n
    else findRange s pkg rtab va f (n + 1)
/-- The mapping of range entry `n` (01 R35, R36, 18 R471); none where it raises a translation fault. -/
def mapRange (s : State) (pkg rtab n va : Nat) : Option Mapped :=
  let w0 := rangeWord s pkg rtab n 0
  let w1 := rangeWord s pkg rtab n 1
  let w2 := rangeWord s pkg rtab n 2
  let w3 := rangeWord s pkg rtab n 3
  let base := fld w0 55 0
  let off := fld w2 39 0
  let gran := fld w2 62 58
  let mode := fld w2 57 56
  let count := fld w3 20 10
  let first := fld w3 9 0
  let bad := fld w0 62 56 ≠ 0 || fld w1 63 56 ≠ 0 || fld w2 63 63 ≠ 0 || fld w3 63 21 ≠ 0 || base % 4096 ≠ 0 ||
    fld w1 55 0 % 4096 ≠ 0 || off % 4096 ≠ 0 || mode = 3 || 18 < gran || (mode = 1 && count = 0)
  if bad then none
  else
    let po := va - base
    let g := 2 ^ (12 + gran)
    let c := po / g
    let m : Mapped :=
      if mode = 1 then ⟨first + c % count, off + c / count * g + po % g, BitVec.ofNat 4 (fld w2 43 40), fld w2 55 44, (n + 1) * 2 ^ 56 + c⟩
      else ⟨if mode = 0 then pkg else first, off + po, BitVec.ofNat 4 (fld w2 43 40), fld w2 55 44, (n + 1) * 2 ^ 56⟩
    some m
/-- One page-table entry (18 R472). -/
def pageWord (s : State) (pkg table ix : Nat) : Word := wd (homeNat s (hbmLoc pkg (table + 8 * ix)) 8)
/-- The walk of the page table (01 R32, 18 R473): `lvl` is 4 at the first table; none where it faults. -/
def walk (s : State) (pkg va : Nat) : Nat → Nat → Option Mapped
  | 0, _ => none
  | n + 1, table =>
    let sh := 12 + 9 * n
    let w := pageWord s pkg table (va / 2 ^ sh % 512)
    let addr := fld w 39 12 * 4096
    if !w.getLsbD 0 || fld w 63 62 ≠ 0 || fld w 11 6 ≠ 0 then none
    else if w.getLsbD 1 then
      if n = 3 || addr % 2 ^ sh ≠ 0 then none
      else some ⟨fld w 61 52, addr + va % 2 ^ sh, BitVec.ofNat 4 (fld w 5 2), fld w 51 40, 2 ^ 65 + va / 2 ^ sh * 2 ^ sh + n⟩
    else if fld w 61 52 ≠ 0 || fld w 51 40 ≠ 0 || fld w 5 2 ≠ 0 || addr < Config.driverBase ||
        Config.driverBase + Config.driverBytes ≤ addr then none
    else walk s pkg va n addr
/-- The checks on a mapping's result: pod membership, HBM size, driver region, key range (01 R36, 17 R458, 18 R466). -/
def mapOk (s : State) (pkg : Nat) (j : Job) (m : Mapped) : Bool :=
  let w3 := (j.words[3]?).getD 0
  inPod s pkg m.pkg && m.hbm < Config.hbmBytes &&
    !(Config.driverBase ≤ m.hbm && m.hbm < Config.driverBase + Config.driverBytes) &&
    fld w3 15 0 ≤ m.slot && m.slot < fld w3 15 0 + fld w3 31 16
/-- Translation of a global virtual address by package `pkg` for job `j` (01 R31). The key is the one in the slot of the package that makes
the request (19 R500). -/
def translate (s : State) (pkg job : Nat) (va : Nat) : Option Hit :=
  match jobOn s pkg job with
  | none => none
  | some j =>
    let rtab := ((j.words[1]?).getD 0).toNat
    let m := match findRange s pkg rtab va 256 0 with
      | some n => mapRange s pkg rtab n va
      | none => if va < 2 ^ 48 then walk s pkg va 4 ((j.words[2]?).getD 0).toNat else none
    match m with
    | none => none
    | some m => if mapOk s pkg j m then some ⟨hbmLoc m.pkg m.hbm, m.perm, slotKey s pkg m.slot, m.part⟩ else none

/-- The scratch window of the nearest level-1 function above child `k` of launch `l` (01 R41): none while that window stands in a save image
or once a reset has dropped it (18 R486, R488). -/
def nearScratch (s : State) : Nat → Nat → Nat → Option Scratch
  | 0, _, _ => none
  | f + 1, l, k =>
    match s.scratch.find? (fun w => w.launch = l && w.child = k) with
    | some w => some w
    | none =>
      match s.launches.find? (fun x => x.id = l) with
      | none => none
      | some x =>
        if x.level = 2 then none
        else match x.parent with
          | none => none
          | some p => nearScratch s f p x.parentChild
/-- No scratch window. -/
abbrev noWin : Win := (0, 0, 0)
/-- The scratch window that a gang uses; size 0 off the function's own core (01 R41). -/
def scratchOf (s : State) (g : Gang) : Win :=
  match nearScratch s 64 g.launch g.child with
  | some w => if w.core = unitOf 1 g.at_ then (w.base, w.size, w.gen) else noWin
  | none => noWin

/-- The byte of a cluster memory that a window offset names (R21). -/
def clusterOff (s : State) (pkg job : Nat) (o : Nat) : Option Nat :=
  match jobOn s pkg job with
  | none => none
  | some j =>
    let w := (j.words[4]?).getD 0
    if o < fld w 31 16 * 65536 then some (fld w 15 0 * 65536 + o)
    else if 0x600000 ≤ o && o < 0x600000 + fld w 63 48 * 65536 then some (Config.transBase + fld w 47 32 * 65536 + (o - 0x600000))
    else none
/-- The byte of a die SRAM that a window offset names (R21). -/
def dieOff (s : State) (pkg job : Nat) (o : Nat) : Option Nat :=
  match jobOn s pkg job with
  | none => none
  | some j =>
    let w := (j.words[5]?).getD 0
    if o < fld w 31 16 * 65536 then some (fld w 15 0 * 65536 + o) else none
/-- A hit in a local space. -/
def localHit (l : Option Nat) : Except Nat Hit :=
  match l with
  | some l => .ok ⟨l, permR ||| permW ||| permA, none, 0⟩
  | none => .error cBound

/-- The location of one byte address for slot `c` of job `job` with scratch window `w` (01 R19 to R21), or the cause of the
fault. A byte of a scratch window belongs to the function that owns the window: what an earlier owner left reads as a value
that the manual does not give (R42, log 6). -/
def mapByte (s : State) (c : Coords) (job : Nat) (w : Win) (a : Word) : Except Nat Hit :=
  let x := a.toNat % 2 ^ 60
  match a.toNat / 2 ^ 60 with
  | 0 =>
    if 2 ^ 56 ≤ x then .error cSpace
    else match translate s c.pkg job x with
      | some h => .ok h
      | none => .error cTranslation
  | 1 =>
    if 2 ^ 18 ≤ x then .error cSpace
    else if x < w.2.1 then .ok ⟨locOf 3 (coreIx c) (w.1 + x), permR ||| permW ||| permA, some (BitVec.ofNat 512 w.2.2), 0⟩
    else .error cBound
  | 2 => if 2 ^ 23 ≤ x then .error cSpace else localHit ((clusterOff s c.pkg job x).map (locOf 2 (clIx c)))
  | 3 => if 2 ^ 28 ≤ x then .error cSpace else localHit ((dieOff s c.pkg job x).map (locOf 1 (dieIx c)))
  | 4 =>
    if 2 ^ 30 ≤ x then .error cSpace
    else localHit ((dieOff s c.pkg job (x % 2 ^ 28)).map (locOf 1 (c.pkg * 4 + x / 2 ^ 28)))
  | 5 =>
    if 2 ^ 29 ≤ x then .error cSpace
    else localHit ((clusterOff s c.pkg job (x % 2 ^ 23)).map (locOf 2 ((c.pkg * 4 + x / 2 ^ 27) * 16 + x / 2 ^ 23 % 16)))
  | 15 => .error cDevice
  | _ => .error cSpace

/-- The location of one byte address of a gang. -/
def gangByte (s : State) (g : Gang) (a : Word) : Except Nat Hit := mapByte s g.at_ g.job (scratchOf s g) a

/-- The local window of an address (01 R19, R21, R27): instance and offset fields of its tag, and whether the offset lies in the
transpose range of a cluster window; 0 in the global and the device space, whose bytes are mapped one by one. -/
def windowOf (a : Word) : Nat :=
  let x := a.toNat
  match x / 2 ^ 60 with
  | 1 => x / 2 ^ 18
  | 2 | 5 => x / 2 ^ 23 * 2 + (if 0x600000 ≤ x % 2 ^ 23 then 1 else 0)
  | 3 | 4 => x / 2 ^ 28
  | _ => 0
/-- The bytes of one lane's access from address `a`, or the fault of its first faulting byte (01 R27, 04 R159); `need` is the
permission that the access must have. An access that runs from a local window into what lies behind it faults at the first byte behind:
the manual does not say with which cause where the address of that byte has another instance or tag, and the model takes the local-bound
fault throughout (DESIGN CHOICE, log 31). -/
def spanHits (f : Word → Except Nat Hit) (need : BitVec 4) (info : Word) : Nat → Word → Except Trap (List Hit)
  | 0, _ => .ok []
  | n + 1, a =>
    match f a with
    | .error c => .error ⟨c, a, info⟩
    | .ok h =>
      if h.perm &&& need ≠ need then .error ⟨cPermission, a, info⟩
      else if n ≠ 0 && windowOf (a + 1) ≠ windowOf a then .error ⟨cBound, a + 1, info⟩
      else match spanHits f need info n (a + 1) with
        | .error t => .error t
        | .ok r => .ok (h :: r)
/-- One lane of a checked access: lane, address and the hits of its bytes. -/
structure LaneAcc where
  lane : Nat
  addr : Word
  hits : List Hit
deriving DecidableEq, Repr
/-- The checked accesses of the lanes of a list, or the fault of the lowest faulting lane (04 R159). -/
def checkLanes (f : Word → Except Nat Hit) (need : BitVec 4) (n : Nat) : List (Nat × Word) → Except Trap (List LaneAcc)
  | [] => .ok []
  | (l, a) :: r =>
    match spanHits f need (wd l) n a with
    | .error t => .error t
    | .ok h => match checkLanes f need n r with
      | .error t => .error t
      | .ok t => .ok (⟨l, a, h⟩ :: t)

/-- The fault of a branch target outside executable global space (01 R29, R33), if any. -/
def execFault (s : State) (g : Gang) (a : Word) : Option Trap :=
  if a.toNat / 2 ^ 56 ≠ 0 then some ⟨cSpace, a, 0⟩
  else match spanHits (gangByte s g) permX 0 4 a with
    | .error t => some ⟨t.cause, t.addr, 0⟩
    | .ok _ => none
/-- The checks of a transfer target: R29, then R267 (10 R307 rows 4 and 5). -/
def targetFault (s : State) (g : Gang) (a : Word) : Option Trap :=
  match execFault s g a with
  | some t => some t
  | none => if codeMark s g a = 1 then none else some ⟨cBadTarget, a, 0⟩

/-- The 32-bit word that an instruction fetch reads at an address: its value, or the trap that the fetch raises (01 R29,
R33, 18 R474). -/
def fetchWord (s : State) (g : Gang) (a : Word) : Except Trap W32 :=
  match spanHits (gangByte s g) permX 0 4 a with
  | .error t => .error ⟨t.cause, t.addr, 0⟩
  | .ok hs =>
    if hs.any (fun h => poisoned s h.loc) then .error ⟨cFetch, a, 0⟩
    else .ok (BitVec.ofNat 32 (leNat (hs.map (fun h => homeByte s h.loc h.key))))

/-- A word of the identification page (17 R465) for a gang. -/
def idWord (s : State) (g : Gang) (off : Nat) : Word :=
  let count := match podOf s g.at_.pkg with
    | some p => p.count
    | none => 1
  let proto := match jobOn s g.at_.pkg g.job with
    | some j => j.proto
    | none => (0, 0)
  match off with
  | 0x000 => Config.deviceCode
  | 0x008 => Config.stepping
  | 0x010 => wd (g.at_.pkg % 1024 + count * 2 ^ 16)
  | 0x018 => Config.clockHz
  | 0x020 => Config.finaliserVersion.setWidth 64
  | 0x028 => wd (proto.1 * 2 ^ 16 + proto.2)
  | 0x030 => wd g.job
  | _ => 0
/-- Whether an address lies in the identification page at a multiple of 8 (01 R25). -/
def idAddr (a : Word) : Bool := a.toNat / 2 ^ 60 = 15 && a.toNat % 2 ^ 60 ≤ 0xFF8 && a.toNat % 8 = 0

end Sys2Proof.Machine
end

