-- ==== Sys2Proof/Machine/Operands.lean ====
section
/-! DEFINITION. The operand forms (09 R275 to R278, 11 R327, R328, 12 R357, R364, R367, R370) and where results go: scalar,
mask and vector results on their way for the latency of their instruction (16 R425). -/

namespace Sys2Proof.Machine

/-- The lane that a route reads for lane `l` (09 R277). -/
def routeLane (r : Route) (l : Nat) : Nat :=
  match r with
  | .none | .scalar => l
  | .rot1 => (l + 1) % 32
  | .rot2 => (l + 2) % 32
  | .rot4 => (l + 4) % 32
  | .rot8 => (l + 8) % 32
  | .rot16 => (l + 16) % 32
  | .xor1 => l ^^^ 1
  | .xor2 => l ^^^ 2
  | .xor4 => l ^^^ 4
  | .xor8 => l ^^^ 8
  | .xor16 => l ^^^ 16
  | .mir => 31 - l
  | .b0 => 0
  | .b31 => 31
/-- Bits [31:0] of a scalar. -/
def lo32 (x : Word) : W32 := x.setWidth 32
/-- src_b(l) of a routed instruction (09 R277). -/
def routed (g : Gang) (b : Reg) (r : Route) (l : Nat) : W32 :=
  match r with
  | .scalar => lo32 (sreg g b)
  | _ => lane (vreg g b) (routeLane r l)
/-- The vector registers that a routed rb names: none for route 14 (09 R278). -/
def routedRegs (b : Reg) (r : Route) : List (Reg × Nat) := if r = .scalar then [] else [(b, 1)]
/-- b of an S-form instruction (11 R328). -/
def sForm (g : Gang) (b : Reg) (x : Bool) (l : Nat) : W32 := if x then lo32 (sreg g b) else lane (vreg g b) l
/-- The vector registers that an S-form rb names (11 R328). -/
def sRegs (b : Reg) (x : Bool) : List (Reg × Nat) := if x then [] else [(b, 1)]
/-- a of lane `l`. -/
def srcA (g : Gang) (a : Reg) (l : Nat) : W32 := lane (vreg g a) l

/-- Write a scalar result of latency `lat` (10 R322). -/
def putS (lat : Nat) (d : Reg) (x : Word) (s : State) : State := fixed lat (.s d.toNat x) s
/-- Write a mask result (11 R337). -/
def putK (lat : Nat) (d : BitVec 3) (x : W32) (s : State) : State := fixed lat (.k d.toNat x) s
/-- Write a vector result to the active lanes (11 R329). -/
def putV (lat : Nat) (d : Reg) (f : Nat → W32) (s : State) : State :=
  fixed lat (.v (vnum s.g d) (execMask s.g) (mkLanes f)) s
/-- A mask of the active lanes where a condition holds (11 R337). -/
def maskActive (g : Gang) (f : Nat → Bool) : W32 := maskOf (fun l => inMask (execMask g) l && f l)
/-- The flags that the active lanes raise (05 R185). -/
def flagsActive (g : Gang) (f : Nat → Fl) : Fl := (lanesOf (execMask g)).foldl (fun a l => a ||| f l) 0
/-- Write a vector result with flags: they reach `%fpcsr` with the result (05 R174). -/
def putVF (lat : Nat) (d : Reg) (f : Nat → W32 × Fl) (s : State) : State :=
  fixed lat (.fp (flagsActive s.g (fun l => (f l).2))) (putV lat d (fun l => (f l).1) s)
/-- A vector instruction: the register-block check of its registers, then its effect and completion (09 R279, 11 R332). -/
def vecOp (regs : List (Reg × Nat)) (k : State → State) (s : State) : Out :=
  match blockTrap s.g regs with
  | some t => .next (raise t s)
  | none => .next (next (k s))

/-- Bytes of an access size (12 R357). -/
def sizeBytes : Size → Nat
  | .b => 1
  | .h => 2
  | .w => 4
  | .d => 8
/-- Registers per lane element (12 R357). -/
def sizeRegs : Size → Nat
  | .b | .h | .w => 1
  | .d => 2
/-- The vector registers that an address form names. -/
def addrRegs : AddrForm → List (Reg × Nat)
  | .vz b => [(b, 1)]
  | .vs b => [(b, 1)]
  | .lin => []
/-- a(l) of `ld`, `st` and `pref` (12 R357). -/
def laneAddr (g : Gang) (a : Reg) (f : AddrForm) (size l : Nat) : Word :=
  match f with
  | .vz b => sreg g a + (lane (vreg g b) l).setWidth 64
  | .vs b => sreg g a + (lane (vreg g b) l).signExtend 64
  | .lin => sreg g a + wd (size * l)
/-- The addresses of the active lanes. -/
def laneAddrs (g : Gang) (f : Nat → Word) : List (Nat × Word) := (lanesOf (execMask g)).map (fun l => (l, f l))
/-- The address of a scalar access (12 R364). -/
def offAddr (g : Gang) (a : Reg) (o : BitVec 9) (size : Nat) : Word := sreg g a + o.signExtend 64 * wd size
/-- The offset of element (i, j) in a scratchpad tile (12 R366). -/
def tileOff (sk : Bool) (i j : Nat) : Nat := 128 * i + 4 * (if sk then (i + j) % 32 else j)
/-- The address of register `i`, lane `l` of a register block (12 R370). -/
def blockAddr (g : Gang) (a b : Reg) (i l : Nat) : Word :=
  if b = 0 then sreg g a + wd (128 * i + 4 * l) else sreg g a + sreg g b * wd l + wd (4 * i)

end Sys2Proof.Machine
end

