-- ==== Sys2Proof/Machine/Control.lean ====
section
/-! DEFINITION. Meanings of group 0: transfers, divergence, ending, traps and register blocks (10 R302 to R321, 03 R93 to
R101, R114 to R121), with the events of the path table and the block pool. -/

namespace Sys2Proof.Machine

/-- The path continues at a target; its first instruction issues no earlier than 4 cycles later (16 R426). -/
def jump (a : Word) (s : State) : State :=
  let t := setPc a s
  { t with g := { t.g with notBefore := max t.g.notBefore (s.cycle + 4) } }
/-- A B-format target relative to the clause header (09 R271). -/
def relTarget (s : State) (o : BitVec 18) : Word := s.iss.hdr + o.signExtend 64 * 4
/-- An indirect target (10 R302). -/
def regTarget (s : State) (a : Reg) (o : BitVec 18) : Word := sreg s.g a + o.signExtend 64 * 4

/-- `nop` (10 R321). -/
def execNop (s : State) : Out := .next (next s)
/-- `bra` to a target (10 R304). -/
def braTo (t : Word) (s : State) : State := orTrap (targetFault s s.g t) (jump t) s
/-- `bra label` (10 R302, R304). -/
def execBra (o : BitVec 18) (s : State) : Out := .next (braTo (relTarget s o) s)
/-- `bra sN` (10 R302, R304). -/
def execBraIndirect (a : Reg) (o : BitVec 18) (s : State) : Out := .next (braTo (regTarget s a o) s)
/-- `brc`: the target is checked whether or not it is taken (10 R304). -/
def brcTo (taken : Bool) (t : Word) (s : State) : State :=
  orTrap (targetFault s s.g t) (fun s => if taken then jump t s else next s) s
/-- `brc.nz` (10 R302, R304). -/
def execBrcNz (n : BitVec 6) (o : BitVec 18) (s : State) : Out :=
  .next (brcTo (sreg s.g (n.setWidth 7) ≠ 0) (relTarget s o) s)
/-- `brc.z` (10 R302, R304). -/
def execBrcZ (n : BitVec 6) (o : BitVec 18) (s : State) : Out :=
  .next (brcTo (sreg s.g (n.setWidth 7) = 0) (relTarget s o) s)
/-- `call` to a target: the checks in the order of R307, then the push (10 R304). -/
def callTo (t : Word) (s : State) : State :=
  if pathCount s.g ≠ 1 then raise ⟨cDivergent, 0, 0⟩ s
  else orTrap (targetFault s s.g t) (fun s =>
    if 16 ≤ s.g.rstack.length then raise ⟨cCallDepth, 0, 0⟩ s
    else jump t { s with g := { s.g with rstack := (pcOf s + 4) :: s.g.rstack } }) s
/-- `call label` (10 R302, R304). -/
def execCall (o : BitVec 18) (s : State) : Out := .next (callTo (relTarget s o) s)
/-- `call sN` (10 R302, R304). -/
def execCallIndirect (a : Reg) (o : BitVec 18) (s : State) : Out := .next (callTo (regTarget s a o) s)
/-- `ret` (10 R304, R306). -/
def execRet (s : State) : Out :=
  .next (if pathCount s.g ≠ 1 then raise ⟨cDivergent, 0, 0⟩ s
    else match s.g.rstack with
      | [] => raise ⟨cUnderflow, 0, 0⟩ s
      | t :: r => orTrap (targetFault s s.g t) (fun s => jump t { s with g := { s.g with rstack := r } }) s)

/-- The free entry that a split takes: the lowest that holds neither a path nor a frame, else the lowest that holds no path. 03 R93 asks
for a free entry alone: which one is the model's choice (DESIGN CHOICE, log 15). -/
def freeEntry (g : Gang) : Option (Fin 16) :=
  match (List.finRange 16).find? (fun i => (g.paths[i]).state = .free && !(g.paths[i]).joinV) with
  | some i => some i
  | none => (List.finRange 16).find? (fun i => (g.paths[i]).state = .free)
/-- Move the frame that entry `i` holds to entry `j`, with every reference to it: 03 R93 names no place for it when its path splits
again (DESIGN CHOICE, log 15). -/
def moveFrame (i j : Fin 16) (ps : Vector PathEntry 16) : Vector PathEntry 16 :=
  let e := ps[i]
  let ps := ps.map (fun p =>
    { p with frame := if p.frameV && p.frame = i then j else p.frame
             parent := if p.parentV && p.parent = i then j else p.parent })
  let ps := ps.set j { ps[j] with joinV := true, members := e.members, join := e.join, parentV := e.parentV, parent := e.parent }
  ps.set i { ps[i] with joinV := false, members := 0, join := 0, parentV := false, parent := 0 }
/-- An entry, other than `q`, that can hold a frame: one without one. -/
def frameHome (ps : Vector PathEntry 16) (q : Fin 16) : Fin 16 :=
  if (ps[q]).joinV then ((List.finRange 16).find? (fun i => !(ps[i]).joinV)).getD q else q
/-- The split of R93 into T (taken) and F, with new entry `q`. -/
def splitPath (q : Fin 16) (t f : W32) (target joinAddr fall : Word) (g : Gang) : Gang :=
  let i := g.act
  let ps := if (g.paths[i]).joinV then moveFrame i (frameHome g.paths q) g.paths else g.paths
  let p := ps[i]
  let ps := ps.set i { p with
    lanes := t, exec := p.exec &&& t, pc := target, frameV := true, frame := i
    joinV := true, members := p.lanes, join := joinAddr, parentV := p.frameV, parent := if p.frameV then p.frame else 0 }
  let ps := ps.set q { ps[q] with
    lanes := f, exec := p.exec &&& f, state := .ready, pc := fall, frameV := true, frame := i, age := 0 }
  { g with paths := ps }
/-- Whether a clause header's body 0 is `join` (03 R94). -/
def joinAt (s : State) (a : Word) : Bool :=
  match fetchWord s s.g (a + 4) with
  | .ok w => w = 0x08000000
  | .error _ => false
/-- `brd` (10 R308, R310, 03 R93, R94). -/
def execBrd (k : BitVec 3) (o j : BitVec 18) (s : State) : Out :=
  let target := relTarget s o
  let joinAddr := relTarget s j
  let p := path s.g
  let t := mreg s.g k &&& p.lanes
  let f := p.lanes &&& ~~~(mreg s.g k)
  .next (orTrap (targetFault s s.g target) (orTrap (targetFault s s.g joinAddr) (fun s =>
    if !joinAt s joinAddr then raise ⟨cBadJoin, joinAddr, 0⟩ s
    else if f = 0 then jump target s
    else if t = 0 then setPc (pcOf s + 8) s
    else match freeEntry s.g with
      | none => raise ⟨cPathOverflow, 0, 0⟩ s
      | some q => jump target { s with g := splitPath q t f target joinAddr (pcOf s + 8) s.g })) s)

/-- The lanes of the paths that are parked at the join of frame `f`. -/
def parkedLanes (f : Fin 16) (g : Gang) : W32 :=
  (List.finRange 16).foldl (fun m i =>
    let e := g.paths[i]
    if e.state = .parked && e.frameV && e.frame = f then m ||| e.lanes else m) 0
/-- Remove the frame that an entry holds. -/
def clearFrame (f : Fin 16) (g : Gang) : Gang :=
  { g with paths := g.paths.set f { g.paths[f] with joinV := false, members := 0, join := 0, parentV := false, parent := 0 } }
/-- The merge of R95: the parked paths of frame `f` become one path, in the lowest of their entries; answers that entry. -/
def mergeFrame (f : Fin 16) (g : Gang) : Option (Fin 16) × Gang :=
  let fr := g.paths[f]
  let es := (List.finRange 16).filter (fun i =>
    (g.paths[i]).state = .parked && (g.paths[i]).frameV && (g.paths[i]).frame = f)
  match es with
  | [] => (none, clearFrame f g)
  | i :: rest =>
    let ex := es.foldl (fun m j => m ||| (g.paths[j]).exec) 0
    let ps := rest.foldl (fun ps j => ps.set j { ps[j] with
      lanes := 0, exec := 0, state := .free, frameV := false, frame := 0, pc := 0, age := 0 }) g.paths
    let ps := ps.set i { ps[i] with
      lanes := fr.members, exec := ex, state := .ready, frameV := fr.parentV, frame := fr.parent, age := 0 }
    (some i, clearFrame f { g with paths := ps })
/-- `join` at its clause header's address (10 R309, 03 R95): parks, merges or has no effect. A path that has parked gives way to the
ready path of highest age, the merged one among them, which goes on at once where it is that one (03 R95, R99, log 28). -/
def joinPath (hdr : Word) (after : Word) (g : Gang) : Gang :=
  let p := path g
  let f := p.frame
  if !p.frameV || (g.paths[f]).join ≠ hdr then setPath g { p with pc := after }
  else
    let g := setPath g { p with state := .parked, pc := after }
    if (g.paths[f]).members &&& ~~~(parkedLanes f g) = 0 then
      match mergeFrame f g with
      | (some i, h) => if h.inh || bestReady h = some i then { h with act := i } else takeOver h
      | (none, h) => h
    else takeOver g
/-- `join` (10 R309). -/
def execJoin (s : State) : Out := .next { s with g := joinPath s.iss.hdr (pcOf s + 4) s.g }

/-- Lanes leave the members of a frame and of every frame that encloses it, and frames whose remaining members are all
parked merge (03 R96). -/
def leaveFrames (lanes : W32) : Nat → Fin 16 → Gang → Gang
  | 0, _, g => g
  | n + 1, f, g =>
    let fr := g.paths[f]
    let g := { g with paths := g.paths.set f { fr with members := fr.members &&& ~~~lanes } }
    let g :=
      if fr.members &&& ~~~lanes = 0 then clearFrame f g
      else if fr.members &&& ~~~lanes &&& ~~~(parkedLanes f g) = 0 then (mergeFrame f g).2 else g
    if fr.parentV then leaveFrames lanes n fr.parent g else g
/-- The active path ends (03 R96): its lanes leave their frames, and another path takes over or the gang ends. -/
def endPath (g : Gang) : Gang :=
  let p := path g
  let g := setPath g { p with lanes := 0, exec := 0, state := .free, frameV := false, frame := 0, pc := 0, age := 0 }
  let g := if p.frameV then leaveFrames p.lanes 16 p.frame g else g
  if pathCount g = 0 then endGang none g else takeOver g
/-- `term`: every path and lane ends, and the launch child fails with `%xcause` (10 R313). -/
def termGang (g : Gang) : Gang := endGang (some (g.xcause.toNat, g.level)) g
/-- `exit` (10 R311, R312): inside a handler it acts as `term`. -/
def execExit (s : State) : Out :=
  .next (if s.g.inh then { dropWaits s.g.uid s with g := termGang s.g } else { s with g := endPath s.g })
/-- `term` (10 R313): a queue operation that another path has sent and that is not accepted has no effect (08 R258). -/
def execTerm (s : State) : Out := .next { dropWaits s.g.uid s with g := termGang s.g }

/-- The gang is not eligible in the cycle after this one (03 R109, 10 R314). -/
def skipCycle (s : State) : State := { s with g := { s.g with notBefore := max s.g.notBefore (s.cycle + 2) } }
/-- `yield` (10 R314). -/
def execYield (s : State) : Out := .next (skipCycle (next s))
/-- `yield.path` (10 R314). -/
def execYieldPath (s : State) : Out :=
  let t := skipCycle (next s)
  .next { t with g := giveWay t.g }
/-- `trap imm` (10 R315): the handler returns to the instruction after it. -/
def execTrap (i : BitVec 11) (s : State) : Out := .next (enterTrap ⟨cSoftware, 0, i.setWidth 64⟩ (pcOf s + 4) s)
/-- `bkpt` (10 R316). -/
def execBkpt (s : State) : Out := .next (enterTrap ⟨cBreakpoint, 0, 0⟩ (pcOf s + 4) s)
/-- `tret` (10 R317): outside a handler it is illegal; a target that is no header or body word is a bad target. -/
def execTret (s : State) : Out :=
  .next (if !s.g.inh then illegal 0x16000000 s
    else orTrap (execFault s s.g s.g.xpc) (fun s =>
      if codeMark s s.g s.g.xpc = 1 || codeMark s s.g s.g.xpc = 2 then
        let t := leaveTrap s
        { t with g := { t.g with notBefore := max t.g.notBefore (s.cycle + 4) } }
      else raise ⟨cBadTarget, s.g.xpc, 0⟩ s) s)
/-- The fate of an illegal body word (09 R280). -/
def execIllegalInstruction (w : W32) (s : State) : Out := .next (illegal w s)

/-- Every ready path but the active one and path `k`, whose instruction it is, ages by one instruction, saturating at 255 (03 R92, R100);
none does in a handler (R123). -/
def ageBut (k : Nat) (g : Gang) : Gang :=
  if g.inh then g
  else { g with paths := ⟨((List.finRange 16).map (fun i =>
    let e := g.paths[i]
    if i ≠ g.act && i.val ≠ k && e.state = .ready then { e with age := min 255 (e.age + 1) } else e)).toArray, by simp⟩ }
/-- Every ready path but the active one ages by one instruction (03 R92, R100). -/
def agePaths (g : Gang) : Gang := ageBut g.act.val g
/-- The instruction at which path `k` waits completes at cycle `now` by an event: it counts as the gang's instruction of that cycle, and
the path continues at the next word (03 R99, R100, R105, R109, 12 R362). -/
def completeWait (now k : Nat) (yield : Bool) (g : Gang) : Gang :=
  let h := settle now (ageBut k g)
  { h with
    paths := h.paths.setIfInBounds k { entry h k with pc := (entry h k).pc + 4 }
    blocked := if k = h.act.val then false else h.blocked
    tookOver := if k = h.act.val then false else h.tookOver
    eligFrom := none
    memHold := false
    icount := h.icount + 1
    lastIssue := now
    notBefore := max h.notBefore (if yield then now + 2 else 0) }

/-- The blocks that a costart launch reserves for each of its children (03 R119); 0 for any other launch. -/
def reservedFor (s : State) (g : Gang) : Nat :=
  match s.launches.find? (fun l => l.id = g.launch) with
  | some l => l.reserved
  | none => 0
/-- The blocks that a gang keeps from the pool: those that it holds, or its costart reservation (03 R116, R119). -/
def blockClaim (s : State) (g : Gang) : Nat := max g.blocks (reservedFor s g)
/-- Free extended blocks of a core's pool as a resuming gang finds them (03 R116, R119). -/
def rawBlocks (s : State) (c : Coords) : Nat :=
  Config.corePool -
    ((gangs s).filter (fun g => g.phase = .running && unitOf 1 g.at_ = unitOf 1 c)).foldl (fun n g => n + blockClaim s g) 0
/-- Whether the slots that a saved gang takes back hold no gang (18 R496, R497). -/
def homeFree (s : State) (g : Gang) : Bool :=
  let mine (c : Coords) : Bool := c = g.at_ || (g.pair && c = { g.at_ with slot := g.at_.slot + 1 })
  !(s.g :: s.others).any (fun h => inSlot h && (mine h.at_ || (h.pair && mine { h.at_ with slot := h.at_.slot + 1 })))
/-- The saved gangs that a Resume is restoring and whose slots are free. -/
def resumable (s : State) : List Gang :=
  s.images.flatMap (fun i => if i.resuming.isSome && i.gangs.all (fun g => g.pend.isEmpty) then
    i.gangs.filter (fun g => !i.stopped.contains g.uid && homeFree s g) else [])
/-- Free extended blocks of a core's pool: a resuming gang is served ahead of every other claim (03 R121). -/
def freeBlocks (s : State) (c : Coords) : Nat :=
  rawBlocks s c - ((resumable s).filter (fun g => unitOf 1 g.at_ = unitOf 1 c)).foldl (fun n g => n + blockClaim s g) 0
/-- The registers of blocks 1 to `n` after an acquire: their contents are undefined (03 R116, log 6). -/
def freshBlocks (n fresh : Nat) (v : Vector Lanes 256) : Vector Lanes 256 :=
  ⟨((List.range 256).map (fun r =>
    if 64 ≤ r && r < 64 * (n + 1) then mkLanes (fun l => Config.freeWord (fresh + 32 * r + l))
    else (v[r]?).getD (Vector.replicate 32 0))).toArray, by simp⟩
/-- A gang acquires extended blocks 1 to `n` (03 R116). -/
def grantBlocks (n fresh : Nat) (g : Gang) : Gang :=
  { g with blocks := n, v := freshBlocks n fresh g.v }
/-- `rget` (10 R319, R320, 03 R116, R117, R119): from a reservation at once; else it waits behind every earlier waiter
of its core. -/
def execRget (n : BitVec 11) (s : State) : Out :=
  let k := n.toNat
  .next (if pathCount s.g ≠ 1 then raise ⟨cDivergent, 0, 0⟩ s
    else if s.g.blocks ≠ 0 then raise ⟨cRegBlock, 0, (Config.freeByte s.fresh).setWidth 64⟩ { s with fresh := s.fresh + 1 }
    else if k ≤ reservedFor s s.g ||
        (k ≤ freeBlocks s s.g.at_ && !s.rgetQ.any (fun t => unitOf 1 t.at_ = unitOf 1 s.g.at_)) then
      next { s with g := { grantBlocks k s.fresh s.g with notBefore := max s.g.notBefore (s.cycle + 4) }
                    fresh := s.fresh + 8192 }
    else if s.rgetQ.any (fun t => t.uid = s.g.uid) then block s
    else block { s with rgetQ := s.rgetQ ++ [⟨s.g.uid, s.g.at_, k, false, s.g.act, s.iss.yield⟩] })
/-- RGET_GRANT (03 R117): the oldest `rget` that waits on a core is served once its blocks are free. -/
def execRgetGrant (c : Coords) (s : State) : Out :=
  .next (match s.rgetQ.find? (fun t => unitOf 1 t.at_ = unitOf 1 c) with
    | none => s
    | some t =>
      if freeBlocks s c < t.n then s
      else
        { onGang t.uid (fun g => completeWait s.cycle t.path t.yield (grantBlocks t.n s.fresh g)) s with
          rgetQ := s.rgetQ.filter (fun u => u.uid ≠ t.uid)
          fresh := s.fresh + 8192 })
/-- `rput` (10 R319, 03 R118). -/
def execRput (s : State) : Out :=
  .next (if pathCount s.g ≠ 1 then raise ⟨cDivergent, 0, 0⟩ s else next { s with g := { s.g with blocks := 0 } })
/-- `winb` (10 R319, 03 R114). -/
def execWinb (b : BitVec 11) (s : State) : Out :=
  .next (if pathCount s.g ≠ 1 then raise ⟨cDivergent, 0, 0⟩ s
    else next { s with g := { s.g with window := b.toNat } })

/-- The lowest ready path, other than the active one, whose age has reached 255 (03 R100). -/
def agedPath (g : Gang) : Option (Fin 16) :=
  (List.finRange 16).find? (fun i => i ≠ g.act && (g.paths[i]).state = .ready && 255 ≤ (g.paths[i]).age)
/-- Whether an aged path takes over at this boundary (03 R100): none does in a handler (R123), while the gang sleeps or stands in the
order of a tile (R99, 13 R398), or after another has done so at the same boundary. -/
def ageDue (g : Gang) : Bool := !g.inh && !g.tookOver && g.hold = .none && (agedPath g).isSome
/-- An aged path takes over; the displaced one is ready with age 0 (03 R100, 16 R426). -/
def ageOver (g : Gang) : Gang :=
  match ageDue g, agedPath g with
  | true, some i => { activate i (setPath g { path g with age := 0 }) with
      tookOver := true, blocked := false, notBefore := max g.notBefore (g.lastIssue + 4) }
  | _, _ => g
/-- The paths that an instruction ages by its issue: the ready ones but the active one that are not saturated (03 R92, R100). -/
def agedBy (g : Gang) : BitVec 16 :=
  if g.inh then 0
  else (List.finRange 16).foldl (fun m (i : Fin 16) =>
    if i ≠ g.act && (g.paths[i]).state = .ready && (g.paths[i]).age < 255 then m ||| (1#16 <<< i.val) else m) 0
/-- PATH_AGEING_TAKEOVER (03 R100). -/
def execPathAgeingTakeover (c : Coords) (s : State) : Out :=
  .next (match gangAt s c with
    | some g => if g.phase = .running then onGang g.uid ageOver s else s
    | none => s)

end Sys2Proof.Machine
end

