-- ==== Sys2Proof/Machine/Scalar.lean ====
section
/-! DEFINITION. Meanings of group 1, the scalar instructions (10 R296 to R301, R322 to R326). None of them traps but for
the words that the decoder refuses and a reserved rounding mode written to `%fpcsr`. -/

namespace Sys2Proof.Machine

/-- `sadd` and `ssub` results (10 R323): `v` is the exact signed result of the wrapping form, `u` the unsigned one. -/
def clampS (v : Int) : Word := BitVec.ofInt 64 (max (-(2 ^ 63 : Int)) (min (2 ^ 63 - 1) v))
/-- `sadd` (10 R323). -/
def saddVal (m : SAddOp) (a b : Word) : Word :=
  match m with
  | .wrap => a + b
  | .w => (lo32 (a + b)).setWidth 64
  | .ss => clampS (a.toInt + b.toInt)
  | .us => wd (min (a.toNat + b.toNat) (2 ^ 64 - 1))
/-- `ssub` (10 R323). -/
def ssubVal (m : SAddOp) (a b : Word) : Word :=
  match m with
  | .wrap => a - b
  | .w => (lo32 (a - b)).setWidth 64
  | .ss => clampS (a.toInt - b.toInt)
  | .us => wd (a.toNat - b.toNat)
/-- `smul` (10 R323). -/
def smulVal (m : SMulOp) (a b : Word) : Word :=
  match m with
  | .lo => a * b
  | .hs => (BitVec.ofInt 128 (a.toInt * b.toInt)).extractLsb' 64 64
  | .hu => (BitVec.ofNat 128 (a.toNat * b.toNat)).extractLsb' 64 64
  | .ww => wd ((lo32 a).toNat * (lo32 b).toNat)
/-- The second operand of `sand`, `sor` and `sxor`, inverted in the `.n` forms (10 R323). -/
def slogB (m : SLogOp) (b : Word) : Word :=
  match m with
  | .plain => b
  | .inv => ~~~b
/-- `sshl` (10 R323): c is bits [5:0] of b. -/
def sshlVal (m : SShlOp) (a b : Word) : Word :=
  match m with
  | .shl => a <<< (b.toNat % 64)
  | .rol => a.rotateLeft (b.toNat % 64)
/-- `sshr` (10 R323). -/
def sshrVal (m : ShrOp) (a b : Word) : Word :=
  match m with
  | .shr => a >>> (b.toNat % 64)
  | .sra => a.sshiftRight (b.toNat % 64)
  | .ror => a.rotateRight (b.toNat % 64)
/-- Minimum and maximum of two values of any width (10 R323, 11 R336). -/
def minMaxVal {w : Nat} (m : MinMaxOp) (a b : BitVec w) : BitVec w :=
  match m with
  | .min => if b.slt a then b else a
  | .max => if a.slt b then b else a
  | .minu => if b.ult a then b else a
  | .maxu => if a.ult b then b else a
/-- An integer comparison of any width (10 R323, 11 R337). -/
def cmpVal {w : Nat} (m : CmpOp) (a b : BitVec w) : Bool :=
  match m with
  | .eq => a = b
  | .ne => a ≠ b
  | .lt => a.slt b
  | .ge => !a.slt b
  | .ltu => a.ult b
  | .geu => !a.ult b
/-- The condition of `ssel` on the old destination (10 R323). -/
def sselCond (m : SSelOp) (old : Word) : Bool :=
  match m with
  | .nz => old ≠ 0
  | .neg => old.getLsbD 63
/-- `slogi` (10 R325). -/
def slogiVal (f : SLogiOp) (a : Word) (i : BitVec 8) : Word :=
  match f with
  | .and => a &&& i.signExtend 64
  | .or => a ||| i.signExtend 64
  | .xor => a ^^^ i.signExtend 64
  | .shl => a <<< i.toNat
  | .shr => a >>> i.toNat
  | .sra => a.sshiftRight i.toNat
  | .ror => a.rotateRight i.toNat
  | .ins => a * 256 ||| i.setWidth 64
/-- Number of set bits below bit `n`. -/
def popBelow (a : Word) : Nat → Nat
  | 0 => 0
  | n + 1 => popBelow a n + if a.getLsbD n then 1 else 0
/-- Zero bits above the highest set bit below bit `n`. -/
def clzBelow (a : Word) : Nat → Nat
  | 0 => 0
  | n + 1 => if a.getLsbD n then 0 else clzBelow a n + 1
/-- Zero bits from bit 64 − n up to the lowest set bit. -/
def ctzFrom (a : Word) : Nat → Nat
  | 0 => 0
  | n + 1 => if a.getLsbD (63 - n) then 0 else ctzFrom a n + 1
/-- Bit i of the result is bit 63 − i. -/
def brev64 (a : Word) : Word := a.reverse
/-- Byte i of the result is byte 7 − i. -/
def bswap64 (a : Word) : Word :=
  (((((((a.extractLsb' 0 8 ++ a.extractLsb' 8 8) ++ a.extractLsb' 16 8) ++ a.extractLsb' 24 8) ++ a.extractLsb' 32 8) ++
    a.extractLsb' 40 8) ++ a.extractLsb' 48 8) ++ a.extractLsb' 56 8)
/-- lo of `.ext` and `.exts` (10 R324). -/
def extLo (b : Word) : Nat := fld b 5 0
/-- w of `.ext` and `.exts` (10 R324). -/
def extW (b : Word) : Nat := min (fld b 14 8) 64
/-- `sbit.ext` (10 R324). -/
def extVal (a b : Word) : Word := wd (a.toNat / 2 ^ extLo b % 2 ^ extW b)
/-- `sbit.exts` (10 R324). -/
def extsVal (a b : Word) : Word :=
  let w := extW b
  let v := a.toNat / 2 ^ extLo b % 2 ^ w
  if w ≠ 0 && v / 2 ^ (w - 1) = 1 then BitVec.ofInt 64 ((v : Int) - (2 ^ w : Nat)) else wd v

/-- A scalar result of latency 2 completes the instruction (16 R425). -/
def scal (d : Reg) (x : Word) (s : State) : Out := .next (next (putS 2 d x s))

/-- `sadd` (10 R323). -/
def execSadd (d a b : Reg) (m : SAddOp) (s : State) : Out := scal d (saddVal m (sreg s.g a) (sreg s.g b)) s
/-- `ssub` (10 R323). -/
def execSsub (d a b : Reg) (m : SAddOp) (s : State) : Out := scal d (ssubVal m (sreg s.g a) (sreg s.g b)) s
/-- `smul` (10 R323), of latency 4 (16 R425). -/
def execSmul (d a b : Reg) (m : SMulOp) (s : State) : Out :=
  .next (next (putS 4 d (smulVal m (sreg s.g a) (sreg s.g b)) s))
/-- `sand` (10 R323). -/
def execSand (d a b : Reg) (m : SLogOp) (s : State) : Out := scal d (sreg s.g a &&& slogB m (sreg s.g b)) s
/-- `sor` (10 R323). -/
def execSor (d a b : Reg) (m : SLogOp) (s : State) : Out := scal d (sreg s.g a ||| slogB m (sreg s.g b)) s
/-- `sxor` (10 R323). -/
def execSxor (d a b : Reg) (m : SLogOp) (s : State) : Out := scal d (sreg s.g a ^^^ slogB m (sreg s.g b)) s
/-- `sshl` (10 R323). -/
def execSshl (d a b : Reg) (m : SShlOp) (s : State) : Out := scal d (sshlVal m (sreg s.g a) (sreg s.g b)) s
/-- `sshr` (10 R323). -/
def execSshr (d a b : Reg) (m : ShrOp) (s : State) : Out := scal d (sshrVal m (sreg s.g a) (sreg s.g b)) s
/-- `sminmax` (10 R323). -/
def execSminmax (d a b : Reg) (m : MinMaxOp) (s : State) : Out := scal d (minMaxVal m (sreg s.g a) (sreg s.g b)) s
/-- `scmp` (10 R323). -/
def execScmp (d a b : Reg) (m : CmpOp) (s : State) : Out := scal d (if cmpVal m (sreg s.g a) (sreg s.g b) then 1 else 0) s
/-- `ssel` (10 R323). -/
def execSsel (d a b : Reg) (m : SSelOp) (s : State) : Out :=
  scal d (if sselCond m (sreg s.g d) then sreg s.g a else sreg s.g b) s
/-- `saddi` (10 R325). -/
def execSaddi (d a : Reg) (i : BitVec 11) (s : State) : Out := scal d (sreg s.g a + i.signExtend 64) s
/-- `slogi` (10 R325). -/
def execSlogi (d a : Reg) (f : SLogiOp) (i : BitVec 8) (s : State) : Out := scal d (slogiVal f (sreg s.g a) i) s
/-- `sli` (10 R325). -/
def execSli (d : Reg) (i : BitVec 18) (s : State) : Out := scal d (i.signExtend 64) s
/-- `sbit` (10 R324): `.tok` writes a lane mask, `.fromk` reads one. -/
def execSbit (d a b : Reg) (m : SBitOp) (s : State) : Out :=
  let x := sreg s.g a
  match m with
  | .popc => scal d (wd (popBelow x 64)) s
  | .clz => scal d (wd (clzBelow x 64)) s
  | .ctz => scal d (wd (ctzFrom x 64)) s
  | .brev => scal d (brev64 x) s
  | .bswap => scal d (bswap64 x) s
  | .ext => scal d (extVal x (sreg s.g b)) s
  | .exts => scal d (extsVal x (sreg s.g b)) s
  | .tok => .next (next (putK 2 (d.setWidth 3) (lo32 x) s))
  | .fromk => scal d ((mreg s.g (a.setWidth 3)).setWidth 64) s

/-- `%xctl` as a word (10 R300). -/
def xctl (g : Gang) : Word :=
  (if g.inh then 0x80 else 0) ||| (if g.prec then 0x40 else 0) ||| (if g.pair then 0x20 else 0) ||| if g.pme then 1 else 0
/-- `%cycle` of a gang's package: cycles since its last reset (10 R297). -/
def cycleOf (s : State) (g : Gang) : Nat :=
  match s.pkgs.find? (fun p => p.pkg = g.at_.pkg) with
  | some p => s.cycle - p.resetAt
  | none => s.cycle
/-- The value of special register `n` (10 R297), zero-extended. -/
def readSpr (s : State) (n : Nat) : Word :=
  let g := s.g
  match n with
  | 0x00 => (path g).exec.setWidth 64
  | 0x01 => (path g).lanes.setWidth 64
  | 0x03 => wd g.at_.slot
  | 0x04 => wd g.at_.core
  | 0x05 => wd g.at_.cluster
  | 0x06 => wd g.at_.die
  | 0x07 => wd g.at_.pkg
  | 0x08 => wd g.level
  | 0x09 => wd g.window
  | 0x0A => wd (cycleOf s g)
  | 0x0B => g.prio.setWidth 64
  | 0x0C => wd g.blocks
  | 0x0D => wd g.rstack.length
  | 0x10 => g.fpcsr.setWidth 64
  | 0x11 => g.lscale.setWidth 64
  | 0x12 => g.ovf
  | 0x14 => g.rkseed
  | 0x15 => g.rkid.setWidth 64
  | 0x16 => g.rkstep.setWidth 64
  | 0x17 => g.rkbase
  | 0x20 => g.xpc
  | 0x21 => g.xcause.setWidth 64
  | 0x22 => g.xaddr
  | 0x23 => g.xmask.setWidth 64
  | 0x24 => g.xinfo
  | 0x25 => xctl g
  | 0x26 => g.xvec
  | _ => 0
/-- The bits of `%fpcsr` that a write changes (05 R171). -/
def csrMask : W32 := 0x373F
/-- A write of special register `n`, keeping every RO and reserved bit (10 R298, R300); `%exec` stores new AND `%path`
(03 R89). -/
def writeSpr (n : Nat) (x : Word) (g : Gang) : Gang :=
  match n with
  | 0x00 => setPath g { path g with exec := lo32 x &&& (path g).lanes }
  | 0x10 => { g with fpcsr := (lo32 x &&& csrMask) ||| (g.fpcsr &&& ~~~csrMask) ||| g.orNow.setWidth 32 }
  | 0x11 => { g with lscale := lo32 x }
  | 0x12 => { g with ovf := (x &&& 0xFFFF) ||| (g.ovf &&& ~~~0xFFFF) }
  | 0x14 => { g with rkseed := x }
  | 0x15 => { g with rkid := lo32 x }
  | 0x16 => { g with rkstep := lo32 x }
  | 0x17 => { g with rkbase := x }
  | 0x20 => { g with xpc := x }
  | 0x25 => { g with pme := x.getLsbD 0 }
  | 0x26 => { g with xvec := x }
  | _ => g
/-- The writing forms of `sspr` (10 R298, R299): a write that would place 0b101 to 0b111 in rm traps. -/
def sprWrite (n : BitVec 8) (x : Word) (s : State) : Out :=
  if n = 0x10 && 5 ≤ fld x 10 8 then .next (raise ⟨cOperand, 0, 0⟩ s)
  else .next (next { s with g := writeSpr n.toNat x s.g })
/-- `sspr.rd` (10 R298). -/
def execSsprRd (d : Reg) (n : BitVec 8) (s : State) : Out := scal d (readSpr s n.toNat) s
/-- `sspr.wr` (10 R298). -/
def execSsprWr (a : Reg) (n : BitVec 8) (s : State) : Out := sprWrite n (sreg s.g a) s
/-- `sspr.or` (10 R298). -/
def execSsprOr (a : Reg) (n : BitVec 8) (s : State) : Out := sprWrite n (readSpr s n.toNat ||| sreg s.g a) s
/-- `sspr.andn` (10 R298). -/
def execSsprAndn (a : Reg) (n : BitVec 8) (s : State) : Out := sprWrite n (readSpr s n.toNat &&& ~~~sreg s.g a) s

end Sys2Proof.Machine
end

