-- ==== Sys2Proof/Machine/Issue.lean ====
section
/-! DEFINITION. How a gang's next instruction issues: the checks at a clause header (09 R263 to R269, 03 R103 to R109), the
traps that wait for a boundary (18 R475, R480), the store skid (12 R362), fetching, decoding, the issue resources (16 R424) and the
issue cycle. -/

namespace Sys2Proof.Machine

/-- What one step runs: an instruction or event on a prepared state, or nothing more; or a gang that is not eligible (03 R111), until a
cycle where only time is missing. -/
inductive Choice where
  | run (i : Instr) (s : State)
  | done (s : State)
  | hold (till : Option Nat)

/-- The header of the clause that holds a body word: the nearest marked header up to four words back (16 R444). -/
def hdrBack (s : State) (g : Gang) : Nat → Word → Option Word
  | 0, _ => none
  | n + 1, a => if codeMark s g a = 1 then some a else hdrBack s g n (a - 4)
/-- Header fields (09 R264). -/
def hWait (h : W32) : Nat := h.toNat / 2 ^ 20
def hSetA (h : W32) : Nat := h.toNat / 2 ^ 16 % 16
def hSetB (h : W32) : Nat := h.toNat / 2 ^ 12 % 16
/-- Body words of the clause. -/
def hCount (h : W32) : Nat := h.toNat / 2 ^ 10 % 4 + 1
/-- Distance of body `i`. -/
def hDist (h : W32) (i : Nat) : Nat := h.toNat / 2 ^ (8 - 2 * i) % 4
def hYield (h : W32) : Bool := h.getLsbD 1
/-- Whether a set field is legal: a flag, or 15 for none. -/
def setOk (f : Nat) : Bool := f < 12 || f = 15
/-- The positions of transfers, `join` and J words in a clause are legal (09 R266): `i` is the position of the head. -/
def shapeOk : Nat → List W32 → Bool
  | _, [] => true
  | i, w :: r =>
    if opOf w = 3 then r.length = 1
    else if transferWord w then r.isEmpty
    else (opOf w ≠ 4 || i = 0) && shapeOk (i + 1) r
/-- The body words that count as instructions: the J word after a `brd` does not. -/
def bodyWords : List W32 → List W32
  | [] => []
  | w :: r => if opOf w = 3 then [w] else w :: bodyWords r
/-- The clause checks at a header (03 R108, 09 R265, R266). -/
def headerOk (h : W32) (bodies : List W32) : Bool :=
  !h.getLsbD 0 && setOk (hSetA h) && setOk (hSetB h) &&
    ((List.range 4).all (fun i => i < hCount h || hDist h i = 0)) && shapeOk 0 bodies &&
    ((bodyWords bodies).filter flaggedWord).length ≤ 2
/-- Fetch `n` consecutive words. -/
def fetchWords (s : State) (g : Gang) : Nat → Word → Except Trap (List W32)
  | 0, _ => .ok []
  | n + 1, a =>
    match fetchWord s g a with
    | .error t => .error t
    | .ok w => match fetchWords s g n (a + 4) with
      | .error t => .error t
      | .ok r => .ok (w :: r)
/-- Every flag of a wait mask has count zero (03 R103). -/
def waitMet (g : Gang) (h : W32) : Bool := (List.range 12).all (fun f => hWait h / 2 ^ f % 2 = 0 || flagCount g f = 0)
/-- Whether every flag is zero (03 R110). -/
def flagsZero (g : Gang) : Bool := (List.range 12).all (fun f => flagCount g f = 0)
/-- The opcodes of memory, atomic and queue instructions (03 R105). -/
def memWord (w : W32) : Bool := (0x40 ≤ opOf w && opOf w ≤ 0x49) || (0x50 ≤ opOf w && opOf w ≤ 0x58)
/-- The flag that a body word counts on (09 R269): `before` are the earlier body words of its clause. -/
def flagFor (h w : W32) (before : List W32) : Nat :=
  if flaggedWord w then (if before.any flaggedWord then hSetB h else hSetA h) else 15

/-- The body word that would issue next on a path (18 R475): past a header that the path stands at. -/
def bodyPc (s : State) (g : Gang) : Word := if codeMark s g (path g).pc = 1 then (path g).pc + 4 else (path g).pc
/-- Whether the path stands at a clause boundary. -/
def atClause (s : State) (g : Gang) : Bool := codeMark s g (path g).pc = 1
/-- The trap that waits for the boundary at which the gang stands, if one does (18 R474, R475). In a handler, one that arose before it
waits for the `tret` (08 R250, log 29). -/
def dueDeferred (s : State) (g : Gang) : Option Deferred :=
  g.deferred.find? (fun d => (d.anyBoundary || atClause s g) && (!g.inh || d.inh))
/-- Whether the gang's oldest store without an ended W test, or a record of it that has still to enter the store-fault queue, is too old
for another instruction (12 R362, 18 R480). -/
def skidFull (s : State) (g : Gang) : Bool :=
  s.stores.any (fun r => r.uid = g.uid && r.global && !r.tested && r.seq + Config.skidLimit < g.icount + 1) ||
    (!g.inh && s.faults.any (fun f => f.uid = g.uid && f.seq + Config.skidLimit < g.icount + 1))
/-- The store-fault record to deliver at this boundary (18 R480, R481): the gang's first in arrival order, at a clause boundary, or where the
17th instruction after the store of any of its records would issue, outside a handler. -/
def dueFault (s : State) (g : Gang) : Option StoreFault :=
  if g.inh then none
  else match (faultQueueOf s (unitOf 1 g.at_)).find? (fun f => f.uid = g.uid) with
    | none => none
    | some f => if atClause s g || s.faults.any (fun x => x.uid = g.uid && x.seq + Config.skidLimit < g.icount + 1) then some f else none
/-- Deliver a record: the trap is taken and the record leaves the queue (18 R480). -/
def deliverFault (f : StoreFault) (xpc : Word) (s : State) : State :=
  enterTrap ⟨f.cause, f.addr, f.info⟩ xpc { s with faults := s.faults.erase f }

/-- The position of a clause's last body word that issues: a `brd` stands before its J word (03 R109, 09 R272). -/
def lastBody (w h : W32) (ix : Nat) : Bool := (if opOf w = 3 then ix + 2 else ix + 1) = hCount h
/-- The issue of a body word at cycle `t` (03 R100, R105, R106, R109, 16 R426): results that are due are written, the other
paths age, and the next instruction's earliest cycle is set. -/
def atIssue (t : Nat) (w h : W32) (ix : Nat) (g : Gang) : Gang :=
  let g := settle t (agePaths g)
  { g with
    blocked := false
    tookOver := false
    eligFrom := none
    memHold := memWord w
    icount := g.icount + 1
    lastIssue := t
    notBefore := max (if memWord w then t + 3 else 0) (if hYield h && lastBody w h ix then t + 2 else 0) }

/-- The issue resource that a body word needs (16 R424); none for an unassigned opcode, which traps. -/
def pipeOf (w : W32) : Option Pipe :=
  let op := opOf w
  match op / 16 with
  | 0 => some .branch
  | 1 => some .scalar
  | 2 => some (if 0x2C ≤ op then .lane else .vector)
  | 3 => some (if op = 0x36 && (fldM w).toNat < 8 then .trans else .vector)
  | 4 | 5 => some .memory
  | 6 => some (if op = 0x68 || op = 0x69 || op = 0x6E then .scalar else if 0x6A ≤ op && op ≤ 0x6C then .engine else .matrix)
  | _ => none
/-- The opcodes of the tile-ordered instructions (13 R395). -/
def tileWord (w : W32) : Bool := let op := opOf w; op = 0x62 || (0x64 ≤ op && op ≤ 0x67) || op = 0x6F
/-- Issues of a resource in one cycle (16 R424). -/
def pipeWidth : Pipe → Nat
  | .vector => 4
  | .scalar => 2
  | .lane | .trans | .branch | .memory | .matrix | .engine => 1
/-- Whether a core can issue one more instruction to a resource in this cycle: at most four instructions in all, and the transcendental
unit once in four cycles (03 R112, 16 R424). -/
def pipeFree (s : State) (core : Nat) (p : Option Pipe) : Bool :=
  let now := s.slots.filter (fun x => x.core = core && x.cycle = s.cycle)
  now.length < 4 && (match p with
    | none => true
    | some .trans => !s.slots.any (fun x => x.core = core && x.pipe = .trans && s.cycle < x.cycle + 4)
    | some p => (now.filter (fun x => x.pipe = p)).length < pipeWidth p)
/-- The issue slots of the last four cycles with one more. -/
def takeSlot (s : State) (c : Coords) (p : Option Pipe) : List Slot :=
  ⟨coreIx c, c.slot, p.getD .branch, s.cycle⟩ :: s.slots.filter (fun x => s.cycle < x.cycle + 4)

/-- The earliest cycle of body `ix` (03 R105). -/
def issueCycle (s : State) (g : Gang) (h : W32) (ix : Nat) : Nat :=
  max s.cycle (max g.notBefore (if g.icount = 0 then 0 else g.lastIssue + hDist h ix + 1))

/-- Issue the body word at the path's pc, in the clause whose header is at `hdr`. A full flag holds it (03 R104), the power
limiter holds a vector instruction (21 R531), and so do its distance and its resource (03 R111); a tile-ordered one enters its tile's
order without its resource (13 R396). A J word with a distance is illegal at its `brd` (09 R272, 10 R308). -/
def issueBody (hdr : Word) (s : State) : Choice :=
  let g := s.g
  let pc := (path g).pc
  let ix := (pc - hdr).toNat / 4 - 1
  match fetchWords s g (ix + 2) hdr with
  | .error t => .done (raise t s)
  | .ok ws =>
    let h := ws.headD 0
    let w := ws.getLastD 0
    let j := if opOf w = 3 then fetchWord s g (pc + 4) else .ok 0
    let flag := flagFor h w ((ws.drop 1).take ix)
    let free := pipeFree s (coreIx g.at_) (pipeOf w)
    if flag < 12 && flagCount g flag = 15 then .hold none
    else if isGated s g.at_.pkg && (opOf w / 16 = 2 || opOf w / 16 = 3) then .hold none
    else if s.cycle < issueCycle s g h ix then .hold (some (issueCycle s g h ix))
    else if !free && !tileWord w then .hold (some (s.cycle + 1))
    else
      match j with
      | .error t => .done (raise t s)
      | .ok j =>
        let s' := { s with
          g := atIssue s.cycle w h ix g
          iss := {
            hdr := hdr, flag := flag, yield := hYield h && lastBody w h ix, enters := tileWord w && !free, aged := agedBy g
            count := g.icount, last := g.lastIssue, slots := s.slots, notBefore := g.notBefore, memHold := g.memHold, took := g.tookOver }
          slots := if free then takeSlot s g.at_ (pipeOf w) else s.slots }
        match decode w j with
        | .ok i => if opOf w = 3 && hDist h (ix + 1) ≠ 0 then .run (.illegalInstruction w) s' else .run i s'
        | .error _ => .run (.illegalInstruction w) s'

/-- Enter a clause at its header (03 R103, R108, 09 R265, R266): an illegal header traps at the header, and an unmet wait
mask holds body 0. -/
def enterClause (s : State) : Choice :=
  let g := s.g
  let pc := (path g).pc
  match fetchWord s g pc with
  | .error t => .done (raise t s)
  | .ok h =>
    match fetchWords s g (hCount h) (pc + 4) with
    | .error t => .done (raise t s)
    | .ok ws =>
      if !headerOk h ws then .done (illegal h s)
      else if !waitMet g h then .hold none
      else issueBody pc (setPc (pc + 4) s)

/-- Whether a Save of a gang's job is stopping its gangs (18 R486). -/
def isSaving (s : State) (g : Gang) : Bool := s.images.any (fun i => i.state = 0 && i.pkg = g.at_.pkg && i.job = g.job)
/-- A gang stops for a Save at its instruction boundary (18 R486, 12 R394, 13 R398): whatever it waits for is given up, and the
instruction starts again on resume. A sleep keeps its end. -/
def stopGang (s : State) (uid : Nat) : State :=
  onGang uid (fun g => { g with
    stopping := true, blocked := false
    hold := match g.hold with
      | .sleep t => .sleep t
      | .none | .tile _ => .none }) (dropWaits uid s)
/-- A sleep ends: the path continues after its `sleept` (04 R156). -/
def wakeUp (g : Gang) : Gang := setPath { g with hold := .none } { path g with pc := (path g).pc + 4 }
/-- A gang whose sleep has reached its end wakes before anything else of it happens (04 R156, R157). -/
def wakeDue (s : State) : State :=
  match s.g.hold with
  | .sleep t => if t.toNat ≤ cycleOf s s.g && !s.g.cancelled then { s with g := wakeUp s.g } else s
  | .none | .tile _ => s
/-- Issue the gang's next instruction, or take what stands before it at this boundary: cancel (02 R85), a trap that
waits (18 R475), a store-fault record (18 R480), a Save, once no such record is due and the store skid no longer holds the gang (12 R394,
18 R486), a path that has aged (03 R100), the drain of R110. -/
def issueNext (s : State) : Choice :=
  let s := wakeDue s
  let g := s.g
  if g.cancelled then .done { dropWaits g.uid s with g := endGang (some (cCancelled, g.level)) g }
  else match dueDeferred s g with
    | some d =>
      .done (enterTrap ⟨d.cause, d.addr, d.info⟩ (bodyPc s g) { s with g := { g with deferred := g.deferred.erase d } })
    | none => match dueFault s g with
      | some f => .done (deliverFault f (bodyPc s g) s)
      | none =>
        if isSaving s g && !skidFull s g then .done (stopGang s g.uid)
        else if ageDue g then .done { s with g := ageOver g }
        else if g.drainFlags then .hold (if flagsZero g then some (s.cycle + 1) else none)
        else if skidFull s g then .hold none
        else
          let s := { s with g := { g with hold := .none } }
          match codeMark s g (path g).pc with
          | 1 => enterClause s
          | 2 => match hdrBack s g 5 (path g).pc with
            | some hdr => issueBody hdr s
            | none => .done (raise ⟨cBadTarget, (path g).pc, 0⟩ s)
          | _ => .done (raise ⟨cBadTarget, (path g).pc, 0⟩ s)

/-- Whether a gang is one that can issue (03 R99, R111): it runs, its active path has not parked, it does not sleep or stand in the
order of a tile, and no Save and no heat has stopped it; one that a cancel has reached goes on to its end (21 R531). -/
def mayIssue (s : State) (g : Gang) : Bool :=
  g.phase = .running && !g.stopping &&
    (g.cancelled || (!isStopped s g.at_.pkg && (match g.hold with
      | .none => (path g).state = .ready
      | .sleep t => t.toNat ≤ cycleOf s g
      | .tile _ => false)))

end Sys2Proof.Machine
end

