-- ==== Sys2Proof/Machine/Publish.lean ====
section
/-! DEFINITION. Atomic requests at their homes, alone and combined (08 R241 to R254, 12 R382 to R387), update-only lines
(04 R146 to R148), and PUBLISH (04 R133, R134), once for every source of R138. -/

namespace Sys2Proof.Machine

/-- The low 32 bits of a word. -/
def loW (x : Word) : W32 := x.setWidth 32
/-- `n` bytes at the home, read under a key, as a number. -/
def homeNatK (s : State) (l n : Nat) (k : Key) : Nat := leNat ((List.range n).map (fun i => homeByte s (l + i) k))
/-- The value that an operation writes over `old`, and its flags; nothing where a `cas` compares unequal (12 R382, R384,
R385). -/
def homeOp (op : HomeOp) (old x : Word) : Option Word × Fl :=
  match op with
  | .atom .fadd => (some ((addRne (loW old) (loW x)).1.setWidth 64), (addRne (loW old) (loW x)).2)
  | .atom .faddOf => (some ((addRne (loW old) (loW x)).1.setWidth 64), 0)
  | .atom o => (some ((intOp32 o (loW old) (loW x)).setWidth 64), 0)
  | .atom64 o => (some (intOp64 o old x), 0)
  | .cas c => (if old = c then some x else none, 0)
  | .chunk => (none, 0)
/-- Whether requests of an operation may combine (08 R241). -/
def combinable : HomeOp → Bool
  | .atom .fadd | .cas _ => false
  | .atom _ | .atom64 _ | .chunk => true
/-- The combined operand of a first and a second request (08 R246). -/
def combined (op : HomeOp) (a b : Word) : Word := ((homeOp op a b).1).getD 0

/-- size(x) of a CHUNK record (08 R252). -/
def chunkSize (total divisor min_ x : Nat) : Nat :=
  if total ≤ x then 0 else min (total - x) (max min_ (ceilDiv (total - x) divisor))
/-- adv(x, c) (08 R252). -/
def chunkAdv (total divisor min_ : Nat) : Nat → Nat → Nat
  | x, 0 => x
  | x, c + 1 => chunkAdv total divisor min_ (x + chunkSize total divisor min_ x) c
/-- The chunk reply of a group: total, divisor and min; none for a bad record (08 R254). -/
def chunkWords (s : State) (r : AtomReq) : List Word :=
  let w := fun i => wd (homeNatK s (r.loc + 8 * i) 8 r.key)
  if fld (w 2) 31 0 = 0 || fld (w 2) 63 32 ≠ 0 || fld (w 3) 63 32 ≠ 0 then []
  else [w 1, wd (fld (w 2) 31 0), wd (fld (w 3) 31 0)]
/-- adv over the words of a reply. -/
def advWords (ws : List Word) (x : Word) (c : Nat) : Word :=
  match ws with
  | [t, d, m] => wd (chunkAdv t.toNat d.toNat m.toNat x.toNat c)
  | _ => x

/-- The single requests of a merged one, in the order of their serial execution (08 R244, R247). -/
def leaves (ms : List Merge) : Nat → AtomReq → List AtomReq
  | 0, r => [r]
  | n + 1, r =>
    if r.uid ≠ 0 then [r]
    else match ms.find? (fun m => m.id = r.id) with
      | some m => leaves ms n m.a ++ leaves ms n m.b
      | none => []
/-- The single requests of a request. -/
def leavesOf (s : State) (r : AtomReq) : List AtomReq := leaves s.merges (s.merges.length + 1) r
/-- The reply to the second member of a merge, from the first's operand and count (08 R246, R253). -/
def splitVal (a : AtomReq) (v : Word) (ws : List Word) : Word :=
  match a.op with
  | .chunk => advWords ws v a.count
  | op => ((homeOp op v a.x).1).getD 0
/-- The value that each single request is returned, in serial order (08 R246). -/
def memberVals (ms : List Merge) : Nat → AtomReq → Word → List Word → List (AtomReq × Word)
  | 0, r, v, _ => [(r, v)]
  | n + 1, r, v, ws =>
    if r.uid ≠ 0 then [(r, v)]
    else match ms.find? (fun m => m.id = r.id) with
      | some m => memberVals ms n m.a v ws ++ memberVals ms n m.b (splitVal m.a v ws) ws
      | none => []

/-- A lane's reply enters the pending result of its instruction (03 R102, 12 R383). -/
def laneReply (r : AtomReq) (ws : List RegWrite) (s : State) : State :=
  onGangAny r.uid (fun g => { g with
    pend := upd (fun p => p.id = r.pend) (fun p => { p with left := p.left - 1, ws := p.ws ++ ws }) g.pend }) s
/-- A write of one lane of vector register `n`. -/
def laneWrite (n lane : Nat) (x : W32) : RegWrite := .v n (1#32 <<< lane) (mkLanes (fun _ => x))
/-- The registers that a reply writes (12 R381, R383, R385, R387). -/
def replyWrites (r : AtomReq) (v : Word) (fl : Fl) (ws : List Word) : List RegWrite :=
  match r.op with
  | .chunk =>
    let (a, z) := match ws with
      | [t, d, m] => (v, wd (chunkSize t.toNat d.toNat m.toNat v.toNat))
      | _ => (wd (2 ^ 64 - 1), 0)
    [laneWrite r.dst r.lane (loW a), laneWrite (r.dst + 1) r.lane (loW (a >>> 32)),
     laneWrite (r.dst + 2) r.lane (loW z), laneWrite (r.dst + 3) r.lane (loW (z >>> 32))]
  | _ =>
    (if r.size = 8 then [laneWrite r.dst r.lane (loW v), laneWrite (r.dst + 1) r.lane (loW (v >>> 32))]
     else [laneWrite r.dst r.lane (loW v)]) ++ (if fl = 0 then [] else [.fp fl])
/-- A reply reaches a request: a single one's lane, or the point that merged it (08 R246). -/
def answer (r : AtomReq) (v : Word) (fl : Fl) (ws : List Word) (s : State) : State :=
  if r.uid ≠ 0 then laneReply r (replyWrites r v fl ws) s
  else { s with areplies := s.areplies ++ [⟨r.id, some v, fl, ws⟩] }

/-- The value that a member of a group but the last writes: its gang's view takes it at position `p`, and the group's one
write has position `q` (08 R247, R248). -/
def memberWrite (r : AtomReq) (p q : Nat) (v : Word) (s : State) : State :=
  ((consec r.loc (leBytes r.size v.toNat)).foldl (fun s b =>
    onGangAny r.uid (ownWrite b.1 p) { s with hist := { loc := b.1, pos := p, val := b.2, key := r.key, grp := q } :: s.hist }) s)
/-- The members' values enter their gangs' views one after another from position `p` on. -/
def memberWrites (op : HomeOp) (q : Nat) : Nat → List (AtomReq × Word) → State → State
  | _, [], s => s
  | p, (r, v) :: t, s =>
    memberWrites op q (p + 1) t (memberWrite r p q (((homeOp op v r.x).1).getD 0) s)
/-- A value enters the modification order at the home, and the view of the gang whose write it is (04 R141). -/
def ownHome (uid l size : Nat) (v : Word) (k : Key) (s : State) : State :=
  let bs := consec l (leBytes size v.toNat)
  bs.foldl (fun t b => onGangAny uid (ownWrite b.1 (s.wseq + 1)) t) (homeWrite bs k s)

/-- The operation of an update-only line on two values (12 R382, 04 R148). -/
def redOp (o : RedOp) (a b : Word) : Word :=
  let w (p : AtomOp) : Word := (intOp32 p (loW a) (loW b)).setWidth 64
  match o with
  | .add => w .add
  | .and => w .and
  | .or => w .or
  | .xor => w .xor
  | .min => w .min
  | .max => w .max
  | .minu => w .minu
  | .maxu => w .maxu
  | .faddOf => (addRne (loW a) (loW b)).1.setWidth 64
  | .addD => intOp64 .add a b
  | .andD => intOp64 .and a b
  | .orD => intOp64 .or a b
  | .minD => intOp64 .min a b
  | .maxD => intOp64 .max a b
  | .minuD => intOp64 .minu a b
  | .maxuD => intOp64 .maxu a b
/-- Whether a line covers a location. -/
def lineCovers (r : RedLine) (l : Nat) : Bool := r.loc ≤ l && l < r.loc + redSize r.op
/-- The home combines a line into the modification order as one write (04 R147). It enters no contributor's view (R146), but
counts as its write. One that has no path to the home any more is lost: the manual gives no error for it (19 R538; DESIGN CHOICE, log 44). -/
def lineHome (r : RedLine) (s : State) : State :=
  if !hasPath s r.core.pkg (locPkg r.loc) then { s with lines := s.lines.erase r }
  else
  let v := redOp r.op (wd (homeNatK s r.loc (redSize r.op) r.key)) r.x
  let bs := consec r.loc (leBytes (redSize r.op) v.toNat)
  let t := homeWrite bs r.key { s with lines := s.lines.erase r }
  r.uids.foldl (fun t u =>
    onGangAny u (fun g => { g with own := bs.foldl (fun o b => cset 0 o b.1 (s.wseq + 1)) g.own }) t) t
/-- The lines that satisfy `p` are combined. -/
def combineLines (p : RedLine → Bool) (s : State) : State := (s.lines.filter p).foldl (fun s r => lineHome r s) s
/-- The home recalls the lines of any of `n` locations (04 R147). -/
def recallLines (l n : Nat) (s : State) : State :=
  combineLines (fun r => (List.range n).any (fun i => lineCovers r (l + i))) s
/-- The eight locations of the granule that holds a location, the widest element that is read as one (R128). -/
def granule (l : Nat) : List Nat := (List.range 8).map (fun i => l / 8 * 8 + i)
/-- The accesses of a load, as their locations. One that reaches the home for granules of which its gang's view holds nothing, one of
whose locations update-only lines cover, recalls those lines and takes all these granules as they stand then (04 R128, R147, log 44). The
view holds what has been loaded (R132). -/
def recallLoad (as : List (List Nat)) (s : State) : State :=
  let hit := (as.map (fun ls => ls.filter (fun l => !(granule l).any (holds s s.g)))).filter
    (fun ls => ls.any (fun l => s.lines.any (fun r => lineCovers r l)))
  let t := combineLines (fun r => hit.any (fun ls => ls.any (lineCovers r))) s
  let view := (hit.flatten.flatMap granule).foldl (fun v l => cset 0 v l (topOf t l)) t.g.view
  { t with g := markSeen as.flatten { t.g with view := view } }

/-- Execute a request at the home, alone or as one serial group (04 R141, R142, 08 R247, R252). -/
def execRequest (r : AtomReq) (s : State) : State :=
  let s := recallLines r.loc (if r.op = .chunk then 32 else r.size) { s with atoms := s.atoms.filter (fun x => x.id ≠ r.id) }
  let old := wd (homeNatK s r.loc r.size r.key)
  match r.op with
  | .chunk =>
    let ws := chunkWords s r
    let vals := memberVals s.merges (s.merges.length + 1) r old ws
    let moved := vals.filter (fun m => advWords ws m.2 1 ≠ m.2)
    match moved.getLast? with
    | none => answer r old 0 ws s
    | some m =>
      let q := s.wseq + moved.length
      let put (p : Nat) (m : AtomReq × Word) (s : State) : State := memberWrite m.1 p q (advWords ws m.2 1) s
      let t := ((moved.dropLast).zip (List.range moved.length)).foldl (fun t e => put (s.wseq + 1 + e.2) e.1 t) s
      answer r old 0 ws (ownHome m.1.uid r.loc 8 (advWords ws old r.count) r.key { t with wseq := q - 1 })
  | op =>
    let vals := memberVals s.merges (s.merges.length + 1) r old []
    match homeOp op old r.x, vals.getLast? with
    | (some v, fl), some m =>
      let q := s.wseq + vals.length
      let t := memberWrites op q (s.wseq + 1) vals.dropLast s
      answer r old fl [] (ownHome m.1.uid r.loc r.size v r.key { t with wseq := q - 1 })
    | (_, fl), _ => answer r old fl [] s

/-- The locations of a request or of a store's bytes that must keep program order with `l`: the same location, or the same
64-byte line of another package's HBM (04 R127, 19 R510). -/
def ordered (pkg l m : Nat) : Bool := l = m || (locKind l = 0 && locUnit l ≠ pkg && l / 64 = m / 64)
/-- Whether a store of the same gang and an earlier number must reach the homes before a request. -/
def behindStore (s : State) (x : AtomReq) : Bool :=
  s.stores.any (fun r => r.uid = x.uid && r.id < x.id && r.bytes.any (fun b =>
    (List.range x.size).any (fun i => ordered x.at_.pkg (x.loc + i) b.loc)))
/-- Whether another request has an earlier single request of a gang of `r` on its 8-byte granule (04 R144). -/
def behindAtom (s : State) (r : AtomReq) : Bool :=
  let ls := leavesOf s r
  (s.atoms.filter (fun q => q.id ≠ r.id && q.loc / 8 = r.loc / 8)).any (fun q =>
    let ms := leavesOf s q
    ls.any (fun x => ms.any (fun y => y.uid = x.uid && ls.all (fun z => z.uid ≠ x.uid || y.id < z.id))))
/-- Whether a request may execute at its home now. -/
def atomReady (s : State) (r : AtomReq) : Bool := !behindAtom s r && !(leavesOf s r).any (behindStore s)
/-- Whether an uncorrectable error fails a request at its home (08 R250). -/
def atomPoisoned (s : State) (r : AtomReq) : Bool :=
  (List.range (if r.op = .chunk then 32 else r.size)).any (fun i => poisoned s (r.loc + i))

/-- The numbers of a merged request and of the merged requests inside it. -/
def treeIds (ms : List Merge) : Nat → AtomReq → List Nat
  | 0, _ => []
  | n + 1, r =>
    if r.uid ≠ 0 then []
    else match ms.find? (fun m => m.id = r.id) with
      | some m => r.id :: (treeIds ms n m.a ++ treeIds ms n m.b)
      | none => []
/-- An error reply reaches every member of a request (08 R250): no destination changes, the counts fall, and each gang
has one trap waiting. -/
def failRequest (r : AtomReq) (s : State) : State :=
  let ls := leavesOf s r
  let ids := treeIds s.merges (s.merges.length + 1) r
  let s := { s with atoms := s.atoms.filter (fun x => x.id ≠ r.id), merges := s.merges.filter (fun m => !ids.contains m.id) }
  let s := ls.foldl (fun s x => laneReply x [] s) s
  let uids := (ls.map (·.uid)).eraseDups
  uids.foldl (fun s u =>
    let mine := ls.filter (fun x => x.uid = u)
    let m := maskOf (fun l => mine.any (fun x => x.lane = l))
    let low := (lanesOf m).headD 0
    let a := ((mine.find? (fun x => x.lane = low)).map (·.va)).getD 0
    onGangAny u (fun g =>
      let inh := g.pend.any (fun p => p.inh && mine.any (fun x => x.pend = p.id))
      addTraps [⟨cAtomicError, a, wd (low + m.toNat * 2 ^ 32), false, inh⟩] g) s) s
/-- A request is served at its home: its value, or an error. -/
def serveRequest (r : AtomReq) (s : State) : State :=
  if atomPoisoned s r then failRequest r s else execRequest r s

/-- Whether no earlier store or atomic of the same gang must go first (04 R127, 19 R510). -/
def storeFirst (s : State) (r : StoreReq) : Bool :=
  !(s.stores.any (fun q => q.uid = r.uid && q.id < r.id &&
      q.bytes.any (fun b => r.bytes.any (fun c => ordered r.at_.pkg c.loc b.loc)))) &&
    !(s.atoms.any (fun q => (leavesOf s q).any (fun x => x.uid = r.uid && x.id < r.id &&
      (List.range x.size).any (fun i => r.bytes.any (fun c => ordered r.at_.pkg c.loc (x.loc + i))))))
/-- An error reply for an atomic request. Whether the home has executed it is open (19 R511), if its turn has come and it meets no error there: a pick says so, and
its write then counts as its gangs' own (04 R141). -/
def atomTimeout (r : AtomReq) (s : State) : State :=
  let (ch, s) := pick s
  if ch % 2 = 1 && atomReady s r && !atomPoisoned s r then
    let s := recallLines r.loc (if r.op = .chunk then 32 else r.size) s
    let e := execRequest r s
    let t := failRequest r s
    (leavesOf s r).foldl (fun t x => match gangOf e x.uid with
        | some g => onGang x.uid (fun h => { h with view := g.view, own := g.own }) t
        | none => t)
      { t with mem := e.mem, keys := e.keys, lineKeys := e.lineKeys, tags := e.tags, origin := e.origin, top := e.top, hist := e.hist, wseq := e.wseq }
  else failRequest r s
/-- An error reply for the bytes of a store whose homes do not answer: a record in the store-fault queue; whether the homes have executed
them, where no earlier request of the gang must go first, is open (19 R511). The other bytes stay on their way. -/
def storeTimeout (gone : ByteWrite → Bool) (r : StoreReq) (s : State) : State :=
  match firstByte gone r.bytes with
  | none => s
  | some b =>
    let (ch, s) := pick s
    let s := if r.faulted then s else storeFault r cMemory b.va (postedInfo b false) s
    let s := if ch % 2 = 1 && storeFirst s r then storeHome { r with bytes := r.bytes.filter gone, tested := true, faulted := true } s else s
    let rest := r.bytes.filter (fun x => !gone x)
    { s with
      stores := if rest.isEmpty then s.stores.filter (fun x => x.id ≠ r.id)
        else upd (fun x => x.id = r.id) (fun x => { x with bytes := rest, faulted := true }) s.stores }
/-- The numbers of a gang's stores and atomic requests on their way, in program order. -/
def onWay (s : State) (uid : Nat) : List Nat :=
  sortNat ((s.stores.filter (fun r => r.uid = uid)).map (·.id) ++
    (s.atoms.flatMap (fun r => ((leavesOf s r).filter (fun x => x.uid = uid)).map (·.id))))
/-- The store or request with a number, or the group that holds it, is served. What has no path to its home any more ends as the fabric
timeout ends it (19 R538, log 27). -/
def serveId (i : Nat) (s : State) : State :=
  match s.stores.find? (fun r => r.id = i) with
  | some r =>
    let t := storeTimeout (fun b => !hasPath s r.at_.pkg (locPkg b.loc)) r s
    match t.stores.find? (fun r => r.id = i) with
    | some r => deliverStore r t
    | none => t
  | none => match s.atoms.find? (fun r => (leavesOf s r).any (fun x => x.id = i)) with
    | some r => if hasPath s r.at_.pkg (locPkg r.loc) then serveRequest r s else atomTimeout r s
    | none => s
/-- Every store and atomic of a gang reaches its home (04 R133, R144). -/
def drainOwn (uid : Nat) (s : State) : State := (onWay s uid).foldl (fun s i => serveId i s) s

/-- A view as a publish covers it: a member's value in a merged atomic counts as the group's one write (08 R247, R248). -/
def covered (s : State) (v : Cells Nat) : Cells Nat :=
  v.map (fun p => (p.1, match s.hist.find? (fun h => h.loc = p.1 && h.pos = p.2 && h.grp ≠ 0) with
    | some h => h.grp
    | none => p.2))
/-- The numbers of a contributor's requests that must go before a line (19 R510). -/
def behindLine (s : State) (r : RedLine) (uid : Nat) : List Nat :=
  (onWay s uid).filter (fun i =>
    s.stores.any (fun q => q.id = i && q.bytes.any (fun b => ordered r.core.pkg r.loc b.loc)) ||
    s.atoms.any (fun q => (leavesOf s q).any (fun x => x.id = i && ordered r.core.pkg r.loc x.loc)))
/-- A line leaves behind the earlier requests of its contributors to its line (19 R510). -/
def sendLine (r : RedLine) (s : State) : State :=
  lineHome r (r.uids.foldl (fun s u => (behindLine s r u).foldl (fun s i => serveId i s) s) s)
/-- PUBLISH at level `m` by the gang with number `uid` (04 R133, R134): its writes enter their modification orders, the lines
that hold its contributions are combined, and what its view holds is published. -/
def publishFor (uid m : Nat) (s : State) : State :=
  let t := drainOwn uid s
  let s := (t.lines.filter (fun r => r.uids.contains uid)).foldl (fun s r => sendLine r s) t
  match gangOf s uid with
  | none => s
  | some g => { s with pubs := addPub ⟨some (uid, g.at_), m, vjoin (covered s g.view) g.own⟩ s.pubs }
/-- PUBLISH by the issuing gang. -/
def publish (m : Nat) (s : State) : State := publishFor s.g.uid m s
/-- The level of a publish or acquire that an instruction names: above the widest level of the gang's job it acts at that level
(02 R80). -/
def scopeOf (s : State) (l : Level) : Nat := min l.code (wideOf s s.g)

end Sys2Proof.Machine
end

