-- ==== Sys2Proof/Machine/MemAcc.lean ====
section
/-! DEFINITION. Meanings of the loads and stores of group 4 with `pref`, `pfence` and `drain` (12 R357 to R373), and the
events of their replies, W tests and homes. -/

namespace Sys2Proof.Machine

/-- The lane values of a load: for each lane its value as a number. -/
def valueAt (vs : List (Nat × Nat)) (l : Nat) : Nat := ((vs.find? (fun p => p.1 = l)).map (·.2)).getD 0
/-- The memory-error of a load reply (18 R474): the lowest lane with a failing byte. -/
def replyError (s : State) (accs : List LaneAcc) : Option Deferred :=
  accs.findSome? (fun x =>
    ((List.range x.hits.length).find? (fun i => ((x.hits[i]?).map (fun h => poisoned s h.loc)).getD false)).map
      (fun i => ⟨cMemory, x.addr + wd i, wd x.lane, false, false⟩))
/-- A lane's bytes in the gang's view as a number (04 R130). -/
def viewNat (s : State) (g : Gang) (hs : List Hit) : Nat := leNat (hs.map (fun h => viewByte s g h.loc h.key))
/-- What an access asks of other packages (19 R511): each lane's first address there, the lane, and the package. -/
def farAccess (g : Gang) (accs : List LaneAcc) : List (Word × Nat × Nat) :=
  accs.filterMap (fun x => (x.hits.zip (List.range x.hits.length)).findSome? (fun h =>
    if locPkg h.1.loc ≠ g.at_.pkg then some (x.addr + wd h.2, x.lane, locPkg h.1.loc) else none))
/-- Whether an access leaves its core. -/
def leavesCore (g : Gang) (accs : List LaneAcc) : Bool :=
  accs.any (fun x => x.hits.any (fun h => locKind h.loc ≠ 3 || locUnit h.loc ≠ coreIx g.at_))
/-- A load completes its issue: its values are fixed now and written under the flag; an uncorrectable error leaves the
destination and traps later (03 R103, 18 R474). -/
def loadDone (accs : List LaneAcc) (ws : List RegWrite) (s : State) : State :=
  let far := farAccess s.g accs
  match replyError s accs with
  | some d => next (addPend [] 0 [d] s far (leavesCore s.g accs))
  | none => next (addPend ws 0 [] s far (leavesCore s.g accs))
/-- Update-only lines that a load meets are recalled (04 R147). -/
def recallAccs (accs : List LaneAcc) (s : State) : State := recallLoad (accs.map (fun x => x.hits.map (·.loc))) s
/-- The vector results of a load: one register, or two for 64-bit values (12 R357). -/
def loadWrites (g : Gang) (d : Reg) (regs : Nat) (vs : List (Nat × Nat)) : List RegWrite :=
  (List.range regs).map (fun i => .v (vnum g d i) (execMask g) (mkLanes (fun l => w32 (valueAt vs l / 2 ^ (32 * i)))))
/-- `ld` (12 R360). -/
def execLd (d a : Reg) (f : AddrForm) (z : Size) (s : State) : Out :=
  let g := s.g
  .next (orTrap (blockTrap g ([(d, sizeRegs z)] ++ addrRegs f)) (fun s =>
    let as := laneAddrs g (laneAddr g a f (sizeBytes z))
    if z = .d && !as.isEmpty && as.all (fun p => idAddr p.2) then
      next (addPend (loadWrites g d 2 (as.map (fun p => (p.1, (idWord s g (p.2.toNat % 2 ^ 60)).toNat)))) 0 [] s)
    else match checkLanes (gangByte s g) permR (sizeBytes z) as with
      | .error t => raise t s
      | .ok accs =>
        let s := recallAccs accs s
        loadDone accs (loadWrites g d (sizeRegs z) (accs.map (fun x => (x.lane, viewNat s s.g x.hits)))) s) s)

/-- Whether the store-fault queue of a gang's core is full (18 R479). -/
def faultsFull (s : State) (g : Gang) : Bool :=
  Config.faultQueue ≤ (s.faults.filter (fun f => f.core = unitOf 1 g.at_)).length
/-- The bytes of a store, each with whether it is the write of its location: of several lanes, the highest (04 R129). The others are
tested alone (18 R479). Where two lanes reach one location through two mappings and the highest lane's W test fails, nothing is written
there, though the lower lane's part does not fault: the manual does not say which of the two it is (04 R160; DESIGN CHOICE, log 32). -/
def lastWins : List ByteWrite → List ByteWrite
  | [] => []
  | b :: r => { b with last := !r.any (fun c => c.loc = b.loc) } :: lastWins r
/-- The byte writes of one lane: its value as a number, low byte first. -/
def laneBytes (x : LaneAcc) (v : Nat) : List ByteWrite :=
  (x.hits.zip (List.range x.hits.length)).map (fun p =>
    { lane := x.lane, va := x.addr + wd p.2, loc := p.1.loc, val := BitVec.ofNat 8 (v / 2 ^ (8 * p.2)), key := p.1.key
      w := p.1.perm &&& permW ≠ 0, part := p.1.part
      acc := if x.addr.toNat % x.hits.length = 0 then x.addr else x.addr + wd p.2, last := true })
/-- Send a checked store with its byte writes (04 R131, 12 R361, R362). -/
def sendBytes (accs : List LaneAcc) (bs : List ByteWrite) (s : State) : State :=
  let g := s.g
  let glob := !g.prec && accs.any (fun x => x.addr.toNat / 2 ^ 60 = 0)
  { s with
    nextId := s.nextId + 1
    stores := s.stores ++ [{ id := s.nextId, uid := g.uid, at_ := g.at_, job := g.job, global := glob, tested := !glob
                             faulted := false, seq := g.icount, sent := s.cycle, pc := pcOf s, bytes := lastWins bs }] }
/-- Send a checked store from its lanes' values. -/
def sendStore (accs : List LaneAcc) (v : Nat → Nat) (s : State) : State :=
  sendBytes accs (accs.flatMap (fun x => laneBytes x (v x.lane))) s
/-- A store from its lane addresses and values (12 R361 to R363): W is checked here when it is precise. -/
def storeTo (as : List (Nat × Word)) (size : Nat) (v : Nat → Nat) (s : State) : State :=
  let g := s.g
  match checkLanes (gangByte s g) (if g.prec then permW else 0) size as with
  | .error t => raise t s
  | .ok accs =>
    if faultsFull s g && as.any (fun p => p.2.toNat / 2 ^ 60 = 0) then stall s
    else next (sendStore accs v s)
/-- A lane's value in a register, or in a pair of them. -/
def laneNat (g : Gang) (d : Reg) (regs l : Nat) : Nat :=
  (lane (vreg g d) l).toNat + if regs = 2 then (lane (vreg g d 1) l).toNat * 2 ^ 32 else 0
/-- `st` (12 R361, R362). -/
def execSt (d a : Reg) (f : AddrForm) (z : Size) (s : State) : Out :=
  let g := s.g
  .next (orTrap (blockTrap g ([(d, sizeRegs z)] ++ addrRegs f))
    (storeTo (laneAddrs g (laneAddr g a f (sizeBytes z))) (sizeBytes z) (laneNat g d (sizeRegs z))) s)

/-- `lds` (12 R364, R365): one lane, through the generic path. -/
def execLds (d a : Reg) (o : BitVec 9) (z : Size) (s : State) : Out :=
  let g := s.g
  let x := offAddr g a o (sizeBytes z)
  .next (if z = .d && idAddr x then next (addPend [.s d.toNat (idWord s g (x.toNat % 2 ^ 60))] 0 [] s)
    else match checkLanes (gangByte s g) permR (sizeBytes z) [(0, x)] with
      | .error t => raise t s
      | .ok accs =>
        let s := recallAccs accs s
        loadDone accs [.s d.toNat (wd (((accs.head?).map (fun x => viewNat s s.g x.hits)).getD 0))] s)
/-- `sts` (12 R364, R365). -/
def execSts (d a : Reg) (o : BitVec 9) (z : Size) (s : State) : Out :=
  .next (storeTo [(0, offAddr s.g a o (sizeBytes z))] (sizeBytes z) (fun _ => (sreg s.g d).toNat) s)
/-- `ldc` (12 R364, R365): one lane, through the constant path, whose value the view does not bound (04 R149). -/
def execLdc (d a : Reg) (o : BitVec 9) (z : Size) (s : State) : Out :=
  let g := s.g
  let x := offAddr g a o (sizeBytes z)
  .next (if z = .d && idAddr x then next (addPend [.s d.toNat (idWord s g (x.toNat % 2 ^ 60))] 0 [] s)
    else match checkLanes (gangByte s g) permR (sizeBytes z) [(0, x)] with
      | .error t => raise t s
      | .ok accs =>
        let hs := accs.flatMap (fun x => x.hits.map (fun h => (h.loc, h.key)))
        let s := combineLines (fun r => hs.any (fun h => lineCovers r h.1)) s
        let (bs, s) := pathRead (unitOf 2 g.at_) 1 g.fenced hs s
        loadDone accs [.s d.toNat (wd (leNat bs))] s)

/-- The checks of a scratchpad tile (12 R366, R368): tag 0x1, a base multiple of 128, 4 KiB inside the window; space 0xF raises the
device-space fault here too (01 R25, 12 R363, log 31). -/
def tileTrap (s : State) (b : Word) : Option Trap :=
  let w := (scratchOf s s.g).2.1
  let o := b.toNat % 2 ^ 60
  if b.toNat / 2 ^ 60 = 15 then some ⟨cDevice, b, 0⟩
  else if b.toNat / 2 ^ 60 ≠ 1 || 2 ^ 18 ≤ o || o % 128 ≠ 0 then some ⟨cSpace, b, 0⟩
  else if w < o + 4096 then some ⟨cBound, b + wd (w - o), 0⟩
  else none
/-- The lane addresses of a tile access (12 R367). -/
def tileAddrs (g : Gang) (a b : Reg) (col sk : Bool) : List (Nat × Word) :=
  let n := fld (sreg g b) 4 0
  laneAddrs g (fun l => sreg g a + wd (if col then tileOff sk l n else tileOff sk n l))
/-- `ldsp` (12 R366 to R368). -/
def execLdsp (d a b : Reg) (col sk : Bool) (s : State) : Out :=
  let g := s.g
  .next (orTrap (blockTrap g [(d, 1)]) (orTrap (tileTrap s (sreg g a)) (fun s =>
    match checkLanes (gangByte s g) permR 4 (tileAddrs g a b col sk) with
    | .error t => raise t s
    | .ok accs =>
      let s := recallAccs accs s
      loadDone accs (loadWrites g d 1 (accs.map (fun x => (x.lane, viewNat s s.g x.hits)))) s)) s)
/-- `stsp` (12 R366 to R368). -/
def execStsp (d a b : Reg) (col sk : Bool) (s : State) : Out :=
  let g := s.g
  .next (orTrap (blockTrap g [(d, 1)]) (orTrap (tileTrap s (sreg g a))
    (storeTo (tileAddrs g a b col sk) 4 (laneNat g d 1))) s)

/-- The words of a register block in lane order, then register order: lane · 16 + register, and address (12 R370). -/
def blockWords (g : Gang) (a b : Reg) (n : Nat) : List (Nat × Nat × Word) :=
  (lanesOf (execMask g)).flatMap (fun l => (List.range n).map (fun i => (l, i, blockAddr g a b i l)))
/-- The accesses of a register block (12 R370): lane, first register, address and number of words. In lane-major order a lane's words
are one access of 4n bytes; in register-major order each word is one. -/
def blockSpans (g : Gang) (a b : Reg) (n : Nat) : List (Nat × Nat × Word × Nat) :=
  if b ≠ 0 then (lanesOf (execMask g)).map (fun l => (l, 0, blockAddr g a b 0 l, n))
  else (blockWords g a b n).map (fun w => (w.1, w.2.1, w.2.2, 1))
/-- The words of a checked access, each with its register. -/
def spanWords (l i : Nat) (a : Word) (n : Nat) (hs : List Hit) : List (Nat × LaneAcc) :=
  (List.range n).map (fun k => (i + k, ⟨l, a + wd (4 * k), (hs.drop (4 * k)).take 4⟩))
/-- The checked words of a block: the accesses of each register. -/
def blockAccs (s : State) (g : Gang) (need : BitVec 4) : List (Nat × Nat × Word × Nat) → Except Trap (List (Nat × LaneAcc))
  | [] => .ok []
  | (l, i, a, n) :: r =>
    match spanHits (gangByte s g) need (wd l) (4 * n) a with
    | .error t => .error t
    | .ok h => match blockAccs s g need r with
      | .error t => .error t
      | .ok t => .ok (spanWords l i a n h ++ t)
/-- `ldb` (12 R369, R370). -/
def execLdb (d a b : Reg) (n : BitVec 4) (s : State) : Out :=
  let g := s.g
  let k := n.toNat + 1
  .next (orTrap (blockTrap g [(d, k)]) (fun s =>
    match blockAccs s g permR (blockSpans g a b k) with
    | .error t => raise t s
    | .ok accs =>
      let s := recallAccs (accs.map (·.2)) s
      loadDone (accs.map (·.2)) ((List.range k).map (fun i =>
        let vs := (accs.filter (fun p => p.1 = i)).map (fun p => (p.2.lane, viewNat s s.g p.2.hits))
        .v (vnum g d i) (execMask g) (mkLanes (fun l => w32 (valueAt vs l))))) s) s)
/-- `stb` (12 R369, R370). -/
def execStb (d a b : Reg) (n : BitVec 4) (s : State) : Out :=
  let g := s.g
  let k := n.toNat + 1
  .next (orTrap (blockTrap g [(d, k)]) (fun s =>
    match blockAccs s g (if g.prec then permW else 0) (blockSpans g a b k) with
    | .error t => raise t s
    | .ok accs =>
      if faultsFull s g && accs.any (fun p => p.2.addr.toNat / 2 ^ 60 = 0) then stall s
      else next (sendBytes (accs.map (·.2))
        (accs.flatMap (fun p => laneBytes p.2 (lane (vreg g d p.1) p.2.lane).toNat)) s)) s)

/-- `pref` (12 R371): changes timing alone, past the register-block check of its offsets (R363). -/
def execPref (_a : Reg) (f : AddrForm) (s : State) : Out :=
  .next (orTrap (blockTrap s.g (addrRegs f)) next s)
/-- The wait of `fence`, `pfence` and `drain` for the gang's stores (02 R81, 12 R372, R373): a fault record of the gang traps
here, outside a handler (18 R481). -/
def fenceStores (k : State → State) (s : State) : State :=
  let t := drainOwn s.g.uid s
  if t.g.inh then k t
  else match (faultQueueOf t (unitOf 1 t.g.at_)).find? (fun f => f.uid = t.g.uid) with
    | some f => deliverFault f (pcOf t) t
    | none => if t.faults.any (fun f => f.uid = t.g.uid) then stall t else k t
/-- The paths of a `pfence` are refreshed up to the writes in the gang's view, a merged atomic counting as its group's one write, and bit 2 invalidates the latched weights of the cluster's kiln (12 R372). -/
def refresh (m : BitVec 4) (s : State) : State :=
  { s with
    g := { s.g with fenced := fixPaths m (covered s s.g.view) s.g.fenced }
    latches := if m.getLsbD 2 then upd (fun l => l.at_ = unitOf 2 s.g.at_) (fun l => { l with valid := false }) s.latches
      else s.latches }
/-- `pfence` (12 R372, 04 R150). -/
def execPfence (m : BitVec 4) (s : State) : Out :=
  .next (if m.getLsbD 0 then fenceStores (fun s => next (refresh m s)) s else next (refresh m s))
/-- `drain` (12 R373). -/
def execDrain (s : State) : Out := .next (fenceStores next s)

/-- LOAD_REPLY (03 R103): the pending result `i` of the gang in slot `c` is written and its flag lowered; one that has no path from another
package waits (19 R507, R538). -/
def execLoadReply (c : Coords) (i : Nat) (s : State) : Out :=
  .next (match gangAt s c with
    | none => s
    | some g => match g.pend.find? (fun p => p.id = i && p.left = 0 && p.far.all (fun f => flows s g.at_.pkg f.2.2)) with
      | none => s
      | some p => onGang g.uid (fun g =>
          let h := finishPend p g
          { h with notBefore := if g.drainFlags then max h.notBefore (s.cycle + 4) else h.notBefore }) s)
/-- POSTED_PERMISSION_TEST (12 R362): the W test of a posted store ends. -/
def execPostedPermissionTest (id : Nat) (s : State) : Out :=
  .next (match s.stores.find? (fun r => r.id = id) with
    | none => s
    | some r =>
      let (q, t) := testStore r s
      { t with stores := upd (fun x => x.id = id) (fun _ => q) t.stores })
/-- STORE_AT_HOME (04 R127, R161, 12 R362). -/
def execStoreAtHome (id : Nat) (s : State) : Out :=
  .next (match s.stores.find? (fun r => r.id = id) with
    | none => s
    | some r => if storeFirst s r then storeArrives r s else s)
/-- STORE_FAULT_DELIVERY (18 R480, R481): at the gang's boundary the record's trap is taken. -/
def execStoreFaultDelivery (c : Coords) (s : State) : Out :=
  .next (match gangAt s c with
    | none => s
    | some g => if g.phase ≠ .running || g.stopping then s
      else match dueFault s g with
        | none => s
        | some f => let t := focus c s; deliverFault f (bodyPc t t.g) t)

end Sys2Proof.Machine
end

