-- ==== Sys2Proof/Machine/Atomics.lean ====
section
/-! DEFINITION. Meanings of `atom`, `atom64`, `cas`, `red` and `chunk` (12 R381 to R388) and the events of their requests
(08 R241 to R254, 04 R146, R147). -/

namespace Sys2Proof.Machine

/-- The address checks of one lane of an atomic (12 R388): the address check with R, W and A, then alignment, then tag
0xF (04 R145). -/
def atomLane (s : State) (g : Gang) (n align l : Nat) (a : Word) : Except Trap (List Hit) :=
  if a.toNat / 2 ^ 60 = 15 then
    .error (if a.toNat % align ≠ 0 then ⟨cMisaligned, a, wd l⟩ else ⟨cDevice, a, wd l⟩)
  else match spanHits (gangByte s g) (permR ||| permW ||| permA) (wd l) n a with
    | .error t => .error t
    | .ok h => if a.toNat % align ≠ 0 then .error ⟨cMisaligned, a, wd l⟩ else .ok h
/-- The checked lanes of an atomic, or the trap of the lowest faulting lane. -/
def atomLanes (s : State) (g : Gang) (n align : Nat) : List (Nat × Word) → Except Trap (List LaneAcc)
  | [] => .ok []
  | (l, a) :: r =>
    match atomLane s g n align l a with
    | .error t => .error t
    | .ok h => match atomLanes s g n align r with
      | .error t => .error t
      | .ok t => .ok (⟨l, a, h⟩ :: t)
/-- a(l) of an atomic (12 R381). -/
def atomAddrs (g : Gang) (a b : Reg) : List (Nat × Word) :=
  laneAddrs g (fun l => sreg g a + (lane (vreg g b) l).setWidth 64)
/-- A lane's operand from the rd group, `i` registers on: one register, or the low and the high word (12 R381). -/
def groupWord (g : Gang) (d : Reg) (i size l : Nat) : Word :=
  (lane (vreg g d i) l).setWidth 64 + if size = 8 then (lane (vreg g d (i + 1)) l).setWidth 64 <<< 32 else 0

/-- Whether every link in service from package `p` to package `h` has negotiated combining, and there is one (08 R242, 19 R503). -/
def combLink (s : State) (p h : Nat) : Bool :=
  let up (q n : Nat) : Option Port := s.ports.find? (fun x => x.pkg = q && x.port = n && x.state = 2)
  let ls := s.links.filterMap (fun l =>
    if l.pkgA = p && l.pkgB = h then (up p l.portA).bind (fun a => (up h l.portB).map (fun b => (a, b)))
    else if l.pkgB = p && l.pkgA = h then (up p l.portB).bind (fun a => (up h l.portA).map (fun b => (a, b)))
    else none)
  !ls.isEmpty && ls.all (fun x => x.1.comb && x.2.comb)
/-- The combining points of the machine by number (08 R242): the crossbar of a die, and the base-die switch of a package. -/
def crossbar (c : Coords) : Nat := 2 * dieIx c
def baseSwitch (pkg : Nat) : Nat := 2 * pkg + 1
/-- The base-die switches behind package `p` on a route at which a request may combine (08 R242, 19 R538): a package that it reaches over a
link without the capability forwards it uncombined (19 R503). -/
def switchesOn (s : State) : Nat → List Nat → List Nat
  | _, [] => []
  | p, h :: r => (if combLink s p h then [baseSwitch h] else []) ++ switchesOn s h r
/-- The packages of a request's path to the package of its home (19 R538, 20 R515). -/
def hopsTo (s : State) (p q : Nat) : List Nat := (hops (fun _ => true) s p q).getD []
/-- The combining points that a request from slot `c` to location `l` passes, in order (08 R242): none to its own scratchpad or cluster
memory, the crossbar of its die, and the base-die switches on the way to another die or to HBM. -/
def pointsTo (s : State) (c : Coords) (l : Nat) : List Nat :=
  match locKind l with
  | 0 => crossbar c :: baseSwitch c.pkg :: switchesOn s c.pkg (hopsTo s c.pkg (locUnit l))
  | 1 => if locUnit l = dieIx c then [crossbar c] else [crossbar c, baseSwitch c.pkg]
  | 2 =>
    if locUnit l = clIx c then []
    else if locUnit l / 16 = dieIx c then [crossbar c] else [crossbar c, baseSwitch c.pkg]
  | _ => []
/-- The input port at which a request of slot `c` to location `l` reaches a combining point (08 R243): its core's at a crossbar, as the
worked example of 08 has it; its die's, or the one of the package before, at a base-die switch. -/
def portAt (s : State) (c : Coords) (l point : Nat) : Nat :=
  if point % 2 = 0 then coreIx c
  else if point = baseSwitch c.pkg then dieIx c
  else
    let hops := c.pkg :: hopsTo s c.pkg (locUnit l)
    2 ^ 32 + ((hops.takeWhile (fun p => baseSwitch p ≠ point)).getLast?).getD 0
/-- Two requests as one, the first first, under a new number (08 R243, R244, R246). -/
def mergeOf (id : Nat) (a b : AtomReq) : AtomReq :=
  { a with id := id, x := if a.op = .chunk then 0 else combined a.op a.x b.x, count := a.count + b.count
           uid := 0, lane := 0, pend := 0, dst := 0 }
/-- Whether two requests are compatible (08 R241, R243): the same job is the same one of a package, or one that spans packages (17 R454). -/
def compatible (s : State) (a b : AtomReq) : Bool :=
  combinable a.op && a.op = b.op && a.loc = b.loc && a.size = b.size && a.job = b.job && sameJob s a.job a.at_.pkg b.at_.pkg &&
    a.key = b.key && a.count + b.count ≤ 65535
/-- Whether a wait buffer of 64 entries is full (08 R243): the core's own, or the one at a port of a combining point. -/
def bufferFull (p : Merge → Bool) (s : State) : Bool := 64 ≤ (s.merges.filter p).length
/-- A lane's request enters: the core merges it into the request of the same instruction on the same location (08 R242,
12 R383), where its wait buffer has a free entry (R243). `from_` is the first number of the instruction's requests. -/
def sendOne (from_ : Nat) (r : AtomReq) (s : State) : State :=
  let r := { r with id := s.nextId }
  let full := bufferFull (fun m => m.point = none && unitOf 1 m.a.at_ = unitOf 1 r.at_) s
  match if full then none else s.atoms.find? (fun q => from_ ≤ q.id && compatible s q r) with
  | none => { s with nextId := s.nextId + 1, atoms := s.atoms ++ [r] }
  | some q =>
    { s with
      nextId := s.nextId + 2
      atoms := upd (fun x => x.id = q.id) (fun _ => mergeOf (s.nextId + 1) q r) s.atoms
      merges := s.merges ++ [⟨s.nextId + 1, q, r, none, 0⟩] }
/-- Send the requests of an atomic under its clause's flag, and complete its issue (12 R383). -/
def sendAtoms (accs : List LaneAcc) (op : Nat → HomeOp) (size dst : Nat) (x : Nat → Word) (s : State) : State :=
  let g := s.g
  let pend := s.nextId
  let s := addPend [] accs.length [] s [] true
  next (accs.foldl (fun s c =>
    let loc := ((c.hits.head?).map (·.loc)).getD 0
    sendOne pend
      { id := 0, op := op c.lane, size := size, loc := loc, x := x c.lane, count := 1
        uid := g.uid, lane := c.lane, pend := pend, dst := dst, va := c.addr, job := g.job
        key := (c.hits.head?).bind (·.key), at_ := g.at_, sent := s.cycle, route := pointsTo s g.at_ loc, queued := none } s) s)
/-- An atomic instruction: register holding, the checks of its lanes, its requests (12 R383, R388). -/
def atomic (d a b : Reg) (regs n align size : Nat) (op : Nat → HomeOp) (x : Nat → Word) (s : State) : State :=
  let g := s.g
  orTrap (blockTrap g [(d, regs), (b, 1)]) (fun s =>
    match atomLanes s g n align (atomAddrs g a b) with
    | .error t => raise t s
    | .ok accs => sendAtoms accs op size (vnum g d) x s) s

/-- `atom` (12 R383). -/
def execAtom (d a b : Reg) (o : AtomOp) (s : State) : Out :=
  .next (atomic d a b 1 4 4 4 (fun _ => .atom o) (groupWord s.g d 0 4) s)
/-- `atom64` (12 R383). -/
def execAtom64 (d a b : Reg) (o : Atom64Op) (s : State) : Out :=
  .next (atomic d a b 2 8 8 8 (fun _ => .atom64 o) (groupWord s.g d 0 8) s)
/-- `cas.w` (12 R385). -/
def execCasW (d a b : Reg) (s : State) : Out :=
  .next (atomic d a b 2 4 4 4 (fun l => .cas (groupWord s.g d 0 4 l)) (groupWord s.g d 1 4) s)
/-- `cas.d` (12 R385). -/
def execCasD (d a b : Reg) (s : State) : Out :=
  .next (atomic d a b 4 8 8 8 (fun l => .cas (groupWord s.g d 0 8 l)) (groupWord s.g d 2 8) s)
/-- `chunk` (12 R387): the record is 32 bytes; the request is on its first word (08 R252). -/
def execChunk (d a b : Reg) (s : State) : Out :=
  .next (atomic d a b 4 32 32 8 (fun _ => .chunk) (fun _ => 0) s)

/-- A contribution enters its core's update-only line (04 R146). -/
def addLine (core : Coords) (uid loc : Nat) (op : RedOp) (key : Key) (x : Word) : List RedLine → List RedLine
  | [] => [⟨core, loc, op, x, [uid], key⟩]
  | r :: t =>
    if r.core = core && r.loc = loc && r.op = op && r.key = key then
      { r with x := redOp op r.x x, uids := if r.uids.contains uid then r.uids else r.uids ++ [uid] } :: t
    else r :: addLine core uid loc op key x t
/-- `red` (12 R386). The lanes merge in ascending order, one of the orders that 04 R148 leaves open (DESIGN CHOICE, log 44). The view
holds the location as it was: a later load of the gang does not return the contribution (04 R146). -/
def execRed (d a b : Reg) (o : RedOp) (s : State) : Out :=
  let g := s.g
  let z := redSize o
  .next (orTrap (blockTrap g [(d, z / 4), (b, 1)]) (fun s =>
    match atomLanes s g z z (atomAddrs g a b) with
    | .error t => raise t s
    | .ok accs =>
      next { s with
        g := markSeen (accs.flatMap (fun c => c.hits.map (·.loc))) s.g
        lines := accs.foldl (fun ls c =>
          addLine (unitOf 1 g.at_) g.uid (((c.hits.head?).map (·.loc)).getD 0) o ((c.hits.head?).bind (·.key))
            (groupWord g d 0 z c.lane) ls) s.lines }) s)

/-- UPDATE_ONLY_EVICTION (04 R147): line `i` of the list is combined at its home, behind its contributors' earlier requests (19 R510). -/
def execUpdateOnlyEviction (i : Nat) (s : State) : Out :=
  .next (match s.lines[i]? with
    | some r => if flows s r.core.pkg (locPkg r.loc) && r.uids.all (fun u => (behindLine s r u).isEmpty) then lineHome r s else s
    | none => s)
/-- The points behind a point of a route. -/
def pointsAfter (p : Nat) (route : List Nat) : List Nat := (route.dropWhile (fun q => q ≠ p)).drop 1
/-- The route that a request still has from a point where it stands queued; none where it does not pass the point. -/
def routeFrom (p : Nat) (r : AtomReq) : Option (List Nat) :=
  if r.queued = some p then some r.route
  else if r.route.contains p then some (pointsAfter p r.route)
  else none
/-- The points that a request still reaches, in order, at which it meets another at the output that both need (08 R242, R243). -/
def meetAt (x y : AtomReq) : List Nat :=
  y.route.filter (fun p => match routeFrom p x with
    | some r => decide (r = pointsAfter p y.route)
    | none => false)
/-- Whether request `y` may merge into request `x` at a point (08 R243): no younger compatible one is queued there, and its input port has
a free entry in the wait buffer. -/
def mayMerge (s : State) (x y : AtomReq) (p : Nat) : Bool :=
  let younger := (s.atoms.dropWhile (fun r => r.id ≠ x.id)).drop 1
  let from_ := ((leavesOf s y).head?).getD y
  !younger.any (fun r => r.id ≠ y.id && r.queued = some p && compatible s r y) &&
    !bufferFull (fun m => m.point = some p && m.port = portAt s from_.at_ from_.loc p) s
/-- COMBINE_MERGE (08 R243 to R245): request `b` arrives at a combining point and merges into request `a`, which is queued there: at the
first one where it may, for where its input port's buffer is full it goes on uncombined. -/
def execCombineMerge (a b : Nat) (s : State) : Out :=
  .next (match s.atoms.find? (fun r => r.id = a), s.atoms.find? (fun r => r.id = b) with
    | some x, some y =>
      let rest := { s with atoms := s.atoms.filter (fun r => r.id ≠ a && r.id ≠ b) }
      let inOrder := (leavesOf s x).all (fun p => (leavesOf s y).all (fun q => p.uid ≠ q.uid || p.id < q.id))
      match (meetAt x y).find? (mayMerge s x y) with
      | none => s
      | some p =>
        if a ≠ b && compatible s x y && inOrder && atomReady rest x && atomReady rest y then
          let from_ := ((leavesOf s y).head?).getD y
          let m := { mergeOf s.nextId x y with queued := some p, route := pointsAfter p y.route }
          { s with
            nextId := s.nextId + 1
            atoms := upd (fun r => r.id = a) (fun _ => m) (s.atoms.filter (fun r => r.id ≠ b))
            merges := s.merges ++ [⟨s.nextId, x, y, some p, portAt s from_.at_ from_.loc p⟩] }
        else s
    | _, _ => s)
/-- REPLY_SPLIT (08 R246, R253): a reply is split and the wait-buffer entry freed. -/
def execReplySplit (id : Nat) (s : State) : Out :=
  .next (match s.areplies.find? (fun r => r.id = id), s.merges.find? (fun m => m.id = id) with
    | some r, some m =>
      let s := { s with areplies := s.areplies.filter (fun x => x.id ≠ id), merges := s.merges.filter (fun x => x.id ≠ id) }
      match r.v with
      | some v => answer m.b (splitVal m.a v r.ws) r.fl r.ws (answer m.a v r.fl r.ws s)
      | none => s
    | _, _ => s)
/-- Whether a request may be served at its home now: its turn has come, and it has a path (19 R507, R538). -/
def atHomeNow (s : State) (r : AtomReq) : Bool := atomReady s r && flows s r.at_.pkg (locPkg r.loc)
/-- ATOMIC_AT_HOME (04 R141, 08 R247): a request other than a `chunk` executes. -/
def execAtomicAtHome (id : Nat) (s : State) : Out :=
  .next (match s.atoms.find? (fun r => r.id = id) with
    | some r => if r.op ≠ .chunk && atHomeNow s r && !atomPoisoned s r then execRequest r s else s
    | none => s)
/-- CHUNK_GROUP (08 R252). -/
def execChunkGroup (id : Nat) (s : State) : Out :=
  .next (match s.atoms.find? (fun r => r.id = id) with
    | some r => if r.op = .chunk && atHomeNow s r && !atomPoisoned s r then execRequest r s else s
    | none => s)
/-- ATOMIC_ERROR_REPLY (08 R250): an uncorrectable error at the home. -/
def execAtomicErrorReply (id : Nat) (s : State) : Out :=
  .next (match s.atoms.find? (fun r => r.id = id) with
    | some r => if atHomeNow s r && atomPoisoned s r then failRequest r s else s
    | none => s)

end Sys2Proof.Machine
end

