-- ==== Sys2Proof/Machine/Queues.lean ====
section
/-! DEFINITION. The woodpiles and their queue units (08 R255 to R262, 12 R389, R390, 14 R420): binding, the queue
instructions, arrival and acceptance. -/

namespace Sys2Proof.Machine

/-- Word `i` of bytes read at the home. -/
def hitsWord (s : State) (hs : List Hit) (i : Nat) : Word :=
  wd (leNat (((hs.drop (8 * i)).take 8).map (fun h => homeByte s h.loc h.key)))
/-- The address check of R, W and A over `n` bytes from an address, one byte of each 4 KiB page and the last one. -/
def pagesOk (f : Word → Except Nat Hit) (a n : Nat) : Bool :=
  ((a + n - 1) :: (List.range (n / 4096 + 1)).map (fun i => min (a + 4096 * i) (a + n - 1))).all (fun x =>
    match f (wd x) with
    | .ok h => h.perm &&& (permR ||| permW ||| permA) = permR ||| permW ||| permA
    | .error _ => false)
/-- The home cluster that a descriptor names (08 R255), in the descriptor's package: its own for tag 0x0, the gang's for an
absolute die. -/
def queueHome (g : Gang) (hs : List Hit) (w0 : Word) : Coords :=
  let pkg := match hs.head? with
    | some h => if locKind h.loc = 0 then locUnit h.loc else g.at_.pkg
    | none => g.at_.pkg
  ⟨pkg, fld w0 11 10, fld w0 15 12, 0, 0⟩
/-- The unit that a descriptor binds, from its words, or none where the binding checks fail (08 R255, R256). The manual gives a descriptor with
an uncorrectable error no outcome: its bytes count as good (DESIGN CHOICE, log 46). -/
def bindCheck (s : State) (g : Gang) (a : Word) (hs : List Hit) : Option QUnit :=
  let w := hitsWord s hs
  let c := queueHome g hs (w 0)
  match hs.head?, jobOn s c.pkg g.job with
  | some h, some j =>
    let w7 := (j.words[7]?).getD 0
    let pile := fld w7 18 16 + fld (w 0) 18 16
    let bad := a.toNat % 64 ≠ 0 || (a.toNat / 2 ^ 60 ≠ 0 && a.toNat / 2 ^ 60 ≠ 4) || fld (w 0) 7 0 ≠ 1 ||
      fld (w 0) 47 35 ≠ 0 || fld (w 0) 31 19 ≠ 0 || fld (w 0) 9 8 ≠ 0 || fld (w 2) 63 32 ≠ 0 || fld (w 5) 63 17 ≠ 0 ||
      w 6 ≠ 0 || w 7 ≠ 0 || fld (w 0) 63 48 = 0 || fld (w 0) 34 32 < 2 || 4 < fld (w 0) 34 32 ||
      fld w7 23 20 ≤ fld (w 0) 18 16
    let cap := fld (w 2) 31 0
    let ring := w 1
    let badRing := (ring.toNat / 2 ^ 60 ≠ 0 && ring.toNat / 2 ^ 60 ≠ 4) || ring.toNat % 32 ≠ 0 || cap < 32 || 2 ^ 24 < cap
    let badCount := (w 4).toNat < (w 3).toNat || cap < (w 4).toNat - (w 3).toNat || fld (w 0) 63 48 < fld (w 5) 15 0
    if bad || badRing || badCount then none
    else if !pagesOk (mapByte s c g.job noWin) ring.toNat (32 * cap) then none
    else some ⟨c, pile, g.job, a, h.loc, h.key, ring, cap, fld (w 0) 63 48, fld (w 0) 34 32, (w 3).toNat, (w 4).toNat,
      fld (w 5) 15 0, (w 5).getLsbD 16, []⟩
  | _, _ => none

/-- The bytes of a record's ring slot (08 R257). What a spill or a refill does whose mapping has lost R or W since the binding, the manual does
not say: the slot is read or written without a permission test (DESIGN CHOICE, log 46). -/
def ringHits (s : State) (u : QUnit) (x : Nat) : Option (List Hit) :=
  match spanHits (mapByte s u.at_ u.job noWin) 0 0 32 (u.ring + wd (32 * (x % u.cap))) with
  | .ok hs => if hs.any (fun h => poisoned s h.loc) then none else some hs
  | .error _ => none
/-- Write a record's eight elements to its ring slot, each as one write (08 R257). -/
def writeElems (hs : List Hit) : List W32 → State → State
  | [], s => s
  | e :: r, s =>
    let bs := (hs.take 4).zip (leBytes 4 e.toNat)
    let t := homeWrite (bs.map (fun p => (p.1.loc, p.2))) ((hs.head?).bind (·.key)) s
    writeElems (hs.drop 4) r t
/-- A record of eight elements in its ring slot. -/
def readElems (s : State) (hs : List Hit) : List W32 :=
  (List.range 8).map (fun i => w32 (leNat (((hs.drop (4 * i)).take 4).map (fun h => homeByte s h.loc h.key))))
/-- A pushed record takes its number: in the woodpile, or spilled to its ring slot (08 R257). An error marks the queue
failed and loses the record (08 R262). -/
def pushRec (rec : List W32) (us : QUnit × State) : QUnit × State :=
  let (u, s) := us
  if u.recs.length < Config.pileRecords && u.head + u.recs.length = u.tail then
    ({ u with recs := u.recs ++ [(u.tail, rec)], tail := u.tail + 1 }, s)
  else match ringHits s u u.tail with
    | some hs => ({ u with tail := u.tail + 1 }, writeElems hs rec s)
    | none => ({ u with tail := u.tail + 1, failed := true }, s)
/-- Fill freed woodpile slots from the oldest woodshed records (08 R257). -/
def refill : Nat → QUnit → State → QUnit
  | 0, u, _ => u
  | n + 1, u, s =>
    let x := u.head + u.recs.length
    if u.recs.length < Config.pileRecords && x < u.tail && !u.failed then
      match ringHits s u x with
      | some hs => refill n { u with recs := u.recs ++ [(x, readElems s hs)] } s
      | none => { u with failed := true }
    else u

/-- Whether two operations wait for the same condition (14 R420). -/
def sameGroup (a b : QOp) : Bool := (a.kind = 0 && b.kind = 0) || ((a.kind = 1 || a.kind = 2) && (b.kind = 1 || b.kind = 2))
/-- How many lanes an operation serves (08 R259). -/
def opLanes (o : QOp) : Nat := if o.kind = 0 || o.kind = 1 then (lanesOf o.act).length else 1
/-- The condition of an operation (08 R259). -/
def qCondition (u : QUnit) (o : QOp) : Bool :=
  match o.kind with
  | 0 => opLanes o = 0 || u.tail - u.head + opLanes o ≤ u.cap
  | 1 | 2 => opLanes o ≤ u.tail - u.head || u.closed = u.prod
  | _ => true
/-- The trap of an operation at its unit (08 R262), by the rows of that rule. -/
def unitTrap (g : Gang) (u : QUnit) (o : QOp) : Option Trap :=
  firstTrap [
    (!sameUnit u.reach g.at_ u.at_, ⟨cQueueScope, o.desc, 0⟩),
    (o.kind = 0 && u.closed = u.prod, ⟨cQueueClosed, o.desc, 0⟩),
    (o.kind = 3 && u.closed = u.prod, ⟨cOverclose, o.desc, 0⟩),
    (u.failed, ⟨cQueueFailed, o.desc, 0⟩)]
/-- Whether an earlier operation waits on the unit for the same condition (08 R258); one without active lanes waits for none
(08 R260). -/
def qBehind (s : State) (w : QWait) : Bool :=
  opLanes w.op ≠ 0 && (s.qwaits.takeWhile (fun x => !(x.uid = w.uid && x.path = w.path))).any (fun x =>
    x.arrived && x.at_ = w.at_ && x.pile = w.pile && sameGroup x.op w.op)

/-- The results of an accepted pop from its records (08 R260). -/
def popWrites (o : QOp) (recs : List (List W32)) : List RegWrite :=
  let el (r i : Nat) : W32 := (((recs[r]?).getD [])[i]?).getD 0
  if o.kind = 1 then
    let served := (lanesOf o.act).take recs.length
    let m := maskOf (fun l => served.contains l)
    .k o.mask m :: (List.range 8).map (fun i => .v (o.dst + i) m (mkLanes (fun l => el (served.findIdx (· = l)) i)))
  else if recs.isEmpty then [.s o.dst (wd (2 ^ 64 - 1))]
  else (List.range 8).map (fun i => .s (o.dst + i) ((el 0 i).setWidth 64))
/-- A path's entry continues at the next word, and its gang is no longer held. -/
def advancePath (i : Nat) (g : Gang) : Gang :=
  { g with blocked := false, paths := g.paths.setIfInBounds i { entry g i with pc := (entry g i).pc + 4 } }
/-- A gang has a pending result under a flag, all of whose replies have arrived (03 R103). -/
def pendDone (id flag now : Nat) (ws : List RegWrite) (g : Gang) : Gang :=
  { g with
    pend := g.pend ++ [⟨id, flag, 0, ws, [], now, [], g.inh, true⟩]
    flags := g.flags.setIfInBounds flag (flagCount g flag + 1) }
/-- ACCEPTANCE of a queue operation (08 R257 to R260): its whole effect on the unit, the records, the acquire of a pop, and its
path's completion; `now` says that its path issues the instruction in this step, and otherwise it completes by the event. -/
def acceptOp (now : Bool) (w : QWait) (u : QUnit) (s : State) : State :=
  let o := w.op
  let s := { s with qwaits := s.qwaits.filter (fun x => !(x.uid = w.uid && x.path = w.path)) }
  let put (u : QUnit) (s : State) : State :=
    { s with units := upd (fun x => x.at_ = u.at_ && x.pile = u.pile) (fun _ => u) s.units }
  let fin (g : Gang) : Gang := if now then advancePath w.path g else completeWait s.cycle w.path w.yield g
  match o.kind with
  | 0 =>
    let (v, t) := o.recs.foldl (fun us r => pushRec r us) (u, s)
    onGang w.uid fin (put v t)
  | 1 | 2 =>
    let m := min (opLanes o) (u.tail - u.head)
    let recs := (u.recs.take m).map (·.2)
    let v := refill Config.pileRecords { u with recs := u.recs.drop m, head := u.head + m } s
    let t := put v s
    let t := acquireFor w.uid u.reach t
    onGang w.uid (fun g => fin (pendDone t.nextId o.flag t.cycle (popWrites o recs) g))
      { t with nextId := t.nextId + 1 }
  | _ => onGang w.uid fin (put { u with closed := u.closed + 1 } s)
/-- Whether a pop's completion flag is full: it cannot complete as an instruction of that flag (03 R104). -/
def flagFull (g : Gang) (o : QOp) : Bool := (o.kind = 1 || o.kind = 2) && o.flag < 12 && flagCount g o.flag = 15
/-- An operation at its unit is accepted if its turn has come and its gang still runs; one that would trap now is sent back to its path,
which raises the trap. -/
def tryAccept (now : Bool) (w : QWait) (s : State) : State :=
  match gangOf s w.uid, s.units.find? (fun u => u.at_ = w.at_ && u.pile = w.pile) with
  | some g, some u =>
    if (unitTrap g u w.op).isSome then
      onGang w.uid (fun g => { g with blocked := false })
        { s with qwaits := s.qwaits.filter (fun x => !(x.uid = w.uid && x.path = w.path)) }
    else if g.phase = .running && qCondition u w.op && !qBehind s w && !flagFull g w.op then acceptOp now w u s
    else s
  | _, _ => { s with qwaits := s.qwaits.filter (fun x => !(x.uid = w.uid && x.path = w.path)) }

/-- A queue instruction: the checks of 12 R390 and 08 R262, the publish that leads its request, its arrival at the unit, and the
wait for acceptance (08 R258, R259). The request may still be on its way (R8, log 4). Each operation checks the descriptor's words and its
ring's permissions again, that of a bound unit too: 08 R256 asks for the check at the binding and is silent on later ones (DESIGN CHOICE, log
46). -/
def queueInstr (regs : List (Reg × Nat)) (o : QOp) (s : State) : State :=
  let me (w : QWait) : Bool := w.uid = s.g.uid && w.path = s.g.act.val
  orTrap (blockTrap s.g regs) (fun s =>
    match s.qwaits.find? me with
    | some w =>
      let t := if w.arrived then tryAccept true w s else s
      if t.qwaits.any me then block t else t
    | none =>
      let s := if o.kind = 0 || o.kind = 3 then drainOwn s.g.uid s else s
      match spanHits (gangByte s s.g) (permR ||| permW ||| permA) 0 64 o.desc with
      | .error t => raise t s
      | .ok hs =>
        match bindCheck s s.g o.desc hs with
        | none => raise ⟨cQueueRecord, o.desc, 0⟩ s
        | some b =>
          match s.units.find? (fun u => u.at_ = b.at_ && u.pile = b.pile) with
          | some u =>
            if u.loc ≠ b.loc || u.job ≠ b.job then raise ⟨cQueueRecord, o.desc, 0⟩ s
            else arrive u s
          | none =>
            if !sameUnit b.reach s.g.at_ b.at_ then raise ⟨cQueueScope, o.desc, 0⟩ s
            else arrive b { s with units := s.units ++ [refill Config.pileRecords b s] }) s
where
  /-- The request leaves for a bound unit. -/
  arrive (u : QUnit) (s : State) : State :=
    orTrap (unitTrap s.g u o) (fun s =>
      let s := if o.kind = 0 || o.kind = 3 then publish u.reach s else s
      let (p, s) := pick s
      let w : QWait := ⟨s.g.uid, s.g.act.val, u.at_, u.pile, p = 0, o, s.iss.yield⟩
      let s := { s with qwaits := s.qwaits ++ [w] }
      if p ≠ 0 then block s
      else
        let t := tryAccept true w s
        if t.qwaits.any (fun x => x.uid = w.uid && x.path = w.path) then block t else t) s

/-- `qpush` (12 R389, 08 R259). -/
def execQpush (d a : Reg) (s : State) : Out :=
  let g := s.g
  .next (queueInstr [(d, 8)] ⟨0, sreg g a, execMask g, 0, 0, 15,
    (lanesOf (execMask g)).map (fun l => (List.range 8).map (fun i => lane (vreg g d i) l))⟩ s)
/-- `qpop` (12 R389, 08 R259, R260). -/
def execQpop (d a : Reg) (k : BitVec 3) (s : State) : Out :=
  .next (queueInstr [(d, 8)] ⟨1, sreg s.g a, execMask s.g, vnum s.g d, k.toNat, s.iss.flag, []⟩ s)
/-- `qpops` (12 R389, 08 R259, R260). -/
def execQpops (d a : Reg) (s : State) : Out :=
  .next (queueInstr [] ⟨2, sreg s.g a, 0, d.toNat, 0, s.iss.flag, []⟩ s)
/-- `qclose` (12 R389, 08 R259). -/
def execQclose (a : Reg) (s : State) : Out := .next (queueInstr [] ⟨3, sreg s.g a, 0, 0, 0, 15, []⟩ s)

/-- QUEUE_OP_ARRIVAL (08 R258): the request of the gang in slot `c` reaches its unit, behind those that arrived before. -/
def execQueueOpArrival (c : Coords) (s : State) : Out :=
  .next (match gangAt s c with
    | none => s
    | some g => match s.qwaits.find? (fun w => w.uid = g.uid && !w.arrived) with
      | none => s
      | some w =>
        let rest := s.qwaits.filter (fun x => !(x.uid = w.uid && x.path = w.path))
        tryAccept false { w with arrived := true } { s with qwaits := rest ++ [{ w with arrived := true }] })
/-- QUEUE_OP_ACCEPT (08 R259): an operation that waits at its unit is accepted once its condition holds. -/
def execQueueOpAccept (c : Coords) (s : State) : Out :=
  .next (match gangAt s c with
    | none => s
    | some g => match s.qwaits.find? (fun w => w.uid = g.uid && w.arrived) with
      | none => s
      | some w => tryAccept false w s)

/-- The eight bytes of a descriptor word. -/
def descWord (u : QUnit) (i : Nat) (x : Word) (s : State) : State :=
  homeWrite (consec (u.loc + 8 * i) (leBytes 8 x.toNat)) u.key s
/-- UNBIND (08 R256, R257): the woodpile's records go to their ring slots and the counts to the descriptor. -/
def unbind (u : QUnit) (s : State) : State :=
  let (v, s) := u.recs.foldl (fun us r =>
    match ringHits us.2 us.1 r.1 with
    | some hs => (us.1, writeElems hs r.2 us.2)
    | none => ({ us.1 with failed := true }, us.2)) (u, s)
  descWord v 5 (wd (v.closed + if v.failed then 65536 else 0)) (descWord v 4 (wd v.tail) (descWord v 3 (wd v.head)
    { s with units := s.units.filter (fun x => !(x.at_ = u.at_ && x.pile = u.pile)) }))

end Sys2Proof.Machine
end

