-- ==== Sys2Proof/Machine/Timeline.lean ====
section
/-! DEFINITION. Engine timelines (04 R152 to R157, 12 R374, R380): `tl_issue`, completion, `tlwait`, `tlread`, `sleept` and
promises. -/

namespace Sys2Proof.Machine

/-- The level of an engine (04 R152). -/
def engLevel : Engine → Nat
  | .cart l _ => l.code
  | .kiln _ => 2
  | .granary _ => 3
/-- The timeline of an engine for a job. -/
def timelineOf (s : State) (e : Engine) (job : Nat) : Timeline :=
  (s.timelines.find? (fun t => t.eng = e && t.job = job)).getD { eng := e, job := job }
/-- Change the timeline of an engine for a job. -/
def onTimeline (e : Engine) (job : Nat) (f : Timeline → Timeline) (s : State) : State :=
  if s.timelines.any (fun t => t.eng = e && t.job = job) then
    { s with timelines := upd (fun t => t.eng = e && t.job = job) f s.timelines }
  else { s with timelines := s.timelines ++ [f { eng := e, job := job }] }
/-- The counter: the largest n for which operations 1 to n have completed (04 R154). -/
def countFrom (done : List Nat) : Nat → Nat → Nat
  | 0, n => n
  | f + 1, n => if done.contains (n + 1) then countFrom done f (n + 1) else n
/-- The counter of a timeline (04 R154). -/
def tlCount (t : Timeline) : Nat := countFrom t.done t.last 0
/-- A number completes. -/
def completeNum (o : OpId) (s : State) : State := onTimeline o.eng o.job (fun t => { t with done := o.n :: t.done }) s
/-- The package of an engine. -/
def engPkg : Engine → Nat
  | .cart _ c | .kiln c | .granary c => c.pkg
/-- Flags of an operation wait for a `tlwait` that covers it (05 R174). -/
def noteFlags (o : OpId) (uid : Nat) (f : Fl) (s : State) : State :=
  if f = 0 then s else onTimeline o.eng o.job (fun t => { t with flags := t.flags ++ [(o.n, uid, f)] }) s
/-- A fault of an operation waits for the first `tlwait` that covers it (02 R79, 07 R237). -/
def noteFault (o : OpId) (cause : Nat) (addr info : Word) (s : State) : State :=
  onTimeline o.eng o.job (fun t => { t with faults := t.faults ++ [(o.n, cause, addr, info)] }) s

/-- Timeline handle `t` of a gang. -/
def tlh (g : Gang) (t : BitVec 3) : TlHandle := g.tl[t.toNat]'(t.isLt)
/-- `tl_issue` (12 R374, 04 R152): publish at the engine's level, take the next number, bind the handle where one is named. -/
def tlIssue (e : Engine) (t : Option (BitVec 3)) (s : State) : Nat × State :=
  let s := publish (engLevel e) s
  let n := (timelineOf s e s.g.job).last + 1
  let s := onTimeline e s.g.job (fun x => { x with last := n }) s
  (n, match t with
    | some t => { s with g := { s.g with tl := s.g.tl.setIfInBounds t.toNat ⟨some e, n, 0⟩ } }
    | none => s)

/-- The physical tile's number as a gang names it (06 R199): within the job's share. -/
def tileName (s : State) (g : Gang) (tile : Nat) : Nat := tile - fld (jobWord s g 7) 3 0
/-- The kiln-fault of a suspended `mma` (06 R213). -/
def kilnTrap (s : State) (g : Gang) (e : KilnEntry) : Trap :=
  ⟨cKiln, e.addr, wd (tileName s g e.tile + e.next * 256 + e.op.n % 2 ^ 32 * 2 ^ 32)⟩
/-- A gang's own `mma` suspended by a fault that a wait for number `n` covers (06 R213). -/
def coveredSusp (s : State) (g : Gang) (e : Engine) (n : Nat) : Option KilnEntry :=
  s.kiln.find? (fun k => k.op.eng = e && k.op.job = g.job && k.uid = g.uid && k.state = 2 && k.cause ≠ 0 && k.op.n ≤ n)
/-- The flags of the covered operations enter their issuers' `%fpcsr` (05 R174). -/
def takeFlags (e : Engine) (job n : Nat) (s : State) : State :=
  let t := timelineOf s e job
  let s := (t.flags.filter (fun f => f.1 ≤ n)).foldl (fun s f =>
    onGangAny f.2.1 (fun g => applyReply g (.fp f.2.2)) s) s
  if t.flags.any (fun f => f.1 ≤ n) then
    onTimeline e job (fun t => { t with flags := t.flags.filter (fun f => n < f.1) }) s
  else s
/-- `tlwait` for number `n` of handle `t` (04 R154, 12 R380, 06 R213). -/
def waitTl (t : BitVec 3) (n : Nat) (s : State) : State :=
  match (tlh s.g t).eng with
  | none => raise ⟨cTimeline, 0, t.setWidth 64⟩ s
  | some e =>
    let x := timelineOf s e s.g.job
    if x.last < n then raise ⟨cTimeline, 0, t.setWidth 64⟩ s
    else match coveredSusp s s.g e n with
      | some k => raise (kilnTrap s s.g k) s
      | none =>
        if tlCount x < n then block s
        else
          let s := takeFlags e s.g.job n (acquire (engLevel e) s)
          match (timelineOf s e s.g.job).faults.find? (fun f => f.1 ≤ n) with
          | some f =>
            raise ⟨f.2.1, f.2.2.1, f.2.2.2⟩ (onTimeline e s.g.job (fun t => { t with faults := t.faults.erase f }) s)
          | none => next s
/-- `tlwait tl` (12 R380). -/
def execTlwait (t : BitVec 3) (s : State) : Out := .next (waitTl t (tlh s.g t).last s)
/-- `tlwait tl, sn` (12 R380). -/
def execTlwaitN (t : BitVec 3) (n : Reg) (s : State) : Out := .next (waitTl t (sreg s.g n).toNat s)
/-- `tlread.cnt` (12 R380): 0 for an unbound handle. -/
def execTlreadCnt (d : Reg) (t : BitVec 3) (s : State) : Out :=
  let c := match (tlh s.g t).eng with
    | some e => tlCount (timelineOf s e s.g.job)
    | none => 0
  .next (next (addPend [.s d.toNat (wd c)] 0 [] s))
/-- `tlread.last` (12 R380). -/
def execTlreadLast (d : Reg) (t : BitVec 3) (s : State) : Out :=
  .next (next (addPend [.s d.toNat (wd (tlh s.g t).last)] 0 [] s))
/-- `tlread.skip` (12 R380). -/
def execTlreadSkip (d : Reg) (t : BitVec 3) (s : State) : Out :=
  .next (next (addPend [.s d.toNat ((tlh s.g t).skip.setWidth 64)] 0 [] s))

/-- `sleept` (12 R380, 04 R156): completes at once when `%cycle` has reached the value; else the whole gang sleeps. -/
def execSleept (a : Reg) (s : State) : Out :=
  .next (if (sreg s.g a).toNat ≤ cycleOf s s.g then next s
    else { s with g := { s.g with hold := .sleep (sreg s.g a) } })
/-- SLEEP_END (04 R156): the sleep of the gang in slot `c` ends once `%cycle` has reached its value. -/
def execSleepEnd (c : Coords) (s : State) : Out :=
  .next (match gangAt s c with
    | none => s
    | some g => match g.hold with
      | .sleep t =>
        if t.toNat ≤ cycleOf s g && g.phase = .running && !g.stopping then onGang g.uid (fun g => wakeUp g) s else s
      | .none | .tile _ => s)
/-- A promise that has run out before its copy completed is counted as missed, and its gang may trap (04 R157). -/
def expirePromise (o : OpId) (s : State) : State :=
  match s.carts.find? (fun c => c.id = o) with
    | none => s
    | some c =>
      let now := match s.pkgs.find? (fun p => p.pkg = c.at_.pkg) with
        | some p => s.cycle - p.resetAt
        | none => s.cycle
      if c.missed || now < c.promise then s
      else
        onGangAny c.uid (fun g =>
            if g.pme then { g with deferred := g.deferred ++ [⟨cPromise, 0, wd o.n, true, g.inh⟩] } else g)
          { s with
            carts := upd (fun x => x.id = o) (fun x => { x with missed := true }) s.carts
            jobs := upd (fun j => j.id = o.job && j.pkg = c.at_.pkg) (fun j => { j with missed := j.missed + 1 }) s.jobs }
/-- PROMISE_EXPIRY (04 R157): a promise runs out before its copy has completed. -/
def execPromiseExpiry (o : OpId) (s : State) : Out := .next (expirePromise o s)

end Sys2Proof.Machine
end

