-- ==== Sys2Proof/Machine/Cart.lean ====
section
/-! DEFINITION. The cart: `cpy`, `mcopy` and `reduce` (12 R375 to R379, 02 R71 to R79, R536, 20 R516), and the completion
of their operations. -/

namespace Sys2Proof.Machine

/-- F and W of the promise (12 R379). -/
def cartFigures : Nat → Nat × Nat
  | 1 => (80, 256)
  | 2 => (160, 256)
  | 3 => (320, 512)
  | 4 => (640, 2048)
  | _ => (4000, 512)
/-- The cart of a gang's level-L unit. -/
def cartOf (g : Gang) (l : Level) : Engine := .cart l (unitOf l.code g.at_)
/-- The promise of an operation of `n` bytes issued now (12 R379). -/
def promiseOf (s : State) (l : Level) (n : Nat) : Nat :=
  let q := (s.carts.filter (fun c => c.id.eng = cartOf s.g l)).foldl (fun a c => a + c.bytes) 0
  cycleOf s s.g + (cartFigures l.code).1 + ceilDiv (q + n) (cartFigures l.code).2
/-- The four descriptor words s(d) to s(d + 3). -/
def descWords (g : Gang) (d : Reg) : List Word := (List.range 4).map (fun i => sregAt g d i)
/-- Issue an accepted cart operation of `n` bytes: its number, the handle, the promise (12 R374, R379, 20 R517). -/
def issueCart (kind : Nat) (t : BitVec 3) (d p : Reg) (l : Level) (n : Nat) (s : State) : State :=
  let promise := promiseOf s l n
  let e := cartOf s.g l
  let ws := descWords s.g d
  let (k, s) := tlIssue e (some t) s
  let g := s.g
  let op : CartOp := { id := ⟨e, g.job, k⟩, kind := kind, level := l.code, words := ws, uid := g.uid, at_ := g.at_
                       launch := g.launch, view := g.fenced, promise := promise, missed := false, bytes := n
                       tl := t.toNat, win := scratchOf s g, sent := s.cycle, errs := [] }
  let s := { s with carts := s.carts ++ [op] }
  next (if p = 0 then s else putS 1 p (wd promise) s)

/-- The tag of an address. -/
def tagOf (a : Word) : Nat := a.toNat / 2 ^ 60
/-- Whether an absolute cluster address (tag 0x5) names a gang's own cluster, or its own die. -/
def ownCluster (g : Gang) (a : Word) : Bool := fld a 28 27 = g.at_.die && fld a 26 23 = g.at_.cluster
def ownDie5 (g : Gang) (a : Word) : Bool := fld a 28 27 = g.at_.die
/-- Whether an absolute die address (tag 0x4) names a gang's own die. -/
def ownDie4 (g : Gang) (a : Word) : Bool := fld a 29 28 = g.at_.die
/-- An address in the level-L memory of a gang's unit (12 R376, 02 R72). -/
def levelSide (g : Gang) (l : Nat) (a : Word) : Bool :=
  match l with
  | 1 => tagOf a = 1
  | 2 => tagOf a = 2 || (tagOf a = 5 && ownCluster g a)
  | 3 => tagOf a = 3 || (tagOf a = 4 && ownDie4 g a)
  | _ => tagOf a = 0
/-- An address in a memory of a child (12 R376). -/
def childSide (g : Gang) (l : Nat) (a : Word) : Bool :=
  match l with
  | 2 => tagOf a = 1
  | 3 => tagOf a = 2 || (tagOf a = 5 && ownDie5 g a)
  | 4 => tagOf a = 3 || tagOf a = 4
  | _ => tagOf a = 0
/-- The checks of a `cpy` at issue (12 R377). -/
def cpyTrap (g : Gang) (l : Nat) (ws : List Word) : Option Trap :=
  let from_ := ws.headD 0
  let to_ := (ws[1]?).getD 0
  let w2 := (ws[2]?).getD 0
  let w3 := (ws[3]?).getD 0
  let rows := fld w2 55 32
  let rb := fld w2 31 0
  firstTrap [
    (g.root < l, ⟨cLaunchScope, 0, 0⟩),
    (tagOf from_ = 15, ⟨cDevice, from_, 0⟩),
    (tagOf to_ = 15, ⟨cDevice, to_, 0⟩),
    (fld w2 63 56 ≠ 0 || rows = 0 || rb = 0 || rb % 4 ≠ 0 || from_.toNat % 4 ≠ 0 || to_.toNat % 4 ≠ 0 ||
      (1 < rows && (fld w3 63 32 < rb || fld w3 31 0 < rb)) ||
      !((levelSide g l from_ && childSide g l to_) || (levelSide g l to_ && childSide g l from_)), ⟨cDescriptor, 0, 0⟩)]
/-- `cpy` (12 R375 to R379). -/
def execCpy (t : BitVec 3) (d p : Reg) (l : Level) (s : State) : Out :=
  let w2 := (sregAt s.g d 2)
  .next (orTrap (cpyTrap s.g l.code (descWords s.g d)) (issueCart 0 t d p l (fld w2 55 32 * fld w2 31 0)) s)

/-- Bytes of an element of `reduce` (02 R72). -/
def redBytes (kind : Nat) : Nat := if kind = 1 then 2 else 4
/-- How many children a selection names (02 R72). -/
def selCount (l : Nat) (sel : Word) : Nat :=
  if l = 5 then fld sel 20 10 else ((List.range 16).filter (fun i => sel.getLsbD i)).length
/-- The children of a level-L unit (02 R73). -/
def unitChildren (s : State) (g : Gang) (l : Nat) : Nat :=
  match l with
  | 1 => 16
  | 2 => 4
  | 3 => 16
  | 4 => 4
  | _ => match podOf s g.at_.pkg with
    | some p => p.count
    | none => 1
/-- Whether a selection is legal (02 R73). -/
def selOk (s : State) (g : Gang) (l : Nat) (sel : Word) : Bool :=
  if l = 5 then
    fld sel 63 21 = 0 && 1 ≤ fld sel 20 10 && fld sel 20 10 ≤ 1024 && fld sel 9 0 + fld sel 20 10 ≤ unitChildren s g l
  else fld sel 63 16 = 0 && sel ≠ 0 && sel.toNat < 2 ^ unitChildren s g l
/-- The checks of `mcopy` and `reduce` at issue (02 R71 to R73, 12 R393). `red` selects `reduce`. -/
def levelOpTrap (s : State) (g : Gang) (red : Bool) (l : Nat) (ws : List Word) : Option Trap :=
  let paddr := ws.headD 0
  let caddr := (ws[1]?).getD 0
  let w2 := (ws[2]?).getD 0
  let n := fld w2 31 0
  let kind := fld w2 34 32
  let bytes := if red then n * redBytes kind else n
  let words := fld w2 63 38 ≠ 0 || n = 0 ||
    (if red then fld w2 36 35 = 3 || 4 ≤ kind else fld w2 37 35 ≠ 0 || 2 ≤ kind || n % 4 ≠ 0)
  let regs := l = 1 && (fld caddr 63 7 ≠ 0 || bytes % 128 ≠ 0 || 64 < fld caddr 6 0 + bytes / 128)
  firstTrap [
    (g.root < l, ⟨cLaunchScope, 0, 0⟩),
    (tagOf paddr = 15, ⟨cDevice, paddr, 0⟩),
    (tagOf caddr = 15, ⟨cDevice, caddr, 0⟩),
    (words || regs || !selOk s g l ((ws[3]?).getD 0) || !levelSide g l paddr, ⟨cDescriptor, 0, 0⟩)]
/-- `mcopy` (02 R71 to R75, 12 R392). -/
def execMcopy (t : BitVec 3) (d p : Reg) (l : Level) (s : State) : Out :=
  .next (orTrap (levelOpTrap s s.g false l.code (descWords s.g d)) (fun s =>
    issueCart 1 t d p l (fld (sregAt s.g d 2) 31 0 * selCount l.code (sregAt s.g d 3)) s) s)
/-- `reduce` (02 R71 to R77, 12 R392). -/
def execReduce (t : BitVec 3) (d p : Reg) (l : Level) (s : State) : Out :=
  .next (orTrap (levelOpTrap s s.g true l.code (descWords s.g d)) (fun s =>
    issueCart 2 t d p l
      (fld (sregAt s.g d 2) 31 0 * redBytes (fld (sregAt s.g d 2) 34 32) * selCount l.code (sregAt s.g d 3)) s) s)

/-- The children that an operation selects, in ascending index, as the slots that stand for them (02 R72). -/
def selected (op : CartOp) : List Coords :=
  let sel := (op.words[3]?).getD 0
  let c := op.at_
  if op.level = 5 then (List.range (fld sel 20 10)).map (fun i => ⟨fld sel 9 0 + i, 0, 0, 0, 0⟩)
  else ((List.range 16).filter (fun i => sel.getLsbD i)).map (fun i =>
    match op.level with
    | 1 => { c with slot := i }
    | 2 => { c with core := i, slot := 0 }
    | 3 => { c with cluster := i, core := 0, slot := 0 }
    | _ => { c with die := i, cluster := 0, core := 0, slot := 0 })
/-- What tells a launch's tree apart: the package, job, graph and number of its root launch (02 R536). -/
def treeOf (s : State) (l : Nat) : Option (Nat × Nat × Nat × Nat) :=
  (launchOf s l).map (fun x => (x.pkg, x.job, x.graph, x.number))
/-- The scratch window that a child core's space 0x1 maps through (02 R536); none where the part faults. -/
def childScratch (s : State) (op : CartOp) (c : Coords) : Option Win :=
  match s.scratch.filter (fun w => w.core = unitOf 1 c && (treeOf s w.launch).isSome && treeOf s w.launch = treeOf s op.launch) with
  | [w] => some (w.base, w.size, w.gen)
  | _ => none
/-- The mapping of a child's address (02 R72, R536). -/
def childByte (s : State) (op : CartOp) (c : Coords) (a : Word) : Except Nat Hit :=
  if tagOf a ≠ (if op.level = 5 then 0 else op.level - 1) then .error cSpace
  else if op.level = 2 then
    match childScratch s op c with
    | some w => mapByte s c op.id.job w a
    | none => .error cBound
  else mapByte s c op.id.job noWin a
/-- The mapping of an address on the issuer's side: the level-L memory of `mcopy` and `reduce`, and both sides of `cpy`. A part at level
4 that maps to another package is a copy fault of a `cpy` (12 R377); the manual does not say so of `mcopy` and `reduce`, and the model
takes the same (DESIGN CHOICE, log 50). -/
def parentByte (s : State) (op : CartOp) (a : Word) : Except Nat Hit :=
  match mapByte s op.at_ op.id.job op.win a with
  | .ok h => if op.level = 4 && tagOf a = 0 && locUnit h.loc ≠ op.at_.pkg then .error cTranslation else .ok h
  | .error c => .error c
/-- The mapping of an address on a side of an operation: the child of a rank, or the issuer's. -/
def sideByte (s : State) (op : CartOp) (who : Option Nat) (a : Word) : Except Nat Hit :=
  match who with
  | none => parentByte s op a
  | some j => match (selected op)[j]? with
    | some c => childByte s op c a
    | none => .error cSpace

/-- The work of an operation so far: the positions it wrote, its lowest faulting address, its flags, the source words it holds, the
machine. -/
structure Moved where
  wr : Cells Nat
  low : Option Word
  fl : Fl
  held : List (Option Nat × Word × List Byte)
  st : State
/-- Record a faulting address. -/
def Moved.fault (m : Moved) (a : Word) : Moved :=
  { m with low := some (match m.low with
      | some b => if a.toNat < b.toNat then a else b
      | none => a) }
/-- A request that reached the fabric timeout covers the 256-byte unit of its address (02 R79, 20 R516). -/
def inFailed (op : CartOp) (who : Option Nat) (wr : Bool) (a : Word) : Bool :=
  op.errs.any (fun e => e.1 = who && e.2.1 = wr && e.2.2.toNat / 256 = a.toNat / 256)
/-- The aligned 4-byte word that holds an address. -/
def wordOf (a : Word) : Word := a - wd (a.toNat % 4)
/-- Read the aligned word of the bytes `used` of a side as the issuer, through the tile path (04 R128, R153): its bytes, or nothing
where its part or its request fails. A word of which other elements of the operation use bytes too is read once. `late` says that a
failed request has been answered at its target after all. -/
def engWord (op : CartOp) (late : Bool) (who : Option Nat) (used : List Word) (m : Moved) : Option (List Byte) × Moved :=
  let a := used.headD 0
  let w := wordOf a
  match m.held.find? (fun h => h.1 = who && h.2.1 = w) with
  | some h => (some h.2.2, m)
  | none => match sideByte m.st op who a with
    | .error _ => (none, m.fault a)
    | .ok h =>
      if h.perm &&& permR ≠ permR || poisoned m.st h.loc then (none, m.fault a)
      else
        let failed := inFailed op who false a
        let m := if failed then m.fault a else m
        if failed && !late then (none, m)
        else
          let ls := (List.range 4).map (fun i => h.loc - a.toNat % 4 + i)
          let s := reach op.at_.pkg ls (combineLines (fun r => ls.any (lineCovers r)) m.st)
          let (bs, s) := pathRead (unitOf 2 op.at_) 2 op.view (ls.map (fun l => (l, h.key))) s
          (some bs, { m with st := s, held := if used.length < 4 then (who, w, bs) :: m.held else m.held })
/-- Read bytes of a side; nothing for one whose part or request fails (01 R38, 02 R79). -/
def engRead (op : CartOp) (late : Bool) (who : Option Nat) (as : List Word) (m : Moved) : List (Option Byte) × Moved :=
  let (ws, m) := ((as.map wordOf).eraseDups).foldl (fun (acc : List (Word × Option (List Byte)) × Moved) w =>
    let r := engWord op late who (as.filter (fun a => wordOf a = w)) acc.2
    (acc.1 ++ [(w, r.1)], r.2)) ([], m)
  (as.map (fun a => ((ws.find? (fun x => x.1 = wordOf a)).bind (·.2)).bind (fun bs => bs[a.toNat % 4]?)), m)
/-- Write bytes of one aligned word of a side as the issuer, in one position (04 R128, R153). `late` says that a failed request wrote
after all. -/
def engWrite (op : CartOp) (late : Bool) (who : Option Nat) (bs : List (Word × Byte)) (m : Moved) : Moved :=
  match bs with
  | [] => m
  | (a, _) :: _ => match sideByte m.st op who a with
    | .error _ => m.fault a
    | .ok h =>
      let ls := bs.map (fun b => (h.loc + b.1.toNat - a.toNat, b.2))
      if h.perm &&& permW ≠ permW || ls.any (fun b => poisoned m.st b.1) then m.fault a
      else
        let failed := inFailed op who true a
        let m := if failed then m.fault a else m
        if failed && !late then m
        else
          let p := m.st.wseq + 1
          { m with wr := ls.foldl (fun w b => cset 0 w b.1 p) m.wr, st := reach op.at_.pkg (ls.map (·.1)) (homeWrite ls h.key m.st) }
/-- The bytes of a list that are there, with their addresses from `a` on. -/
def presentBytes (a : Word) (bs : List (Option Byte)) : List (Word × Byte) :=
  (bs.zip (List.range bs.length)).filterMap (fun p => p.1.map (fun b => (a + wd p.2, b)))
/-- A run of `n` destination bytes from address `a` on, cut at the naturally aligned 4-byte elements of the destination: first byte and
length of each piece (04 R128, R155). -/
def cuts (a : Word) (n : Nat) : List (Nat × Nat) :=
  let d := a.toNat % 4
  (List.range (ceilDiv (d + n) 4)).map (fun k => (4 * k - d, min n (4 * k + 4 - d) - (4 * k - d)))

/-- The rows of a `cpy` as source, destination and length (12 R378). -/
def cpyRuns (op : CartOp) : List (Word × Word × Nat) :=
  let w2 := (op.words[2]?).getD 0
  let w3 := (op.words[3]?).getD 0
  (List.range (fld w2 55 32)).map (fun i =>
    (op.words.headD 0 + wd (i * fld w3 31 0), (op.words[1]?).getD 0 + wd (i * fld w3 63 32), fld w2 31 0))
/-- The fields of a descriptor of `mcopy` and `reduce` (02 R72). -/
def dParent (op : CartOp) : Word := op.words.headD 0
def dChild (op : CartOp) : Word := (op.words[1]?).getD 0
def dCount (op : CartOp) : Nat := fld ((op.words[2]?).getD 0) 31 0
def dKind (op : CartOp) : Nat := fld ((op.words[2]?).getD 0) 34 32
/-- Whether a `mcopy` goes up (02 R72). -/
def dUp (op : CartOp) : Bool := dKind op = 1
/-- The blocks of a `mcopy`, one for each selected child (02 R75): its rank, its address in the level-L memory. -/
def mcopyRuns (op : CartOp) : List (Nat × Word) :=
  (List.range (selected op).length).map (fun j => (j, dParent op + wd (if dUp op then j * dCount op else 0)))
/-- Where a `mcopy` writes the block of a child: in registers, whose bytes stand in lane order from a whole register on (02 R74), or in
memory. -/
def mcopyTo (op : CartOp) (r : Nat × Word) : Word :=
  if dUp op then r.2 else if op.level = 1 then 0 else dChild op
/-- The elements of an operation in the order of their numbers, each with its number of destination bytes: the pieces of every row or
block, or the pieces of the result of a `reduce`. A result whose elements do not stand at multiples of their size moves as one. -/
def cartPieces (op : CartOp) : List ((Nat × Nat) × Nat) :=
  let number (l : List (List (Nat × Nat))) : List ((Nat × Nat) × Nat) :=
    (l.zip (List.range l.length)).flatMap (fun p => p.1.map (fun c => (c, p.2)))
  match op.kind with
  | 0 => number ((cpyRuns op).map (fun r => cuts r.2.1 r.2.2))
  | 1 => number ((mcopyRuns op).map (fun r => cuts (mcopyTo op r) (dCount op)))
  | _ =>
    let z := redBytes (dKind op)
    let n := z * dCount op
    number [if (dParent op).toNat % z = 0 then cuts (dParent op) n else [(0, n)]]

/-- The gang of the issuer's job in a selected slot, if there is one (02 R74). The shadow slot of a pair (18 R482) holds no gang of its
own: the manual does not say whether it counts as a slot that holds one, and the model skips it (DESIGN CHOICE, log 50). -/
def slotGang (s : State) (op : CartOp) (c : Coords) : Option Gang :=
  match gangAt s c with
  | some g => if g.job = op.id.job && (g.phase = .running || g.phase = .draining) then some g else none
  | none => none
/-- Byte `b` of a block that starts at register `m` (02 R74). -/
def regByte (g : Gang) (m b : Nat) : Byte := ((lane (vabs g (m + b / 128)) (b % 128 / 4)).toNat / 2 ^ (8 * (b % 4)) : Nat)
/-- Bytes of a block in a gang's registers as its results stand now. -/
def regRead (s : State) (g : Gang) (m b n : Nat) : List Byte :=
  let h := settle s.cycle g
  (List.range n).map (fun i => regByte h m (b + i))
/-- Write the bytes that are there of an element of a block in a gang's registers, in its slot or in a save image (02 R74, R75, R79). -/
def regWrite (uid m b : Nat) (bs : List (Option Byte)) (s : State) : State :=
  let put (g : Gang) : Gang :=
    let h := settle s.cycle g
    let x := leNat ((bs.zip (List.range bs.length)).map (fun p => p.1.getD (regByte h m (b + p.2))))
    applyW h (.v (m + b / 128) (1#32 <<< (b % 128 / 4)) (mkLanes (fun _ => w32 x)))
  if bs.all Option.isNone then s else onGangAny uid put s
/-- At level 1 the operation reaches its slots (02 R74): which of them it skips is settled then, and what it reads of the others' registers
it reads then (log 23). -/
def reachSlots (s : State) (op : CartOp) : CartOp :=
  if op.level ≠ 1 || op.slots.isSome then op
  else
    let n := dCount op * (if op.kind = 2 then redBytes (dKind op) else 1)
    { op with slots := some ((selected op).map (fun c =>
        (slotGang s op c).map (fun g => (g.uid, regRead s g (fld (dChild op) 6 0) 0 n)))) }
/-- The slot of rank `j` as the operation reached it. -/
def slotAt (op : CartOp) (j : Nat) : Option (Nat × List Byte) := ((op.slots.getD [])[j]?).join
/-- The slots of a level-1 selection that the operation skips (02 R74). -/
def skipMask (op : CartOp) : BitVec 16 :=
  if op.level ≠ 1 then 0
  else ((selected op).zip (op.slots.getD [])).foldl (fun m p => if p.2.isNone then m ||| (1#16 <<< p.1.slot) else m) 0

/-- A piece of a `cpy` moves (12 R378). -/
def movePiece (op : CartOp) (late : Bool) (p : (Nat × Nat) × Nat) (m : Moved) : Moved :=
  match (cpyRuns op)[p.2]? with
  | none => m
  | some (src, dst, _) =>
    let (bs, m) := engRead op late none ((List.range p.1.2).map (fun i => src + wd (p.1.1 + i))) m
    engWrite op late none (presentBytes (dst + wd p.1.1) bs) m
/-- A piece of a `mcopy` moves (02 R75). -/
def spreadPiece (op : CartOp) (late : Bool) (p : (Nat × Nat) × Nat) (m : Moved) : Moved :=
  match (mcopyRuns op)[p.2]? with
  | none => m
  | some (j, pa) =>
    let pas := (List.range p.1.2).map (fun i => pa + wd (p.1.1 + i))
    let ca := dChild op + wd p.1.1
    if op.level = 1 then
      match slotAt op j with
      | none => m
      | some (u, blk) =>
        if dUp op then engWrite op late none (pas.zip ((blk.drop p.1.1).take p.1.2)) m
        else
          let (bs, m) := engRead op late none pas m
          { m with st := regWrite u (fld (dChild op) 6 0) p.1.1 bs m.st }
    else if dUp op then
      let (bs, m) := engRead op late (some j) ((List.range p.1.2).map (fun i => ca + wd i)) m
      engWrite op late none (presentBytes (pa + wd p.1.1) bs) m
    else
      let (bs, m) := engRead op late none pas m
      engWrite op late (some j) (presentBytes ca bs) m

/-- The values of element `e` in the selected children (02 R76), none where one of them faults or its request failed (R79). -/
def redList (op : CartOp) (z e : Nat) : List Nat → Moved → Option (List Nat) × Moved
  | [], m => (some [], m)
  | j :: r, m =>
    let (x, m) : Option (List Nat) × Moved :=
      if op.level = 1 then
        (some (match slotAt op j with
          | none => []
          | some (_, blk) => [leNat ((blk.drop (z * e)).take z)]), m)
      else
        let (bs, m) := engRead op false (some j) ((List.range z).map (fun i => dChild op + wd (z * e + i))) m
        (if bs.any Option.isNone then none else some [leNat (bs.filterMap id)], m)
    let (t, m) := redList op z e r m
    (match x, t with
      | some x, some t => some (x ++ t)
      | _, _ => none, m)
/-- One result of a `reduce` from the children's list and the old parent value where acc is set (02 R76). -/
def redValue (kind op : Nat) (l : List Nat) (old : Option Nat) : Nat × Fl :=
  let f := if kind = 1 then fBF16 else fFP32
  let all := l ++ old.toList
  match op with
  | 0 =>
    if kind < 2 then
      let p := pairwiseSum f l
      match old with
      | some o => let q := addF f o p.1; (q.1, p.2 ||| q.2)
      | none => p
    else ((all.foldl (· + ·) 0) % 2 ^ 32, 0)
  | _ =>
    let least := op = 1
    if kind < 2 then pairwiseMinMax f (if least then .min else .max) all
    else
      let o : AtomOp := if kind = 2 then (if least then .min else .max) else (if least then .minu else .maxu)
      ((all.tail.foldl (fun a b => intOp32 o a (w32 b)) (w32 (all.headD 0))).toNat, 0)
/-- The bytes of result element `e` of a `reduce` (02 R76): none where an input of it fails (R79), or where every slot is skipped
(R74). An element whose write then fails has raised its flags: the manual does not say (DESIGN CHOICE, log 50). -/
def redElem (op : CartOp) (e : Nat) (m : Moved) : List (Word × Byte) × Moved :=
  let w2 := (op.words[2]?).getD 0
  let z := redBytes (dKind op)
  let pas := (List.range z).map (fun i => dParent op + wd (z * e + i))
  match redList op z e (List.range (selected op).length) m with
  | (none, m) => ([], m)
  | (some l, m) =>
    if l.isEmpty then ([], m)
    else
      let (old, m) := if w2.getLsbD 37 then engRead op false none pas m else ([], m)
      if old.any Option.isNone then ([], m)
      else
        let r := redValue (dKind op) (fld w2 36 35) l (if w2.getLsbD 37 then some (leNat (old.filterMap id)) else none)
        (pas.zip (leBytes z r.1), { m with fl := m.fl ||| r.2 })
/-- A piece of a `reduce` acts (02 R76, R79, 04 R155): its elements are computed, and written word by word. -/
def reducePiece (op : CartOp) (late : Bool) (p : (Nat × Nat) × Nat) (m : Moved) : Moved :=
  let z := redBytes (dKind op)
  let (bs, m) := (List.range (p.1.2 / z)).foldl (fun (acc : List (Word × Byte) × Moved) i =>
    let (b, m) := redElem op (p.1.1 / z + i) acc.2
    (acc.1 ++ b, m)) ([], m)
  ((bs.map (fun b => wordOf b.1)).eraseDups).foldl (fun m w => engWrite op late none (bs.filter (fun b => wordOf b.1 = w)) m) m

/-- The bytes that a piece of an operation reads and writes, each with its side and whether it is written (02 R75, R76, 12 R378). -/
def pieceBytes (op : CartOp) (p : (Nat × Nat) × Nat) : List (Option Nat × Bool × Word) :=
  let run (who : Option Nat) (wr : Bool) (a : Word) (n : Nat) : List (Option Nat × Bool × Word) :=
    (List.range n).map (fun i => (who, wr, a + wd i))
  let at_ := wd p.1.1
  match op.kind with
  | 0 => match (cpyRuns op)[p.2]? with
    | some (src, dst, _) => run none false (src + at_) p.1.2 ++ run none true (dst + at_) p.1.2
    | none => []
  | 1 => match (mcopyRuns op)[p.2]? with
    | some (j, pa) => run none (dUp op) (pa + at_) p.1.2 ++ (if op.level = 1 then [] else run (some j) (!dUp op) (dChild op + at_) p.1.2)
    | none => []
  | _ =>
    (if op.level = 1 then [] else (List.range (selected op).length).flatMap (fun j => run (some j) false (dChild op + at_) p.1.2)) ++
      run none true (dParent op + at_) p.1.2 ++
      (if ((op.words[2]?).getD 0).getLsbD 37 then run none false (dParent op + at_) p.1.2 else [])
/-- Elements that have moved already fault where the request that moved them had no reply in time (19 R511, 20 R516). -/
def movedFaults (op : CartOp) (p : (Nat × Nat) × Nat) (m : Moved) : Moved :=
  (pieceBytes op p).foldl (fun m b => if inFailed op b.1 b.2.1 b.2.2 then m.fault b.2.2 else m) m
/-- The elements of an operation that `keep` names move, but for those that have moved already. -/
def runCart (op : CartOp) (late : Bool) (keep : Nat → Bool) (m : Moved) : Moved :=
  let ps := cartPieces op
  (ps.zip (List.range ps.length)).foldl (fun m p =>
    if !keep p.2 then m
    else if op.done.contains p.2 then movedFaults op p.1 m
    else match op.kind with
      | 0 => movePiece op late p.1 m
      | 1 => spreadPiece op late p.1 m
      | _ => reducePiece op late p.1 m) m
/-- The bytes that moving the elements of a list takes off those still to move (12 R379). -/
def movedBytes (op : CartOp) (es : List Nat) : Nat :=
  let ps := cartPieces op
  let n := es.foldl (fun n e => n + ((ps[e]?).map (·.1.2)).getD 0) 0
  if op.kind = 2 then n * (selected op).length else n
/-- Elements of a cart operation move before its completion (04 R155, 12 R378): a reader may find each of them old or new. -/
def moveElements (o : OpId) (es : List Nat) (s : State) : State :=
  uncut (engPkg o.eng) (fun s => match s.carts.find? (fun c => c.id = o) with
  | none => s
  | some op =>
    let (ch, s) := pick s
    let op := reachSlots s op
    let new := (es.eraseDups).filter (fun e => !op.done.contains e)
    let m := runCart op (ch % 2 = 1) new.contains ⟨op.wr, op.low, op.fl, op.held, s⟩
    { m.st with
      carts := upd (fun c => c.id = o) (fun _ => { op with
        done := op.done ++ new, wr := m.wr, low := m.low, fl := m.fl, held := m.held, bytes := op.bytes - movedBytes op new }) m.st.carts }) s

/-- CART_OP_COMPLETE (04 R153, R154, 02 R74 to R79, 12 R378): the operation acts, its writes count as the issuer's and are
published at its level, its number completes, and its skipped slots, flags and fault are recorded. It waits for a request that has no path
(19 R507, R538). A promise that has run out by then
is missed (R157). -/
def execCartOpComplete (o : OpId) (s : State) : Out :=
  .next (uncut (engPkg o.eng) (fun s => match s.carts.find? (fun c => c.id = o) with
    | none => s
    | some op =>
      let (ch, s) := pick (expirePromise o s)
      let op := reachSlots s op
      let skip := skipMask op
      let m := runCart op (ch % 2 = 1) (fun _ => true) ⟨op.wr, op.low, op.fl, op.held, s⟩
      let t := { m.st with
        carts := m.st.carts.filter (fun c => c.id ≠ o)
        pubs := if m.wr.isEmpty then m.st.pubs else addPub ⟨some (op.uid, op.at_), op.level, m.wr⟩ m.st.pubs }
      let t := onGangAny op.uid (fun g => { g with
        own := vjoin g.own m.wr
        view := if ch / 2 % 2 = 1 then vjoin g.view m.wr else g.view
        tl := match g.tl[op.tl]? with
          | some h => if h.eng = some o.eng && h.last = o.n then g.tl.setIfInBounds op.tl { h with skip := skip } else g.tl
          | none => g.tl }) t
      let t := noteFlags o op.uid m.fl t
      let t := match m.low with
        | some a => noteFault o cCopy a (wd o.n) t
        | none => t
      completeNum o t) s)

end Sys2Proof.Machine
end

