-- ==== Sys2Proof/Machine/Launch.lean ====
section
/-! DEFINITION. Launches at every level (02 R43 to R70, R80 to R88): tile records and their split, `lnch`, `joinw`, `bar`,
`fence`, `cancel`, the reeve's starts, the end of a gang, and the completion of a launch. -/

namespace Sys2Proof.Machine

/-- The children of a launch at level `l` (02 R51): dies, clusters, cores or packages of the unit. -/
def launchKids (s : State) (c : Coords) (l : Nat) : Nat :=
  match l with
  | 2 => 4
  | 3 => 16
  | 4 => 4
  | _ => match podOf s c.pkg with
    | some p => p.count
    | none => 1
/-- Word `i` of a record. -/
def rw (ws : List Word) (i : Nat) : Word := (ws[i]?).getD 0
/-- The rank, split dimension, granule and mode of a tile record (02 R46). -/
def tRank (ws : List Word) : Nat := fld (rw ws 0) 15 8
def tDim (ws : List Word) : Nat := fld (rw ws 0) 17 16
def tMode (ws : List Word) : Nat := fld (rw ws 0) 19 18
def tGran (ws : List Word) : Nat := 2 ^ fld (rw ws 0) 25 20
def tFirst (ws : List Word) : Nat := fld (rw ws 0) 47 32
def tCount (ws : List Word) : Nat := fld (rw ws 0) 63 48
/-- Origin and extent of dimension `d` (02 R46). -/
def tOrg (ws : List Word) (d : Nat) : Nat := (rw ws (1 + d / 2)).toNat / 2 ^ (32 * (d % 2)) % 2 ^ 32
def tExt (ws : List Word) (d : Nat) : Nat := (rw ws (3 + d / 2)).toNat / 2 ^ (32 * (d % 2)) % 2 ^ 32
/-- U, the number of units of the split dimension (02, "Split rules"). -/
def tUnits (ws : List Word) : Nat := ceilDiv (tExt ws (tDim ws)) (tGran ws)
/-- C, the child count of a launch at level `l` over a unit of `kids` children (02, "Split rules"). -/
def tChildren (ws : List Word) (l kids : Nat) : Nat :=
  if tCount ws ≠ 0 then tCount ws else if l = 1 then tUnits ws else kids - tFirst ws
/-- Whether a tile record is rejected (02 R47); `group` is the function's costart group. -/
def tileBad (ws : List Word) (l kids group : Nat) : Bool :=
  let w0 := rw ws 0
  let dims := (List.range 4).any (fun d =>
    if d < tRank ws then tExt ws d = 0 || 2 ^ 32 < tOrg ws d + tExt ws d else tOrg ws d ≠ 0 || tExt ws d ≠ 1)
  fld w0 7 0 ≠ 1 || fld w0 31 26 ≠ 0 || 32 ≤ fld w0 25 20 || 2 ≤ tMode ws || fld (rw ws 7) 63 3 ≠ 0 ||
    tRank ws = 0 || 4 < tRank ws || tRank ws ≤ tDim ws || dims ||
    (if l = 1 then
      tFirst ws ≠ 0 || (tMode ws = 1 && tCount ws = 0) || 65535 < tChildren ws 1 kids ||
        ((rw ws 7).getLsbD 2 && group < tChildren ws 1 kids)
    else kids ≤ tFirst ws || kids < tFirst ws + tCount ws)
/-- a(k) of the block split (02 R49). -/
def tStart (ws : List Word) (c k : Nat) : Nat := k * tUnits ws / c
/-- The extent of child `k` in the split dimension (02 R49). -/
def tPart (ws : List Word) (c k : Nat) : Nat :=
  if tMode ws = 1 then tExt ws (tDim ws)
  else min (tStart ws c (k + 1) * tGran ws) (tExt ws (tDim ws)) - tStart ws c k * tGran ws
/-- Whether child `k` has an empty sub-tile (02 R50). -/
def tEmpty (ws : List Word) (c k : Nat) : Bool := tMode ws ≠ 1 && tStart ws c (k + 1) = tStart ws c k
/-- Put 32 bits into half `d` mod 2 of a word. -/
def setHalf (w : Word) (d x : Nat) : Word :=
  if d % 2 = 0 then wd (w.toNat / 2 ^ 32 * 2 ^ 32 + x % 2 ^ 32) else wd (x % 2 ^ 32 * 2 ^ 32 + w.toNat % 2 ^ 32)
/-- The tile record of child `k` (02 R49, R52): the sub-tile, first and count 0, every other field the parent's. -/
def childTile (ws : List Word) (c k : Nat) : List Word :=
  let d := tDim ws
  let ws0 := ws.set 0 (wd (fld (rw ws 0) 31 0))
  if tMode ws = 1 then ws0
  else
    let ws1 := ws0.set (1 + d / 2) (setHalf (rw ws (1 + d / 2)) d (tOrg ws d + tStart ws c k * tGran ws))
    ws1.set (3 + d / 2) (setHalf (rw ws (3 + d / 2)) d (tPart ws c k))

/-- The finalised kernel at a function address (16 R440). -/
def kernelAt (s : State) (pkg job : Nat) (a : Word) : Option Kernel :=
  (jobOn s pkg job).bind (fun j => j.kernels.find? (fun k => k.entry = a))
/-- The costart group of a function: 1 where no kernel declares one (03 R119). -/
def costartOf (s : State) (pkg job : Nat) (a : Word) : Nat := ((kernelAt s pkg job a).map (·.costart)).getD 1
/-- The flags of word 7 that bind a gang's subtree (02 R48). -/
def boundFlags (s : State) (g : Gang) : Word :=
  match launchOf s g.launch with
  | some l => rw l.tile 7 &&& 7
  | none => 0
/-- The level and unit of the pool that a launch at level `l` takes its record from (02 R55). -/
def poolUnit (l : Nat) (c : Coords) : Nat × Coords := if l = 5 then (4, unitOf 4 c) else (l, unitOf l c)
/-- A job's share of a pool (17 R454, 02 R55). -/
def poolShare (s : State) (g : Gang) (l : Nat) : Nat :=
  let w := jobWord s g 6
  match l with
  | 1 => fld w 15 0
  | 2 => fld w 31 16
  | 3 => fld w 47 32
  | _ => fld w 63 48
/-- Records of a pool that a job holds, granted ones among them (02 R55, R56). -/
def poolHeld (s : State) (job : Nat) (u : Nat × Coords) : Nat :=
  (s.launches.filter (fun x => x.record && x.job = job && match x.issuer with
    | some i => poolUnit x.level i.2 = u
    | none => false)).length +
  (s.poolQ.filter (fun t => t.granted && poolUnit t.n t.at_ = u && ((gangOf s t.uid).map (·.job)).getD 0 = job)).length
/-- A join handle (02 R57): a free value with bit 63 clear, not 0 and unused, where the free value is not. -/
def newHandle (s : State) : Word :=
  let h := Config.freeHandle s.nextId &&& 0x7FFFFFFFFFFFFFFF
  let used (x : Word) : Bool := x = 0 || s.launches.any (fun l => l.handle = x)
  if used h then ((List.range (s.launches.length + 2)).map wd).find? (fun x => !used x) |>.getD 1 else h

/-- Whether a ticket is the one with which the issuing path waits for a record of a launch at level `l` (02 R56). -/
def ownTicket (s : State) (l : Nat) (t : Ticket) : Bool := t.uid = s.g.uid && t.path = s.g.act.val && t.n = l
/-- The launch starts (02 R54 steps 3 to 5): the record is taken, the issuer publishes, the handle is written, and the reeve has
the split. -/
def takeLaunch (d : Reg) (l : Nat) (func : Word) (ws : List Word) (depth c : Nat) (s : State) : State :=
  let s := publish l { s with poolQ := s.poolQ.filter (fun t => !ownTicket s l t) }
  let g := s.g
  let r := launchOf s g.launch
  let h := newHandle s
  let costart := l = 1 && (rw ws 7).getLsbD 2
  let need := (((kernelAt s g.at_.pkg g.job func).map (·.regs)).getD 64) / 64 - 1
  let n : Launch := {
    id := s.nextId, issuer := some (g.uid, g.at_), parent := some g.launch, parentChild := g.child, sub := []
    level := l, inst := unitOf l g.at_, func := func, tile := ws, job := g.job, root := g.root, depth := depth
    inRoot := g.inRoot && l = g.level, prio := g.prio
    xvec := ((launchOf s g.launch).map (·.xvec)).getD 0, startLevel := max g.startLevel l
    children := (List.range c).map (fun k => if tEmpty ws c k then .done else .waiting)
    record := true, joined := false, cancelled := false, completed := false
    pkg := (r.map (·.pkg)).getD g.at_.pkg, graph := (r.map (·.graph)).getD 0, number := (r.map (·.number)).getD 0
    queue := (r.map (·.queue)).getD 0, tag := (r.map (·.tag)).getD 0
    reserved := if costart then need else 0, arrived := [], handle := h }
  putS 1 d h { s with nextId := s.nextId + 1, launches := s.launches ++ [n] }
/-- The checks of `lnch` in the order of 12 R393, up to the depth. -/
def launchTrap (s : State) (l : Nat) (func : Word) (ws : List Word) : Option Trap :=
  let g := s.g
  if g.root < l then some ⟨cLaunchScope, 0, 0⟩
  else if tileBad ws l (launchKids s g.at_ l) (costartOf s g.at_.pkg g.job func) then some ⟨cTileRecord, 0, 0⟩
  else execFault s g func
/-- The tile record that a launch uses: the flags of the enclosing launch are added (02 R48). -/
def launchTile (s : State) (t : Reg) : List Word :=
  let ws := (List.range 8).map (fun i => sregAt s.g t i)
  ws.set 7 (rw ws 7 ||| boundFlags s s.g)
/-- The depth of the children of a launch (02 R43). -/
def launchDepth (g : Gang) (l : Nat) : Nat := if l = g.level then g.depth else g.depth + 1
/-- Whether a pool has a record for the issuing path now: granted to it, or free in the job's share and not ahead of an earlier waiter
(02 R56). To `lnch.try`, a record that an earlier waiter is about to take counts as none: the manual does not say which it reports (02
R57; DESIGN CHOICE, log 50). -/
def poolReady (s : State) (l : Nat) : Bool :=
  let g := s.g
  let u := poolUnit l g.at_
  s.poolQ.any (fun t => ownTicket s l t && t.granted) ||
    (poolHeld s g.job u < poolShare s g l &&
      !((s.poolQ.takeWhile (fun t => !ownTicket s l t)).any (fun t => poolUnit t.n t.at_ = u && !t.granted &&
        ((gangOf s t.uid).map (·.job)).getD 0 = g.job)))
/-- `lnch` (02 R43 to R56, 12 R391 to R393). -/
def execLnch (d : Reg) (f : BitVec 6) (t : Reg) (l : Level) (s : State) : Out :=
  let func := sreg s.g (f.setWidth 7)
  let ws := launchTile s t
  .next (orTrap (launchTrap s l.code func ws) (fun s =>
    let depth := launchDepth s.g l.code
    if Config.maxDepth < depth then raise ⟨cLaunchDepth, 0, 0⟩ s
    else if poolReady s l.code then
      next (takeLaunch d l.code func ws depth (tChildren ws l.code (launchKids s s.g.at_ l.code)) s)
    else if s.poolQ.any (ownTicket s l.code) then block s
    else block { s with poolQ := s.poolQ ++ [⟨s.g.uid, s.g.at_, l.code, false, s.g.act.val, s.iss.yield⟩] }) s)
/-- `lnch.try` (02 R57): it neither blocks nor traps on depth. -/
def execLnchTry (d : Reg) (f : BitVec 6) (t : Reg) (l : Level) (s : State) : Out :=
  let func := sreg s.g (f.setWidth 7)
  let ws := launchTile s t
  .next (orTrap (launchTrap s l.code func ws) (fun s =>
    let depth := launchDepth s.g l.code
    if Config.maxDepth < depth then next (putS 1 d 0x8000000000000002 s)
    else if poolReady s l.code then
      next (takeLaunch d l.code func ws depth (tChildren ws l.code (launchKids s s.g.at_ l.code)) s)
    else next (putS 1 d 0x8000000000000001 s)) s)
/-- POOL_RECORD_GRANT (02 R56): a freed record goes to the oldest `lnch` that waits on that pool. -/
def execPoolRecordGrant (l : Level) (c : Coords) (s : State) : Out :=
  .next (match s.poolQ.find? (fun t => poolUnit t.n t.at_ = poolUnit l.code c && !t.granted &&
      ((gangOf s t.uid).map (fun g => decide (poolHeld s g.job (poolUnit l.code c) < poolShare s g l.code))).getD false) with
    | none => s
    | some t =>
      onGang t.uid (fun g => { g with blocked := false })
        { s with poolQ := upd (fun u => u = t) (fun u => { u with granted := true }) s.poolQ })

/-- The status word (02 R62). -/
def statusWord (l : Launch) : Word :=
  let fs := failures l
  let base := if l.cancelled then 2 ^ 48 else 0
  match fs with
  | [] => wd (base + 0xFFFF * 2 ^ 16)
  | (k, c, o) :: _ => wd (base + o % 8 * 2 ^ 40 + c % 256 * 2 ^ 32 + k * 2 ^ 16 + min fs.length 65535)
/-- `joinw` (02 R60). -/
def execJoinw (d a : Reg) (s : State) : Out :=
  let h := sreg s.g a
  .next (match s.launches.find? (fun l => l.handle = h && (l.issuer.map (·.1)) = some s.g.uid && !l.joined) with
    | none => raise ⟨cHandle, 0, 0⟩ s
    | some l =>
      if !l.completed then block s
      else
        let s := { s with launches := upd (fun x => x.id = l.id) (fun x => { x with joined := true, record := false }) s.launches }
        next (putS 1 d (statusWord l) (acquire l.level s)))

/-- Whether a member of a barrier group counts as arrived (02 R67, R68). A child that has still to start holds the barrier: the manual does
not say whether it belongs to the group yet (DESIGN CHOICE, log 50). -/
def memberArrived (s : State) (l : Launch) : Child → Bool
  | .waiting => false
  | .done | .failed _ _ => true
  | .running u => l.arrived.contains u || (match gangOf s u with
    | some g => g.phase ≠ .running
    | none => false)
/-- The barrier of a launch opens (02 R67): every gang that waits acquires and goes on. -/
def openBarrier (l : Launch) (s : State) : State :=
  l.arrived.foldl (fun s u => onGang u (fun g => { g with barOpen := true, blocked := false }) (acquireFor u l.level s))
    { s with launches := upd (fun x => x.id = l.id) (fun x => { x with arrived := [] }) s.launches }
/-- Open the barrier of launch `i` if every member has arrived. -/
def tryOpen (i : Nat) (s : State) : State :=
  match launchOf s i with
  | some l => if !l.arrived.isEmpty && l.children.all (memberArrived s l) then openBarrier l s else s
  | none => s
/-- The traps of `bar` (02 R69, 12 R393). -/
def barTrap (s : State) (l : Nat) : Option Trap :=
  let own := launchOf s s.g.launch
  let scope := match own with
    | none => true
    | some x => x.issuer.isNone || x.level ≠ l || (x.level = 1 && !(rw x.tile 7).getLsbD 2)
  firstTrap [(l ≠ 0 && scope, ⟨cBarrierScope, 0, 0⟩), (pathCount s.g ≠ 1, ⟨cDivBarrier, 0, 0⟩)]
/-- `bar` (02 R67 to R70): publish on arrival, wait for the group, acquire when it opens. -/
def execBar (l : Level) (s : State) : Out :=
  .next (orTrap (barTrap s l.code) (fun s =>
    if l.code = 0 then next (acquire 0 (publish 0 s))
    else if s.g.barOpen then next { s with g := { s.g with barOpen := false } }
    else if ((launchOf s s.g.launch).map (fun x => x.arrived.contains s.g.uid)).getD false then block s
    else
      let s := publish l.code s
      let t := tryOpen s.g.launch { s with
        launches := upd (fun x => x.id = s.g.launch) (fun x => { x with arrived := x.arrived ++ [s.g.uid] }) s.launches }
      if t.g.barOpen then next { t with g := { t.g with barOpen := false } } else block t) s)
/-- BARRIER_OPEN (02 R67, R68). -/
def execBarrierOpen (launch : Nat) (s : State) : Out := .next (tryOpen launch s)

/-- `fence.pub` (02 R80, R81, 04 R133, R138). -/
def execFencePub (l : Level) (s : State) : Out := .next (fenceStores (fun s => next (publish (scopeOf s l) s)) s)
/-- `fence.acq` (02 R80, 04 R135). -/
def execFenceAcq (l : Level) (s : State) : Out := .next (next (acquire (scopeOf s l) s))
/-- `fence.ar` (02 R80, R81). -/
def execFenceAr (l : Level) (s : State) : Out :=
  .next (fenceStores (fun s => next (acquire (scopeOf s l) (publish (scopeOf s l) s))) s)

/-- The issuing gang ends where a cancel has covered it (02 R87). -/
def stopSelf (s : State) : State :=
  if s.g.cancelled then { dropWaits s.g.uid s with g := endGang (some (cCancelled, s.g.level)) s.g } else next s
/-- `cancel.l` (02 R85 to R87). -/
def execCancelL (a : Reg) (s : State) : Out :=
  .next (match s.launches.find? (fun l => l.handle = sreg s.g a && (l.issuer.map (·.1)) = some s.g.uid) with
    | none => raise ⟨cHandle, 0, 0⟩ s
    | some l => if l.completed then next s else stopSelf (cancelLaunches [l.id] s))
/-- `cancel.g` (02 R85, R87): the gang's own graph. -/
def execCancelG (s : State) : Out :=
  .next (match launchOf s s.g.launch with
    | some r => stopSelf (cancelWhole r.pkg s.g.job (some r.graph) s)
    | none => stopSelf s)
/-- `cancel.j` (02 R85, R87). -/
def execCancelJ (s : State) : Out := .next (stopSelf (cancelWhole s.g.at_.pkg s.g.job none s))

/-- The cores on which child `k` of a launch may run, in the order in which they are tried (02 R51). -/
def childCores (l : Launch) (k : Nat) : List Coords :=
  let c := l.inst
  let i := tFirst l.tile + k
  let cluster (c : Coords) : List Coords := (List.range 4).map (fun n => { c with core := n, slot := 0 })
  let die (c : Coords) : List Coords := (List.range 16).flatMap (fun n => cluster { c with cluster := n })
  if l.issuer.isNone then [unitOf 1 c]
  else match l.level with
    | 1 => [unitOf 1 c]
    | 2 => [{ c with core := i, slot := 0 }]
    | 3 => cluster { c with cluster := i }
    | 4 => die { c with die := i }
    | _ => (List.range 4).flatMap (fun n => die ⟨i, n, 0, 0, 0⟩)
/-- Whether a slot is taken: by a gang, by the shadow of a pair (18 R482), or by a saved gang (18 R496, R497). -/
def slotTaken (s : State) (c : Coords) : Bool :=
  let hit (g : Gang) : Bool := g.at_ = c || (g.pair && { g.at_ with slot := g.at_.slot + 1 } = c)
  (s.g :: s.others).any (fun g => inSlot g && hit g) || s.images.any (fun i => i.gangs.any hit)
/-- The lowest slot of a core for one gang or for a pair. -/
def freeSlot (s : State) (pair : Bool) (core : Coords) : Option Coords :=
  ((List.range 16).map (fun i => { core with slot := i })).find? (fun c =>
    !slotTaken s c && (!pair || (c.slot % 2 = 0 && !slotTaken s { c with slot := c.slot + 1 })))
/-- The base of a scratch window of a size on a core, if it fits (01 R41): the lowest that does (log 34). -/
def scratchBase (s : State) (core : Coords) (size : Nat) : Option Nat :=
  let ws := s.scratch.filter (fun w => w.core = core)
  (sortNat (0 :: ws.map (fun w => w.base + w.size))).find? (fun b =>
    b + size ≤ Config.spadBytes && ws.all (fun w => b + size ≤ w.base || w.base + w.size ≤ b))
/-- The level of the functions that a launch starts. -/
def childLevel (l : Launch) : Nat := l.level - 1
/-- The scratch size that a launch's function declares at level 1 (01 R41). -/
def scratchNeed (s : State) (l : Launch) (pkg : Nat) : Nat :=
  if childLevel l = 1 then ((kernelAt s pkg l.job l.func).map (·.scratch)).getD 0 else 0
/-- Where child `k` can start now: its slot, and the base of its scratch window. None starts on a package that is out of service or no member of
the pod (19 R504, 21 R529, R531). -/
def placeFor (s : State) (l : Launch) (k : Nat) : Option (Coords × Nat) :=
  let pair := (rw l.tile 7).getLsbD 1
  (childCores l k).findSome? (fun core =>
    let resident := !isOut s core.pkg && inPod s l.pkg core.pkg && match jobOn s core.pkg l.job with
      | some j => j.resident && !s.images.any (fun i => i.pkg = core.pkg && i.job = l.job)
      | none => false
    if !resident then none
    else match freeSlot s pair core, scratchBase s core (scratchNeed s l core.pkg) with
      | some c, some b => some (c, b)
      | _, _ => none)

/-- Host writes as a root leader's start acquire takes them in (17 R462). -/
def hostView (s : State) (v : Cells Nat) : Cells Nat :=
  s.pubs.foldl (fun v p => if p.by_.isNone then vjoin v p.view else v) v
/-- The gang that starts as child `k` in a slot (02 R52, R53, 18 R476, R482). -/
def freshGang (s : State) (l : Launch) (k : Nat) (c : Coords) : Gang :=
  let n := l.children.length
  let root := l.issuer.isNone
  let ws := if root then l.tile.set 0 (wd (fld (rw l.tile 0) 31 0)) else childTile l.tile n k
  let lvl := childLevel l
  let regs := ws ++ [wd lvl, wd k, wd n, wd l.root, wd l.depth]
  let w7 := rw l.tile 7
  { at_ := c, uid := s.nextId, phase := .running, job := l.job, level := lvl, root := l.root, depth := l.depth
    inRoot := l.inRoot, launch := l.id, child := k, prio := l.prio
    paths := (Vector.replicate 16 {}).set 0 { lanes := 0xFFFFFFFF, exec := 0xFFFFFFFF, state := .ready, pc := l.func }
    s := ⟨((List.range 128).map (fun i => (regs[i]?).getD 0)).toArray, by simp⟩
    prec := w7.getLsbD 0, pair := w7.getLsbD 1, xvec := l.xvec, startLevel := l.startLevel, notBefore := s.cycle, resident := s.cycle }
/-- Start child `k` at a place (02 R51 to R53, R65): its leader gang, its scratch window, its start acquire. -/
def startChild (l : Launch) (k : Nat) (c : Coords) (base : Nat) (s : State) : State :=
  let g := freshGang s l k c
  let v := acquired s l.startLevel g
  let g := { g with view := if l.issuer.isNone then hostView s v else v }
  { s with
    others := s.others ++ [g]
    early := s.early.drop 1
    nextId := s.nextId + 1
    scratch := if childLevel l = 1 then
        s.scratch ++ [⟨unitOf 1 c, l.id, k, base, scratchNeed s l c.pkg, g.uid⟩]
      else s.scratch
    launches := upd (fun x => x.id = l.id) (fun x => { x with children := x.children.set k (.running g.uid) }) s.launches }
/-- Start the listed children of a launch one after another; none where one of them does not fit (02 R54, costart). -/
def startAll (i : Nat) : List Nat → State → Option State
  | [], s => some s
  | k :: r, s =>
    match launchOf s i with
    | none => none
    | some l => match placeFor s l k with
      | none => none
      | some (c, b) => startAll i r (startChild l k c b s)
/-- The children of a launch that have not started. -/
def waitingKids (l : Launch) : List Nat :=
  (List.range l.children.length).filter (fun k => (l.children[k]?) = some .waiting)
/-- REEVE_CHILD_START (02 R51, R54): child `k` starts once its unit has room, behind every lower one that can start now; at level 1 in
ascending order, and with costart all together, their blocks reserved (03 R119). -/
def execReeveChildStart (launch k : Nat) (s : State) : Out :=
  .next (match launchOf s launch with
    | none => s
    | some l =>
      if (l.children[k]?) ≠ some .waiting || l.cancelled || l.issuer.isNone then s
      else if l.level = 1 && (rw l.tile 7).getLsbD 2 then
        if freeBlocks s l.inst < l.reserved * (waitingKids l).length then s
        else (startAll launch (waitingKids l) s).getD s
      else if l.level = 1 && (waitingKids l).head? ≠ some k then s
      else if (waitingKids l).any (fun j => j < k && (placeFor s l j).isSome) then s
      else match placeFor s l k with
        | some (c, b) => startChild l k c b s
        | none => s)

/-- The number of a root launch has completed: its graph's counter, and its completion record once every earlier number of the
graph has completed (02 R82 to R84, 17 R463). -/
def rootDone (pkg job graph number queue : Nat) (tag status : Word) (s : State) : State :=
  let failed := fld status 15 0 ≠ 0 || status.getLsbD 48
  let onGraph (f : Graph → Graph) (s : State) : State :=
    let change (j : Job) : Job := { j with graphs := upd (fun x => x.idx = graph) f j.graphs }
    { s with jobs := upd (fun j => j.pkg = pkg && j.id = job) change s.jobs }
  let s := onGraph (fun x => { x with
    done := number :: x.done
    failed := if failed then number :: x.failed else x.failed
    ready := x.ready ++ [(number, tag, status, queue)] }) s
  match ((jobOn s pkg job).bind (fun j => j.graphs.find? (fun x => x.idx = graph))) with
  | none =>
    sendMessage pkg ⟨job, false, graph, number,
      [tag, status, Config.freeHandle s.fresh, wd (job * 2 ^ 48 + graph * 2 ^ 32 + queue * 2 ^ 16)]⟩ { s with fresh := s.fresh + 1 }
  | some x =>
    let count := countFrom x.done x.accepted 0
    let due := (List.range count).filterMap (fun i => x.ready.find? (fun r => r.1 = i + 1))
    let s := onGraph (fun x => { x with ready := x.ready.filter (fun r => count < r.1) }) s
    due.foldl (fun s r => sendMessage pkg
      ⟨job, false, graph, r.1, [r.2.1, r.2.2.1, wd count, wd (job * 2 ^ 48 + graph * 2 ^ 32 + r.2.2.2 * 2 ^ 16)]⟩ s) s
/-- Whether the gang that issued a launch will never run again: a reset removed it, or a cancel reached it in a save image
(18 R488, R490). -/
def orphan (s : State) (uid : Nat) : Bool :=
  (gangOf s uid).isNone && !s.images.any (fun i => i.gangs.any (fun g => g.uid = uid) && !i.stopped.contains uid)
/-- A completed launch without an issuer leaves its reeve; what its subtree wrote passes to the launch above. -/
def dropOrphan (l : Launch) (s : State) : State :=
  { s with launches := (s.launches.filter (fun x => x.id ≠ l.id)).map (fun x =>
      let x := reparent [l] x
      if some x.id = l.parent then { x with sub := x.sub ++ l.sub } else x) }
/-- Children of a launch whose leaders have left without draining in a slot complete, where all that R59 asks has happened. -/
def closeKids (launch : Nat) (s : State) : State :=
  match launchOf s launch with
  | none => s
  | some l => l.children.foldl (fun s c => match c with
      | .running u => closeChild u s
      | .waiting | .done | .failed _ _ => s) s
/-- LAUNCH_COMPLETE (02 R55, R59, R61, R64, 17 R463): every started child has completed; the subtree's writes are published, the record
of an issuer that has ended is free, the issuer's own end may follow, and a root launch reports. -/
def execLaunchComplete (launch : Nat) (s : State) : Out :=
  let s := closeKids launch s
  .next (match launchOf s launch with
    | none => s
    | some l =>
      if l.completed || l.children.any Child.isOpen then s
      else
        let lvl := if l.issuer.isNone then 5 else l.level
        let ended := (l.issuer.map (fun i => ((gangOf s i.1).map (fun g => decide (g.phase = .ended))).getD false)).getD false
        let s := { s with
          pubs := l.sub.foldl (fun ps p => if p.2.2.isEmpty then ps else addPub ⟨some (p.1, p.2.1), lvl, p.2.2⟩ ps) s.pubs
          launches := upd (fun x => x.id = launch)
            (fun x => { x with completed := true, record := x.record && !x.cancelled && !ended }) s.launches }
        match l.issuer with
        | some (u, _) => if orphan s u then dropOrphan l s else closeChild u s
        | none =>
          rootDone l.pkg l.job l.graph l.number l.queue l.tag (statusWord l)
            { s with launches := s.launches.filter (fun x => x.id ≠ launch) })
/-- Whether an ended gang has drained (10 R311 steps 2 to 4 and 6). After a cancel too its engine operations run to completion, one of the
two that 02 R86 allows (DESIGN CHOICE, log 50), but for those that 07 R239 abandons. -/
def drained (s : State) (g : Gang) : Bool :=
  g.pend.all (fun p => p.left = 0) && !s.stores.any (fun r => r.uid = g.uid) &&
    !s.atoms.any (fun r => (leavesOf s r).any (fun x => x.uid = g.uid)) && !s.carts.any (fun c => c.uid = g.uid) &&
    !s.kiln.any (fun k => k.uid = g.uid) && !s.granary.any (fun o => o.uid = g.uid) &&
    !s.mldws.any (fun m => m.uid = g.uid)
/-- Where a tile's status stands. -/
def tileKey (c : Coords) (t : Nat) : Nat := coreIx c * 16 + t
/-- Change a tile's status (06 R209). -/
def onTile (c : Coords) (t : Nat) (f : TileStatus → TileStatus) (s : State) : State :=
  { s with tiles := cset {} s.tiles (tileKey c t) (f (cget {} s.tiles (tileKey c t))) }
/-- Whether a tile's status has come to describe an `mma`: it has started, or a fault has suspended it (06 R209, R212). -/
def noted (k : KilnEntry) : Bool := k.began || k.cause ≠ 0 || k.state = 3
/-- Whether an `mma` is the one that its tile's status describes, where all that have not completed are suspended (06 R209): the one that
has started or failed, else the first issued. -/
def leads (s : State) (k : KilnEntry) : Bool :=
  !(s.kiln ++ s.images.flatMap (·.kiln)).any (fun x => x.id ≠ k.id && unitOf 1 x.at_ = unitOf 1 k.at_ && x.tile = k.tile &&
    (noted x && !noted k || (noted x = noted k && x.id < k.id)))
/-- An `mma` is abandoned (06 R214, 10 R311 step 6, 18 R488, R489): its entry frees, the flags of the steps that have run wait for a
`tlwait` (05 R174), its number completes, and a tile whose status describes it is neither busy nor suspended. -/
def abandonMma (k : KilnEntry) (s : State) : State :=
  completeNum k.op (noteFlags k.op k.uid k.flags
    (onTile k.at_ k.tile (fun x => if k.state ≠ 0 && leads s k then
        { x with susp := false, busy := false, cause := 0, entry := 0, resume := 0 } else x)
      { s with
        kiln := s.kiln.filter (fun x => x.id ≠ k.id)
        images := s.images.map (fun i => { i with kiln := i.kiln.filter (fun x => x.id ≠ k.id) }) }))
/-- A gang's `mma`s that are suspended by a fault. -/
def faultedMmas (s : State) (uid : Nat) : List KilnEntry := s.kiln.filter (fun k => k.uid = uid && k.state = 2 && k.cause ≠ 0)
/-- GANG_END (10 R311, 02 R55, R59, R63, 18 R481): the `mma`s of an ended gang that are suspended by a fault are abandoned, and the gang
fails (step 6); once it has drained, its slot and the records of its completed launches are free. -/
def execGangEnd (c : Coords) (s : State) : Out :=
  .next (match gangAt s c with
    | none => s
    | some g =>
      if g.phase ≠ .draining then s
      else if !(faultedMmas s g.uid).isEmpty then
        onGang g.uid (fun h => { h with fail := some (h.fail.getD (cKiln, h.level)) })
          ((faultedMmas s g.uid).foldl (fun s k => abandonMma k s) s)
      else if !drained s g then s
      else
        let t := dropWaits g.uid (combineLines (fun r => r.uids.contains g.uid) s)
        let recd := t.faults.find? (fun f => f.uid = g.uid)
        let fail := match g.fail, recd with
          | some f, _ => some f
          | none, some r => some (r.cause, g.level)
          | none, none => none
        closeChild g.uid (onGang g.uid (fun h => { h with
            phase := .ended, fail := fail, pend := [], deferred := [], inflight := [], flags := Vector.replicate 12 0 })
          { t with
            faults := t.faults.filter (fun f => f.uid ≠ g.uid)
            launches := upd (fun l => (l.issuer.map (·.1)) = some g.uid && l.completed) (fun l => { l with record := false })
              t.launches }))

/-- The level-5 field of a launch record, and the fields of its other words (17 R460). -/
def recRoot (ws : List Word) : Nat := fld (rw ws 0) 10 8
def recCore (ws : List Word) : Coords := ⟨fld (rw ws 2) 9 0, fld (rw ws 2) 11 10, fld (rw ws 2) 15 12, fld (rw ws 2) 17 16, 0⟩
/-- A root launch's status word where it starts no gang: one failed child, or none. -/
def rootStatus (cause origin : Nat) (cancelled : Bool) : Word :=
  wd ((if cancelled then 2 ^ 48 else 0) + origin * 2 ^ 40 + cause * 2 ^ 32 + 1)
/-- The root launch of a queue record. -/
def rootOf (s : State) (pkg q job : Nat) (r : QRec) : Launch :=
  let ws := r.words
  let tile := (ws.drop 8).take 8
  let flags := fld (rw ws 0) 20 19
  let w7 := rw tile 7 ||| wd (flags % 2 + flags / 2 * 2)
  let root := recRoot ws
  { id := s.nextId, issuer := none, parent := none, parentChild := 0, sub := [], level := root + 1, inst := recCore ws
    func := rw ws 1, tile := tile.set 7 w7, job := job, root := root, depth := 0, inRoot := true
    prio := BitVec.ofNat 2 (fld (rw ws 0) 17 16)
    xvec := if rw ws 4 = 0 then ((jobOn s pkg job).bind (fun j => j.words[8]?)).getD 0 else rw ws 4
    startLevel := root, children := [.waiting], record := false, joined := false, cancelled := false, completed := false
    pkg := pkg, graph := r.graph, number := r.number, queue := q, tag := rw ws 5, reserved := 0, arrived := [], handle := 0 }
/-- Whether a checkpoint operation runs on a package (21 R532, R533). -/
def ckptBusy (s : State) (pkg : Nat) : Bool :=
  match podOf s pkg with
  | some p => p.run.isSome
  | none => false
/-- ROOT_LAUNCH_START (02 R83, 17 R459, R462, 21 R529, R531, R533): the head of a launch queue completes without a gang where it is
cancelled or skipped, and otherwise starts its leader once its wait is met and its core has room, on packages in service. -/
def execRootLaunchStart (pkg q : Nat) (s : State) : Out :=
  .next (match s.queues.find? (fun x => x.pkg = pkg && x.q = q) with
    | none => s
    | some lq => match lq.recs with
      | [] => s
      | r :: rest =>
        let pop (s : State) : State :=
          { s with queues := upd (fun x => x.pkg = pkg && x.q = q) (fun x => { x with recs := rest }) s.queues }
        let root := recRoot r.words
        let fin (c o : Nat) (x : Bool) (s : State) : State :=
          rootDone pkg lq.job r.graph r.number q (rw r.words 5) (rootStatus c o x) (pop s)
        let wg := fld (rw r.words 3) 63 48
        let wv := fld (rw r.words 3) 47 0
        let waited := (jobOn s pkg lq.job).bind (fun j => j.graphs.find? (fun x => x.idx = wg))
        let met := wv = 0 || (waited.map (fun x => decide (wv ≤ countFrom x.done x.accepted 0))).getD false
        let dep := wv ≠ 0 && (waited.map (fun x => x.failed.any (fun n => n ≤ wv))).getD false
        if r.cancelled then fin cCancelled (if 1 ≤ root && root ≤ 5 then root else 0) true s
        else if !met || [pkg, (recCore r.words).pkg].any (fun p => ckptBusy s p || isOut s p) then s
        else if dep && (rw r.words 0).getLsbD 18 then fin cDependency root false s
        else
          let l := rootOf s pkg q lq.job r
          match placeFor s l 0 with
          | none => s
          | some (c, b) => startChild l 0 c b { pop s with launches := s.launches ++ [l], nextId := s.nextId + 1 })

end Sys2Proof.Machine
end

