-- ==== Sys2Proof/Machine/Kiln.lean ====
section
/-! DEFINITION. The kiln (06 R193 to R218, 03 R124 to R126, 13 R403 to R405): operand blocks, `mma` and `mldw`, the latched
weights, and the steps of an operation. -/

namespace Sys2Proof.Machine

/-- Fields of word 1 of an operand block (06 R195). -/
def kFmt (o : Word × Word) : Nat := fld o.2 63 60
def kKind (o : Word × Word) : Nat := fld o.2 59 58
def kTr (o : Word × Word) : Bool := o.2.getLsbD 57
def kRot (o : Word × Word) : Nat := fld o.2 56 52
def kKb0 (o : Word × Word) : Nat := fld o.2 51 47
def kTpitch (o : Word × Word) : Nat := fld o.2 46 32
def kRpitch (o : Word × Word) : Nat := fld o.2 31 12
def kK (o : Word × Word) : Nat := fld o.2 11 0
/-- Bits of an element of an operand format (06 R193). -/
def kBits (f : Nat) : Nat := if f ≤ 1 then 16 else if f ≤ 3 then 8 else if f ≤ 5 then 6 else 4
/-- Largest K of a weight tile, and K held by an A register group (06 R193). -/
def kLimit (f : Nat) : Nat := if f ≤ 1 then 256 else if f ≤ 5 then 512 else 1024
def kGroup (f : Nat) : Nat := if f ≤ 1 then 32 else if f ≤ 5 then 64 else 128
/-- Bytes of a stored row and the number of stored rows of an operand (06 R196). -/
def kRowLen (isA : Bool) (o : Word × Word) : Nat :=
  (if kTr o then (if isA then 32 else kK o) else (if isA then kK o else 256)) * kBits (kFmt o) / 8
def kRows (isA : Bool) (o : Word × Word) : Nat :=
  if kTr o then (if isA then kK o else 256) else (if isA then 32 else kK o)
/-- The job's transpose window as cluster-memory offsets (17 R454). -/
def transWindow (s : State) (g : Gang) : Nat := fld (jobWord s g 4) 63 48 * 65536
/-- Whether an operand block breaks 06 R197 by itself. A block of registers has no tag that `tr` or `rot` could rest on (log 25). The tag of
a base is a case of its own under `tr` and `rot` alone; otherwise the address check finds it (R211). -/
def blockBad (s : State) (g : Gang) (isA : Bool) (o : Word × Word) : Bool :=
  let f := kFmt o
  let regs := kKind o = 1
  let len := kRowLen isA o
  let tag := tagOf o.1
  7 ≤ f || 2 ≤ kKind o || (regs && !isA) || kK o = 0 || kK o % 32 ≠ 0 || (!isA && kKb0 o ≠ 0) ||
    ((f ≤ 1 || regs) && kTpitch o ≠ 0) || (regs && kRpitch o ≠ 0) || (!isA && kLimit f < kK o) ||
    (if regs then fld o.1 63 15 ≠ 0 || o.1.getLsbD 7 || kGroup f < kK o || kTr o || kRot o ≠ 0
    else
      o.1.toNat % 64 ≠ 0 || kRpitch o < len || kRpitch o % (if kTr o then 64 else 16) ≠ 0 ||
        (kTr o && (tag ≠ 2 || o.1.toNat % 2 ^ 60 < 0x600000 ||
          0x600000 + transWindow s g < o.1.toNat % 2 ^ 60 + (kRows isA o - 1) * kRpitch o + len)) ||
        (kRot o ≠ 0 && (kTr o || (tag ≠ 2 && tag ≠ 5) || len % 32 ≠ 0)))
/-- Whether two formats pair (06 R194). -/
def pairs (a b : Nat) : Bool := (a ≤ 1) = (b ≤ 1)

/-- The address of byte `b` of stored row `i` (06 R196). -/
def rowAddr (isA : Bool) (o : Word × Word) (i b : Nat) : Word :=
  let q := kRowLen isA o / 32
  let b' := if kRot o = 0 then b else 32 * ((b / 32 + i * kRot o) % q) + b % 32
  o.1 + wd (i * kRpitch o + b')
/-- The first scale byte of an operand (06 R195). -/
def scaleBase (o : Word × Word) : Word := o.1 + wd (64 * kTpitch o)
/-- An operand byte's mapping: tags 0x0, 0x2 and 0x5 alone hold operands (06 R195); rows and scales may run past them. -/
def kilnByte (s : State) (c : Coords) (job : Nat) (a : Word) : Except Nat Hit :=
  if tagOf a = 15 then .error cDevice
  else if tagOf a = 0 || tagOf a = 2 || tagOf a = 5 then mapByte s c job noWin a
  else .error cSpace
/-- The address check of `n` consecutive bytes (06 R211): mappings change at multiples of 4 KiB alone. -/
def segFault (f : Word → Except Nat Hit) (lane : Nat) (a : Word) (n : Nat) : Option Trap :=
  if n = 0 then none
  else
    let first := 4096 - a.toNat % 4096
    let pts := a :: ((List.range (n / 4096 + 1)).map (fun i => first + 4096 * i)).filterMap
      (fun d => if d < n then some (a + wd d) else none)
    pts.findSome? (fun x => match spanHits f permR (wd lane) 1 x with
      | .error t => some t
      | .ok _ => none)
/-- The byte range of the elements `p` to `p + n - 1` of a stored row. -/
def elemSpan (w p n : Nat) : Nat × Nat := (w * p / 8, ceilDiv (w * (p + n)) 8 - w * p / 8)
/-- The address check of an A operand in memory for the rows of a mask and the blocks from `from_` on (06 R211, 13 R403). -/
def checkA (s : State) (g : Gang) (o : Word × Word) (act : W32) (from_ : Nat) : Option Trap :=
  let f := kilnByte s g.at_ g.job
  let w := kBits (kFmt o)
  let k0 := 32 * from_
  let byRow := (lanesOf act).findSome? (fun l =>
    let el :=
      if kTr o then
        (List.range (kK o - k0)).findSome? (fun k =>
          let sp := elemSpan w l 1
          segFault f l (rowAddr true o (k0 + k) sp.1) sp.2)
      else
        let sp := elemSpan w k0 (kK o - k0)
        if kRot o = 0 then segFault f l (rowAddr true o l sp.1) sp.2
        else
          let q := kRowLen true o / 32
          (List.range q).findSome? (fun p =>
            let b := (p + q - l * kRot o % q) % q
            let lo := max sp.1 (32 * b)
            segFault f l (rowAddr true o l lo) (min (sp.1 + sp.2) (32 * b + 32) - lo))
    match el with
    | some t => some t
    | none => if w = 16 then none else segFault f l (scaleBase o + wd (32 * l + from_)) (kK o / 32 - from_))
  byRow
/-- The address check of a B operand (06 R211). -/
def checkB (s : State) (g : Gang) (o : Word × Word) : Option Trap :=
  let f := kilnByte s g.at_ g.job
  match (List.range (kRows false o)).findSome? (fun i => segFault f 0 (o.1 + wd (i * kRpitch o)) (kRowLen false o)) with
  | some t => some t
  | none => if kBits (kFmt o) = 16 then none else segFault f 0 (scaleBase o) (256 * (kK o / 32))

/-- The base and count of the job's accumulator tiles on a core (06 R199). -/
def tileBase (s : State) (g : Gang) : Nat := fld (jobWord s g 7) 3 0
def tileShare (s : State) (g : Gang) : Nat := fld (jobWord s g 7) 12 8
/-- Where a tile's elements stand. -/
def accKey (c : Coords) (t l j : Nat) : Nat := coreIx c * 2 ^ 17 + t * 2 ^ 13 + l * 2 ^ 8 + j
/-- The status of a physical tile (06 R209). -/
def tileStatus (s : State) (c : Coords) (t : Nat) : TileStatus := cget {} s.tiles (tileKey c t)
/-- The kiln of a gang's cluster. -/
def kilnOf (g : Gang) : Engine := .kiln (unitOf 2 g.at_)
/-- A gang's operand block. -/
def opBlock (g : Gang) (r : Reg) : Word × Word := (sreg g r, sregAt g r 1)
/-- Bind a handle to an engine with a number already given (06 R214). -/
def bindTl (t : BitVec 3) (e : Engine) (n : Nat) (s : State) : State :=
  { s with g := { s.g with tl := s.g.tl.setIfInBounds t.toNat ⟨some e, n, 0⟩ } }
/-- The A registers that an operation latches at issue (06 R198). -/
def aGroup (g : Gang) (o : Word × Word) : List Lanes :=
  if kKind o = 1 then (List.range 16).map (fun i => vabs g (g.window + fld o.1 6 0 + i)) else []
def aScale (g : Gang) (o : Word × Word) : Lanes :=
  if kKind o = 1 then vabs g (g.window + fld o.1 14 8) else Vector.replicate 32 0
/-- The operation of a job on a tile that a fault has suspended (06 R212), in the kiln or in a save image. -/
def suspEntry (s : State) (c : Coords) (job t : Nat) : Option KilnEntry :=
  (s.kiln ++ s.images.flatMap (·.kiln)).find? (fun k =>
    unitOf 1 k.at_ = unitOf 1 c && k.op.job = job && k.tile = t && k.state = 2 && k.cause ≠ 0)
/-- The checks of `mma` before its address check (13 R403). -/
def mmaTrap (s : State) (g : Gang) (t : BitVec 4) (a b : Word × Word) : Option Trap :=
  let st := tileStatus s g.at_ (tileBase s g + t.toNat)
  let badPair := blockBad s g true a || blockBad s g false b || kK b < 32 * kKb0 a + kK a
  if tileShare s g ≤ t.toNat then some ⟨cAccRange, 0, t.setWidth 64⟩
  else if badPair then some ⟨cOperandBlock, 0, 0⟩
  else if !pairs (kFmt a) (kFmt b) then some ⟨cKilnFormat, 0, 0⟩
  else
    let regs := if kKind a = 1 then
        (((List.range 16).map (fun i => g.window + fld a.1 6 0 + i)) ++ [g.window + fld a.1 14 8]).filter (fun n => !held g n)
      else []
    match blockTrapOf regs with
    | some t => some t
    | none =>
      if st.susp && st.cause ≠ 0 then
        if st.gang ≠ g.at_.slot then some ⟨cSuspended, 0, t.setWidth 64⟩
        else if kK a / 32 ≠ st.steps then some ⟨cOperandBlock, 0, 0⟩
        else none
      else none
/-- The address check of an `mma` from block `from_` of A on. -/
def mmaCheck (s : State) (g : Gang) (a b : Word × Word) (from_ : Nat) : Option Trap :=
  match (if kKind a = 1 then none else checkA s g a (execMask g) from_) with
  | some t => some t
  | none => checkB s g b
/-- The entries of a cluster's kiln that the saved gangs now resuming take, ahead of every new `mma` (06 R215). -/
def kilnNeed (s : State) (c : Coords) : Nat :=
  let gs := (resumable s).filter (fun g => clIx g.at_ = clIx c)
  (s.images.flatMap (fun i => i.kiln.filter (fun k => k.cause = 0 && gs.any (fun g => g.uid = k.uid)))).length
/-- The lowest reservation entry of a cluster's kiln that none holds (06 R209: the manual does not say which is taken, log 50). -/
def freeEntryOf (s : State) (c : Coords) : Nat :=
  ((List.range Config.kilnEntries).find? (fun n => !s.kiln.any (fun k => clIx k.at_ = clIx c && k.slot = n))).getD 0
/-- `mma` (13 R403, 06 R211, R214, 03 R124). One that resumes a suspended operation (R214) runs the steps left on the rows that are active
at the re-issue, while ipc and body of the tile's status keep naming the original `mma`: the manual settles neither (DESIGN CHOICE, log
50). -/
def execMma (t : BitVec 4) (a b : Reg) (h : BitVec 3) (s : State) : Out :=
  let oa := opBlock s.g a
  let ob := opBlock s.g b
  .next (orTrap (mmaTrap s s.g t oa ob) (fun s =>
    let g := s.g
    let tile := tileBase s g + t.toNat
    let st := tileStatus s g.at_ tile
    match (if st.susp && st.cause ≠ 0 then suspEntry s g.at_ g.job tile else none) with
    | some e =>
      orTrap (mmaCheck s g oa ob e.next) (fun s =>
        let change (k : KilnEntry) : KilnEntry :=
          { k with opA := oa, opB := ob, act := execMask g, aRegs := aGroup g oa, sRegs := aScale g oa, state := 3, asked := s.cycle,
                   cause := 0, weights := #[], wscales := #[], view := g.fenced }
        let s := { s with kiln := upd (fun k => k.id = e.id) change s.kiln }
        next (bindTl h e.op.eng e.op.n
          (onTile g.at_ tile (fun x => { x with susp := false, cause := 0, busy := e.began, entry := 0 }) s))) s
    | none =>
      orTrap (mmaCheck s g oa ob 0) (fun s =>
        if Config.kilnEntries ≤ (s.kiln.filter (fun k => clIx k.at_ = clIx g.at_)).length + kilnNeed s g.at_ then stall s
        else
          let (n, s) := tlIssue (kilnOf g) (some h) s
          let e : KilnEntry := {
            id := s.nextId, op := ⟨kilnOf g, g.job, n⟩, slot := freeEntryOf s g.at_, at_ := g.at_, uid := g.uid, tile := tile, opA := oa, opB := ob
            act := execMask g, aRegs := aGroup g oa, sRegs := aScale g oa, steps := kK oa / 32, next := 0, state := 0
            cause := 0, addr := 0, ipc := wd (s.iss.hdr.toNat % 2 ^ 56), body := (pcOf s - s.iss.hdr).toNat / 4 - 1
            since := s.cycle, asked := s.cycle, prio := g.prio.toNat, latch := 0, weights := #[], wscales := #[], view := s.g.fenced, flags := 0 }
          next { s with kiln := s.kiln ++ [e], nextId := s.nextId + 1 }) s) s)
/-- `mldw` (13 R405, 06 R208). -/
def execMldw (h : BitVec 3) (b : Reg) (s : State) : Out :=
  let ob := opBlock s.g b
  .next (if blockBad s s.g false ob then raise ⟨cOperandBlock, 0, 0⟩ s
    else orTrap (checkB s s.g ob) (fun s =>
      let (n, s) := tlIssue (kilnOf s.g) (some h) s
      next { s with mldws := s.mldws ++ [⟨⟨kilnOf s.g, s.g.job, n⟩, s.g.at_, s.g.uid, ob, s.g.fenced⟩] }) s)

/-- Whether a latch holds nothing older than what a gang's `pfence`s have fixed for the tile path (04 R150). -/
def freshFor (l : Latch) (view : Cells Nat) : Bool :=
  view.all (fun e => e.1 % 4 ≠ 2 || e.2 ≤ cget l.asOf l.stale (e.1 / 4) ||
    !l.spans.any (fun r => r.1 ≤ e.1 / 4 && e.1 / 4 < r.1 + r.2))
/-- The valid latch of a cluster that an operation's weights hit (06 R206); one that holds writes older than the operation may read is no
hit (04 R150). -/
def hitLatch (s : State) (cl : Coords) (job : Nat) (o : Word × Word) (view : Cells Nat) : Option Latch :=
  s.latches.find? (fun l => l.at_ = cl && l.valid && l.job = job && l.opB = o && freshFor l view)
/-- Whether entry `a` goes before entry `b` by age, core and slot (03 R125). -/
def olderEntry (a b : KilnEntry) : Bool :=
  a.since < b.since || (a.since = b.since && (a.at_.core < b.at_.core || (a.at_.core = b.at_.core && a.at_.slot < b.at_.slot)))
/-- The oldest entry of a list. -/
def oldest (l : List KilnEntry) : Option KilnEntry :=
  l.foldl (fun m e => match m with
    | none => some e
    | some x => if olderEntry e x then some e else some x) none
/-- The operations on a tile that a save image of the job still holds, suspended with cause 0: every instruction that names
the tile treats it as busy until they have resumed (06 R214, R215). -/
def savedOn (s : State) (c : Coords) (job t : Nat) : List KilnEntry :=
  s.images.flatMap (fun i => i.kiln.filter (fun k => k.op.job = job && unitOf 1 k.at_ = unitOf 1 c && k.tile = t && k.cause = 0))
/-- Whether an entry may start as its gang and its tile stand (03 R126, 06 R203, R204, R214): its gang's earlier entries have
started, no operation on the tile has started and not ended, no earlier one waits in a save image, and no tile-ordered instruction
entered the tile's order before it. Among several that may, 03 R125 chooses. -/
def mayStart (s : State) (e : KilnEntry) : Bool :=
  e.state = 0 && e.next = 0 &&
    !s.kiln.any (fun k => k.uid = e.uid && k.state = 0 && k.op.n < e.op.n) &&
    !(savedOn s e.at_ e.op.job e.tile).any (fun k => k.next ≠ 0 || k.id < e.id) &&
    !s.kiln.any (fun k => k.id ≠ e.id && unitOf 1 k.at_ = unitOf 1 e.at_ && k.tile = e.tile && k.state ≠ 0) &&
    !s.tickets.any (fun t => t.core = unitOf 1 e.at_ && t.tiles.contains e.tile && !t.entries.contains e.id)
/-- The entry that a cluster's kiln chooses (03 R125). -/
def chosen (s : State) (cl : Coords) : Option KilnEntry :=
  let es := s.kiln.filter (fun k => unitOf 2 k.at_ = cl && mayStart s k)
  match oldest (es.filter (fun e => e.since + 4096 ≤ s.cycle)) with
  | some e => some e
  | none =>
    let top := es.foldl (fun m e => max m e.prio) 0
    let cls := es.filter (fun e => e.prio = top)
    match oldest cls, oldest (cls.filter (fun e => (hitLatch s cl e.op.job e.opB e.view).isSome)) with
    | some o, some h => if o.since + 256 ≤ h.since then some o else some h
    | some o, none => some o
    | none, _ => none
/-- A tile's status as an operation starts (13 R404). -/
def startStatus (e : KilnEntry) (x : TileStatus) : TileStatus :=
  { x with ipc := e.ipc, body := e.body, busy := true, susp := false, gang := e.at_.slot, entry := 0, cause := 0, resume := 0
           steps := e.steps }
/-- An entry takes the weights of a latch (06 R206, R207). -/
def takeWeights (l : Latch) (e : KilnEntry) : KilnEntry :=
  { e with state := 1, began := true, latch := l.idx, weights := l.bytes, wscales := l.scales }
/-- The latch has been used. -/
def useLatch (l : Latch) (s : State) : State :=
  { s with latches := upd (fun x => x.at_ = l.at_ && x.idx = l.idx) (fun x => { x with used := s.nextId }) s.latches
           nextId := s.nextId + 1 }
/-- MMA_START (06 R203, R206, 03 R125, 21 R531): the chosen entry starts on a hit, unless the power limiter gates it. -/
def execMmaStart (i : Nat) (s : State) : Out :=
  .next (match s.kiln.find? (fun k => k.id = i) with
    | none => s
    | some e =>
      match hitLatch s (unitOf 2 e.at_) e.op.job e.opB e.view with
      | none => s
      | some l =>
        if (chosen s (unitOf 2 e.at_)).map (·.id) ≠ some i || isGated s e.at_.pkg || isStopped s e.at_.pkg then s
        else onTile e.at_ e.tile (startStatus e)
          (useLatch l { s with kiln := upd (fun k => k.id = i) (takeWeights l) s.kiln }))
/-- MMA_RESTART (06 R214, R215, R218, 16 R423): an operation that resumes, or that waited for a block of A, goes on. -/
def execMmaRestart (i : Nat) (s : State) : Out :=
  .next (match s.kiln.find? (fun k => k.id = i && k.state = 3) with
    | none => s
    | some e =>
      if isStopped s e.at_.pkg then s
      else if !e.weights.isEmpty then { s with kiln := upd (fun k => k.id = i) (fun k => { k with state := 1 }) s.kiln }
      else match hitLatch s (unitOf 2 e.at_) e.op.job e.opB e.view with
        | none => s
        | some l => onTile e.at_ e.tile (fun x => { x with busy := true, susp := false, entry := 0 })
            (useLatch l { s with kiln := upd (fun k => k.id = i) (takeWeights l) s.kiln }))

/-- The lowest address of a failing byte. -/
def lowAddr (a : Option Word) (b : Word) : Option Word :=
  match a with
  | none => some b
  | some x => some (if b.toNat < x.toNat then b else x)
/-- Bytes that the kiln fetches, with the lowest failing address (06 R205, R212). Each is translated anew, and needs R (01 R33). -/
def kilnFetch (c : Coords) (job : Nat) (view : Cells Nat) (as : List Word) (s : State) : List Byte × Option Word × State :=
  let hs := as.map (fun a => (a, kilnByte s c job a))
  let low := hs.foldl (fun m p => match p.2 with
    | .error _ => lowAddr m p.1
    | .ok h => if poisoned s h.loc || h.perm &&& permR ≠ permR then lowAddr m p.1 else m) none
  let oks := hs.filterMap (fun p => match p.2 with
    | .ok h => if h.perm &&& permR = permR then some (h.loc, h.key) else none
    | .error _ => none)
  let s := reach c.pkg (oks.map (·.1)) (combineLines (fun r => oks.any (fun h => lineCovers r h.1)) s)
  let (bs, s) := pathRead (unitOf 2 c) 2 view oks s
  (bs, low, s)
/-- A list of locations as runs of consecutive ones. -/
def runsOf : List Nat → List (Nat × Nat)
  | [] => []
  | l :: r => match runsOf r with
    | (m, n) :: t => if m = l + 1 then (l, n + 1) :: t else (l, 1) :: (m, n) :: t
    | [] => [(l, 1)]
/-- Load a weight tile and its scale bytes into latch `i` of a cluster (06 R196, R206): the latch, valid unless `bad` or a byte fails, and
the lowest failing address. -/
def loadTile (i : Nat) (bad : Bool) (c : Coords) (job : Nat) (view : Cells Nat) (o : Word × Word) (s : State) :
    Latch × Option Word × State :=
  let cl := unitOf 2 c
  let rows := (List.range (kRows false o)).flatMap (fun i => (List.range (kRowLen false o)).map (fun b => rowAddr false o i b))
  let scs := if kBits (kFmt o) = 16 then [] else (List.range (256 * (kK o / 32))).map (fun i => scaleBase o + wd i)
  let (bs, l1, s) := kilnFetch c job view rows s
  let (sc, l2, s) := if scs.isEmpty then ([], none, s) else kilnFetch c job view scs s
  let low := match l2 with
    | some a => lowAddr l1 a
    | none => l1
  let ls := (rows ++ scs).filterMap (fun a => match kilnByte s c job a with
    | .ok h => some h.loc
    | .error _ => none)
  let old := ls.filter (fun l => fetchedPos s cl 2 l < topOf s l)
  (⟨cl, i, !bad && low.isNone, job, o, bs.toArray, sc.toArray, s.nextId, runsOf ls, s.wseq,
      old.foldl (fun m l => cset s.wseq m l (fetchedPos s cl 2 l)) []⟩,
    low, { s with nextId := s.nextId + 1 })
/-- The latch that a load takes: the least recently used of a cluster that no started operation uses (06 R206). -/
def victim (s : State) (cl : Coords) : Option Nat :=
  let used (i : Nat) : Bool := s.kiln.any (fun k => unitOf 2 k.at_ = cl && (k.state = 1 || (k.state = 3 && !k.weights.isEmpty)) && k.latch = i)
  let stamp (i : Nat) : Nat := ((s.latches.find? (fun l => l.at_ = cl && l.idx = i)).map (·.used)).getD 0
  match used 0, used 1 with
  | true, true => none
  | true, false => some 1
  | false, true => some 0
  | false, false => some (if stamp 1 < stamp 0 then 1 else 0)
/-- Replace a latch. -/
def setLatch (l : Latch) (s : State) : State :=
  { s with latches := s.latches.filter (fun x => !(x.at_ = l.at_ && x.idx = l.idx)) ++ [l] }
/-- An operand-fetch failure suspends an operation before its next step (06 R212). One that has started stays busy (R209). -/
def suspend (i : Nat) (a : Word) (s : State) : State :=
  match s.kiln.find? (fun k => k.id = i) with
  | none => s
  | some e =>
    onTile e.at_ e.tile (fun x => { startStatus e x with
        busy := e.began, susp := true, cause := cMemory, resume := e.next, entry := e.slot })
      { s with kiln := upd (fun k => k.id = i) (fun k => { k with state := 2, cause := cMemory, addr := a }) s.kiln }
/-- WEIGHT_LATCH_LOADED (06 R206, R208, R212): latch `i` of a cluster takes the tile of the operation that needs one, the chosen
entry that misses, an operation that resumes, or the oldest `mldw`; `ok` says that the fetch did not fail. -/
def execWeightLatchLoaded (c : Coords) (i : Nat) (ok : Bool) (s : State) : Out :=
  let cl := unitOf 2 c
  let misses (e : KilnEntry) : Bool := (hitLatch s cl e.op.job e.opB e.view).isNone
  let entry := match s.kiln.find? (fun k => unitOf 2 k.at_ = cl && k.state = 3 && k.weights.isEmpty && misses k) with
    | some e => some e
    | none => (chosen s cl).bind (fun e => if misses e then some e else none)
  let ld := s.mldws.find? (fun m => unitOf 2 m.at_ = cl)
  let (p, t) := pick s
  let load (t : State) : State :=
    if victim s cl ≠ some i then s
    else match entry, ld, decide (p % 2 = 1) with
      | some e, none, _ | some e, some _, false =>
        let (l, low, t) := loadTile i (!ok) e.at_ e.op.job e.view e.opB t
        if l.valid then setLatch l t else suspend e.id (low.getD e.opB.1) (setLatch l t)
      | none, some m, _ | some _, some m, true =>
        let t := { t with mldws := t.mldws.filter (fun x => x.op ≠ m.op) }
        if (hitLatch t cl m.op.job m.opB m.view).isSome then completeNum m.op t
        else
          let (l, _, t) := loadTile i (!ok) m.at_ m.op.job m.view m.opB t
          completeNum m.op (setLatch l t)
      | none, none, _ => s
  .next (uncut c.pkg (fun _ => load { t with cut := false }) s)

/-- Bits of an element in a row of bytes. -/
def codeAt (w p : Nat) (byte : Nat → Nat) : Nat :=
  let b := w * p / 8
  (byte b + byte (b + 1) * 256) / 2 ^ (w * p % 8) % 2 ^ w
/-- The value of an element code of a format, with the type of its block (06 R193, 05 R168). -/
def kDecode (f : Nat) (scale code : Nat) : FVal :=
  match f with
  | 0 => decodeF fFP16 code
  | 1 => decodeF fBF16 code
  | 2 => decodeF fE4M3 code
  | 3 => decodeF fE5M2 code
  | 4 => decodeF fE3M2 code
  | 5 => decodeF fE2M3 code
  | _ => decodeF4 (match scale / 64 with
    | 0 => .int
    | 1 => .e2m1
    | 2 => .pow2
    | _ => .hyb) code
/-- The scale of a scale byte as a power of two; none for the NaN code of E8M0 (05 R167, R168). -/
def kScale (f scale : Nat) : Option Int :=
  if f ≤ 1 then some 0
  else if f ≤ 5 then (if scale = 255 then none else some ((scale : Int) - 127))
  else some ((scale % 64 : Nat) - 32)
/-- The 32 products of a step, summed exactly, scaled, and rounded (06 R201). -/
def stepValue (a b : List FVal) (sa sb : Option Int) : W32 × Fl :=
  let ps := (a.zip b).map (fun p => mulVal p.1 p.2)
  let sum := sumVal .rne (ps.map (·.1))
  let fl := ps.foldl (fun f p => f ||| p.2) sum.2
  match sa, sb with
  | some x, some y =>
    let r := roundTo fFP32 .rne 0 false false (scaleVal sum.1 (x + y))
    (w32 r.1, fl ||| r.2)
  | _, _ => (0x7FC00000, 0)
/-- Whether an FP32 code is a NaN or an infinity. -/
def nonFinite (x : W32) : Bool := 0x7F800000 ≤ x.toNat % 2 ^ 31
/-- The addresses of block `st` of one A row in memory, and of its scale byte (06 R196). -/
def aAddrs (o : Word × Word) (st l : Nat) : List Word :=
  let w := kBits (kFmt o)
  if kTr o then
    let sp := elemSpan w l 1
    (List.range 32).flatMap (fun k => (List.range sp.2).map (fun b => rowAddr true o (32 * st + k) (sp.1 + b)))
  else
    let sp := elemSpan w (32 * st) 32
    (List.range sp.2).map (fun b => rowAddr true o l (sp.1 + b))
def aScaleAddrs (o : Word × Word) (st l : Nat) : List Word :=
  if kBits (kFmt o) = 16 then [] else [scaleBase o + wd (32 * l + st)]
/-- The bytes of a stored A row from the fetched bytes of its block `st` (06 R196). -/
def aBytes (o : Word × Word) (st l : Nat) (bs : List Byte) : Nat → Nat :=
  let w := kBits (kFmt o)
  let arr := bs.toArray
  if kTr o then
    let n := (elemSpan w l 1).2
    let codes := ((List.range 32).map (fun k =>
      ((arr[n * k]?.getD 0).toNat + (arr[n * k + 1]?.getD 0).toNat * 256) / 2 ^ (w * l % 8) % 2 ^ w)).toArray
    let bits := (List.range 32).foldl (fun x k => x + (codes[k]?.getD 0) * 2 ^ (w * k)) 0
    fun b => bits / 2 ^ (8 * (b - 4 * w * st)) % 256
  else fun b => (arr[b - (elemSpan w (32 * st) 32).1]?.getD 0).toNat
/-- A list cut into pieces of given lengths. -/
def slices {α : Type} : List Nat → List α → List (List α)
  | [], _ => []
  | n :: r, l => l.take n :: slices r (l.drop n)
/-- The code of element (k, j) of a latched weight tile, and its block's scale byte (06 R196). -/
def bCode (e : KilnEntry) (k j : Nat) : Nat :=
  let o := e.opB
  let w := kBits (kFmt o)
  let len := kRowLen false o
  let (row, p) := if kTr o then (j, k) else (k, j)
  codeAt w p (fun b => (e.weights[row * len + b]?.getD 0).toNat)
def bScale (e : KilnEntry) (blk j : Nat) : Nat := (e.wscales[256 * blk + j]?.getD 0).toNat
/-- One step of an operation on one row of its tile (06 R201). -/
def rowStep (e : KilnEntry) (st l : Nat) (byte : Nat → Nat) (sa : Nat) (af : Cells W32 × Fl × Bool) : Cells W32 × Fl × Bool :=
  let fa := kFmt e.opA
  let fb := kFmt e.opB
  let blk := kKb0 e.opA + st
  let a := (List.range 32).map (fun i => kDecode fa sa (codeAt (kBits fa) (32 * st + i) byte))
  (List.range 256).foldl (fun m j =>
    let sb := bScale e blk j
    let b := (List.range 32).map (fun i => kDecode fb sb (bCode e (32 * blk + i) j))
    let v := stepValue a b (kScale fa sa) (kScale fb sb)
    let k := accKey e.at_ e.tile l j
    let r := addRne (cget 0 m.1 k) v.1
    (cset 0 m.1 k r.1, m.2.1 ||| v.2 ||| r.2, m.2.2 || nonFinite r.1)) af
/-- The rows of one step, with their bytes and scale bytes: from the latched registers (06 R198), or fetched together, so that an element of
memory that several rows share is read once (04 R128); or the lowest failing address (06 R212). -/
def stepRows (e : KilnEntry) (s : State) : List (Nat × (Nat → Nat) × Nat) × Option Word × State :=
  let o := e.opA
  let st := e.next
  let ls := lanesOf e.act
  if kKind o = 1 then
    (ls.map (fun l => (l,
      (fun b => ((lane ((e.aRegs[b / 4]?).getD (Vector.replicate 32 0)) l).toNat / 2 ^ (8 * (b % 4))) % 256),
      (lane e.sRegs l).toNat / 2 ^ (8 * st) % 256)), none, s)
  else
    let as := ls.map (aAddrs o st)
    let scs := ls.flatMap (aScaleAddrs o st)
    let (bs, low, s) := kilnFetch e.at_ e.op.job e.view as.flatten s
    let (sc, l2, s) := if scs.isEmpty then ([], none, s) else kilnFetch e.at_ e.op.job e.view scs s
    let rows := (ls.zip (slices (as.map (·.length)) bs)).zip (List.range ls.length)
    (rows.map (fun r => (r.1.1, aBytes o st r.1.1 r.1.2, ((sc[r.2]?).getD 0).toNat)), (match l2 with
      | some a => lowAddr low a
      | none => low), s)
/-- MMA_STEP_COMPLETE (06 R201 to R203, R209): the next step of a started operation is applied to all its rows; the last one
completes its number. A block that fails suspends the operation (R212); a block that has not arrived stalls it (R218), and one
that has no path does not arrive (19 R507, R538). -/
def execMmaStepComplete (i : Nat) (s : State) : Out :=
  .next (match s.kiln.find? (fun k => k.id = i && k.state = 1) with
    | none => s
    | some e => uncut e.at_.pkg (fun s =>
      let (p, s) := pick s
      if p % 2 = 1 && kKind e.opA = 0 then { s with kiln := upd (fun k => k.id = i) (fun k => { k with state := 3 }) s.kiln }
      else
        let (rows, low, s) := stepRows e s
        match low with
        | some a => suspend i a s
        | none =>
          let (acc, fl, nf) := rows.foldl (fun m r => rowStep e e.next r.1 r.2.1 r.2.2 m) (s.acc, e.flags, false)
          let last := e.steps ≤ e.next + 1
          let s := onTile e.at_ e.tile (fun x => { x with
              count := (x.count + 1) % 2 ^ 16, nonfinite := x.nonfinite || nf, busy := !last
              resume := if last then 0 else e.next + 1 }) { s with acc := acc }
          if last then
            completeNum e.op (noteFlags e.op e.uid fl { s with kiln := s.kiln.filter (fun k => k.id ≠ i) })
          else { s with kiln := upd (fun k => k.id = i) (fun k => { k with next := e.next + 1, flags := fl }) s.kiln }) s)
/-- Whether step `st` of an operation fetches a byte of its A operand, or reads a byte of its latched weights that stood at an address (06
R196, R201, 21 R526). -/
def fetchesA (e : KilnEntry) (st : Nat) (a : Word) : Bool :=
  kKind e.opA = 0 && (lanesOf e.act).any (fun l => (aAddrs e.opA st l ++ aScaleAddrs e.opA st l).contains a)
def readsB (e : KilnEntry) (st : Nat) (a : Word) : Bool :=
  let o := e.opB
  let blk := kKb0 e.opA + st
  let within (b : Word) (n : Nat) : Bool := (a - b).toNat < n
  let sp := elemSpan (kBits (kFmt o)) (32 * blk) 32
  !e.weights.isEmpty &&
    ((if kTr o then (List.range 256).any (fun j => within (rowAddr false o j sp.1) sp.2)
      else (List.range 32).any (fun k => within (o.1 + wd ((32 * blk + k) * kRpitch o)) (kRowLen false o))) ||
      (kBits (kFmt o) ≠ 16 && within (scaleBase o + wd (256 * blk)) 256))
/-- A latch holds nothing any more. -/
def dropLatch (e : KilnEntry) (s : State) : State :=
  { s with latches := upd (fun l => l.at_ = unitOf 2 e.at_ && l.idx = e.latch) (fun l => { l with valid := false }) s.latches }
/-- OPERAND_FETCH_FAILURE (06 R212, 21 R526): the fetch of a byte of block `step` of A fails, for the step that would run next; or that
step meets a parity error in the latched weights, at the address of their element in the tile: the latch is then fetched again. -/
def execOperandFetchFailure (i step : Nat) (a : Word) (s : State) : Out :=
  .next (match s.kiln.find? (fun k => k.id = i) with
    | none => s
    | some e =>
      if !((e.state = 1 || e.state = 3) && e.next = step) then s
      else if fetchesA e step a then suspend i a s
      else if readsB e step a then noteError e.at_.pkg (suspend i a (dropLatch e s))
      else s)

end Sys2Proof.Machine
end

