-- ==== Sys2Proof/Machine/VecInt.lean ====
section
/-! DEFINITION. Meanings of group 2, vector integer and lane operations (11 R334 to R343). -/

namespace Sys2Proof.Machine

/-- A routed integer operation (11 R334). -/
def routedInt (lat : Nat) (f : W32 → W32 → W32) (d a b : Reg) (r : Route) (s : State) : Out :=
  vecOp ([(d, 1), (a, 1)] ++ routedRegs b r)
    (fun s => putV lat d (fun l => f (srcA s.g a l) (routed s.g b r l)) s) s
/-- An S-form operation with a vector result (11 R328). -/
def sFormOp (lat : Nat) (f : W32 → W32 → W32) (d a b : Reg) (x : Bool) (s : State) : Out :=
  vecOp ([(d, 1), (a, 1)] ++ sRegs b x) (fun s => putV lat d (fun l => f (srcA s.g a l) (sForm s.g b x l)) s) s

/-- `vadd` (11 R334). -/
def execVadd (d a b : Reg) (r : Route) (s : State) : Out := routedInt 2 (· + ·) d a b r s
/-- `vsub` (11 R334). -/
def execVsub (d a b : Reg) (r : Route) (s : State) : Out := routedInt 2 (· - ·) d a b r s
/-- `vmul` (11 R334), of latency 4 (16 R425). -/
def execVmul (d a b : Reg) (r : Route) (s : State) : Out := routedInt 4 (· * ·) d a b r s
/-- `vand` (11 R334). -/
def execVand (d a b : Reg) (r : Route) (s : State) : Out := routedInt 2 (· &&& ·) d a b r s
/-- `vor` (11 R334). -/
def execVor (d a b : Reg) (r : Route) (s : State) : Out := routedInt 2 (· ||| ·) d a b r s
/-- `vxor` (11 R334). -/
def execVxor (d a b : Reg) (r : Route) (s : State) : Out := routedInt 2 (· ^^^ ·) d a b r s

/-- `vshl` on one lane (11 R335): c is bits [4:0] of b. -/
def vshlVal (m : SShlOp) (a b : W32) : W32 :=
  match m with
  | .shl => a <<< (b.toNat % 32)
  | .rol => a.rotateLeft (b.toNat % 32)
/-- `vshr` on one lane (11 R335). -/
def vshrVal (m : ShrOp) (a b : W32) : W32 :=
  match m with
  | .shr => a >>> (b.toNat % 32)
  | .sra => a.sshiftRight (b.toNat % 32)
  | .ror => a.rotateRight (b.toNat % 32)
/-- `vshl` (11 R335). -/
def execVshl (d a b : Reg) (x : Bool) (m : SShlOp) (s : State) : Out := sFormOp 2 (vshlVal m) d a b x s
/-- `vshr` (11 R335). -/
def execVshr (d a b : Reg) (x : Bool) (m : ShrOp) (s : State) : Out := sFormOp 2 (vshrVal m) d a b x s
/-- `vminmax` (11 R336). -/
def execVminmax (d a b : Reg) (x : Bool) (m : MinMaxOp) (s : State) : Out := sFormOp 2 (minMaxVal m) d a b x s
/-- `vcmp` (11 R337). -/
def execVcmp (k : BitVec 3) (a b : Reg) (x : Bool) (m : CmpOp) (s : State) : Out :=
  vecOp ([(a, 1)] ++ sRegs b x)
    (fun s => putK 2 k (maskActive s.g (fun l => cmpVal m (srcA s.g a l) (sForm s.g b x l))) s) s
/-- `vsel` (11 R338). -/
def execVsel (d a b : Reg) (x : Bool) (k : BitVec 3) (s : State) : Out :=
  vecOp ([(d, 1), (a, 1)] ++ sRegs b x)
    (fun s => putV 2 d (fun l => if inMask (mreg s.g k) l then srcA s.g a l else sForm s.g b x l) s) s
/-- `vmov` (11 R339). -/
def execVmov (f : VMovForm) (s : State) : Out :=
  match f with
  | .v d a => vecOp [(d, 1), (a, 1)] (fun s => putV 2 d (srcA s.g a) s) s
  | .s d a => vecOp [(d, 1)] (fun s => putV 2 d (fun _ => lo32 (sreg s.g a)) s) s
  | .sh d a => vecOp [(d, 1)] (fun s => putV 2 d (fun _ => (sreg s.g a).extractLsb' 32 32) s) s
  | .lane d => vecOp [(d, 1)] (fun s => putV 2 d w32 s) s
  | .x d a n => vecOp [(a, 1)] (fun s => putS 2 d ((srcA s.g a n.toNat).setWidth 64) s) s
  | .ins d a n =>
    vecOp [(d, 1)]
      (fun s => fixed 2 (.v (vnum s.g d) (execMask s.g &&& (1#32 <<< n.toNat)) (mkLanes (fun _ => lo32 (sreg s.g a)))) s) s
  | .k d a => vecOp [(d, 1)] (fun s => putV 2 d (fun l => if inMask (mreg s.g a) l then 1 else 0) s) s
/-- `vperm` (11 R340), of latency 4. -/
def execVperm (d a b : Reg) (z : Bool) (s : State) : Out :=
  vecOp [(d, 1), (a, 1), (b, 1)]
    (fun s => putV 4 d (fun l =>
      let i := lane (vreg s.g b) l
      if z && i.toNat / 32 ≠ 0 then 0 else srcA s.g a (i.toNat % 32)) s) s
/-- The scalar or mask that `vvote` computes from the active lanes (11 R341). -/
def voteVal (g : Gang) (a : Reg) (m : VVoteOp) : Word :=
  let act := lanesOf (execMask g)
  let nz := act.filter (fun l => srcA g a l ≠ 0)
  match m with
  | .any => if nz.isEmpty then 0 else 1
  | .all => if nz.length = act.length then 1 else 0
  | .uni => if act.all (fun l => srcA g a l = srcA g a (act.headD 0)) then 1 else 0
  | .popc => wd nz.length
  | .ballot => (maskActive g (fun l => srcA g a l ≠ 0)).setWidth 64
  | .first => wd (nz.headD 32)
/-- `vvote` (11 R341), of latency 4. -/
def execVvote (d a : Reg) (m : VVoteOp) (s : State) : Out :=
  vecOp [(a, 1)]
    (fun s => if m = .ballot then putK 4 (d.setWidth 3) (lo32 (voteVal s.g a m)) s else putS 4 d (voteVal s.g a m) s) s

/-- Combine of `vscan` with its flags (11 R342). -/
def scanOp (o : VScanOp) (p a : W32) : W32 × Fl :=
  match o with
  | .add => (p + a, 0)
  | .fadd => addRne p a
  | .min => (minMaxVal .min p a, 0)
  | .max => (minMaxVal .max p a, 0)
  | .minu => (minMaxVal .minu p a, 0)
  | .maxu => (minMaxVal .maxu p a, 0)
/-- Identity of `vscan` (11 R342). -/
def scanId : VScanOp → W32
  | .add | .fadd | .maxu => 0
  | .min => 0x7FFFFFFF
  | .max => 0x80000000
  | .minu => 0xFFFFFFFF
/-- The outputs of `vscan` lane by lane (11 R342): `p` is none before the first active lane. -/
def scanLanes (o : VScanOp) (ex : Bool) (v : Nat → W32) : List Nat → Option W32 → List (Nat × W32) × Fl
  | [], _ => ([], 0)
  | l :: r, none =>
    let t := scanLanes o ex v r (some (v l))
    ((l, if ex then scanId o else v l) :: t.1, t.2)
  | l :: r, some p =>
    let c := scanOp o p (v l)
    let t := scanLanes o ex v r (some c.1)
    ((l, if ex then p else c.1) :: t.1, c.2 ||| t.2)
/-- `vscan` (11 R342), of latency 8. -/
def execVscan (d a : Reg) (ex : Bool) (o : VScanOp) (s : State) : Out :=
  vecOp [(d, 1), (a, 1)]
    (fun s =>
      let t := scanLanes o ex (srcA s.g a) (lanesOf (execMask s.g)) none
      fixed 8 (.fp t.2) (putV 8 d (fun l => ((t.1.find? (fun p => p.1 = l)).map (·.2)).getD 0) s)) s
/-- The value of `vredl` over a list of lane values, with its flags (11 R343). -/
def redlVal (o : VRedlOp) (xs : List W32) : W32 × Fl :=
  match o with
  | .add => (xs.foldl (· + ·) 0, 0)
  | .fadd => let r := pairwiseSum fFP32 (xs.map (·.toNat)); (w32 r.1, r.2)
  | .min => (xs.foldl (minMaxVal .min) 0x7FFFFFFF, 0)
  | .max => (xs.foldl (minMaxVal .max) 0x80000000, 0)
  | .minu => (xs.foldl (minMaxVal .minu) 0xFFFFFFFF, 0)
  | .maxu => (xs.foldl (minMaxVal .maxu) 0, 0)
  | .fmin => if xs.isEmpty then (0x7F800000, 0) else
      let r := pairwiseMinMax fFP32 .min (xs.map (·.toNat)); (w32 r.1, r.2)
  | .fmax => if xs.isEmpty then (0xFF800000, 0) else
      let r := pairwiseMinMax fFP32 .max (xs.map (·.toNat)); (w32 r.1, r.2)
  | .and => (xs.foldl (· &&& ·) 0xFFFFFFFF, 0)
  | .or => (xs.foldl (· ||| ·) 0, 0)
  | .xor => (xs.foldl (· ^^^ ·) 0, 0)
/-- `vredl` (11 R343), of latency 8. -/
def execVredl (d a : Reg) (o : VRedlOp) (s : State) : Out :=
  vecOp [(a, 1)]
    (fun s =>
      let r := redlVal o ((lanesOf (execMask s.g)).map (srcA s.g a))
      fixed 8 (.fp r.2) (putS 8 d (r.1.setWidth 64) s)) s

end Sys2Proof.Machine
end

