-- ==== Sys2Proof/Machine/VecFp.lean ====
section
/-! DEFINITION. Meanings of group 3, vector floating point, conversions, packing and random bits (11 R344 to R356). -/

namespace Sys2Proof.Machine

/-- Generator bits of lane `l`, `k` elements further on (11 R331). -/
def laneBits (g : Gang) (l k : Nat) : Nat := srBits g (g.rkbase + wd (l + k))
/-- An FP32 result of lane `l` under rm and ftz (11 R330). -/
def fpOut (g : Gang) (l : Nat) (x : FVal × Fl) : W32 × Fl :=
  let r := result32 (ftzOf g.fpcsr) (rmOf g.fpcsr) (laneBits g l 0) x.1
  (r.1, x.2 ||| r.2)
/-- An FP32 operand under ftz (05 R183). -/
def fpIn (g : Gang) (a : W32) : FVal := operand32 (ftzOf g.fpcsr) a
/-- A routed FP32 operation (11 R344): `f` of the rounding mode and the values of a, b and the old destination. -/
def routedFp (f : Rnd → FVal → FVal → FVal → FVal × Fl) (d a b : Reg) (r : Route) (s : State) : Out :=
  vecOp ([(d, 1), (a, 1)] ++ routedRegs b r)
    (fun s => putVF 4 d (fun l => fpOut s.g l
      (f (rmOf s.g.fpcsr) (fpIn s.g (srcA s.g a l)) (fpIn s.g (routed s.g b r l)) (fpIn s.g (srcA s.g d l)))) s) s
/-- x · y + z exactly, with its flags (11 R344, R345). -/
def fmaVal (m : Rnd) (x y z : FVal) : FVal × Fl :=
  let p := mulVal x y
  let t := sumVal m [p.1, z]
  (t.1, p.2 ||| t.2)

/-- `fadd` (11 R344). -/
def execFadd (d a b : Reg) (r : Route) (s : State) : Out := routedFp (fun m x y _ => sumVal m [x, y]) d a b r s
/-- `fsub` (11 R344). -/
def execFsub (d a b : Reg) (r : Route) (s : State) : Out := routedFp (fun m x y _ => sumVal m [x, negVal y]) d a b r s
/-- `fmul` (11 R344). -/
def execFmul (d a b : Reg) (r : Route) (s : State) : Out := routedFp (fun _ x y _ => mulVal x y) d a b r s
/-- `ffma` (11 R344). -/
def execFfma (d a b : Reg) (r : Route) (s : State) : Out := routedFp fmaVal d a b r s

/-- An FP32 code after the operand flush (05 R183). -/
def flushCode (g : Gang) (a : W32) : W32 :=
  if ftzOf g.fpcsr && a.toNat % 2 ^ 31 < 2 ^ 23 then a &&& 0x80000000 else a
/-- `fminmax` (11 R346). -/
def execFminmax (d a b : Reg) (x : Bool) (m : FMinMaxOp) (s : State) : Out :=
  vecOp ([(d, 1), (a, 1)] ++ sRegs b x)
    (fun s => putVF 4 d (fun l =>
      let r := fminmaxF fFP32 m (flushCode s.g (srcA s.g a l)).toNat (flushCode s.g (sForm s.g b x l)).toNat
      (w32 r.1, r.2)) s) s
/-- One lane of `fcmp` (11 R347). -/
def fcmpVal (m : FCmpOp) (x y : FVal) : Bool × Fl :=
  let nan := x.isNan || y.isNan
  let sig : Fl := if x.isSig || y.isSig then fIV else 0
  let ord : Fl := if nan then fIV else 0
  match m with
  | .eq => (!nan && eqVal x y, sig)
  | .ne => (nan || !eqVal x y, sig)
  | .lt => (!nan && ltVal x y, ord)
  | .le => (!nan && !ltVal y x, ord)
  | .gt => (!nan && ltVal y x, ord)
  | .ge => (!nan && !ltVal x y, ord)
  | .un => (nan, sig)
  | .ord => (!nan, sig)
/-- `fcmp` (11 R347). -/
def execFcmp (k : BitVec 3) (a b : Reg) (x : Bool) (m : FCmpOp) (s : State) : Out :=
  vecOp ([(a, 1)] ++ sRegs b x)
    (fun s =>
      let f := fun l => fcmpVal m (fpIn s.g (srcA s.g a l)) (fpIn s.g (sForm s.g b x l))
      fixed 4 (.fp (flagsActive s.g (fun l => (f l).2))) (putK 4 k (maskActive s.g (fun l => (f l).1)) s)) s
/-- Latency of `ffun` (16 R425). -/
def ffunLat : FFunOp → Nat
  | .abs | .neg => 2
  | .rint => 4
  | .rcp | .sqrt | .rsqrt | .exp2 | .log2 | .sinpi | .cospi | .tanh => 12
/-- `ffun` (11 R348). -/
def execFfun (d a : Reg) (f : FFunOp) (s : State) : Out :=
  vecOp [(d, 1), (a, 1)]
    (fun s => putVF (ffunLat f) d
      (fun l => ffunLane (rmOf s.g.fpcsr) (ftzOf s.g.fpcsr) (laneBits s.g l 0) f (srcA s.g a l)) s) s

/-- The floating-point format of a narrow `fcvt` format (05 R163). -/
def cvtFmt : CvtFmt → Option Fmt
  | .fp16 => some fFP16
  | .bf16 => some fBF16
  | .e4m3 => some fE4M3
  | .e5m2 => some fE5M2
  | .e3m2 => some fE3M2
  | .e2m3 => some fE2M3
  | .f4 _ | .i32 | .u32 | .i8 => none
/-- A value rounded to a format of `fcvt`: its code and flags (11 R350). -/
def cvtTo (f : CvtFmt) (m : Rnd) (g : Nat) (sat : Bool) (x : FVal) : Nat × Fl :=
  match f with
  | .fp16 => roundTo fFP16 m g true sat x
  | .bf16 => roundTo fBF16 m g true sat x
  | .e4m3 => roundTo fE4M3 m g true sat x
  | .e5m2 => roundTo fE5M2 m g true sat x
  | .e3m2 => roundTo fE3M2 m g true sat x
  | .e2m3 => roundTo fE2M3 m g true sat x
  | .f4 t => roundF4 t m g sat x
  | .i32 => let r := roundInt (-(2 ^ 31)) (2 ^ 31 - 1) m g x; ((r.1 % 2 ^ 32).toNat, r.2)
  | .u32 => let r := roundInt 0 (2 ^ 32 - 1) m g x; ((r.1 % 2 ^ 32).toNat, r.2)
  | .i8 => let r := roundInt (-128) 127 m g x; ((r.1 % 256).toNat, r.2)
/-- The value of the low bits of a register in a format of `fcvt` (11 R350). -/
def cvtFrom (f : CvtFmt) (a : W32) : FVal :=
  match f with
  | .fp16 => decodeF fFP16 (a.toNat % 65536)
  | .bf16 => decodeF fBF16 (a.toNat % 65536)
  | .e4m3 => decodeF fE4M3 (a.toNat % 256)
  | .e5m2 => decodeF fE5M2 (a.toNat % 256)
  | .e3m2 => decodeF fE3M2 (a.toNat % 64)
  | .e2m3 => decodeF fE2M3 (a.toNat % 64)
  | .f4 t => decodeF4 t (a.toNat % 16)
  | .i32 => intVal a.toInt
  | .u32 => intVal (a.toNat : Int)
  | .i8 => intVal (a.setWidth 8).toInt
/-- `fcvt` (11 R349, R350). -/
def execFcvt (d a : Reg) (m : RndSel) (f : CvtFmt) (frm : Bool) (s : State) : Out :=
  vecOp [(d, 1), (a, 1)]
    (fun s => putVF 4 d (fun l =>
      let md := rndSel s.g.fpcsr m
      if frm then result32 (ftzOf s.g.fpcsr) md (laneBits s.g l 0) (cvtFrom f (srcA s.g a l))
      else
        let r := cvtTo f md (laneBits s.g l 0) (satOf s.g.fpcsr) (fpIn s.g (srcA s.g a l))
        (w32 r.1, r.2)) s) s

/-- w, c and p of `fpack` (11 R351). -/
def packDims : PackW → Nat × Nat × Nat
  | .h2 => (16, 2, 1)
  | .b4 => (8, 4, 1)
  | .n8 => (4, 8, 1)
  | .s6 => (6, 16, 3)
/-- A bit stream of lane values, element i at bit w · i (11 R351). -/
def packBits (w : Nat) : List W32 → Nat
  | [] => 0
  | x :: r => x.toNat % 2 ^ w + 2 ^ w * packBits w r
/-- Write a group of vector registers, register i by `f i`. -/
def putGroup (lat : Nat) (d : Reg) (f : Nat → Nat → W32) (n : Nat) (s : State) : State :=
  (List.range n).foldl (fun s i => fixed lat (.v (vnum s.g d i) (execMask s.g) (mkLanes (f i))) s) s
/-- `fpack` (11 R351). -/
def execFpack (d a : Reg) (un : Bool) (w : PackW) (s : State) : Out :=
  let (bw, c, p) := packDims w
  let src := if un then p else c
  let dst := if un then c else p
  vecOp [(d, dst), (a, src)]
    (fun s =>
      let g := s.g
      let stream := fun l => packBits (if un then 32 else bw) ((List.range src).map (fun i => lane (vreg g a i) l))
      putGroup 2 d (fun j l => w32 (stream l / 2 ^ ((if un then bw else 32) * j) % 2 ^ (if un then bw else 32))) dst s) s

/-- Half `h` of a packed BF16 pair as a value (05 R165). -/
def half (h : Nat) (x : W32) : FVal := decodeF fBF16 (x.toNat / 2 ^ (16 * h) % 65536)
/-- A packed BF16 operation (11 R354): overflow follows the FP32 row whatever sat holds. -/
def packedBf (f : Rnd → FVal → FVal → FVal → FVal × Fl) (d a b : Reg) (r : Route) (s : State) : Out :=
  vecOp ([(d, 1), (a, 1)] ++ routedRegs b r)
    (fun s => putVF 4 d (fun l =>
      let m := rmOf s.g.fpcsr
      let one := fun h =>
        let x := f m (half h (srcA s.g a l)) (half h (routed s.g b r l)) (half h (srcA s.g d l))
        let q := roundTo fBF16 m (laneBits s.g l (32 * h)) false false x.1
        (q.1, x.2 ||| q.2)
      (w32 ((one 0).1 + 65536 * (one 1).1), (one 0).2 ||| (one 1).2)) s) s
/-- `hadd2` (11 R354). -/
def execHadd2 (d a b : Reg) (r : Route) (s : State) : Out := packedBf (fun m x y _ => sumVal m [x, y]) d a b r s
/-- `hmul2` (11 R354). -/
def execHmul2 (d a b : Reg) (r : Route) (s : State) : Out := packedBf (fun _ x y _ => mulVal x y) d a b r s
/-- `hfma2` (11 R354). -/
def execHfma2 (d a b : Reg) (r : Route) (s : State) : Out := packedBf fmaVal d a b r s
/-- `fdot2` (11 R355): z + x0·y0 + x1·y1 with one rounding; ftz applies to z and the result. -/
def execFdot2 (d a b : Reg) (r : Route) (s : State) : Out :=
  vecOp ([(d, 1), (a, 1)] ++ routedRegs b r)
    (fun s => putVF 4 d (fun l =>
      let p0 := mulVal (half 0 (srcA s.g a l)) (half 0 (routed s.g b r l))
      let p1 := mulVal (half 1 (srcA s.g a l)) (half 1 (routed s.g b r l))
      let t := sumVal (rmOf s.g.fpcsr) [fpIn s.g (srcA s.g d l), p0.1, p1.1]
      fpOut s.g l (t.1, p0.2 ||| p1.2 ||| t.2)) s) s

/-- The class of a code of a format (11 R352): the one bit that is set. -/
def classOf (f : Fmt) (c : Nat) : Nat :=
  let mag := c % 2 ^ f.signBit
  match decodeF f c with
  | .nan sig => if sig then 0 else 1
  | .inf neg => if neg then 2 else 9
  | .fin neg _ _ =>
    if mag = 0 then (if neg then 5 else 6)
    else if mag < 2 ^ f.m then (if neg then 4 else 7)
    else if neg then 3 else 8
/-- `fclass` (11 R352). -/
def execFclass (d a : Reg) (m : ClassFmt) (s : State) : Out :=
  vecOp [(d, 1), (a, 1)]
    (fun s => putV 2 d (fun l =>
      let x := (srcA s.g a l).toNat
      w32 (2 ^ match m with
        | .fp32 => classOf fFP32 x
        | .bf16 => classOf fBF16 (x % 65536)
        | .fp16 => classOf fFP16 (x % 65536))) s) s
/-- `frng` (11 R356), of latency 6. -/
def execFrng (d : Reg) (u01 : Bool) (s : State) : Out :=
  vecOp [(d, 1)]
    (fun s => putV 6 d (fun l =>
      let e := s.g.rkbase + wd l
      let g := (cg10 s.g.rkseed s.g.rkid s.g.rkstep (e / 4)).extractLsb' (e.toNat % 4 * 32) 32
      if u01 then w32 (roundTo fFP32 .rtz 0 false false (.fin false (g.toNat / 256) (2 ^ 24))).1 else g) s) s
/-- One lane of `fscale` (11 R353): x · 2^n; powers beyond the format's whole range act as the range's end. -/
def fscaleVal (x : FVal) (n : W32) : FVal := scaleVal x (max (-1000) (min 1000 n.toInt))
/-- `fscale.exp` of a value (11 R353). -/
def fexpVal (x : FVal) : W32 × Fl :=
  match x with
  | .nan _ => (0x7FFFFFFF, fIV)
  | .inf _ => (0x7FFFFFFF, fIV)
  | .fin _ n d => if n = 0 then (0x80000000, fIV) else (BitVec.ofInt 32 (flog2 n d), 0)
/-- `fscale` (11 R353). -/
def execFscale (d a b : Reg) (x : Bool) (ex : Bool) (s : State) : Out :=
  vecOp ([(d, 1), (a, 1)] ++ if ex then [] else sRegs b x)
    (fun s => putVF 4 d (fun l =>
      let v := fpIn s.g (srcA s.g a l)
      if ex then fexpVal v else fpOut s.g l (fscaleVal v (sForm s.g b x l), 0)) s) s

end Sys2Proof.Machine
end

