-- ==== Sys2Proof/Machine/Accum.lean ====
section
/-! DEFINITION. The accumulator instructions, the shape records, `ovfq` and `lsapp` (13 R396 to R416, 06 R204, R210 to R217). -/

namespace Sys2Proof.Machine

/-- Shape record `n` of a gang, and its fields (13 R400). -/
def shape (g : Gang) (n : BitVec 3) : Word := g.sh[n.toNat]'(n.isLt)
def shCol0 (x : Word) : Nat := fld x 47 40
def shCols (x : Word) : Nat := fld x 39 32 + 1
def shBlk (x : Word) : Bool := x.getLsbD 11
def shDiv (x : Word) : Bool := x.getLsbD 10
def shType (x : Word) : Nat := fld x 9 8
def shFmt (x : Word) : Nat := fld x 7 4
/-- The element width of a target format (13 R400). -/
def shWidth (f : Nat) : Nat :=
  match f with
  | 0 | 1 => 16
  | 2 | 3 | 9 => 8
  | 4 | 5 => 6
  | 6 => 4
  | _ => 32
/-- Whether `shset` turns a value away (13 R401). -/
def shapeBad (x : Word) : Bool :=
  let f := shFmt x
  fld x 63 48 ≠ 0 || fld x 31 12 ≠ 0 || fld x 3 0 ≠ 0 || !(f ≤ 6 || f = 9 || f = 15) || 256 < shCol0 x + shCols x ||
    (shType x ≠ 0 && f ≠ 6) || (shBlk x && (f ≤ 1 || f = 9 || f = 15)) ||
    (shBlk x && (shCol0 x % 32 ≠ 0 || shCols x % 32 ≠ 0))
/-- `shset` (13 R401). -/
def execShset (n : BitVec 3) (a : Reg) (s : State) : Out :=
  .next (if shapeBad (sreg s.g a) then raise ⟨cOperand, 0, 0⟩ s else next (fixed 2 (.sh n.toNat (sreg s.g a)) s))
/-- `shget` (13 R401). -/
def execShget (d : Reg) (n : BitVec 3) (s : State) : Out := .next (next (putS 2 d (shape s.g n) s))

/-- The physical tile that a gang's field names (06 R199). -/
def tileOf (s : State) (g : Gang) (t : BitVec 4) : Nat := tileBase s g + t.toNat
/-- An element of a tile (06 R199). -/
def accAt (s : State) (c : Coords) (t l j : Nat) : W32 := cget 0 s.acc (accKey c t l j)
/-- The tiles that a tile-ordered instruction names. -/
def tileNames : TileOp → List (BitVec 4)
  | .z t | .wr t _ _ | .cvt _ t _ _ | .mx _ t _ => [t]
  | .add d s _ | .cp d s _ => [d, s]
/-- Whether an FP32 code is a positive normal number (06 R216). -/
def posNormal (x : W32) : Bool := 0x00800000 ≤ x.toNat && x.toNat < 0x7F800000
/-- The registers of an `acccvt` result (13 R411): the group, and the scale register. -/
def cvtRegs (x : Word) : Nat := ceilDiv (shCols x * shWidth (shFmt x)) 32
/-- The accumulator-range trap of a list of tile fields (13 R406). -/
def rangeTrap (s : State) (g : Gang) (ts : List (BitVec 4)) : Option Trap :=
  (ts.find? (fun t => tileShare s g ≤ t.toNat)).map (fun t => ⟨cAccRange, 0, t.setWidth 64⟩)
/-- The traps of the tile-ordered instructions before their hold, in order (13 R406, R408, R411, 06 R216). -/
def accTrap (s : State) (g : Gang) (o : TileOp) : Option Trap :=
  let regs : List (Reg × Nat) := match o with
    | .wr _ r n => [(r, min (shCols (shape g n)) 16)]
    | .cvt d _ _ n => [(d, min (cvtRegs (shape g n)) 16 + if shBlk (shape g n) then 1 else 0)]
    | .z _ | .add _ _ _ | .cp _ _ _ | .mx _ _ _ => []
  let bad : Bool := match o with
    | .wr _ _ n => 16 < shCols (shape g n)
    | .cvt _ _ _ n =>
      let x := shape g n
      shCols x * shWidth (shFmt x) % 32 ≠ 0 || 16 < cvtRegs x || (shDiv x && !posNormal g.lscale)
    | .z _ | .add _ _ _ | .cp _ _ _ | .mx _ _ _ => false
  match blockTrap g regs with
  | some t => some t
  | none => match rangeTrap s g (tileNames o) with
    | some t => some t
    | none => if bad then some ⟨cOperand, 0, 0⟩ else none

/-- Write elements of a tile, and set its non-finite bit where one is a NaN or an infinity (13 R399, "ovfq and lsapp"). -/
def putAcc (c : Coords) (t : Nat) (es : List ((Nat × Nat) × W32)) (s : State) : State :=
  let s := { s with acc := es.foldl (fun m e => cset 0 m (accKey c t e.1.1 e.1.2) e.2) s.acc }
  if es.any (fun e => nonFinite e.2) then onTile c t (fun x => { x with nonfinite := true }) s else s
/-- The rows of the active lanes and the columns of a shape (13, before R406). -/
def shapeElems (g : Gang) (x : Word) : List (Nat × Nat) :=
  (lanesOf (execMask g)).flatMap (fun l => (List.range (shCols x)).map (fun i => (l, shCol0 x + i)))
/-- `accz` and `accwr` abandon the suspended operation of a tile (06 R214): its entry frees and its number completes. -/
def abandonTile (c : Coords) (job t : Nat) (s : State) : State :=
  match suspEntry s c job t with
  | none => s
  | some e => abandonMma e s
/-- `accz` acts (13 R407). -/
def actZ (t : BitVec 4) (s : State) : State :=
  let c := s.g.at_
  let tile := tileOf s s.g t
  let s := abandonTile c s.g.job tile s
  let all := (List.range 32).flatMap (fun l => (List.range 256).map (fun j => ((l, j), (0 : W32))))
  next (onTile c tile (fun x => { x with count := 0, nonfinite := false }) (putAcc c tile all s))
/-- `accwr` acts on the operands `g` (13 R408). -/
def actWr (g : Gang) (t : BitVec 4) (r : Reg) (n : BitVec 3) (s : State) : State :=
  let c := s.g.at_
  let tile := tileOf s s.g t
  let x := shape g n
  let es := (shapeElems g x).map (fun e => (e, lane (vreg g r (e.2 - shCol0 x)) e.1))
  next (putAcc c tile es (onTile c tile (fun k => { k with count := 0 }) (abandonTile c s.g.job tile s)))
/-- The kiln-fault of a tile suspended by a fault among those that an instruction names (13 R406 step 5, 06 R213). -/
def suspTrap (s : State) (g : Gang) (ts : List (BitVec 4)) : Option Trap :=
  (ts.findSome? (fun t => suspEntry s g.at_ g.job (tileOf s g t))).map (kilnTrap s g)
/-- `accadd` acts (13 R410). -/
def actAdd (g : Gang) (d a : BitVec 4) (n : BitVec 3) (s : State) : State :=
  let c := s.g.at_
  let es := (shapeElems g (shape g n)).map (fun e =>
    (e, addRne (accAt s c (tileOf s s.g d) e.1 e.2) (accAt s c (tileOf s s.g a) e.1 e.2)))
  let fl : Fl := es.foldl (fun f e => f ||| e.2.2) 0
  let s := putAcc c (tileOf s s.g d) (es.map (fun e => (e.1, e.2.1))) s
  next { s with g := { s.g with fpcsr := s.g.fpcsr ||| fl.setWidth 32 } }
/-- `acccp` acts (13 R410). -/
def actCp (g : Gang) (d a : BitVec 4) (n : BitVec 3) (s : State) : State :=
  let c := s.g.at_
  next (putAcc c (tileOf s s.g d) ((shapeElems g (shape g n)).map (fun e => (e, accAt s c (tileOf s s.g a) e.1 e.2))) s)

/-- The exact quotient of a value by a positive one (06 R216). -/
def divVal (x y : FVal) : FVal :=
  match x, y with
  | .fin a n d, .fin _ m e => .fin a (n * e) (d * m)
  | .nan s, _ => .nan s
  | .inf s, _ => .inf s
  | .fin a n d, _ => .fin a n d
/-- The largest magnitude among the finite values of a block (05 R170): none for no value but zero. -/
def amax (xs : List FVal) : Option (Nat × Nat) :=
  xs.foldl (fun m x => match x, m with
    | .fin _ n d, none => if n = 0 then none else some (n, d)
    | .fin _ n d, some (a, b) => if a * d < n * b then some (n, d) else some (a, b)
    | _, m => m) none
/-- The scale that a conversion chooses for a block (05 R170): its byte, its power of two, and whether its exponent is below
the largest. -/
def chooseScale (f ty : Nat) (xs : List FVal) : Nat × Int × Bool :=
  let clamp (x hi : Int) : Int := max 0 (min x hi)
  match amax xs with
  | none => if f = 6 then (ty * 64 + 32, 0, true) else (127, 0, true)
  | some (n, d) =>
    if f = 6 then
      let x := clamp (flog2 n d - (if ty ≤ 1 then 2 else 3) + 32) 63
      (ty * 64 + x.toNat, x - 32, x < 63)
    else
      let emax : Int := if f = 2 then 8 else if f = 3 then 15 else if f = 4 then 4 else 2
      let x := clamp (flog2 n d - emax + 127) 254
      (x.toNat, x - 127, x < 254)
/-- A value rounded to a target of `acccvt` (13 R400, R411): its code and flags. -/
def shapeRound (f ty : Nat) (m : Rnd) (g : Nat) (sat : Bool) (x : FVal) : Nat × Fl :=
  match f with
  | 0 => roundTo fFP16 m g true sat x
  | 1 => roundTo fBF16 m g true sat x
  | 2 => roundTo fE4M3 m g true sat x
  | 3 => roundTo fE5M2 m g true sat x
  | 4 => roundTo fE3M2 m g true sat x
  | 5 => roundTo fE2M3 m g true sat x
  | 6 => roundF4 (match ty with
      | 0 => .int
      | 1 => .e2m1
      | 2 => .pow2
      | _ => .hyb) m g sat x
  | 9 => let r := roundInt (-128) 127 m g x; ((r.1 % 256).toNat, r.2)
  | _ => roundTo fFP32 m g true sat x
/-- One row of `acccvt` (13 R411, R412, 06 R217): codes, scale bytes, flags, and whether an element overflows. Where the instruction chooses the
scale and sat is 0, 05 R170 has an element above the largest magnitude saturate and R180 gives an overflow: the model gives the overflow
(DESIGN CHOICE, log 50). -/
def cvtRow (g : Gang) (m : Rnd) (x : Word) (row : Nat → W32) (l : Nat) : List Nat × List Nat × Fl × Bool :=
  let nc := shCols x
  let vals := (List.range nc).map (fun i =>
    let v := decodeF fFP32 (row i).toNat
    if shDiv x then divVal v (decodeF fFP32 g.lscale.toNat) else v)
  let blocks := if shBlk x then
      (List.range (nc / 32)).map (fun b => chooseScale (shFmt x) (shType x) ((vals.drop (32 * b)).take 32))
    else []
  let es := (vals.zip (List.range nc)).map (fun p =>
    let sc := (blocks[p.2 / 32]?).getD (0, 0, false)
    let r := shapeRound (shFmt x) (shType x) m (srBits g (g.rkbase + wd (256 * l + shCol0 x + p.2))) (satOf g.fpcsr)
      (scaleVal p.1 (-sc.2.1))
    let special := match p.1 with
      | .fin _ _ _ => false
      | .nan _ | .inf _ => true
    (r.1, r.2, special || (r.2 &&& fOF) ≠ 0 || ((r.2 &&& fSA) ≠ 0 && !sc.2.2)))
  (es.map (·.1), blocks.map (·.1), es.foldl (fun f e => f ||| e.2.1) 0, es.any (·.2.2))
/-- A bit stream of codes of `w` bits, code i at bit w · i (05 R165). -/
def codeBits (w : Nat) : List Nat → Nat
  | [] => 0
  | c :: r => c % 2 ^ w + 2 ^ w * codeBits w r
/-- `acccvt` acts (13 R411, R412): its results are due 4 cycles after the hold. -/
def actCvt (g : Gang) (d : Reg) (t : BitVec 4) (m : RndSel) (n : BitVec 3) (s : State) : State :=
  let x := shape g n
  let w := shWidth (shFmt x)
  let rows := (List.range 32).map (fun l =>
    if inMask (execMask g) l then cvtRow g (rndSel g.fpcsr m) x (fun i => accAt s g.at_ (tileOf s g t) l (shCol0 x + i)) l
    else ([], [], (0 : Fl), false))
  let row := fun l => (rows[l]?).getD ([], [], 0, false)
  let p := cvtRegs x
  let s := putGroup 4 d (fun r l => w32 (codeBits w (row l).1 / 2 ^ (32 * r))) p s
  let s := if shBlk x then
      fixed 4 (.v (vnum g d p) (execMask g) (mkLanes (fun l => w32 (codeBits 8 (row l).2.1)))) s
    else s
  let s := fixed 4 (.fp (rows.foldl (fun f r => f ||| r.2.2.1) 0)) s
  let s := if rows.any (·.2.2.2) then fixed 4 (.ovfOr (wd (2 ^ t.toNat))) s else s
  next s
/-- `accmx` acts (13 R413). -/
def actMx (g : Gang) (d : Reg) (t : BitVec 4) (n : BitVec 3) (s : State) : State :=
  let es := (shapeElems g (shape g n)).map (fun e => (accAt s g.at_ (tileOf s g t) e.1 e.2).toNat % 2 ^ 31)
  let r := if es.any (fun c => 0x7F800000 < c) then 0x7FC00000 else es.foldl max 0
  next (putS 4 d (wd r) s)

/-- A tile-ordered instruction acts, its hold over (13 R397, R406 step 5), on the operands that the gang `g` held when it issued (00
R11). -/
def tileAct (g : Gang) (o : TileOp) (s : State) : State :=
  match o with
  | .z t => actZ t s
  | .wr t r n => actWr g t r n s
  | .add d a n => orTrap (suspTrap s s.g [d, a]) (actAdd g d a n) s
  | .cp d a n => orTrap (suspTrap s s.g [d, a]) (actCp g d a n) s
  | .cvt d t m n => orTrap (suspTrap s s.g [t]) (actCvt g d t m n) s
  | .mx d t n => orTrap (suspTrap s s.g [t]) (actMx g d t n) s
/-- The `mma`s on a set of tiles that entered the tiles' order before a tile-ordered instruction that enters now (13 R396). -/
def tileWaits (s : State) (c : Coords) (job : Nat) (ts : List Nat) : List Nat :=
  ((s.kiln.filter (fun k => unitOf 1 k.at_ = unitOf 1 c && ts.contains k.tile)) ++ ts.flatMap (savedOn s c job)).map (·.id)
/-- Whether an `mma` no longer holds a tile-ordered instruction behind it (13 R396): it has completed, or stands suspended by a fault. -/
def letsGo (s : State) (i : Nat) : Bool :=
  (s.kiln ++ s.images.flatMap (·.kiln)).all (fun k => k.id ≠ i || (k.state = 2 && k.cause ≠ 0))
/-- Whether a ticket's hold has ended (13 R396): the `mma`s before it let it go, and no earlier ticket waits on a tile of it. R396 names the
`mma`s alone; that a tile-ordered instruction also waits for one that stands before it in the order of a tile is the model's choice, since
R396 puts both into one order (DESIGN CHOICE, log 39). -/
def ticketReady (s : State) (t : TileTicket) : Bool :=
  t.entries.all (letsGo s) &&
    !s.tickets.any (fun u => u.core = t.core && u.ticket < t.ticket && u.tiles.any t.tiles.contains)
/-- A tile-ordered instruction: its checks, then it enters the order of its tiles, and acts at once where nothing is before
it and its core has a slot of the matrix port for it (13 R396, R406, 16 R424). One that holds has made no change yet (R398). -/
def tileOrdered (o : TileOp) (s : State) : State :=
  match accTrap s s.g o with
  | some t => raise t s
  | none =>
    let c := s.g.at_
    let ts := (tileNames o).map (tileOf s s.g)
    let es := tileWaits s c s.g.job ts
    if !s.iss.enters && es.all (letsGo s) && !s.tickets.any (fun u => u.core = unitOf 1 c && u.tiles.any ts.contains) then tileAct s.g o s
    else
      let t := unissue s
      { t with
        g := { t.g with hold := .tile s.nextId }
        tickets := s.tickets ++ [⟨s.nextId, s.g.uid, unitOf 1 c, ts, es, o, s.g, s.iss.yield, s.cycle⟩]
        nextId := s.nextId + 1 }
/-- A gang whose hold ends issues its tile-ordered instruction in that cycle (13 R397, 03 R100, R105, R109). -/
def endHold (now : Nat) (yield : Bool) (g : Gang) : Gang :=
  { settle now (agePaths g) with
    hold := .none, blocked := false, tookOver := false, eligFrom := none, memHold := false, icount := g.icount + 1, lastIssue := now
    notBefore := if yield then now + 2 else 0 }
/-- `accz` (13 R407). -/
def execAccz (t : BitVec 4) (s : State) : Out := .next (tileOrdered (.z t) s)
/-- `accwr` (13 R408). -/
def execAccwr (t : BitVec 4) (r : Reg) (n : BitVec 3) (s : State) : Out := .next (tileOrdered (.wr t r n) s)
/-- `accadd` (13 R410). -/
def execAccadd (d a : BitVec 4) (n : BitVec 3) (s : State) : Out := .next (tileOrdered (.add d a n) s)
/-- `acccp` (13 R410). -/
def execAcccp (d a : BitVec 4) (n : BitVec 3) (s : State) : Out := .next (tileOrdered (.cp d a n) s)
/-- `acccvt` (13 R411). -/
def execAcccvt (d : Reg) (t : BitVec 4) (m : RndSel) (n : BitVec 3) (s : State) : Out := .next (tileOrdered (.cvt d t m n) s)
/-- `accmx` (13 R413). -/
def execAccmx (d : Reg) (t : BitVec 4) (n : BitVec 3) (s : State) : Out := .next (tileOrdered (.mx d t n) s)
/-- TILE_HOLD_END (13 R396, R397, 06 R204): the hold of the gang in slot `c` ends and its instruction acts, in a cycle in which its core has
a slot of the matrix port for it (16 R424, log 39). -/
def execTileHoldEnd (c : Coords) (s : State) : Out :=
  .next (match (gangAt s c).bind (fun g => s.tickets.find? (fun t => t.uid = g.uid && g.hold = .tile t.ticket && g.phase = .running &&
      !g.cancelled && !g.stopping)) with
    | none => s
    | some t =>
      if !ticketReady s t || !pipeFree s (coreIx c) (some .matrix) then s
      else
        let s := focus c { s with tickets := s.tickets.filter (fun u => u.ticket ≠ t.ticket) }
        tileAct t.src t.op { s with
          g := endHold s.cycle t.yield s.g
          slots := takeSlot s c (some .matrix) })

/-- `accrd` (13 R409, 06 R210): the tile at one moment, under the clause's flag. -/
def execAccrd (d : Reg) (t : BitVec 4) (c : Reg) (n : BitVec 3) (s : State) : Out :=
  let g := s.g
  let x := shape g n
  let tr := match blockTrap g [(d, min (shCols x) 16)] with
    | some t => some t
    | none => match rangeTrap s g [t] with
      | some t => some t
      | none => if 16 < shCols x then some ⟨cOperand, 0, 0⟩ else none
  .next (orTrap tr (fun s =>
    let ws := (List.range (shCols x)).map (fun i =>
      RegWrite.v (vnum g d i) (execMask g) (mkLanes (fun l => accAt s g.at_ (tileOf s g t) l (shCol0 x + i))))
    next (addPend (ws ++ [.s c.toNat (wd (tileStatus s g.at_ (tileOf s g t)).count)]) 0 [] s)) s)
/-- `ovfq` (13 R414). -/
def execOvfq (d : Reg) (s : State) : Out :=
  let m := ((List.range (min 16 (tileShare s s.g))).filter (fun n => (tileStatus s s.g.at_ (tileBase s s.g + n)).nonfinite)).foldl
    (fun a n => a + 2 ^ n) 0
  .next (next (addPend [.s d.toNat (wd m)] 0 [] s))
/-- The loss scale after a back-off by 2^-dn, not below 2^-126 (13 R415). -/
def backOff (c : W32) (dn : Nat) : W32 := if dn < c.toNat / 2 ^ 23 then w32 (c.toNat - dn * 2 ^ 23) else 0x00800000
/-- The loss scale after growth by 2^u, not above 2^127 (13 R415). -/
def growScale (c : W32) (u : Nat) : W32 := if c.toNat / 2 ^ 23 + u < 254 then w32 (c.toNat + u * 2 ^ 23) else 0x7F000000
/-- `lsapp` (13 R415). -/
def execLsapp (d a : Reg) (s : State) : Out :=
  let p := sreg s.g a
  let n := fld p 31 0
  let u := fld p 39 32
  let dn := fld p 47 40
  let cnt := sreg s.g d + 1
  .next (if fld p 63 48 ≠ 0 || n = 0 || 15 < u || 15 < dn || !posNormal s.g.lscale then raise ⟨cOperand, 0, 0⟩ s
    else if fld s.g.ovf 15 0 ≠ 0 then
      next (fixed 2 (.ovfSet 0) (fixed 2 (.lscale (backOff s.g.lscale dn)) (putS 2 d 0 s)))
    else if n ≤ cnt.toNat then next (fixed 2 (.lscale (growScale s.g.lscale u)) (putS 2 d 0 s))
    else next (fixed 2 (.lscale s.g.lscale) (putS 2 d cnt s)))

end Sys2Proof.Machine
end

