-- ==== Sys2Proof/Machine/Granary.lean ====
section
/-! DEFINITION. The granary (07 R219 to R240, 13 R417, R418, 04 R158): the table record, `pkld`, `pkq` and `pkb`, and the events
of an operation. -/

namespace Sys2Proof.Machine

/-- The granary of a gang's die. -/
def granaryOf (g : Gang) : Engine := .granary (unitOf 3 g.at_)
/-- Whether a tag may hold a record or a key table, and whether it names die SRAM (07 R219, R224). -/
def recTag (a : Word) : Bool := tagOf a = 0 || tagOf a = 3 || tagOf a = 4
def sramTag (a : Word) : Bool := tagOf a = 3 || tagOf a = 4
/-- The checks of a granary instruction at issue (07 R226): the addresses of a device space first, then the descriptor. -/
def granaryTrap (addrs : List Word) (bad : Bool) : Option Trap :=
  match addrs.find? (fun a => tagOf a = 15) with
  | some a => some ⟨cDevice, a, 0⟩
  | none => if bad then some ⟨cDescriptor, 0, 0⟩ else none
/-- Accept a granary operation, or wait for a free entry of the queue (07 R227, 13 R417). -/
def issueGranary (kind : Nat) (h : BitVec 3) (rec : Word) (ws : List Word) (s : State) : State :=
  let c := unitOf 3 s.g.at_
  if Config.granaryQueue ≤ (s.granary.filter (fun o => unitOf 3 o.at_ = c)).length then stall s
  else
    let e := granaryOf s.g
    let (n, s) := tlIssue e (some h) s
    let op : GranaryOp := { id := ⟨e, s.g.job, n⟩, kind := kind, at_ := s.g.at_, uid := s.g.uid, recA := rec, words := ws
                            view := s.g.fenced, started := false, table := [], nextQ := 0, cands := [], dys := [], rows := []
                            cur := none, segs := [], fault := none, flags := 0, wr := [], err := none, sent := s.cycle }
    next { s with granary := s.granary ++ [op] }
/-- `pkld` (07 R222, 13 R417). -/
def execPkld (h : BitVec 3) (a : Reg) (s : State) : Out :=
  let rec_ := sreg s.g a
  .next (orTrap (granaryTrap [rec_] (!recTag rec_ || rec_.toNat % 256 ≠ 0)) (issueGranary 0 h rec_ []) s)
/-- The six descriptor scalars (07 R224). -/
def granWords (g : Gang) (d : Reg) : List Word := (List.range 6).map (fun i => sregAt g d i)
/-- Whether a descriptor breaks 07 R224; `q` says that it is a `pkq`'s. -/
def granBad (q : Bool) (ws : List Word) : Bool :=
  let w := fun i => (ws[i]?).getD 0
  let mem := fun a : Word => !sramTag a || a.toNat % 64 ≠ 0
  !recTag (w 0) || (w 0).toNat % 256 ≠ 0 || mem (w 1) || mem (w 2) || mem (w 3) || fld (w 4) 63 33 ≠ 0 ||
    (q && (w 4).getLsbD 32) || fld (w 4) 31 0 = 0 || 1048576 < fld (w 4) 31 0 || w 5 ≠ 0
/-- `pkq` (07 R230, 13 R417). -/
def execPkq (h : BitVec 3) (d : Reg) (s : State) : Out :=
  let ws := granWords s.g d
  .next (orTrap (granaryTrap (ws.take 4) (granBad true ws)) (issueGranary 1 h (ws.headD 0) ws) s)
/-- `pkb` (07 R233, 13 R417). -/
def execPkb (h : BitVec 3) (d : Reg) (s : State) : Out :=
  let ws := granWords s.g d
  .next (orTrap (granaryTrap (ws.take 4) (granBad false ws)) (issueGranary 2 h (ws.headD 0) ws) s)

/-- Word `i` of an operation's record, and the fields of 07 R219. -/
def tw (o : GranaryOp) (i : Nat) : Word := (o.table[i]?).getD 0
def tKslot (o : GranaryOp) : Nat := fld (tw o 0) 33 32
def tGen (o : GranaryOp) : Nat := fld (tw o 0) 31 16
def tOpt (o : GranaryOp) : Nat := fld (tw o 1) 60 59
def tBf (o : GranaryOp) : Bool := (tw o 1).getLsbD 58
def tVfmt (o : GranaryOp) : Nat := fld (tw o 1) 57 56
def tK (o : GranaryOp) : Nat := fld (tw o 1) 54 48
def tK1 (o : GranaryOp) : Nat := fld (tw o 1) 46 40
def tKfmt (o : GranaryOp) : Nat := fld (tw o 1) 34 32
def tN (o : GranaryOp) : Nat := fld (tw o 1) 28 16
def tD (o : GranaryOp) : Nat := fld (tw o 1) 10 0
def tTemp (o : GranaryOp) : W32 := w32 (fld (tw o 2) 63 32)
def tRow (o : GranaryOp) : Nat := fld (tw o 2) 12 0
def tEps (o : GranaryOp) : W32 := w32 (fld (tw o 3) 63 32)
def tLr (o : GranaryOp) : W32 := w32 (fld (tw o 3) 31 0)
/-- h, nb, es and kp (07, after R219). -/
def tHalf (o : GranaryOp) : Nat := tD o / 2
def tNb (o : GranaryOp) : Nat := ceilDiv (tHalf o) 32
def tEs (o : GranaryOp) : Nat := if tKfmt o = 0 then 2 else 1
def tKp (o : GranaryOp) : Nat := 64 * ceilDiv (tHalf o * tEs o) 64
/-- The size of a value, the elements of a row, the size of an output element, the pitches (07 R220, R224). -/
def tVs (o : GranaryOp) : Nat := if tVfmt o = 0 then 2 else if tVfmt o = 1 then 1 else 4
def tElems (o : GranaryOp) : Nat := tRow o / tVs o
def tOsz (o : GranaryOp) : Nat := if tBf o then 2 else 4
def tOp (o : GranaryOp) : Nat := 64 * ceilDiv (tElems o * tOsz o) 64
def tQp (o : GranaryOp) : Nat := 64 * ceilDiv (2 * tD o) 64
/-- Queries of an operation, and whether it updates no row (07 R224). -/
def opB (o : GranaryOp) : Nat := fld ((o.words[4]?).getD 0) 31 0
def opNoapply (o : GranaryOp) : Bool := ((o.words[4]?).getD 0).getLsbD 32
def opIn (o : GranaryOp) : Word := (o.words[1]?).getD 0
def opCand (o : GranaryOp) : Word := (o.words[2]?).getD 0
def opOut (o : GranaryOp) : Word := (o.words[3]?).getD 0
/-- The address of value row `r`, and of its accumulator (07 R220). -/
def rowVa (o : GranaryOp) (r : Nat) : Word := tw o 8 + wd (r * tRow o)
def accVa (o : GranaryOp) (r : Nat) : Word := tw o 9 + wd (4 * r)
/-- Whether the record fails its check (07 R221, R233). -/
def recordBad (o : GranaryOp) : Bool :=
  let w0 := tw o 0
  let w1 := tw o 1
  let key := fun a : Word => !recTag a || a.toNat % 64 ≠ 0
  fld w0 63 34 ≠ 0 || 1 < tKslot o || fld w0 15 8 ≠ 0 || fld w0 7 0 ≠ 1 || fld w1 63 61 ≠ 0 || 1 < tOpt o || tVfmt o = 3 ||
    w1.getLsbD 55 || w1.getLsbD 47 || fld w1 39 35 ≠ 0 || 1 < tKfmt o || fld w1 31 29 ≠ 0 || fld w1 15 11 ≠ 0 ||
    fld (tw o 2) 31 13 ≠ 0 || tRow o = 0 || tRow o % 64 ≠ 0 || 4096 < tRow o ||
    (List.range 22).any (fun i => tw o (10 + i) ≠ 0) ||
    tD o = 0 || tD o % 2 = 1 || 1024 < tD o || tN o = 0 || 4096 < tN o || tK1 o = 0 || tN o < tK1 o || 64 < tK1 o ||
    tK o = 0 || 64 < tK o || tK1 o * tK1 o < tK o || !posNormal (tTemp o) || nonFinite (tLr o) ||
    (if tOpt o = 0 then tw o 9 ≠ 0 else !posNormal (tEps o) || tagOf (tw o 9) ≠ 0 || (tw o 9).toNat % 4 ≠ 0) ||
    key (tw o 4) || key (tw o 5) || (if tKfmt o = 0 then tw o 6 ≠ 0 || tw o 7 ≠ 0 else key (tw o 6) || key (tw o 7)) ||
    tagOf (tw o 8) ≠ 0 || (tw o 8).toNat % 64 ≠ 0 || (o.kind = 2 && 4096 < opB o * tK o)
/-- The physical key slot of an operation (07 R222, 17 R454). -/
def physSlot (s : State) (o : GranaryOp) : Nat :=
  (match jobOn s o.at_.pkg o.id.job with
    | some j => 2 * fld ((j.words[7]?).getD 0) 25 24
    | none => 0) + tKslot o
/-- The tag that a slot must carry for an operation (07 R222, R223). -/
def keyTag (o : GranaryOp) : Nat × Word × Nat × Nat × Nat × Nat := (o.id.job, o.recA, tGen o, tD o, tN o, tKfmt o)
/-- Replace a key slot. -/
def setKeySlot (k : KeySlot) (s : State) : State :=
  { s with keySlots := s.keySlots.filter (fun x => !(x.at_ = k.at_ && x.slot = k.slot)) ++ [k] }
/-- The key slot of an operation. -/
def keySlot (s : State) (o : GranaryOp) : Option KeySlot :=
  s.keySlots.find? (fun k => k.at_ = unitOf 3 o.at_ && k.slot = physSlot s o)

/-- Whether the request for a byte of an operation failed: an uncorrectable error, or a request that reached the fabric timeout,
which covers the 256-byte unit of its address (07 R237, 19 R511). -/
def granFailed (s : State) (o : GranaryOp) (a : Word) (l : Nat) : Bool :=
  poisoned s l || (match o.err with
    | some e => e.toNat / 256 = a.toNat / 256
    | none => false)
/-- The hits of `n` bytes of an operation as its mapping and permissions allow, or the lowest address that they turn away. -/
def granSpan (s : State) (o : GranaryOp) (need : BitVec 4) (n : Nat) (a : Word) : Except Word (List Hit) :=
  match spanHits (mapByte s o.at_ o.id.job noWin) need 0 n a with
  | .error t => .error t.addr
  | .ok hs => .ok hs
/-- The lowest address of bytes from `a` on whose request failed. -/
def fetchLow (s : State) (o : GranaryOp) (a : Word) (hs : List Hit) : Option Word :=
  (((List.range hs.length).zip hs).find? (fun p => granFailed s o (a + wd p.1) p.2.loc)).map (fun p => a + wd p.1)
/-- The hits of `n` bytes of an operation, or the lowest failing address. -/
def granHits (s : State) (o : GranaryOp) (need : BitVec 4) (n : Nat) (a : Word) : Except Word (List Hit) :=
  match granSpan s o need n a with
  | .error x => .error ((match granSpan s o need (x - a).toNat a with
    | .ok hs => fetchLow s o a hs
    | .error _ => none).getD x)
  | .ok hs => match fetchLow s o a hs with
    | some x => .error x
    | none => .ok hs
/-- The lower of two failing addresses. -/
def lower (a b : Option Word) : Option Word :=
  match b with
  | some x => lowAddr a x
  | none => a
/-- The lowest failing address of several accesses, each judged by `f`. -/
def lowOf (f : Nat → Word → Except Word (List Hit)) (as : List (Word × Nat)) : Option Word :=
  as.foldl (fun m p => match f p.2 p.1 with
    | .error a => lowAddr m a
    | .ok _ => m) none
/-- The lowest failing address of several accesses. -/
def granLow (s : State) (o : GranaryOp) (need : BitVec 4) (as : List (Word × Nat)) : Option Word := lowOf (granHits s o need) as
/-- Read `n` bytes through the lookup path as the issuer (07 R229, 04 R149). -/
def granRead (o : GranaryOp) (n : Nat) (a : Word) (s : State) : Array Byte × State :=
  match granHits s o permR n a with
  | .error _ => (#[], s)
  | .ok hs =>
    let s := reach o.at_.pkg (hs.map (·.loc)) (combineLines (fun r => hs.any (fun h => lineCovers r h.loc)) s)
    let (bs, s) := pathRead (unitOf 3 o.at_) 3 o.view (hs.map (fun h => (h.loc, h.key))) s
    (bs.toArray, s)
/-- Bytes at locations take positions, one for each group of up to four, and the lookup path has seen them (07 R228, R232). -/
def granPut (o : GranaryOp) : Nat → List (Nat × Byte × Key) → State → Cells Nat × State
  | 0, _, s => ([], s)
  | f + 1, bs, s =>
    if bs.isEmpty then ([], s)
    else
      let e := bs.take 4
      let s := reach o.at_.pkg (e.map (·.1)) (homeWrite (e.map (fun b => (b.1, b.2.1))) ((e.head?).bind (·.2.2)) s)
      let p := s.wseq
      let s := e.foldl (fun s b => setFetched (unitOf 3 o.at_) 3 b.1 p s) s
      let (v, s) := granPut o f (bs.drop 4) s
      (e.foldl (fun v b => cset 0 v b.1 p) v, s)
/-- Write bytes at an address as the issuer: the positions join the operation's. -/
def granWrite (a : Word) (bs : List Byte) (os : GranaryOp × State) : GranaryOp × State :=
  match granHits os.2 os.1 permW bs.length a with
  | .error _ => os
  | .ok hs =>
    let (v, s) := granPut os.1 bs.length ((hs.zip bs).map (fun p => (p.1.loc, p.2, p.1.key))) os.2
    ({ os.1 with wr := vjoin os.1.wr v }, s)

/-- Whether a cancel has reached an operation's gang, which may have ended already (07 R239). -/
def granCancelled (s : State) (o : GranaryOp) : Bool :=
  match gangOf s o.uid with
  | some g => g.cancelled
  | none => false
/-- Whether an operation is a `pkq` that a Save of its context stops: it gives way at a query boundary (07 R238). -/
def granSaved (s : State) (o : GranaryOp) : Bool :=
  o.kind = 1 && !granCancelled s o && s.images.any (fun i => i.state = 0 && i.pkg = o.at_.pkg && i.job = o.id.job)
/-- The first operation in a die's queue (07 R228) that no Save has stopped. -/
def granHead (s : State) (c : Coords) : Option GranaryOp :=
  s.granary.find? (fun o => unitOf 3 o.at_ = unitOf 3 c && !granSaved s o)
/-- Replace an operation. -/
def setGran (o : GranaryOp) (s : State) : State := { s with granary := upd (fun x => x.id = o.id) (fun _ => o) s.granary }

/-- One rounding of an exact value to FP32 (07, "The forward lookup"). -/
def rn (x : FVal × Fl) : W32 × Fl :=
  let r := roundTo fFP32 .rne 0 false false x.1
  (w32 r.1, x.2 ||| r.2)
/-- The value of an FP32 code. -/
def val32 (x : W32) : FVal := decodeF fFP32 x.toNat
/-- A sum of values after exact products, with the products' flags. -/
def sumOf (ps : List (FVal × Fl)) : FVal × Fl :=
  let r := sumVal .rne (ps.map (·.1))
  (r.1, ps.foldl (fun f p => f ||| p.2) r.2)
/-- a · b + c with one rounding. -/
def fma32 (a b c : FVal) : W32 × Fl := rn (sumOf [mulVal a b, (c, 0)])
/-- The exact quotient with the special cases of IEEE 754. -/
def quot (x y : FVal) : FVal × Fl :=
  match x, y with
  | .nan a, .nan b => (.nan false, if a || b then fIV else 0)
  | .nan a, _ => (.nan false, if a then fIV else 0)
  | _, .nan b => (.nan false, if b then fIV else 0)
  | .inf _, .inf _ => (.nan false, fIV)
  | .inf a, .fin b _ _ => (.inf (a != b), 0)
  | .fin a _ _, .inf b => (.fin (a != b) 0 1, 0)
  | .fin a n d, .fin b m e =>
    if m = 0 then (if n = 0 then (.nan false, fIV) else (.inf (a != b), fDZ)) else (.fin (a != b) (n * e) (d * m), 0)
/-- A quotient of a value that carries flags. -/
def quotF (x : FVal × Fl) (y : FVal) : FVal × Fl := let q := quot x.1 y; (q.1, x.2 ||| q.2)
/-- e^(±n/d) between two rationals. -/
def expEnc (neg : Bool) (n d p : Nat) : (Nat × Nat) × (Nat × Nat) :=
  let q := p + 64
  let t := n * 2 ^ q / d
  let l := ln2Fix q
  let i : Int := if neg then -((t / l + 1 : Nat) : Int) else (t / l : Nat)
  let v := expFix q (if neg then (t / l + 1) * l - t else t % l)
  (scale2 (v - 2 ^ 48) (2 ^ q) i, scale2 (v + 2 ^ 48) (2 ^ q) i)
/-- exp of an FP32 code, rounded once (07 R230). -/
def expF (x : W32) : W32 × Fl :=
  match val32 x with
  | .nan sig => (0x7FC00000, if sig then fIV else 0)
  | .inf neg => (if neg then 0 else 0x7F800000, 0)
  | .fin neg n d =>
    if n = 0 then (0x3F800000, 0)
    else if 300 * d < n then result32 false .rne 0 (.fin false (if neg then 1 else 2 ^ 300) (if neg then 2 ^ 300 else 1))
    else roundEnclosed .rne false 0 false (expEnc neg n d) precisions

/-- Whether (index, value) `a` ranks before `b` (07 R231). -/
def ranksBefore (a b : Nat × W32) : Bool :=
  let x := val32 a.2
  let y := val32 b.2
  let lt (x y : FVal) : Bool := if x.isNan then !y.isNan else !y.isNan && ltVal x y
  lt y x || (!lt x y && a.1 < b.1)
/-- Insert by rank. -/
def rankInsert (a : Nat × W32) : List (Nat × W32) → List (Nat × W32)
  | [] => [a]
  | b :: r => if ranksBefore a b then a :: b :: r else b :: rankInsert a r
/-- The best `k` of a list in rank order (07 R230, R231). -/
def bestK (k : Nat) (l : List (Nat × W32)) : List (Nat × W32) := l.foldl (fun m a => (rankInsert a m).take k) []

/-- Byte `i` of an array as a number, and little-endian elements of 1, 2 or 4 bytes. -/
def byteAt (bs : Array Byte) (i : Nat) : Nat := (bs[i]?.getD 0).toNat
def elemAt (z : Nat) (bs : Array Byte) (i : Nat) : Nat :=
  (List.range z).foldl (fun a b => a + byteAt bs (z * i + b) * 2 ^ (8 * b)) 0
/-- An element of a value row, and of an output row (07 R219). -/
def rowVal (o : GranaryOp) (bs : Array Byte) (i : Nat) : FVal :=
  let c := elemAt (tVs o) bs i
  if tVfmt o = 0 then decodeF fBF16 c else if tVfmt o = 1 then decodeF fE4M3 c else decodeF fFP32 c
/-- Round to the value format, saturating (07 R233). -/
def roundRow (o : GranaryOp) (x : FVal × Fl) : Nat × Fl :=
  let r := roundTo (if tVfmt o = 0 then fBF16 else if tVfmt o = 1 then fE4M3 else fFP32) .rne 0 true true x.1
  (r.1, x.2 ||| r.2)
/-- Round to the output format, saturating (07 R230). -/
def roundOut (o : GranaryOp) (x : FVal) : Nat × Fl := roundTo (if tBf o then fBF16 else fFP32) .rne 0 true true x
/-- The scale of block `c` of half-key `i`, as a power of two; none for the NaN code (05 R167). -/
def keyScale (o : GranaryOp) (k : KeySlot) (t i c : Nat) : Option Int :=
  if tKfmt o = 0 then some 0
  else
    let x := byteAt k.scales ((t * tN o + i) * tNb o + c)
    if x = 255 then none else some ((x : Int) - 127)
/-- Element `m` of half-key `i` of half `t` (07 R220). -/
def keyVal (o : GranaryOp) (k : KeySlot) (t i m : Nat) : FVal :=
  let b := (t * tN o + i) * tKp o + m * tEs o
  if tKfmt o = 0 then decodeF fBF16 (byteAt k.keys b + byteAt k.keys (b + 1) * 256)
  else match keyScale o k t i (m / 32) with
    | none => .nan false
    | some _ => decodeF fE4M3 (byteAt k.keys b)
/-- The score of half-key `i` of half `t` (07 R230). -/
def keyScore (o : GranaryOp) (k : KeySlot) (q : Array Byte) (t i : Nat) : W32 × Fl :=
  (List.range (tNb o)).foldl (fun a c =>
    let lo := 32 * c
    let ps := (List.range (min 32 (tHalf o - lo))).map (fun m =>
      mulVal (decodeF fBF16 (elemAt 2 q (t * tHalf o + lo + m))) (keyVal o k t i (lo + m)))
    let x := sumOf ps
    let y := rn (scaleVal x.1 ((keyScale o k t i c).getD 0), x.2)
    let r := rn (sumOf [(val32 a.1, 0), (val32 y.1, 0)])
    (r.1, a.2 ||| y.2 ||| r.2)) (0, 0)
/-- The candidates of a query in rank order, slot and sum (07 R230). -/
def candidates (o : GranaryOp) (k : KeySlot) (q : Array Byte) : List (Nat × W32) × Fl :=
  let half := fun t => (List.range (tN o)).map (fun i => (i, keyScore o k q t i))
  let top := fun t => bestK (tK1 o) ((half t).map (fun p => (p.1, p.2.1)))
  let fl : Fl := (half 0 ++ half 1).foldl (fun f p => f ||| p.2.2) 0
  let pairs := (top 0).flatMap (fun a => (top 1).map (fun b => (a.1 * tN o + b.1, rn (sumOf [(val32 a.2, 0), (val32 b.2, 0)]))))
  (bestK (tK o) (pairs.map (fun p => (p.1, p.2.1))), pairs.foldl (fun f p => f ||| p.2.2) fl)
/-- The softmax weights of a query's candidates (07 R230). -/
def softmax (o : GranaryOp) (cs : List (Nat × W32)) : List W32 × Fl :=
  let m := ((cs.head?).map (·.2)).getD 0
  let es := cs.map (fun c =>
    let z := rn (quotF (sumOf [(val32 c.2, 0), (negVal (val32 m), 0)]) (val32 (tTemp o)))
    let e := expF z.1
    (e.1, z.2 ||| e.2))
  let total := (es.drop 1).foldl (fun a e =>
    let r := rn (sumOf [(val32 a.1, 0), (val32 e.1, 0)])
    (r.1, a.2 ||| r.2)) ((es.head?).getD (0, 0))
  let ws := es.map (fun e => rn (quot (val32 e.1) (val32 total.1)))
  (ws.map (·.1), (es ++ ws).foldl (fun f p => f ||| p.2) total.2)
/-- The output row of a query (07 R230): its codes and flags. -/
def gather (o : GranaryOp) (ws : List W32) (rows : List (Array Byte)) : List Nat × Fl :=
  let els := (List.range (tElems o)).map (fun el =>
    let y := (ws.zip rows).foldl (fun y p =>
      let r := fma32 (val32 p.1) (rowVal o p.2 el) (val32 y.1)
      (r.1, y.2 ||| r.2)) ((0 : W32), (0 : Fl))
    let r := roundOut o (val32 y.1)
    (r.1, y.2 ||| r.2))
  (els.map (·.1), els.foldl (fun f p => f ||| p.2) 0)
/-- Read a list of rows in order. -/
def readRows (o : GranaryOp) : List Nat → State → List (Array Byte) × State
  | [], s => ([], s)
  | r :: rs, s =>
    let (a, s) := granRead o (tRow o) (rowVa o r) s
    let (as, s) := readRows o rs s
    (a :: as, s)
/-- Little-endian bytes of several 32-bit words. -/
def words32 (l : List Nat) : List Byte := l.flatMap (leBytes 4)
/-- Query `b` of a `pkq`: its effect, or the lowest failing address and nothing (07 R230, R232, R237 cause 0x04). -/
def runQuery (o : GranaryOp) (k : KeySlot) (b : Nat) (s : State) : GranaryOp × State :=
  let inA := opIn o + wd (b * tQp o)
  let candA := opCand o + wd (16 * (tK o * b))
  let outA := opOut o + wd (b * tOp o)
  let lw := granLow s o permW [(candA, 16 * tK o), (outA, tElems o * tOsz o)]
  match granLow s o permR [(inA, 2 * tD o)] with
  | some a => ({ o with fault := (lowAddr lw a).map (fun x => (4, x)) }, s)
  | none =>
    let (q, s) := granRead o (2 * tD o) inA s
    let (cs, f1) := candidates o k q
    let lr := granLow s o permR (cs.map (fun c => (rowVa o c.1, tRow o)))
    match lower lw lr with
    | some a => ({ o with fault := some (4, a) }, s)
    | none =>
      let (ws, f2) := softmax o cs
      let (rows, s) := readRows o (cs.map (·.1)) s
      let (out, f3) := gather o ws rows
      let rec_ := (cs.zip ws).flatMap (fun p => words32 [p.1.1, p.2.toNat, p.1.2.toNat, 0])
      let o := { o with flags := o.flags ||| f1 ||| f2 ||| f3, nextQ := b + 1 }
      granWrite outA (out.flatMap (leBytes (tOsz o))) (granWrite candA rec_ (o, s))

/-- The distinct values of a list, each at its first place. -/
def distinct : List Nat → List Nat
  | [] => []
  | x :: r => x :: (distinct r).filter (fun y => y ≠ x)
/-- Phase 1 of a `pkb` (07 R233, R237 causes 0x04 and 0x05): every check and read, then the candidate gradients. It checks the
accumulators and does not read them. The address of a fault for a candidate whose slot index is n² or more is where its row would stand:
the manual gives none (DESIGN CHOICE, log 40). -/
def phase1 (o : GranaryOp) (s : State) : GranaryOp × State :=
  let nb := opB o
  let k := tK o
  let dyLen := tElems o * tOsz o
  let ins := (List.range nb).map (fun b => (opIn o + wd (b * tOp o), dyLen))
  let lr := granLow s o permR (ins ++ [(opCand o, 16 * (k * nb))])
  let lw := granLow s o permW [(opOut o, 8 * (k * nb))]
  match lower lr lw with
  | some a => ({ o with fault := some (4, a) }, s)
  | none =>
    let (cb, s) := granRead o (16 * (k * nb)) (opCand o) s
    let cands := (List.range (k * nb)).map (fun i => (elemAt 4 cb (4 * i), w32 (elemAt 4 cb (4 * i + 1))))
    let slots := distinct (cands.map (·.1))
    let outside := (slots.filter (fun r => tN o * tN o ≤ r)).foldl (fun m r => lowAddr m (rowVa o r)) none
    let ok := slots.filter (fun r => r < tN o * tN o)
    let both := if opNoapply o then permR else permR ||| permW
    let rows := granLow s o both (ok.map (fun r => (rowVa o r, tRow o)))
    let accs := if opNoapply o || tOpt o = 0 then none else lowOf (granSpan s o both) (ok.map (fun r => (accVa o r, 4)))
    match lower (lower outside rows) accs with
    | some a => ({ o with fault := some (5, a) }, s)
    | none =>
      let (dys, s) := ins.foldl (fun (acc : List (List W32) × State) p =>
        let (bs, s) := granRead o p.2 p.1 acc.2
        (acc.1 ++ [(List.range (tElems o)).map (fun el =>
          let c := elemAt (tOsz o) bs el
          w32 (if tBf o then c * 65536 else c))], s)) ([], s)
      (List.range nb).foldl (fun os b =>
        let (o, s) := os
        let dy := (dys[b]?).getD []
        let cs := (cands.drop (k * b)).take k
        let (rows, s) := readRows o (cs.map (·.1)) s
        let dws := rows.map (fun v =>
          (List.range (ceilDiv (tElems o) 32)).foldl (fun a c =>
            let ps := ((dy.drop (32 * c)).take 32).zip (List.range 32)
            let x := rn (sumOf (ps.map (fun p => mulVal (val32 p.1) (rowVal o v (32 * c + p.2)))))
            let r := rn (sumOf [(val32 a.1, 0), (val32 x.1, 0)])
            (r.1, a.2 ||| x.2 ||| r.2)) ((0 : W32), (0 : Fl)))
        let t := (cs.zip dws).foldl (fun t p =>
          let r := fma32 (val32 p.1.2) (val32 p.2.1) (val32 t.1)
          (r.1, t.2 ||| r.2)) ((0 : W32), (0 : Fl))
        let dss := (cs.zip dws).map (fun p =>
          let df := sumOf [(val32 p.2.1, 0), (negVal (val32 t.1), 0)]
          let pr := mulVal (val32 p.1.2) df.1
          rn (quotF (pr.1, pr.2 ||| df.2) (val32 (tTemp o))))
        let fl := (dws ++ dss).foldl (fun f p => f ||| p.2) t.2
        granWrite (opOut o + wd (8 * (k * b))) ((dws.zip dss).flatMap (fun p => words32 [p.1.1.toNat, p.2.1.toNat]))
          ({ o with flags := o.flags ||| fl }, s))
        ({ o with cands := cands, dys := dys, rows := if opNoapply o then [] else slots }, s)
/-- The gradient of row `r` (07 R233 phase 2): terms in ascending query, then rank. -/
def rowGrad (o : GranaryOp) (r : Nat) : List (W32 × Fl) :=
  (List.range (tElems o)).map (fun el =>
    (o.cands.zip (List.range o.cands.length)).foldl (fun g p =>
      if p.1.1 = r then
        let x := fma32 (val32 p.1.2) (val32 ((((o.dys[p.2 / tK o]?).getD [])[el]?).getD 0)) (val32 g.1)
        (x.1, g.2 ||| x.2)
      else g) ((0 : W32), (0 : Fl)))
/-- The updated row and accumulator (07 R233 phase 2): element codes, the accumulator where there is one, the flags. -/
def newRow (o : GranaryOp) (g : List (W32 × Fl)) (v : Array Byte) (acc : W32) : List Nat × W32 × Fl :=
  let lr := val32 (tLr o)
  let fg : Fl := g.foldl (fun f p => f ||| p.2) 0
  let step := fun (q : FVal × Fl) (p : (W32 × Fl) × Nat) =>
    roundRow o (sumOf [(rowVal o v p.2, 0), (negVal q.1, q.2)])
  if tOpt o = 0 then
    let es := (g.zip (List.range g.length)).map (fun p => step (mulVal lr (val32 p.1.1)) p)
    (es.map (·.1), acc, es.foldl (fun f p => f ||| p.2) fg)
  else
    let sq := g.map (fun p => rn (mulVal (val32 p.1) (val32 p.1)))
    let sm := pairwiseSum fFP32 (sq.map (fun p => p.1.toNat))
    let ms := rn (quot (decodeF fFP32 sm.1) (.fin false (tElems o) 1))
    let a := rn (sumOf [(val32 acc, 0), (val32 ms.1, 0)])
    let rt := ffunLane .rne false 0 .sqrt a.1
    let den := rn (sumOf [(val32 rt.1, 0), (val32 (tEps o), 0)])
    let es := (g.zip (List.range g.length)).map (fun p => step (quotF (mulVal lr (val32 p.1.1)) (val32 den.1)) p)
    (es.map (·.1), a.1, es.foldl (fun f p => f ||| p.2) (sq.foldl (fun f p => f ||| p.2) (fg ||| sm.2 ||| ms.2 ||| a.2 ||| rt.2 ||| den.2)))
/-- Cut a row into 64-byte segments, the accumulator with the last one (07 R235). -/
def segments : Nat → List (Nat × Byte × Key) → List (Nat × Byte × Key) → List SegWrite
  | 0, _, _ => []
  | f + 1, bs, acc => if bs.length ≤ 64 then [⟨bs, acc⟩] else ⟨bs.take 64, []⟩ :: segments f (bs.drop 64) acc
/-- Begin the update of row `r` (07 R233, R235, R236): its old contents are those at its home, where two granaries take turns.
A failure leaves the row as it is (R237 cause 0x06). -/
def beginRow (o : GranaryOp) (r : Nat) (s : State) : GranaryOp × State :=
  let o := { o with rows := o.rows.filter (fun x => x ≠ r) }
  let ada := tOpt o ≠ 0
  match granHits s o (permR ||| permW) (tRow o) (rowVa o r), granHits s o (permR ||| permW) (if ada then 4 else 0) (accVa o r) with
  | .ok hs, .ok as =>
    let s := reach o.at_.pkg ((hs ++ as).map (·.loc)) (combineLines (fun l => (hs ++ as).any (fun h => lineCovers l h.loc)) s)
    let v := (hs.map (fun h => homeByte s h.loc h.key)).toArray
    let acc := w32 (leNat (as.map (fun h => homeByte s h.loc h.key)))
    let (es, a, fl) := newRow o (rowGrad o r) v acc
    let bs := es.flatMap (leBytes (tVs o))
    let row := (hs.zip bs).map (fun p => (p.1.loc, p.2, p.1.key))
    let ac := (as.zip (leBytes 4 a.toNat)).map (fun p => (p.1.loc, p.2, p.1.key))
    ({ o with cur := (hs.head?).map (·.loc), segs := segments 65 row ac, flags := o.flags ||| fl }, s)
  | hr, ha =>
    let low (h : Except Word (List Hit)) : Option Word := match h with
      | .error a => some a
      | .ok _ => none
    ({ o with fault := (lower (o.fault.map (·.2)) (lower (low hr) (low ha))).map (fun x => (6, x)) }, s)
/-- Write and publish the next segment at level 3 (04 R158, 07 R235). -/
def writeSeg (o : GranaryOp) (s : State) : GranaryOp × State :=
  match o.segs with
  | [] => (o, s)
  | g :: r =>
    let (v, s) := granPut o 64 (g.bytes ++ g.acc) s
    let s := onGangAny o.uid (fun h => { h with own := vjoin h.own v }) s
    ({ o with segs := r, cur := if r.isEmpty then none else o.cur },
      { s with pubs := addPub ⟨some (o.uid, o.at_), 3, v⟩ s.pubs })

/-- GRANARY_OP_START (07 R219, R221, R223, R228): as every event of a granary, it waits for a request that has no path (19 R507, R538). The oldest operation of a die's granary starts: it reads and checks its
record; a `pkld` invalidates its slot, a `pkb` runs phase 1. -/
def execGranaryOpStart (c : Coords) (s : State) : Out :=
  .next (uncut c.pkg (fun s => match granHead s c with
    | none => s
    | some o =>
      if o.started || granCancelled s o then s
      else
        let fresh := o.table.isEmpty
        let (o, s) := if !fresh then ({ o with started := true }, s)
          else match granLow s o permR [(o.recA, 256)] with
            | some _ => ({ o with started := true, fault := some (1, o.recA) }, s)
            | none =>
              let (bs, s) := granRead o 256 o.recA s
              let ws := (List.range 32).map (fun i => wd (elemAt 8 bs i))
              let o := { o with started := true, table := ws }
              (if recordBad o then { o with fault := some (1, o.recA) } else o, s)
        match o.fault, o.kind with
        | some _, _ => setGran o s
        | none, 0 => setGran o (setKeySlot ⟨unitOf 3 c, physSlot s o, none, #[], #[]⟩ s)
        | none, k =>
          if ((keySlot s o).bind (·.tag)) ≠ some (keyTag o) then setGran { o with fault := some (2, o.recA) } s
          else if k = 2 then let (o, s) := phase1 o s; setGran o s
          else setGran o s) s)
/-- GRANARY_QUERY_BOUNDARY (07 R230, R238): the running `pkq` finishes its next query. -/
def execGranaryQueryBoundary (c : Coords) (s : State) : Out :=
  .next (uncut c.pkg (fun s => match granHead s c with
    | none => s
    | some o =>
      if !o.started || o.kind ≠ 1 || o.fault.isSome || opB o ≤ o.nextQ || granCancelled s o then s
      else match keySlot s o with
        | none => s
        | some k => let (o, s) := runQuery o k o.nextQ s; setGran o s) s)
/-- Whether another granary is updating the row at a location (07 R236). -/
def rowBusy (s : State) (o : GranaryOp) (r : Nat) : Bool :=
  match mapByte s o.at_ o.id.job noWin (rowVa o r) with
  | .ok h => s.granary.any (fun x => x.id ≠ o.id && x.cur = some h.loc)
  | .error _ => false
/-- GRANARY_SEGMENT_WRITE (04 R158, 07 R233, R235, R236, R239): the next segment of the row that a `pkb` is updating; where no row
has begun, the update of one of the rows left begins. -/
def execGranarySegmentWrite (c : Coords) (s : State) : Out :=
  .next (uncut c.pkg (fun s => match granHead s c with
    | none => s
    | some o =>
      if !o.started || o.kind ≠ 2 then s
      else if !o.segs.isEmpty then let (o, s) := writeSeg o s; setGran o s
      else if granCancelled s o then s
      else
        let free := o.rows.filter (fun r => !rowBusy s o r)
        let (ch, t) := pick s
        match free[ch % free.length]? with
        | none => s
        | some r =>
          let (o, t) := beginRow o r t
          let (o, t) := writeSeg o t
          setGran o t) s)
/-- Load the half-key tables into a slot (07 R222): the lowest failing address, or the slot's bytes. -/
def loadKeys (o : GranaryOp) (s : State) : Except Word (Array Byte × Array Byte) × State :=
  let n := tN o * tKp o
  let m := if tKfmt o = 0 then 0 else tN o * tNb o
  match granLow s o permR [(tw o 4, n), (tw o 5, n), (tw o 6, m), (tw o 7, m)] with
  | some a => (.error a, s)
  | none =>
    let (k0, s) := granRead o n (tw o 4) s
    let (k1, s) := granRead o n (tw o 5) s
    let (c0, s) := granRead o m (tw o 6) s
    let (c1, s) := granRead o m (tw o 7) s
    (.ok (k0 ++ k1, c0 ++ c1), s)
/-- Whether the operation at the head of the queue has nothing more to do (07 R222, R230, R233, R239). -/
def granDone (s : State) (o : GranaryOp) : Bool :=
  if granCancelled s o then o.segs.isEmpty
  else o.started &&
    (match o.kind with
      | 0 => true
      | 1 => o.fault.isSome || opB o ≤ o.nextQ
      | _ => o.segs.isEmpty && o.rows.isEmpty || (o.fault.isSome && o.cands.isEmpty))
/-- GRANARY_OP_COMPLETE (07 R222, R229, R237, R239): a `pkld` loads its slot; the writes of the operation are published at level 3,
its flags and fault wait for a `tlwait`, and its number completes. -/
def execGranaryOpComplete (c : Coords) (s : State) : Out :=
  .next (uncut c.pkg (fun s => match granHead s c with
    | none => s
    | some o =>
      if !granDone s o then s
      else
        let (o, s) := if o.kind = 0 && o.started && o.fault.isNone && !granCancelled s o then
            match loadKeys o s with
            | (.error a, s) => ({ o with fault := some (3, a) }, s)
            | (.ok (k, sc), s) => (o, setKeySlot ⟨unitOf 3 c, physSlot s o, some (keyTag o), k, sc⟩ s)
          else (o, s)
        let (ch, s) := pick s
        let s := { s with
          granary := s.granary.filter (fun x => x.id ≠ o.id)
          pubs := if o.wr.isEmpty then s.pubs else addPub ⟨some (o.uid, o.at_), 3, o.wr⟩ s.pubs }
        let s := onGangAny o.uid (fun g => { g with
          own := vjoin g.own o.wr, view := if ch % 2 = 1 then vjoin g.view o.wr else g.view }) s
        let s := noteFlags o.id o.uid o.flags s
        let s := match o.fault with
          | some (k, a) => noteFault o.id cGranary a (wd (o.id.n % 2 ^ 32 * 2 ^ 32 + k)) s
          | none => s
        completeNum o.id s) s)

end Sys2Proof.Machine
end

