-- ==== Sys2Proof/Machine/Fabric.lean ====
section
/-! DEFINITION. The scale-up fabric (19 R499 to R514, R538): ports, bonded links, routes, pod membership and the fabric
timeout. -/

namespace Sys2Proof.Machine

/-- POD_BRING_UP (19 R504, R538): the driver names the members and the wiring; a wiring that leaves a member without a route is
refused. -/
def execPodBringUp (pod count : Nat) (links : List Link) (s : State) : Out :=
  .next (
    let t := { s with links := links }
    let rs := allRoutes t true count
    if count = 0 || 1024 < count || rs.length ≠ count * (count - 1) then s
    else
      let new := (List.range count).filter (fun p => !s.pkgs.any (fun x => x.pkg = p))
      { t with
        routes := rs
        pkgs := (s.pkgs ++ new.map (fun p => ({ pkg := p } : Package))).map (fun (p : Package) =>
          if p.pkg < count then { p with pod := pod, count := count, member := p.failed.isEmpty }
          else if p.pod = pod then { p with member := false }
          else p)
        ports := links.foldl (fun ps l =>
          let tr (p : Port) : Port := if p.state = 0 then { p with state := 1 } else p
          let put (pkg n : Nat) (ps : List Port) : List Port :=
            if ps.any (fun p => p.pkg = pkg && p.port = n) then upd (fun p => p.pkg = pkg && p.port = n) tr ps
            else ps ++ [{ pkg := pkg, port := n, state := 1 }]
          put l.pkgB l.portB (put l.pkgA l.portA ps)) s.ports })
/-- LINK_UP (19 R503, "Capability exchange"): the data link of a port that is down or trains has come up; it sends its capability word `w`. -/
def execLinkUp (pkg port : Nat) (w : Word) (s : State) : Out :=
  .next (if 2 ≤ (portOf s pkg port).state || w ≠ capWord s pkg port then s
    else refreshRoutes pkg (settleBond pkg (port / 4) (onPort pkg port (fun p => { p with
      state := 2, lanes := 0xF, comb := false, std := false, bond := false, pword := 0, since := s.cycle, crc := [], clean := none }) s)))
/-- Whether a port that is up has still to settle with its partner: the result holds until the link next goes down (19 R503). -/
def isOpen (p : Port) : Bool := p.state = 2 && p.pword = 0 && !p.std
/-- Whether the 10 µs in which a partner may send its word are over (19 R503). -/
def wordLate (s : State) (p : Port) : Bool := p.since + cyclesOf10us ≤ s.cycle
/-- CAPABILITY_WORD (19 R502 to R505, R538): within 10 µs of the link's start the partner's word settles combining and bonding, and the
routes are computed with it; a link to another pod leaves the routes. -/
def execCapabilityWord (pkg port : Nat) (w : Word) (s : State) : Out :=
  .next (if !isOpen (portOf s pkg port) || wordLate s (portOf s pkg port) then s
    else
      let s := settleBond pkg (port / 4) (onPort pkg port (fun p => { p with
        pword := w, comb := capOk w, std := !capOk w, bond := capOk w && capBond w }) s)
      if isForeign s pkg port then reroute pkg port s else refreshRoutes pkg s)
/-- CAPABILITY_TIMEOUT (19 R503): no word within 10 µs, a standard partner. -/
def execCapabilityTimeout (pkg port : Nat) (s : State) : Out :=
  .next (if !isOpen (portOf s pkg port) || !wordLate s (portOf s pkg port) then s
    else settleBond pkg (port / 4) (onPort pkg port (fun p => { p with std := true, comb := false, bond := false }) s))
/-- LINK_DOWN (19 R503, R538): the link leaves service, what was negotiated ends, and the routes over it are computed anew. -/
def execLinkDown (pkg port : Nat) (s : State) : Out :=
  .next (
    let off (p : Port) : Port := { p with
      state := 0, lanes := 0, comb := false, std := false, bond := false, pword := 0, crc := [], clean := none }
    let s := settleBond pkg (port / 4) (onPort pkg port off s)
    let s := match partner s pkg port with
      | some (q, n) => settleBond q (n / 4) (onPort q n off s)
      | none => s
    reroute pkg port s)
/-- A lane of a port is lost (19 R506, R507): a port in service becomes unhealthy; its bond falls back to fewer members and retrains, at
both ends. -/
def loseLane (pkg port lane : Nat) (s : State) : State :=
  if (portOf s pkg port).state < 2 then s
  else
    let used (q n : Nat) : Bool := (bondActive s q (n / 4)).contains n
    let t := settleEnds pkg port (onPort pkg port (fun p => { p with
      state := 3, lanes := p.lanes &&& ~~~(1#4 <<< lane), losses := (p.losses + 1) % 2 ^ 32, crc := [], clean := none }) s)
    let t := fallBack (used pkg port) pkg (port / 4) t
    let t := match partner s pkg port with
      | some (q, n) => fallBack (used q n) q (n / 4) t
      | none => t
    reroute pkg port t
/-- LANE_LOSS (19 R506): a lane loses lock. -/
def execLaneLoss (pkg port lane : Nat) (s : State) : Out := .next (loseLane pkg port lane s)
/-- RETRAIN_COMPLETE (19 R507, R508): both ends of a bond have retrained to the new width, and each sends its flits after the last
acknowledged one again, which changes no result; the unhealthy ports of the group have retrained too, and run clean from now on. -/
def execRetrainComplete (pkg g : Nat) (s : State) : Out :=
  let ends := (pkg, g) :: (bondMembers s pkg g).filterMap (fun n => (partner s pkg n).map (fun q => (q.1, q.2 / 4)))
  let one (t : State) (e : Nat × Nat) : State :=
    if (bondOf t e.1 e.2).retraining then onBond e.1 e.2 (fun b => { b with retraining := false }) (resend e.1 e.2 t) else t
  let t := ends.foldl one s
  .next { t with ports := upd (fun p => p.pkg = pkg && p.port / 4 = g && p.state = 3) (fun p => { p with clean := some s.cycle }) t.ports }
/-- PORT_REJOIN (19 R508): a port that has retrained and run clean for 1 s rejoins its bond at the wider width. -/
def execPortRejoin (pkg port : Nat) (s : State) : Out :=
  .next (match (portOf s pkg port).clean with
    | none => s
    | some c =>
      if (portOf s pkg port).state ≠ 3 || s.cycle < c + cyclesOfSec then s
      else refreshRoutes pkg (settleEnds pkg port (onPort pkg port (fun p => { p with state := 2, lanes := 0xF, clean := none }) s)))
/-- FLIT_CRC_FAILURE (19 R499, R506, R508): a flit that fails its check is sent again with those behind it, how many a pick says, and the port
runs clean from now on at the earliest; more than 4 such flits within 1 ms lose a lane of the port, which one a pick says (log 20). -/
def execFlitCrcFailure (pkg port : Nat) (s : State) : Out :=
  let (ch, t) := pick s
  let n := ch / 4 + 1
  let t := onPort pkg port (fun p => { p with
    crc := s.cycle :: p.crc.filter (fun c => s.cycle < c + cyclesOfMs), clean := p.clean.map (fun _ => s.cycle)
    flits := (p.flits + n) % 2 ^ 64, replays := (p.replays + n) % 2 ^ 64 }) t
  .next (if (portOf s pkg port).state < 2 then s
    else if 4 < (portOf t pkg port).crc.length then loseLane pkg port (ch % 4) t else t)

/-- Whether a request sent at cycle `t` has run out its 1 ms (19 R511). -/
def timedOut (s : State) (t : Nat) : Bool := t + Config.fabricTimeout ≤ s.cycle
/-- Whether an address of an operation lies on another package. -/
def farAddr (s : State) (c : Coords) (job : Nat) (a : Word) : Bool :=
  match mapByte s c job noWin a with
  | .ok h => locPkg h.loc ≠ c.pkg
  | .error _ => false
/-- An error reply for a load (19 R511, 18 R474, R495): the destination keeps its old value and the flag falls. -/
def failPend (p : Pend) (a : Word) (l : Nat) (g : Gang) : Gang := finishPend { p with ws := [], trap := [⟨cMemory, a, wd l, false, false⟩] } g
/-- The same for a load of gang `g`, whose destination may stand in a save image by then (18 R495). -/
def loadTimeout (g : Gang) (p : Pend) (a : Word) (l : Nat) (s : State) : State :=
  if (gangOf s g.uid).isSome then onGang g.uid (failPend p a l) s
  else onGangAny g.uid (steerPend { p with trap := [⟨cMemory, a, wd l, false, false⟩] }) s
/-- The gangs of the complete save images. -/
def savedNow (s : State) : List Gang := (s.images.filter (fun m => m.state = 1)).flatMap (·.gangs)

/-- Whether the job of a record spans packages (17 R454). -/
def spans (j : Job) : Bool := fld (rw j.words 0) 10 8 = 5
/-- Requests of other packages to a package that leaves its pod are answered with errors (19 R504, R511): stores, atomics and loads here,
with update-only lines lost (log 44), those of the engines as their next access finds no mapping. -/
def cutRequests (pkg : Nat) (s : State) : State :=
  let far (c : Coords) (l : Nat) : Bool := c.pkg ≠ pkg && locPkg l = pkg
  let loads := (gangs s ++ savedNow s).flatMap (fun g => g.pend.filterMap (fun p =>
    (p.far.find? (fun x => g.at_.pkg ≠ pkg && x.2.2 = pkg)).map (fun x => (g, p, x))))
  let t := loads.foldl (fun t x => loadTimeout x.1 x.2.1 x.2.2.1 x.2.2.2.1 t) s
  let t := { t with lines := t.lines.filter (fun r => !far r.core r.loc) }
  let t := (s.atoms.filter (fun r => (leavesOf s r).any (fun x => far x.at_ x.loc))).foldl (fun t r => atomTimeout r t) t
  s.stores.foldl (fun t r => storeTimeout (fun b => far r.at_ b.loc) r t) t
/-- A package leaves its pod (19 R504, 21 R529): every other member first cancels each resident job that spans packages, and what is on its
way to the package fails. -/
def leavePod (pkg : Nat) (s : State) : State :=
  let s := (s.jobs.filter (fun j => j.pkg ≠ pkg && j.resident && spans j && inPod s pkg j.pkg)).foldl
    (fun s j => cancelWhole j.pkg j.id none s) s
  onPkg pkg (fun p => { p with member := false }) (cutRequests pkg s)
/-- MEMBER_FAILURE (19 R504). -/
def execMemberFailure (pkg : Nat) (s : State) : Out := .next (leavePod pkg s)
/-- FABRIC_TIMEOUT (19 R511): a request to another package has had no reply for 1 ms: of a load the request of one of its lanes, as a pick says.
The destination of a load may stand in a save
image by then (18 R495). -/
def execFabricTimeout (t : TimedOut) (s : State) : Out :=
  .next (match t with
    | .req i =>
      match s.stores.find? (fun r => r.id = i) with
      | some r => if timedOut s r.sent then storeTimeout (fun b => locPkg b.loc ≠ r.at_.pkg) r s else s
      | none => match s.atoms.find? (fun r => r.id = i) with
        | some r => if timedOut s r.sent && (leavesOf s r).any (fun x => locPkg x.loc ≠ x.at_.pkg) then atomTimeout r s else s
        | none => s
    | .load c i =>
      let at_ := match gangAt s c with
        | some g => g :: savedNow s
        | none => savedNow s
      match at_.findSome? (fun g => if g.at_ = c then (g.pend.find? (fun p => p.id = i)).map (fun p => (g, p)) else none) with
      | some (g, p) =>
        let (ch, t) := pick s
        match p.far[ch % p.far.length]? with
        | some (a, l, _) => if timedOut s p.sent then loadTimeout g p a l t else s
        | none => s
      | none => s
    | .cart o who w a =>
      let far (c : CartOp) : Bool := match sideByte s c who a with
        | .ok h => locPkg h.loc ≠ c.at_.pkg
        | .error _ => false
      { s with carts := upd (fun c => c.id = o && timedOut s c.sent && far c) (fun c => { c with errs := (who, w, a) :: c.errs }) s.carts }
    | .kiln e st a =>
      match s.kiln.find? (fun k => k.id = e) with
      | some k => if (k.state = 1 || k.state = 3) && k.next = st && timedOut s k.asked && farAddr s k.at_ k.op.job a then suspend e a s else s
      | none => s
    | .granary c a =>
      match granHead s c with
      | some o => if timedOut s o.sent && farAddr s o.at_ o.id.job a then setGran { o with err := some a } s else s
      | none => s)

end Sys2Proof.Machine
end

