-- ==== Sys2Proof/Machine/Fleet.lean ====
section
/-! DEFINITION. A package as a whole (21 R518 to R534): firmware images and reset, functions and readiness, errors in a gang's
state, scrubbing, telemetry, power and heat, and the checkpoint engine. -/

namespace Sys2Proof.Machine

/-- Cancel every resident job of a package as `cancel.j` cancels it (21 R529, R531). -/
def cancelAll (pkg : Nat) (s : State) : State :=
  (s.jobs.filter (fun j => j.pkg = pkg && j.resident)).foldl (fun s j => cancelWhole pkg j.id none s) s

/-- The hash of an image's header and body (21 R518, R522). -/
def imageHash (i : Image) : BitVec 256 := Config.sha3 (leBytes 8 i.kind ++ leBytes 8 i.version ++ leBytes 8 i.rollback ++ i.body)
/-- Whether an image verifies (21 R518): its signature over its hash, its key's chain, its rollback number. -/
def imageOk (counter : Nat) (i : Image) : Bool :=
  Config.mldsaVerify i.key (imageHash i) i.sig &&
    Config.keyChains i.key Config.fusedRoot && counter ≤ i.rollback
/-- The images that the driver has written into the driver region of a package (21 R519). -/
def stagedImages (s : State) (pkg : Nat) : List Image :=
  let lo := hbmLoc pkg (Config.driverBase + 0x300000000)
  let hi := hbmLoc pkg (Config.driverBase + 0x3FFFFD000)
  (Config.firmwareIn ((s.mem.filter (fun c => lo ≤ c.1 && c.1 < hi)).map (fun c => (c.1 - lo, c.2)))).map
    (fun x => ⟨x.1, x.2.1, x.2.2.1, x.2.2.2.1, x.2.2.2.2.1, x.2.2.2.2.2⟩)
/-- The image of a kind that loads at a reset (21 R518, R519): the new one where it verifies, else the previous one where it does. -/
def bootImage (s : State) (p : Package) (kind : Nat) : Option Image :=
  let tries := ((stagedImages s p.pkg).find? (fun i => i.kind = kind)).toList ++ (p.images.find? (fun i => i.kind = kind)).toList
  tries.find? (imageOk p.rollback)
/-- Everything of a package that a reset ends: gangs, requests, engines, jobs, sessions, queues, keys and links. -/
def wipePackage (pkg : Nat) (s : State) : State :=
  let away (c : Coords) : Bool := c.pkg ≠ pkg
  let gone := ((gangs s).filter (fun g => g.at_.pkg = pkg)).map (·.uid)
  { s with
    g := if s.g.at_.pkg = pkg then {} else s.g
    others := s.others.filter (fun g => away g.at_)
    stores := s.stores.filter (fun r => away r.at_)
    atoms := s.atoms.filter (fun r => away r.at_)
    merges := s.merges.filter (fun m => away m.a.at_ && away m.b.at_)
    lines := s.lines.filter (fun l => away l.core)
    faults := s.faults.filter (fun f => away f.core)
    fetched := s.fetched.filter (fun f => away f.1)
    rgetQ := s.rgetQ.filter (fun t => away t.at_)
    poolQ := s.poolQ.filter (fun t => away t.at_)
    units := s.units.filter (fun u => away u.at_)
    qwaits := s.qwaits.filter (fun w => away w.at_)
    launches := s.launches.map (fun l => { l with
      record := l.record && (match l.issuer with
        | some (_, c) => away c
        | none => true)
      children := l.children.map (fun c => match c with
        | .running u => if gone.contains u then .failed cCancelled (l.level - 1) else .running u
        | .waiting => .waiting
        | .done => .done
        | .failed a b => .failed a b) })
    scratch := s.scratch.filter (fun w => away w.core)
    timelines := s.timelines.filter (fun t => engPkg t.eng ≠ pkg)
    carts := s.carts.filter (fun c => away c.at_)
    kiln := s.kiln.filter (fun k => away k.at_)
    mldws := s.mldws.filter (fun m => away m.at_)
    latches := s.latches.filter (fun l => away l.at_)
    acc := s.acc.filter (fun e => e.1 / 2 ^ 17 / 256 ≠ pkg)
    tiles := s.tiles.filter (fun e => e.1 / 16 / 256 ≠ pkg)
    tickets := s.tickets.filter (fun t => away t.core)
    granary := s.granary.filter (fun o => away o.at_)
    keySlots := s.keySlots.filter (fun k => away k.at_)
    xts := s.xts.filter (fun e => e.1 / 4096 ≠ pkg)
    jobs := s.jobs.filter (fun j => j.pkg ≠ pkg)
    queues := s.queues.filter (fun q => q.pkg ≠ pkg)
    sessions := s.sessions.filter (fun x => x.pkg ≠ pkg)
    images := s.images.filter (fun i => i.pkg ≠ pkg)
    ports := s.ports.filter (fun p => p.pkg ≠ pkg)
    bonds := s.bonds.filter (fun b => b.pkg ≠ pkg)
    code := s.code.filter (fun e => e.1 / 2 ^ 56 / 2 ^ 16 ≠ pkg) }
/-- PACKAGE_RESET (21 R518, R519): the package starts anew; each new firmware image takes effect where it verifies, and the
previous one loads where it does not (log 22). -/
def execPackageReset (pkg : Nat) (s : State) : Out :=
  .next (match podOf s pkg with
    | none => s
    | some _ =>
      let t := wipePackage pkg (cancelAll pkg s)
      onPkg pkg (fun p => { p with
        ready := [], failed := [], images := (List.range 4).filterMap (bootImage s p)
        sensors := ⟨0, 0, 0⟩, ue := 0, throttle := 0, gated := false, stopped := false, ckpt := [], run := none, resetAt := s.cycle, scrubs := 0 }) t)

/-- The kind of image that a function runs, if it has one (21 R518, R528). -/
def imageKind : Func → Option Nat
  | .security => some 0
  | .die _ => some 2
  | .port _ => some 3
  | .stack _ | .granary _ | .morcy | .baseDie => none
/-- Whether a number names a function of the package (21 R530). -/
def funcOk : Func → Bool
  | .die n => n < 4
  | .stack n => n < 12
  | .port n => n < 16
  | .granary n => n < 4
  | .security | .morcy | .baseDie => true
/-- The bit of a function in the readiness word (21 R530). -/
def funcBit : Func → Nat
  | .die n => n
  | .stack n => 4 + n
  | .port n => 16 + n
  | .granary n => 32 + n
  | .security => 36
  | .morcy => 37
  | .baseDie => 38
/-- A set of functions as the readiness word shows it. -/
def funcWord (l : List Func) : Word := l.foldl (fun w f => w ||| (1#64 <<< funcBit f)) 0
/-- Whether a function of a package has reported ready. -/
def isReady (s : State) (pkg : Nat) (f : Func) : Bool := ((podOf s pkg).map (fun p => p.ready.contains f)).getD false
/-- FUNCTION_READY (21 R518, R519, R528): its self-test has passed, and the image that it runs has loaded; once the security engine is
ready, the fused counter advances to the rollback numbers of the images that have loaded. -/
def execFunctionReady (pkg : Nat) (f : Func) (s : State) : Out :=
  .next (match podOf s pkg with
    | none => s
    | some p =>
      let bad := match imageKind f with
        | some k => !p.images.any (fun i => i.kind = k)
        | none => false
      if !funcOk f || p.failed.contains f || p.ready.contains f || bad then s
      else onPkg pkg (fun p => { p with
        ready := p.ready ++ [f]
        rollback := if f = .security then p.images.foldl (fun m i => max m i.rollback) p.rollback else p.rollback }) s)
/-- FUNCTION_FAILURE (21 R529): the function is marked failed, the package leaves its pod, and its resident jobs are cancelled. -/
def execFunctionFailure (pkg : Nat) (f : Func) (s : State) : Out :=
  .next (if !funcOk f then s
    else cancelAll pkg (leavePod pkg (onPkg pkg (fun p => { p with
      ready := p.ready.filter (fun x => x ≠ f), failed := if p.failed.contains f then p.failed else p.failed ++ [f] }) s)))
/-- UNCORRECTABLE_STATE_ERROR (21 R526): an error in a gang's registers, accumulators or path state escalates at once. -/
def execUncorrectableStateError (c : Coords) (s : State) : Out :=
  .next (match gangAt s c with
    | none => s
    | some g => if g.phase ≠ .running then s
      else
        let t := focus c (dropWaits g.uid s)
        escalate ⟨cMemory, 0, 0⟩ (bodyPc t t.g) (noteError c.pkg t))
/-- SCRUB_PASS (21 R527): corrected words are rewritten in place; no value and no modification order changes. -/
def execScrubPass (pkg : Nat) (s : State) : Out := .next (onPkg pkg (fun p => { p with scrubs := p.scrubs + 1 }) s)
/-- TELEMETRY_UPDATE (21 R530): the sensors' figures of this millisecond. -/
def execTelemetryUpdate (pkg : Nat) (v : Sensors) (s : State) : Out := .next (onPkg pkg (fun p => { p with sensors := v }) s)
/-- POWER_LIMIT (21 R531): above 3,200 W or 105 °C the limiter gates kiln starts and vector issue, until both fall back. -/
def execPowerLimit (pkg : Nat) (v : Sensors) (s : State) : Out :=
  .next (onPkg pkg (fun p => { p with
    sensors := v
    gated := 3200000 < v.power || 1050 < v.tmax || (p.gated && !(v.power < 3200000 && v.tmax < 1050)) }) s)
/-- The uncorrectable errors of a package since reset (21 R530): those of gang state and latches, and the protected units of memory (R525) that
hold one. -/
def ueCount (s : State) (p : Package) : Nat :=
  p.ue + (((s.poison.filter (fun l => locPkg l = p.pkg)).map (fun l => l / (if locKind l = 0 then 32 else 8))).eraseDups).length
/-- A word of the telemetry page (21 R530). -/
def telemetryWord (s : State) (pkg i : Nat) : Word :=
  match podOf s pkg with
  | none => 0
  | some p =>
    let js := s.jobs.filter (fun j => j.pkg = pkg && j.resident)
    match i with
    | 0 => funcWord p.ready
    | 1 => funcWord p.failed
    | 2 => wd p.sensors.ce
    | 3 => wd (ueCount s p)
    | 4 => wd (p.sensors.power % 2 ^ 32 * 2 ^ 32 + p.sensors.tmax % 2 ^ 16 * 2 ^ 16)
    | 5 => wd p.throttle
    | 6 => wd (((js[0]?).map (·.missed)).getD 0)
    | 7 => wd (((js[1]?).map (·.missed)).getD 0)
    | _ => 0
/-- A word of the link status page (19 R514). -/
def linkWord (s : State) (pkg i : Nat) : Word :=
  if i < 64 then
    let p := portOf s pkg (i / 4)
    let b (x : Bool) (n : Nat) : Nat := if x then 2 ^ n else 0
    match i % 4 with
    | 0 => wd (capPkg p.pword * 2 ^ 54 + capPort p.pword * 2 ^ 50 + p.state * 2 ^ 48 + p.lanes.toNat * 2 ^ 44 + b p.comb 43 +
        b p.std 42 + p.losses)
    | 1 => wd p.replays
    | 2 => wd p.flits
    | _ => 0
  else if i < 80 then
    let r := bondOf s pkg ((i - 64) / 4)
    match i % 4 with
    | 0 => wd (r.members.toNat * 2 ^ 60 + r.active.toNat * 2 ^ 56 + r.width * 2 ^ 51 + r.fallbacks)
    | 1 => wd r.acked
    | _ => 0
  else 0

/-- Bytes of HBM that one of `t` targets takes (21 R533). -/
def ckptShare (t : Nat) : Nat := Config.hbmBytes / t
/-- Whether a control record breaks R7 or R532. -/
def ckptBad (ws : List Word) : Bool :=
  let w0 := rw ws 0
  let t := fld w0 12 8
  fld w0 61 13 ≠ 0 || fld w0 7 2 ≠ 0 || 3 ≤ fld w0 1 0 || !([1, 2, 3, 4, 6, 8, 12, 16].contains t) ||
    (List.range 16).any (fun i => fld (rw ws (4 + i)) 53 40 ≠ 0) || (List.range t).any (fun i => fld (rw ws (4 + i)) 39 0 % 2 ^ 30 ≠ 0) ||
    (List.range 12).any (fun i => rw ws (20 + i) ≠ 0)
/-- Word 0 of a control record with another state (21 R532). -/
def withState (w : Word) (x : Nat) : Word := wd (w.toNat % 2 ^ 62 + x * 2 ^ 62)
/-- `%cycle` of a package (10 R297). -/
def pkgCycle (s : State) (pkg : Nat) : Nat := s.cycle - ((podOf s pkg).map (·.resetAt)).getD 0
/-- Start a checkpoint operation, or fail it at once (21 R533). -/
def startCkpt (pkg : Nat) (ws : List Word) (s : State) : State :=
  let fn := fld (rw ws 0) 1 0
  let live := (gangs s).any (fun g => g.at_.pkg = pkg && inSlot g)
  let resident := s.jobs.any (fun j => j.pkg = pkg && j.resident)
  let bad := ckptBad ws || ckptBusy s pkg || live || (fn = 2 && resident)
  let ws := ((ws.set 1 0).set 2 (wd (pkgCycle s pkg)))
  if bad then onPkg pkg (fun p => { p with ckpt := (ws.set 0 (withState (rw ws 0) 3)).set 3 (wd (pkgCycle s pkg)) }) s
  else onPkg pkg (fun p => { p with ckpt := (ws.set 0 (withState (rw ws 0) 1)).set 3 0, run := some (fn, ws) }) s
/-- The location at the other end of byte `o` of a package's HBM (21 R533). -/
def ckptFar (ws : List Word) (o : Nat) : Nat :=
  let n := ckptShare (fld (rw ws 0) 12 8)
  let w := rw ws (4 + o / n)
  hbmLoc (fld w 63 54) (fld w 39 0 + o % n)
/-- Copy one byte as stored: ciphertext decrypts only where it was written (21 R523, R533), and what another write of its line has spoilt
nowhere. -/
def moveByte (src dst : Nat) (s : State) : State :=
  let b := memByte s src
  let k := memKey s src
  let o := if isSpoilt s src then some (src, Config.movedKey src 0) else cget none s.origin src
  let t := homeWrite [(dst, b)] k s
  let s := { t with lineKeys := cset (0, none) t.lineKeys (dst / 64) (0, k) }
  match o, k with
  | some (l, x), _ =>
    if l = dst then { s with keys := cset none s.keys dst (some x) }
    else { s with keys := cset none s.keys dst (some (Config.movedKey l x)), origin := cset none s.origin dst (some (l, x)) }
  | none, some x =>
    { s with keys := cset none s.keys dst (some (Config.movedKey src x)), origin := cset none s.origin dst (some (src, x)) }
  | none, none => s
/-- The first `n` bytes move: every byte that either side holds other than its empty contents. -/
def moveBytes (pkg n : Nat) (fn : Nat) (ws : List Word) (s : State) : State :=
  let here := hbmLoc pkg 0
  let size := ckptShare (fld (rw ws 0) 12 8)
  let listed := s.mem.map (·.1) ++ s.keys.map (·.1)
  let local_ := (listed.filter (fun l => here ≤ l && l < here + n)).map (fun l => l - here)
  let far := (List.range (fld (rw ws 0) 12 8)).flatMap (fun i =>
    let base := ckptFar ws (i * size)
    (listed.filter (fun l => base ≤ l && l < base + size)).map (fun l => i * size + (l - base)))
  (sortNat (local_ ++ far.filter (fun o => o < n)).eraseDups).foldl (fun s o =>
    if fn = 1 then moveByte (here + o) (ckptFar ws o) s else moveByte (ckptFar ws o) (here + o) s) s
end Sys2Proof.Machine
end

