-- ==== Sys2Proof/Machine/Image.lean ====
section
/-! DEFINITION. The bytes of a save image (18 R491 to R494): while an image is live, the driver region reads as its parts say; when
it closes, they stay as last written. The end of a checkpoint (21 R533), which takes live images along. -/

namespace Sys2Proof.Machine

/-- The transfer key of a job. -/
def transferOf (s : State) (pkg job : Nat) : Key := (jobOn s pkg job).bind (·.transfer)
/-- Word 0 of an image's header with a state (18 R492). -/
def imageHeader (i : SaveImage) (x : Nat) : Word := wd (i.job * 2 ^ 48 + x * 2 ^ 16 + i.mode * 2 ^ 8 + 1)
/-- Replies that are still to be steered into an image (18 R492, R495). -/
def imagePending (i : SaveImage) : Nat := i.gangs.foldl (fun n g => n + g.pend.length) 0
/-- Words as little-endian bytes. -/
def wordBytes (ws : List Word) : List Byte := ws.flatMap (fun w => leBytes 8 w.toNat)
/-- The header words 0 to 4 (18 R492). -/
def headerPart (i : SaveImage) (x : Nat) : Nat × List Byte :=
  (0, wordBytes [imageHeader i x, wd (imagePending i), wd i.t0, wd i.t1, wd i.saved])

/-- A path-table entry as four words (03 R92); `act` says that it is the active one. -/
def pathWords (act : Bool) (e : PathEntry) : List Word :=
  let b (x : Bool) : Nat := if x then 1 else 0
  let st := if act && e.state = .ready then 2 else match e.state with
    | .free => 0
    | .ready => 1
    | .parked => 3
  [wd (e.lanes.toNat * 2 ^ 32 + e.exec.toNat),
   wd (st * 2 ^ 62 + b e.frameV * 2 ^ 61 + e.frame.val * 2 ^ 57 + b e.joinV * 2 ^ 56 + e.pc.toNat % 2 ^ 56),
   wd (e.members.toNat * 2 ^ 32 + b e.parentV * 16 + e.parent.val),
   wd (min e.age 255 * 2 ^ 56 + e.join.toNat % 2 ^ 56)]
/-- A number that tells engine instances apart; 0 for an unbound handle. -/
def engineNum : Option Engine → Nat
  | none => 0
  | some (.cart l c) => 1 + 4 * (l.code * 2 ^ 16 + clIx c)
  | some (.kiln c) => 2 + 4 * clIx c
  | some (.granary c) => 3 + 4 * dieIx c
/-- A timeline handle's two words (18 R494). -/
def tlWords (h : TlHandle) : List Word :=
  [wd (h.skip.toNat * 2 ^ 48 + (Config.bindingCode (engineNum h.eng)).toNat), wd h.last]
/-- The gang record of a saved gang, as offsets in it (18 R494). -/
def recordParts (s : State) (i : SaveImage) (g : Gang) : List (Nat × List Byte) :=
  let d := g.deferred.headD ⟨0, 0, 0, false, false⟩
  let t := { s with g := g }
  [(0x000, wordBytes [wd (1 + (if i.stopped.contains g.uid then 2 else 0) + g.blocks * 4 + g.rstack.length * 2 ^ 8)]),
   (0x040, wordBytes ((List.range 16).flatMap (fun n => pathWords (n = g.act.val) (entry g n)))),
   (0x240, wordBytes g.s.toList),
   (0x640, g.k.toList.flatMap (fun m => leBytes 4 m.toNat)),
   (0x660, wordBytes g.sh.toList),
   (0x6A0, wordBytes (g.tl.toList.flatMap tlWords)),
   (0x720, wordBytes ((List.range 16).map (fun n => rw g.rstack.reverse n))),
   (0x7A0, wordBytes [wd ((List.range 12).foldl (fun n f => n + flagCount g f % 16 * 16 ^ f) 0)]),
   (0x7A8, wordBytes [wd g.pend.length]),
   (0x7B0, wordBytes [wd d.cause, d.addr, d.info]),
   (0x818, wordBytes ((List.range 36).map (fun n => readSpr t (3 + n)))),
   (0x1000, ((List.range (64 * (g.blocks + 1))).flatMap (fun r => (vabs g r).toList)).flatMap (fun x => leBytes 4 x.toNat))]
/-- Where a core's section starts (18 R491). -/
def coreSection (c : Coords) : Nat := 0x501000 + 0x180000 * (64 * c.die + 4 * c.cluster + c.core)
/-- The status words of a tile and its non-finite bit (06 R209, 18 R493). -/
def statusBytes (x : TileStatus) : List Byte :=
  let b (x : Bool) : Nat := if x then 1 else 0
  wordBytes [wd (x.ipc.toNat % 2 ^ 56 * 256 + x.body % 4),
    wd (b x.busy * 2 ^ 63 + b x.susp * 2 ^ 62 + x.gang % 16 * 2 ^ 58 + x.entry % 32 * 2 ^ 53 + x.cause % 256 * 2 ^ 32 +
      x.count % 2 ^ 16 * 2 ^ 16 + x.resume % 256 * 2 ^ 8 + x.steps % 256)] ++ leBytes 1 (b x.nonfinite)
/-- The other parts of a saved core's section (18 R493): scratch windows, the tiles of the job's share, store-fault records. -/
def coreParts (s : State) (i : SaveImage) (core : Coords) : List (Nat × List Byte) :=
  let w7 := ((jobOn s i.pkg i.job).map (fun j => rw j.words 7)).getD 0
  let scratch := (i.spad.filter (fun p => p.1.core = core)).flatMap (fun p =>
    p.2.map (fun b => (0x90000 + p.1.base + b.1, [b.2])))
  let tiles := (List.range (fld w7 12 8)).flatMap (fun t =>
    let n := fld w7 3 0 + t
    [(0xD0000 + 0x8000 * t, (List.range 8192).flatMap (fun e =>
        leBytes 4 (cget 0 i.acc (accKey core n (e / 256) (e % 256))).toNat)),
     (0x150000 + 32 * t, statusBytes (cget {} i.tiles (tileKey core n)))])
  let mine := (i.faults.filter (fun f => f.core = core)).take Config.faultQueue
  let slot (u : Nat) : Nat := ((i.gangs.find? (fun g => g.uid = u)).map (fun g => g.at_.slot)).getD 0
  let faults := (mine.zip (List.range mine.length)).map (fun p =>
    (0x150200 + 32 * p.2, wordBytes [wd (slot p.1.uid + p.1.cause * 256), p.1.addr, p.1.info]))
  (scratch ++ tiles ++ faults).map (fun p => (coreSection core + p.1, p.2))
/-- The windows of a job's clusters, general then transpose, then those of its dies, as first location and size (18 R491). -/
def windowList (j : Job) : List (Nat × Nat) :=
  let w4 := rw j.words 4
  let w5 := rw j.words 5
  ((List.range 64).flatMap (fun c =>
    [(locOf 2 (j.pkg * 64 + c) (fld w4 15 0 * 65536), fld w4 31 16 * 65536),
     (locOf 2 (j.pkg * 64 + c) (Config.transBase + fld w4 47 32 * 65536), fld w4 63 48 * 65536)])) ++
    (List.range 4).map (fun d => (locOf 1 (j.pkg * 4 + d) (fld w5 15 0 * 65536), fld w5 31 16 * 65536))
/-- The saved windows of an image of mode 1, one after another from an offset on (18 R491). -/
def windowParts (m : Cells Byte) : Nat → List (Nat × Nat) → List (Nat × List Byte)
  | _, [] => []
  | o, (l, n) :: r => (o, (List.range n).map (fun b => cget memDefault m (l + b))) :: windowParts m (o + n) r
/-- The sections of the saved gangs' dies and clusters (18 R491): reeve and barrier state, queued pool records, the granary operation of
R238 and the kiln entries of R215. The manual does not give their form, so that each byte is a free value (log 18). -/
def unitParts (i : SaveImage) : List (Nat × List Byte) :=
  let section_ (o n : Nat) : Nat × List Byte := (o, (List.range n).map (fun b => (Config.freeWord (i.fresh + o + b)).setWidth 8))
  ((i.gangs.map (fun g => g.at_.die)).eraseDups.map (fun d => section_ (0x1000 + 0x40000 * d) 0x40000)) ++
    ((i.gangs.map (fun g => 16 * g.at_.die + g.at_.cluster)).eraseDups.map (fun c => section_ (0x101000 + 0x10000 * c) 0x10000))
/-- The parts of an image that the device has written: its header, and, once it is complete, all others (18 R491 to R494). -/
def imageParts (s : State) (i : SaveImage) : List (Nat × List Byte) :=
  if i.state ≠ 1 then [headerPart i i.state]
  else
    headerPart i 1 :: (i.gangs.flatMap (fun g =>
        (recordParts s i g).map (fun p => (coreSection g.at_ + 0x9000 * g.at_.slot + p.1, p.2))) ++
      ((i.gangs.map (fun g => unitOf 1 g.at_)).eraseDups.flatMap (coreParts s i)) ++ unitParts i ++
      (if i.mode = 1 then windowParts i.windows 0x18600000 (((jobOn s i.pkg i.job).map windowList).getD []) else []))
/-- The byte that a live image holds at an offset, in the clear. -/
def imageByte (s : State) (i : SaveImage) (o : Nat) : Option Byte :=
  (imageParts s i).findSome? (fun p => if p.1 ≤ o && o < p.1 + p.2.length then p.2[o - p.1]? else none)
/-- Bytes of an image (18 R491). -/
def imageBytes (s : State) (job pkg mode : Nat) : Nat :=
  0x18600000 + (if mode = 1 then (((jobOn s pkg job).map windowList).getD []).foldl (fun n w => n + w.2) 0 else 0)
/-- The stored form of the driver region's byte where a live image lies (18 R491). -/
def savedByte (s : State) (pkg hbm : Nat) : Option Byte :=
  s.images.findSome? (fun i =>
    if i.pkg = pkg && i.base ≤ hbm then
      (imageByte s i (hbm - i.base)).map (Config.imageCipher (transferOf s pkg i.job) (hbmLoc pkg hbm))
    else none)
/-- Device-written bytes of an image, under the transfer key (18 R491). -/
def imageWrite (k : Key) (loc : Nat) (bs : List Byte) (s : State) : State :=
  homeWrite (((List.range bs.length).zip bs).map (fun p => (loc + p.1, Config.imageCipher k (loc + p.1) p.2))) none s
/-- The parts of an image after its header, in memory. -/
def keepImage (i : SaveImage) (s : State) : State :=
  ((imageParts s i).drop 1).foldl (fun s p => imageWrite (transferOf s i.pkg i.job) (hbmLoc i.pkg (i.base + p.1)) p.2 s) s
/-- An image stops being live, its header at a last state: what it held stays in memory (18 R488, R490, R496). -/
def closeImage (i : SaveImage) (x : Nat) (s : State) : State :=
  let s := keepImage i s
  let h := headerPart i x
  imageWrite (transferOf s i.pkg i.job) (hbmLoc i.pkg (i.base + h.1)) h.2
    { s with images := s.images.filter (fun y => !(y.pkg = i.pkg && y.job = i.job)) }
/-- The image of a job on a package. -/
def imageOf (s : State) (pkg job : Nat) : Option SaveImage := s.images.find? (fun i => i.pkg = pkg && i.job = job)
/-- Change the image of a job on a package. -/
def onImage (pkg job : Nat) (f : SaveImage → SaveImage) (s : State) : State :=
  { s with images := upd (fun i => i.pkg = pkg && i.job = job) f s.images }

/-- The bytes of the live save images of a package, as offsets in its HBM, as stored (18 R491, 21 R533). -/
def liveBytes (s : State) (pkg : Nat) : List (Nat × Byte) :=
  (s.images.filter (fun i => i.pkg = pkg)).flatMap (fun i => (imageParts s i).flatMap (fun p =>
    ((List.range p.2.length).zip p.2).map (fun b =>
      let o := i.base + p.1 + b.1
      (o, Config.imageCipher (transferOf s i.pkg i.job) (hbmLoc pkg o) b.2))))
/-- The targets of a control record. -/
def ckptPlan (ws : List Word) : List Nat :=
  (List.range (fld (rw ws 0) 12 8)).map (fun i => (rw ws (4 + i)).toNat)
/-- CHECKPOINT_COMPLETE (21 R533, R534): the operation ends, done, or failed at the byte where an uncorrectable error or a
fabric timeout met it. A restore brings the live save images back that the checkpoint to the same targets holds (log 42). -/
def execCheckpointComplete (pkg : Nat) (failedAt : Option Nat) (s : State) : Out :=
  .next (match (podOf s pkg).bind (·.run) with
    | none => s
    | some (fn, ws) =>
      let src (o : Nat) : Nat := if fn = 1 then hbmLoc pkg o else ckptFar ws o
      let size := ckptShare (fld (rw ws 0) 12 8)
      let offs := s.poison.filterMap (fun l =>
        if fn = 1 then (if hbmLoc pkg 0 ≤ l && l < hbmLoc pkg 0 + Config.hbmBytes then some (l - hbmLoc pkg 0) else none)
        else (List.range (fld (rw ws 0) 12 8)).findSome? (fun i =>
          if src (i * size) ≤ l && l < src (i * size) + size then some (i * size + (l - src (i * size))) else none))
      let stop := match (failedAt.toList ++ offs) with
        | [] => none
        | a :: r => some (r.foldl min a)
      let n := stop.getD Config.hbmBytes
      let live := if fn = 1 then (liveBytes s pkg).filter (fun b => b.1 < n) else []
      let s := live.foldl (fun s b => homeWrite [(ckptFar ws b.1, b.2)] none s) (moveBytes pkg n fn ws s)
      let done := stop.isNone
      let s := if done && fn = 2 then
          let back := match podOf s pkg with
            | some p => if ckptPlan p.kept.1 = ckptPlan ws then p.kept.2 else []
            | none => []
          { s with images := (s.images.filter (fun i => i.pkg ≠ pkg)) ++ back }
        else s
      onPkg pkg (fun p => { p with
        run := none
        kept := if done && fn = 1 then (ws, s.images.filter (fun i => i.pkg = pkg)) else p.kept
        ckpt := ((p.ckpt.set 0 (withState (rw p.ckpt 0) (if done then 2 else 3))).set 1 (wd n)).set 3 (wd (pkgCycle s pkg)) }) s)

end Sys2Proof.Machine
end

