-- ==== Sys2Proof/Machine/Host.lean ====
section
/-! DEFINITION. The Morcy port (17 R448 to R464, 21 R520 to R524): sessions, the commands of R452 but for Load, Save and Resume,
and the scrubbing of a job that ends. -/

namespace Sys2Proof.Machine

/-- The protocol versions of the device (17 R449), and the order of versions. -/
def minProto : Nat × Nat := (1, 0)
def maxProto : Nat × Nat := (1, 2)
def verLe (a b : Nat × Nat) : Bool := a.1 < b.1 || (a.1 = b.1 && a.2 ≤ b.2)
/-- The highest version that both ranges contain (17 R448). -/
def commonProto (lo hi : Nat × Nat) : Option (Nat × Nat) :=
  [(1, 2), (1, 1), (1, 0)].find? (fun v => verLe lo v && verLe v hi)
/-- A session of a package. -/
def sessOf (s : State) (pkg n : Nat) : Option Session := s.sessions.find? (fun x => x.pkg = pkg && x.sess = n)
/-- Change a session. -/
def onSess (pkg n : Nat) (f : Session → Session) (s : State) : State :=
  { s with sessions := upd (fun x => x.pkg = pkg && x.sess = n) f s.sessions }
/-- Queue something for the host. -/
def reply (o : HostOut) (s : State) : State := { s with out := s.out ++ [o] }
/-- Close a session (17 R451): its jobs run on, owned by none. -/
def closeSess (pkg n : Nat) (s : State) : State :=
  { s with
    sessions := s.sessions.filter (fun x => !(x.pkg = pkg && x.sess = n))
    jobs := upd (fun j => j.sess = some (pkg, n)) (fun j => { j with sess := none }) s.jobs }
/-- The identity certificate of a package (21 R520). -/
def certificate (pkg : Nat) : List Byte :=
  leBytes 8 1 ++ leBytes 8 (Config.serialNumber pkg).toNat ++ leBytes 2 Config.stepping.toNat ++
    (List.range 1312).map (Config.identityKey pkg) ++ (List.range 1184).map (Config.kemKey pkg) ++
    leBytes 32 (Config.issuerHash pkg).toNat ++ (List.range 2420).map (Config.certSignature pkg)
/-- The measurement record of a package (21 R522): the rollback counter, the hashes of the loaded images in the order of R518, the debug word, the
readiness word, each number as a word of 64 bits (log 22). -/
def measurement (s : State) (pkg : Nat) : List Byte :=
  let imgs := ((podOf s pkg).map (·.images)).getD []
  leBytes 8 (((podOf s pkg).map (·.rollback)).getD 0) ++
    ([0, 1, 2, 3].filterMap (fun k => imgs.find? (fun i => i.kind = k))).flatMap (fun i => leBytes 32 (imageHash i).toNat) ++
    leBytes 8 0 ++ leBytes 8 (telemetryWord s pkg 0).toNat
/-- The AES-256-GCM nonce of message `n` of a session (21 R521): a direction word, 0 for host to device, and the sequence number. -/
def gcmNonce (toHost : Bool) (n : Nat) : BitVec 96 := (if toHost then 1#32 else 0#32) ++ BitVec.ofNat 64 n
/-- The session that something sent is for; none for a reply to Hello, which no session protects. -/
def outSession : HostOut → Option (Nat × Nat)
  | .helloReply _ _ _ _ _ _ | .refuse _ _ _ => none
  | .ok c _ | .bytes c _ | .error c | .queueFull c => some (c.pkg, c.sess)
  | .message p n _ => some (p, n)
/-- The sequence number of what the device has sent as entry `i` of its output: its replies count from 1 in each session (21 R521). -/
def outNumber (s : State) (i : Nat) : Nat :=
  match (s.out[i]?).bind outSession with
  | none => 0
  | some x => ((s.out.take (i + 1)).filter (fun o => outSession o = some x)).length
/-- HELLO (17 R448, R449, 21 R520 to R522, R528): the device replies, or refuses with its own range. -/
def execHello (pkg minMajor minMinor maxMajor maxMinor : Nat) (ct : List Byte) (s : State) : Out :=
  .next (if !isReady s pkg .security || !isReady s pkg .morcy then s
    else match commonProto (minMajor, minMinor) (maxMajor, maxMinor) with
      | none => reply (.refuse pkg minProto maxProto) s
      | some v =>
        if Config.maxSessions ≤ (s.sessions.filter (fun x => x.pkg = pkg)).length then reply (.refuse pkg minProto maxProto) s
        else
          let hello := Config.helloBytes (minMajor, minMinor) (maxMajor, maxMinor) ct
          let cert := certificate pkg
          let measure := measurement s pkg
          let msg := Config.replyBytes v cert measure
          let sig := Config.mldsaSign pkg (Config.sha3 (hello ++ msg))
          let secret := Config.mlkemDecaps pkg ct
          let salt := Config.sha3 hello
          let trans := Config.sha3 (hello ++ msg ++ sig)
          let key (l : List Nat) : BitVec 256 := Config.hkdf salt secret (l.map (fun n => BitVec.ofNat 8 n)) trans
          reply (.helloReply pkg s.nextId v cert measure sig)
            { s with
              nextId := s.nextId + 1
              sessions := s.sessions ++ [⟨pkg, s.nextId, v, false, 1, 0, 0, key [117, 109, 107, 32, 104, 50, 100],
                key [117, 109, 107, 32, 100, 50, 104], [], false⟩] })
/-- CONFIRM (17 R448). -/
def execConfirm (pkg sess : Nat) (s : State) : Out := .next (onSess pkg sess (fun x => { x with confirmed := true, fails := 0 }) s)
/-- MESSAGE_AUTH_FAILURE (17 R449): the message is dropped and counted; the 16th in a row closes the session. -/
def execMessageAuthFailure (pkg sess : Nat) (s : State) : Out :=
  .next (match sessOf s pkg sess with
    | none => s
    | some x =>
      if 15 ≤ x.fails then closeSess pkg sess s
      else onSess pkg sess (fun x => { x with fails := x.fails + 1, dropped := x.dropped + 1 }) s)
/-- SESSION_CLOSE (17 R451). -/
def execSessionClose (pkg sess : Nat) (s : State) : Out := .next (closeSess pkg sess s)
/-- SESSION_LINK_LOSS (17 R451): the link has been down for more than 2 s. -/
def execSessionLinkLoss (pkg sess : Nat) (s : State) : Out := .next (closeSess pkg sess s)

/-- Whether an earlier command of a session has still to complete (17 R450). -/
def sessBusy (s : State) (pkg sess : Nat) : Bool :=
  let mine (c : Cmd) : Bool := c.pkg = pkg && c.sess = sess
  s.jobs.any (fun j => (j.ending.map mine).getD false) ||
    s.images.any (fun i => (i.state = 0 && mine i.cmd) || (i.resuming.map mine).getD false)
/-- The stacks of HBM and the base-die switch, through which the Morcy port reaches them. -/
def memoryFuncs : List Func := (List.range 12).map Func.stack ++ [Func.baseDie]
/-- Offsets of the pages that the device keeps in the driver region (19 R514, 21 R530, R532). -/
def telePage : Nat := 0x3FFFFE000
def linkPage : Nat := 0x3FFFFF000
def ckptPage : Nat := 0x3FFFFD000
/-- Whether an address is one of the device's own pages, which stand in no HBM. -/
def isPage (a : Word) : Bool := tagOf a = 15 && ckptPage ≤ fld a 33 0
/-- The functions that a command needs (21 R528): JobCreate those that the rule lists; that Load, MemWrite, MemRead and a checkpoint need HBM
and the base-die switch is read from what they do (log 22). A command outside the table, and any other, needs none beyond the session's. -/
def needsFuncs : Option Instr → List Func
  | some (.jobCreate _ _) => (List.range 4).map Func.die ++ memoryFuncs ++ (List.range 4).map Func.granary
  | some (.load _ _ _ _ _ _) | some (.checkpoint _ _) | some (.checkpointRestore _ _) => memoryFuncs
  | some (.memWrite _ _ a _) | some (.memRead _ _ a _) => if isPage a then [] else memoryFuncs
  | _ => []
/-- Whether every function that a command needs is ready, the finaliser's image among them for a Load (21 R518, R528). -/
def allReady (s : State) (pkg : Nat) (i : Option Instr) : Bool :=
  (needsFuncs i).all (isReady s pkg) && (match i with
    | some (.load _ _ _ _ _ _) => ((podOf s pkg).map (fun p => p.images.any (fun x => x.kind = 1))).getD false
    | _ => true)
/-- Whether a command is refused on a package that serves management and telemetry alone (21 R529, R531): one that brings or starts work, or
reaches HBM other than the device's pages (log 22). -/
def outRefuses : Option Instr → Bool
  | some (.submit _ _ _) | some (.save _ _) | some (.resume _ _) | some (.keyInstall _ _ _ _) => true
  | i => !(needsFuncs i).isEmpty
/-- A command of a session (17 R449, R450): one that arrives at a confirmed session with a gap or a repeated number closes it; else it
executes, or waits behind those that have arrived before it and until `ready`, and until the functions that it needs are ready (21 R528).
One that the device turns to from the wait executes where that holds. A package that is out of service answers with an error what it no longer
serves (21 R529). -/
def takeCommand (i : Option Instr) (h : Cmd) (ready : Bool) (k : State → State) (s : State) : Out :=
  let change (f : Session → Session) : State := onSess h.pkg h.sess f s
  let out := isOut s h.pkg && outRefuses i
  let go := out || (ready && allReady s h.pkg i)
  let act (t : State) : State := if out then reply (.error h) t else k t
  .next (match sessOf s h.pkg h.sess with
    | none => s
    | some x =>
      if !x.confirmed then s
      else if x.serving then
        if sessBusy s h.pkg h.sess || !go then change (fun x => { x with serving := false })
        else act (change (fun x => { x with next := x.next + 1, waiting := x.waiting.drop 1, serving := false }))
      else if h.seq ≠ x.next + x.waiting.length then closeSess h.pkg h.sess s
      else if !x.waiting.isEmpty || sessBusy s h.pkg h.sess || !go then
        change (fun x => { x with waiting := x.waiting ++ [(h, i, s.cycle)], fails := 0 })
      else act (change (fun x => { x with next := x.next + 1, fails := 0 })))
/-- A command of the table. -/
def command (i : Instr) (h : Cmd) (ready : Bool) (k : State → State) (s : State) : Out := takeCommand (some i) h ready k s
/-- A command whose opcode is outside the table (17 R452): an error reply, and nothing else changes. -/
def strayCommand (h : Cmd) (s : State) : Out := takeCommand none h true (reply (.error h)) s
/-- COMMAND_READY_TIMEOUT (21 R528): a command whose functions are not all ready within 30 s receives an error reply. -/
def execCommandReadyTimeout (h : Cmd) (s : State) : Out :=
  .next (match (sessOf s h.pkg h.sess).bind (·.waiting.head?) with
    | none => s
    | some c =>
      if allReady s h.pkg c.2.1 || c.1 ≠ h || s.cycle < c.2.2 + 30 * cyclesOfSec then s
      else reply (.error h) (onSess h.pkg h.sess (fun x => { x with next := x.next + 1, waiting := x.waiting.drop 1 }) s))

/-- Change a job of a package. -/
def onJob (pkg job : Nat) (f : Job → Job) (s : State) : State :=
  { s with jobs := upd (fun j => j.pkg = pkg && j.id = job) f s.jobs }
/-- Whether two ranges of base and size meet. -/
def meets (a n b m : Nat) : Bool := n ≠ 0 && m ≠ 0 && a < b + m && b < a + n
/-- Whether a job record breaks R7, R22, R454 or 18 R469 by itself. -/
def jobBad (s : State) (pkg : Nat) (ws : List Word) : Bool :=
  let w := rw ws
  let wide := fld (w 0) 10 8
  let count := ((podOf s pkg).map (·.count)).getD 1
  let region (a n : Nat) : Bool := Config.driverBase ≤ a && a + n ≤ Config.driverBase + Config.driverBytes
  ws.length ≠ 16 || fld (w 0) 63 48 = 0 || fld (w 0) 47 34 ≠ 0 || fld (w 0) 31 13 ≠ 0 || fld (w 0) 7 0 ≠ 1 ||
    wide < 3 || 5 < wide || (count = 1 && wide = 5) || (wide ≠ 3 && fld (w 0) 12 11 ≠ 0) ||
    (w 1).toNat % 8192 ≠ 0 || !region (w 1).toNat 8192 || (w 2).toNat % 4096 ≠ 0 || !region (w 2).toNat 4096 ||
    fld (w 3) 63 32 ≠ 0 || fld (w 3) 31 16 = 0 || 4096 < fld (w 3) 15 0 + fld (w 3) 31 16 ||
    32 < fld (w 4) 47 32 + fld (w 4) 63 48 || 96 < fld (w 4) 15 0 + fld (w 4) 31 16 ||
    fld (w 5) 63 32 ≠ 0 || 2560 < fld (w 5) 15 0 + fld (w 5) 31 16 ||
    fld (w 7) 63 26 ≠ 0 || 1 < fld (w 7) 25 24 || (w 7).getLsbD 19 || fld (w 7) 15 13 ≠ 0 || fld (w 7) 7 4 ≠ 0 ||
    8 < fld (w 7) 23 20 || 8 < fld (w 7) 18 16 + fld (w 7) 23 20 || 16 < fld (w 7) 12 8 ||
    16 < fld (w 7) 3 0 + fld (w 7) 12 8 ||
    (List.range 6).any (fun i => w (10 + i) ≠ 0)
/-- Whether two job records claim one resource, or together more of a pool than there is (17 R455, 01 R23). -/
def jobClash (a b : List Word) : Bool :=
  let p (f : List Word → Nat × Nat) : Bool := meets (f a).1 (f a).2 (f b).1 (f b).2
  p (fun r => (fld (rw r 4) 47 32, fld (rw r 4) 63 48)) || p (fun r => (fld (rw r 4) 15 0, fld (rw r 4) 31 16)) ||
    p (fun r => (fld (rw r 5) 15 0, fld (rw r 5) 31 16)) || p (fun r => (fld (rw r 3) 15 0, fld (rw r 3) 31 16)) ||
    p (fun r => (fld (rw r 7) 3 0, fld (rw r 7) 12 8)) || p (fun r => (fld (rw r 7) 18 16, fld (rw r 7) 23 20)) ||
    fld (rw a 7) 25 24 = fld (rw b 7) 25 24 ||
    Config.poolSize 1 < fld (rw a 6) 15 0 + fld (rw b 6) 15 0 || Config.poolSize 2 < fld (rw a 6) 31 16 + fld (rw b 6) 31 16 ||
    Config.poolSize 3 < fld (rw a 6) 47 32 + fld (rw b 6) 47 32 || Config.poolSize 4 < fld (rw a 6) 63 48 + fld (rw b 6) 63 48
/-- Whether the device refuses to make a job resident (17 R455, 21 R529). -/
def jobRefused (s : State) (pkg : Nat) (ws : List Word) : Bool :=
  let rs := s.jobs.filter (fun j => j.pkg = pkg && j.resident)
  jobBad s pkg ws || 2 ≤ rs.length || rs.any (fun j => jobClash ws j.words) ||
    Config.poolSize 1 < fld (rw ws 6) 15 0 || Config.poolSize 2 < fld (rw ws 6) 31 16 ||
    Config.poolSize 3 < fld (rw ws 6) 47 32 || Config.poolSize 4 < fld (rw ws 6) 63 48 ||
    (podOf s pkg).isNone || isOut s pkg
/-- JOB_CREATE (17 R454, R455, 21 R528). -/
def execJobCreate (h : Cmd) (rec_ : List Word) (s : State) : Out :=
  command (.jobCreate h rec_) h true (fun s =>
    let id := fld (rw rec_ 0) 63 48
    if jobRefused s h.pkg rec_ || (jobOn s h.pkg id).isSome then reply (.error h) s
    else reply (.ok h []) { s with jobs := s.jobs ++ [{
      id := id, pkg := h.pkg, words := rec_, resident := true, sess := some (h.pkg, h.sess), graphs := [], kernels := []
      transfer := none, missed := 0, heldMsgs := [], ending := none
      proto := ((sessOf s h.pkg h.sess).map (·.proto)).getD minProto }] }) s

/-- Locations become empty again (21 R524): zero bytes, no history, in no view. -/
def scrubLocs (p : Nat → Bool) (s : State) : State :=
  { s with
    mem := s.mem.filter (fun e => !p e.1)
    keys := s.keys.filter (fun e => !p e.1)
    tags := s.tags.filter (fun e => !p e.1)
    lineKeys := s.lineKeys.filter (fun e => !p (e.1 * 64))
    origin := s.origin.filter (fun e => !p e.1)
    top := s.top.filter (fun e => !p e.1)
    hist := s.hist.filter (fun h => !p h.loc)
    pubs := s.pubs.map (fun q => { q with view := q.view.filter (fun e => !p e.1) })
    fetched := s.fetched.map (fun f => (f.1, f.2.filter (fun e => !p (e.1 / 4))))
    lines := s.lines.filter (fun l => !p l.loc) }
/-- The cluster and die windows of a job on its package (01 R21, 17 R454). -/
def inWindows (j : Job) (l : Nat) : Bool :=
  let w4 := rw j.words 4
  let w5 := rw j.words 5
  let o := locOff l
  let at_ (b n : Nat) : Bool := b * 65536 ≤ o && o < (b + n) * 65536
  locPkg l = j.pkg &&
    (if locKind l = 2 then
      at_ (fld w4 15 0) (fld w4 31 16) || (Config.transBase ≤ o && at_ (Config.transBase / 65536 + fld w4 47 32) (fld w4 63 48))
    else locKind l = 1 && at_ (fld w5 15 0) (fld w5 31 16))
/-- What a job that stops being resident releases (17 R452, 18 R486 step 6): its woodpiles, granary key slots and latches. -/
def releaseUnits (j : Job) (s : State) : State :=
  let us := s.units.filter (fun u => u.at_.pkg = j.pkg && u.job = j.id)
  let s := us.foldl (fun s u => unbind u s) s
  let pair := fld (rw j.words 7) 25 24
  { s with
    latches := s.latches.filter (fun l => !(l.at_.pkg = j.pkg && l.job = j.id))
    keySlots := s.keySlots.filter (fun k => !(k.at_.pkg = j.pkg && k.slot / 2 = pair)) }
/-- Scrub the windows and slots of a job (21 R524, 17 R458). -/
def scrubJob (j : Job) (s : State) : State :=
  let base := fld (rw j.words 7) 3 0
  let n := fld (rw j.words 7) 12 8
  let share (t : Nat) : Bool := base ≤ t && t < base + n
  let s := scrubLocs (inWindows j) s
  { s with
    acc := s.acc.filter (fun e => !(e.1 / 2 ^ 25 = j.pkg && share (e.1 / 2 ^ 13 % 16)))
    tiles := s.tiles.filter (fun e => !(e.1 / 2 ^ 12 = j.pkg && share (e.1 % 16))) }
/-- The key slots of a job become empty (17 R458). -/
def scrubKeys (j : Job) (s : State) : State :=
  let b := fld (rw j.words 3) 15 0
  let n := fld (rw j.words 3) 31 16
  { s with xts := s.xts.filter (fun e => !(e.1 / 4096 = j.pkg && b ≤ e.1 % 4096 && e.1 % 4096 < b + n)) }
/-- Whether every launch of a job that is ending has completed and none of its gangs is left (17 R452). -/
def jobDone (s : State) (j : Job) : Bool :=
  !s.launches.any (fun l => l.job = j.id && l.pkg = j.pkg) && !(gangs s).any (fun g => g.job = j.id && g.at_.pkg = j.pkg) &&
    !s.queues.any (fun q => q.pkg = j.pkg && q.job = j.id && !q.recs.isEmpty)
/-- A job ends (17 R452, 21 R524, 18 R490): everything of it on the package is scrubbed and freed; of an evicted job only its key
slots are left. -/
def freeJob (j : Job) (s : State) : State :=
  let s := scrubKeys j (if j.resident then scrubJob j (releaseUnits j s) else s)
  { s with
    jobs := s.jobs.filter (fun x => !(x.pkg = j.pkg && x.id = j.id))
    queues := s.queues.filter (fun q => !(q.pkg = j.pkg && q.job = j.id))
    scratch := s.scratch.filter (fun w => s.launches.any (fun l => l.id = w.launch))
    timelines := s.timelines.filter (fun t => !(t.job = j.id && engPkg t.eng = j.pkg))
    code := s.code.filter (fun e => e.1 / 2 ^ 56 ≠ j.pkg * 2 ^ 16 + j.id) }
/-- Where a byte of the driver region stands in its HBM (18 R467). -/
def driverLoc (pkg off : Nat) : Nat := hbmLoc pkg (Config.driverBase + off)
/-- JOB_END (17 R452, 21 R524, 18 R490): the job is cancelled; once its launches have completed it is scrubbed and freed, and the
reply is sent. The device turns to a JobEnd that waits for that again; of a session that has closed, no message can arrive. -/
def execJobEnd (h : Cmd) (job : Nat) (s : State) : Out :=
  let finish (s : State) : State :=
    match jobOn s h.pkg job with
    | none => s
    | some j => if j.ending = some h && jobDone s j then reply (.ok h []) (freeJob j s) else s
  match jobOn s h.pkg job with
  | some j =>
    if j.ending = some h && ((sessOf s h.pkg h.sess).map (·.serving)).getD true then
      .next (finish (onSess h.pkg h.sess (fun x => { x with serving := false }) s))
    else command (.jobEnd h job) h true (fun s =>
      if j.ending.isSome then reply (.error h) s
      else
        let s := cancelWhole h.pkg job none s
        let s := match imageOf s h.pkg job with
          | some i => if i.state = 1 then closeImage i 2 s else s
          | none => s
        finish (onJob h.pkg job (fun j => { j with ending := some h }) s)) s
  | none => command (.jobEnd h job) h true (reply (.error h)) s

/-- Whether an access that has still to reach its home uses a key (17 R457): a store, an atomic, an update-only line, a
granary's row, a bound woodpile whose state goes back into its descriptor. -/
def keyPending (s : State) (k : Key) : Bool :=
  k.isSome && (s.stores.any (fun r => r.bytes.any (fun b => b.key = k)) || s.atoms.any (fun r => (leavesOf s r).any (fun x => x.key = k)) ||
    s.lines.any (fun r => r.key = k) || s.units.any (fun u => u.key = k) ||
    s.granary.any (fun o => o.segs.any (fun g => (g.bytes ++ g.acc).any (fun b => b.2.2 = k))))
/-- KEY_INSTALL (17 R457): an occupied slot takes its new key once no access under the old one is pending. -/
def execKeyInstall (h : Cmd) (job slot : Nat) (wrapped : List Byte) (s : State) : Out :=
  let old := slotKey s h.pkg slot
  command (.keyInstall h job slot wrapped) h (!keyPending s old) (fun s =>
    match jobOn s h.pkg job, Config.unwrapKey h.pkg wrapped with
    | some j, some k =>
      let b := fld (rw j.words 3) 15 0
      if b ≤ slot && slot < b + fld (rw j.words 3) 31 16 then
        reply (.ok h []) (onJob h.pkg job (fun j => { j with transfer := match j.transfer with
            | some t => some t
            | none => some k })
          { s with xts := cset none s.xts (h.pkg * 4096 + slot) (some k) })
      else reply (.error h) s
    | _, _ => reply (.error h) s) s

/-- Whether an address names the driver region through tag 0xF: its package and offset (18 R467). -/
def driverAddr (a : Word) (n : Nat) : Option (Nat × Nat) :=
  if tagOf a = 15 && fld a 59 44 = 0 && fld a 33 0 + n ≤ Config.driverBytes then some (fld a 43 34, fld a 33 0) else none
/-- Whether a device-held part of the driver region meets a range (18 R467, 19 R514, 21 R530). -/
def deviceHeld (s : State) (pkg off n : Nat) : Bool :=
  meets off n telePage 4096 || meets off n linkPage 4096 ||
    s.images.any (fun i => i.pkg = pkg && meets (Config.driverBase + off) n i.base (imageBytes s i.job i.pkg i.mode))
/-- Write bytes to the driver region, each aligned 32-byte unit at once (18 R467). -/
def driverWrite (pkg : Nat) : Nat → Nat → List Byte → State → State
  | 0, _, _, s => s
  | f + 1, off, bs, s =>
    if bs.isEmpty then s
    else
      let n := 32 - off % 32
      driverWrite pkg f (off + n) (bs.drop n) (homeWrite (consec (driverLoc pkg off) (bs.take n)) none s)
/-- The control record of the checkpoint engine after a write (21 R532): the bytes written change it, the device keeps its own fields, and fn
starts. -/
def ckptWritten (pkg off n : Nat) (s : State) : State :=
  if !meets off n ckptPage 256 then s
  else
    let old := ((podOf s pkg).map (·.ckpt)).getD []
    let new := (List.range 32).map (fun i =>
      let byte (b : Nat) : Byte :=
        let o := ckptPage + 8 * i + b
        if off ≤ o && o < off + n then memByte s (driverLoc pkg o) else BitVec.ofNat 8 ((rw old i).toNat / 2 ^ (8 * b))
      let w := wd (leNat ((List.range 8).map byte))
      if 1 ≤ i && i ≤ 3 then rw old i else if i = 0 then withState w (fld (rw old 0) 63 62) else w)
    if meets off n ckptPage 8 && fld (rw new 0) 1 0 ≠ 0 then startCkpt pkg new s
    else onPkg pkg (fun p => { p with ckpt := new }) s
/-- The hits of a host access to job memory (17 R453): every byte must be translated and permitted; `code` says that a code patch
needs no permission (18 R498). -/
def hostHits (s : State) (pkg job : Nat) (need : BitVec 4) (code : Bool) (a : Word) (n : Nat) : Option (List Hit) :=
  if tagOf a ≠ 0 then none
  else (List.range n).mapM (fun i =>
    let va := a.toNat + i
    if 2 ^ 56 ≤ va then none
    else match translate s pkg job va with
      | none => none
      | some h => if (code || h.perm &&& need = need) && !poisoned s h.loc then some h else none)
/-- Whether a range holds finalised code, and whether it covers body words alone (18 R498, 16 R444). -/
def codeIn (s : State) (pkg job : Nat) (a : Word) (n : Nat) : Bool × Bool :=
  let marks := (List.range n).map (fun i => cget 0 s.code (codeKey pkg job ((a.toNat + i) / 4 * 4)))
  (marks.any (fun m => m ≠ 0), marks.all (fun m => m = 2))
/-- Whether a MemWrite is held: a checkpoint operation runs on its session's package or on one whose HBM it reaches (21
R533); one of the control record alone is not, so that a second start fails at once. -/
def memHeld (s : State) (pkg job : Nat) (a : Word) (n : Nat) : Bool :=
  let record := (driverAddr a n).any (fun d => ckptPage ≤ d.2 && d.2 + n ≤ ckptPage + 256)
  !record && (ckptBusy s pkg || ((driverAddr a n).map (fun d => ckptBusy s d.1)).getD false ||
    ((hostHits s pkg job 0 true a n).getD []).any (fun h => ckptBusy s (locPkg h.loc)))
/-- MEM_WRITE (17 R453, 18 R467, R498, 21 R530, R532, R533): the bytes enter their homes and are published at level 5. -/
def execMemWrite (h : Cmd) (job : Nat) (a : Word) (data : List Byte) (s : State) : Out :=
  let n := data.length
  command (.memWrite h job a data) h (!memHeld s h.pkg job a n) (fun s =>
    if tagOf a = 15 then
      match driverAddr a n with
      | none => reply (.error h) s
      | some (p, off) =>
        if deviceHeld s p off n || (podOf s p).isNone then reply (.error h) s
        else reply (.ok h []) (ckptWritten p off n (driverWrite p n off data s))
    else
      let code := codeIn s h.pkg job a n
      let hits := if (transferOf s h.pkg job).isNone || (code.1 && !code.2) then none
        else hostHits s h.pkg job permW code.1 a n
      match hits with
      | none => reply (.error h) s
      | some hs =>
        let (v, s) := (hs.zip data).foldl (fun (vs : Cells Nat × State) p =>
          let s := homeWrite [(p.1.loc, p.2)] p.1.key vs.2
          (cset 0 vs.1 p.1.loc s.wseq, s)) ([], s)
        reply (.ok h []) { s with pubs := addPub ⟨none, 5, v⟩ s.pubs }) s
/-- One byte of the driver region as a MemRead sees it: the device's own pages, a live save image, or the byte as stored (18 R467), where a
checkpoint has put ciphertext a value that the manual does not give (21 R523, R533). -/
def driverByte (s : State) (pkg off : Nat) : Byte :=
  let at_ (w : Word) : Byte := BitVec.ofNat 8 (w.toNat / 2 ^ (8 * (off % 8)))
  if linkPage ≤ off then at_ (linkWord s pkg ((off - linkPage) / 8))
  else if telePage ≤ off then at_ (telemetryWord s pkg ((off - telePage) / 8))
  else if ckptPage ≤ off && off < ckptPage + 256 then at_ (rw (((podOf s pkg).map (·.ckpt)).getD []) ((off - ckptPage) / 8))
  else (savedByte s pkg (Config.driverBase + off)).getD (homeByte s (driverLoc pkg off) none)
/-- Whether a byte of the driver region that stands in HBM has an uncorrectable error (21 R526). -/
def driverPoison (s : State) (pkg off : Nat) : Bool := off < ckptPage && poisoned s (driverLoc pkg off)
/-- MEM_READ (17 R453, 18 R467): the bytes at their homes when the read reaches them. -/
def execMemRead (h : Cmd) (job : Nat) (a : Word) (n : Nat) (s : State) : Out :=
  command (.memRead h job a n) h true (fun s =>
    if tagOf a = 15 then
      match driverAddr a n with
      | none => reply (.error h) s
      | some (p, off) =>
        if (podOf s p).isNone || (List.range n).any (fun i => driverPoison s p (off + i)) then reply (.error h) s
        else reply (.bytes h ((List.range n).map (fun i => driverByte s p (off + i)))) { s with fresh := s.fresh + 1 }
    else if (transferOf s h.pkg job).isNone then reply (.error h) s
    else match hostHits s h.pkg job permR false a n with
      | none => reply (.error h) s
      | some hs => reply (.bytes h (hs.map (fun x => homeByte s x.loc x.key))) s) s

/-- GRAPH_CREATE (17 R452, 02 R82): the next graph of a job, from 1 on. -/
def execGraphCreate (h : Cmd) (job : Nat) (s : State) : Out :=
  command (.graphCreate h job) h true (fun s =>
    match jobOn s h.pkg job with
    | none => reply (.error h) s
    | some j =>
      let n := j.graphs.length + 1
      if 2 ^ 16 ≤ n then reply (.error h) s
      else reply (.ok h [wd n]) (onJob h.pkg job (fun j => { j with graphs := j.graphs ++ [⟨n, false, 0, [], [], []⟩] }) s)) s
/-- QUEUE_BIND_CMD (17 R459). -/
def execQueueBindCmd (h : Cmd) (q job : Nat) (s : State) : Out :=
  command (.queueBindCmd h q job) h true (fun s =>
    if Config.launchQueues ≤ q || (jobOn s h.pkg job).isNone || s.queues.any (fun x => x.pkg = h.pkg && x.q = q) then
      reply (.error h) s
    else reply (.ok h []) { s with queues := s.queues ++ [⟨h.pkg, q, job, []⟩] }) s
/-- Whether the device's check of a launch record fails (17 R461); its tile record is checked as that of a launch at the root level over the
root instance (02 R47). -/
def recordFails (s : State) (pkg : Nat) (j : Job) (ws : List Word) : Bool :=
  let w := rw ws
  let wide := fld (rw j.words 0) 10 8
  let root := recRoot ws
  let c := recCore ws
  let probe : Gang := { at_ := c, job := j.id }
  fld (w 0) 31 22 ≠ 0 || fld (w 0) 15 11 ≠ 0 || fld (w 0) 7 0 ≠ 1 || fld (w 2) 63 18 ≠ 0 || w 6 ≠ 0 || w 7 ≠ 0 ||
    tileBad (ws.drop 8) root (launchKids s c root) (costartOf s pkg j.id (w 1)) || fld (w 0) 63 48 ≠ j.id || !j.graphs.any (fun x => x.idx = fld (w 0) 47 32) ||
    fld (rw j.words 0) 33 32 < fld (w 0) 17 16 || root = 0 || 5 < root || wide < root || (wide ≠ 5 && c.pkg ≠ pkg) ||
    (wide = 3 && c.die ≠ fld (rw j.words 0) 12 11) || !inPod s pkg c.pkg || (execFault s probe (w 1)).isSome
/-- Take one record (17 R461, 02 R82): it gets the next launch number of its graph; one that fails its check completes at once. -/
def takeRecord (pkg q : Nat) (j : Job) (s : State) (ws : List Word) : State :=
  let gi := fld (rw ws 0) 47 32
  let num := (((jobOn s pkg j.id).bind (fun x => x.graphs.find? (fun g => g.idx = gi))).map (·.accepted)).getD 0 + 1
  let final := (rw ws 0).getLsbD 21
  let take (g : Graph) : Graph := { g with accepted := num, sealed := g.sealed || final }
  let s := onJob pkg j.id (fun x => { x with graphs := upd (fun g => g.idx = gi) take x.graphs }) s
  let root := recRoot ws
  if recordFails s pkg j ws then
    rootDone pkg j.id gi num q (rw ws 5) (rootStatus cBadRecord (if 1 ≤ root && root ≤ 5 then root else 0) false) s
  else
    { s with queues := upd (fun x => x.pkg = pkg && x.q = q) (fun x => { x with recs := x.recs ++ [⟨ws, gi, num, false⟩] }) s.queues }
/-- SUBMIT (17 R459 to R461). -/
def execSubmit (h : Cmd) (q : Nat) (recs : List (List Word)) (s : State) : Out :=
  command (.submit h q recs) h true (fun s =>
    match s.queues.find? (fun x => x.pkg = h.pkg && x.q = q) with
    | none => reply (.error h) s
    | some lq =>
      match jobOn s h.pkg lq.job with
      | none => reply (.error h) s
      | some j =>
        let gi (r : List Word) : Nat := fld (rw r 0) 47 32
        let isSealed (r : List Word) : Bool := j.graphs.any (fun g => g.idx = gi r && g.sealed)
        let lasts := (recs.filter (fun r => (rw r 0).getLsbD 21)).map gi
        if j.sess ≠ some (h.pkg, h.sess) || j.ending.isSome || recs.any (fun r => r.length ≠ 16) || recs.any isSealed ||
            lasts.eraseDups.length ≠ lasts.length then reply (.error h) s
        else if Config.queueDepth < lq.recs.length + recs.length then reply (.queueFull h) s
        else reply (.ok h []) (recs.foldl (takeRecord h.pkg q j) s)) s

/-- CANCEL_LAUNCH (17 R464, 02 R85): the launch that a queue took with a number, queued or started. -/
def execCancelLaunch (h : Cmd) (q n : Nat) (s : State) : Out :=
  command (.cancelLaunch h q n) h true (fun s =>
    if !s.queues.any (fun x => x.pkg = h.pkg && x.q = q) then reply (.error h) s
    else
      let mark (r : QRec) : QRec := { r with cancelled := true }
      let ids := (s.launches.filter (fun l => l.issuer.isNone && l.pkg = h.pkg && l.queue = q && l.number = n)).map (·.id)
      reply (.ok h []) { cancelLaunches ids s with
        queues := upd (fun x => x.pkg = h.pkg && x.q = q) (fun x => { x with recs := upd (fun r => r.number = n) mark x.recs }) s.queues }) s
/-- CANCEL_GRAPH (17 R464, 02 R85). -/
def execCancelGraph (h : Cmd) (job graph : Nat) (s : State) : Out :=
  command (.cancelGraph h job graph) h true (fun s =>
    match jobOn s h.pkg job with
    | some j => if j.graphs.any (fun g => g.idx = graph) then reply (.ok h []) (cancelWhole h.pkg job (some graph) s)
      else reply (.error h) s
    | none => reply (.error h) s) s
/-- CANCEL_JOB (17 R464, 02 R85). -/
def execCancelJob (h : Cmd) (job : Nat) (s : State) : Out :=
  command (.cancelJob h job) h true (fun s =>
    if (jobOn s h.pkg job).isNone then reply (.error h) s else reply (.ok h []) (cancelWhole h.pkg job none s)) s
/-- A graph's counter, and whether the graph is complete (02 R82). -/
def graphCount (g : Graph) : Nat := countFrom g.done g.accepted 0
def graphComplete (g : Graph) : Bool := g.sealed && graphCount g = g.accepted
/-- A job's counter (02 R82). -/
def jobCount (j : Job) : Nat :=
  countFrom ((j.graphs.filter graphComplete).map (·.idx)) j.graphs.length 0
/-- COUNTER_READ (17 R452, 02 R82). -/
def execCounterRead (h : Cmd) (job : Nat) (graph : Option Nat) (s : State) : Out :=
  command (.counterRead h job graph) h true (fun s =>
    match jobOn s h.pkg job with
    | none => reply (.error h) s
    | some j => match graph with
      | none => reply (.ok h [wd (jobCount j)]) s
      | some i => match j.graphs.find? (fun g => g.idx = i) with
        | some g => reply (.ok h [wd (graphCount g)]) s
        | none => reply (.error h) s) s
/-- JOB_CLAIM (17 R451): a session claims an orphaned job with its owner token and receives what was held for it, in order. -/
def execJobClaim (pkg sess job : Nat) (owner : Word) (s : State) : Out :=
  .next (match jobOn s pkg job, sessOf s pkg sess with
    | some j, some x =>
      let s := if x.confirmed then onSess pkg sess (fun x => { x with fails := 0 }) s else s
      if j.sess.isSome || !x.confirmed || rw j.words 9 ≠ owner then s
      else
        let s := onJob pkg job (fun j => { j with sess := some (pkg, sess), heldMsgs := [] }) s
        { s with out := s.out ++ j.heldMsgs.map (.message pkg sess) }
    | none, some x => if x.confirmed then onSess pkg sess (fun x => { x with fails := 0 }) s else s
    | _, none => s)
/-- CHECKPOINT and CHECKPOINT_RESTORE (21 R532, R533): a MemWrite of the control record whose function starts the operation. -/
def ckptCommand (i : Instr) (fn : Nat) (h : Cmd) (rec_ : List Word) (s : State) : Out :=
  command i h true (fun s =>
    if fld (rw rec_ 0) 1 0 ≠ fn then reply (.error h) s
    else reply (.ok h []) (startCkpt h.pkg ((List.range 32).map (rw rec_))
      (driverWrite h.pkg 256 ckptPage ((List.range 32).flatMap (fun i => leBytes 8 (rw rec_ i).toNat)) s))) s
/-- CHECKPOINT (21 R533). -/
def execCheckpoint (h : Cmd) (rec_ : List Word) (s : State) : Out := ckptCommand (.checkpoint h rec_) 1 h rec_ s
/-- CHECKPOINT_RESTORE (21 R533). -/
def execCheckpointRestore (h : Cmd) (rec_ : List Word) (s : State) : Out := ckptCommand (.checkpointRestore h rec_) 2 h rec_ s

end Sys2Proof.Machine
end

