-- ==== Sys2Proof/Machine/RegUse.lean ====
section
/-! DEFINITION. The registers that an instruction names for the packing of clauses (09 R290 to R293, R535, 16 R425, R429): what it
reads, what it writes, and the latency of its result. -/

namespace Sys2Proof.Machine

/-- Register use: registers read and written, special registers into which flags are ORed (05 R174, 06 R217), every vector, scalar, mask
and special register (16 R429), and λ, 0 for a flagged result or none. -/
structure Use where
  r : List Nat := []
  w : List Nat := []
  o : List Nat := []
  all : Bool := false
  lat : Nat := 0
deriving DecidableEq, Repr

/-- Numbers of registers: vector registers as the fields name them, scalars, masks, shape records, special registers. -/
def uV (r : Reg) (n : Nat := 1) : List Nat := (List.range n).map (fun i => r.toNat + i)
def uS (r : Reg) (n : Nat := 1) : List Nat := (List.range n).map (fun i => 256 + r.toNat + i)
def uK (k : BitVec 3) : List Nat := [400 + k.toNat]
def uH (n : BitVec 3) : List Nat := [410 + n.toNat]
def uX (n : Nat) : List Nat := [420 + n]
/-- A vector group whose extent is known at run time only: registers beyond v127 are not counted (09 R535). -/
def uVrun (r : Reg) (n : Nat) : List Nat := (uV r n).filter (fun x => x < 128)
/-- `%fpcsr`, `%lscale` and `%ovf`. -/
def uFp : List Nat := uX 0x10
def uLs : List Nat := uX 0x11
def uOv : List Nat := uX 0x12
/-- A scalar result of latency 2 from two scalars. -/
def uSc (d a b : Reg) : Use := { r := uS a ++ uS b, w := uS d, lat := 2 }
/-- The routed operand: a scalar on route 14 (09 R277). -/
def uRt (b : Reg) (r : Route) : List Nat := if r = .scalar then uS b else uV b
/-- The operand of an S-form: a scalar where its bit is set. -/
def uXs (b : Reg) (x : Bool) : List Nat := if x then uS b else uV b
/-- A routed vector operation. -/
def uVr (d a b : Reg) (r : Route) (lat : Nat) : Use := { r := uV a ++ uRt b r, w := uV d, lat := lat }
/-- A routed floating-point operation; `acc` says that the old destination is an operand. -/
def uFr (d a b : Reg) (r : Route) (acc : Bool) : Use :=
  { r := uV a ++ uRt b r ++ (if acc then uV d else []), w := uV d, o := uFp, lat := 4 }
/-- Vector registers of an access of a size. -/
def uSz (z : Size) : Nat := if z = .d then 2 else 1
/-- Registers of an address form (12 R357). -/
def uAddr (a : Reg) : AddrForm → List Nat
  | .vz b | .vs b => uS a ++ uV b
  | .lin => uS a
/-- A scalar that 0 omits. -/
def uOpt (p : Reg) : List Nat := if p = 0 then [] else uS p
/-- Codes and packed registers of `fpack` (11 R351). -/
def uPack : PackW → Nat × Nat
  | .h2 => (2, 1) | .b4 => (4, 1) | .n8 => (8, 1) | .s6 => (16, 3)
/-- Latency of `ffun` (16 R425). -/
def uFun : FFunOp → Nat
  | .abs | .neg => 2
  | .rint => 4
  | .rcp | .sqrt | .rsqrt | .exp2 | .log2 | .sinpi | .cospi | .tanh => 12
/-- Whether a reduction or scan ORs floating-point flags. -/
def uRed : VRedlOp → Bool
  | .fadd | .fmin | .fmax => true
  | .add | .min | .max | .minu | .maxu | .and | .or | .xor => false

/-- The register use of an instruction. -/
def regUse : Instr → Use
  | .braIndirect a _ => { r := uS a }
  | .brcNz n _ | .brcZ n _ => { r := uS (n.setWidth 7) }
  | .brd k _ _ => { r := uK k }
  | .call _ | .ret | .tret => { all := true }
  | .callIndirect a _ => { r := uS a, all := true }
  | .rget _ | .rput => { w := uX 0x0C }
  | .winb _ => { w := uX 0x09 }
  | .sadd d a b _ | .ssub d a b _ | .sand d a b _ | .sor d a b _ | .sxor d a b _ | .sshl d a b _ | .sshr d a b _
  | .sminmax d a b _ | .scmp d a b _ => uSc d a b
  | .smul d a b _ => { uSc d a b with lat := 4 }
  | .ssel d a b _ => { r := uS a ++ uS b ++ uS d, w := uS d, lat := 2 }
  | .saddi d a _ | .slogi d a _ _ => { r := uS a, w := uS d, lat := 2 }
  | .sli d _ => { w := uS d, lat := 2 }
  | .sbit d a b m => match m with
    | .tok => { r := uS a, w := uK (d.setWidth 3), lat := 2 }
    | .fromk => { r := uK (a.setWidth 3), w := uS d, lat := 2 }
    | .ext | .exts => uSc d a b
    | .popc | .clz | .ctz | .brev | .bswap => { r := uS a, w := uS d, lat := 2 }
  | .ssprRd d n => { r := uX n.toNat, w := uS d, lat := 2 }
  | .ssprWr a n => { r := uS a, w := uX n.toNat }
  | .ssprOr a n | .ssprAndn a n => { r := uS a ++ uX n.toNat, w := uX n.toNat }
  | .vadd d a b r | .vsub d a b r | .vand d a b r | .vor d a b r | .vxor d a b r => uVr d a b r 2
  | .vmul d a b r => uVr d a b r 4
  | .vshl d a b x _ | .vshr d a b x _ | .vminmax d a b x _ => { r := uV a ++ uXs b x, w := uV d, lat := 2 }
  | .vcmp k a b x _ => { r := uV a ++ uXs b x, w := uK k, lat := 2 }
  | .vsel d a b x k => { r := uV a ++ uXs b x ++ uK k, w := uV d, lat := 2 }
  | .vmov f => match f with
    | .v d a => { r := uV a, w := uV d, lat := 2 }
    | .s d a | .sh d a | .ins d a _ => { r := uS a, w := uV d, lat := 2 }
    | .lane d => { w := uV d, lat := 2 }
    | .x d a _ => { r := uV a, w := uS d, lat := 2 }
    | .k d a => { r := uK a, w := uV d, lat := 2 }
  | .vperm d a b _ => { r := uV a ++ uV b, w := uV d, lat := 4 }
  | .vvote d a m => { r := uV a, w := if m = .ballot then uK (d.setWidth 3) else uS d, lat := 4 }
  | .vscan d a _ o => { r := uV a, w := uV d, o := if o = .fadd then uFp else [], lat := 8 }
  | .vredl d a o => { r := uV a, w := uS d, o := if uRed o then uFp else [], lat := 8 }
  | .fadd d a b r | .fsub d a b r | .fmul d a b r | .hadd2 d a b r | .hmul2 d a b r => uFr d a b r false
  | .ffma d a b r | .hfma2 d a b r | .fdot2 d a b r => uFr d a b r true
  | .fminmax d a b x _ => { r := uV a ++ uXs b x, w := uV d, o := uFp, lat := 4 }
  | .fcmp k a b x _ => { r := uV a ++ uXs b x, w := uK k, o := uFp, lat := 4 }
  | .ffun d a f => { r := uV a, w := uV d, o := if f = .abs || f = .neg then [] else uFp, lat := uFun f }
  | .fcvt d a _ _ _ => { r := uV a, w := uV d, o := uFp, lat := 4 }
  | .fpack d a un w =>
    { r := uV a (if un then (uPack w).2 else (uPack w).1), w := uV d (if un then (uPack w).1 else (uPack w).2), lat := 2 }
  | .fclass d a _ => { r := uV a, w := uV d, lat := 2 }
  | .frng d _ => { w := uV d, lat := 6 }
  | .fscale d a b x ex => { r := uV a ++ (if ex then [] else uXs b x), w := uV d, o := uFp, lat := 4 }
  | .ld d a f z => { r := uAddr a f, w := uV d (uSz z) }
  | .st d a f z => { r := uAddr a f ++ uV d (uSz z) }
  | .lds d a _ _ | .ldc d a _ _ => { r := uS a, w := uS d }
  | .sts d a _ _ => { r := uS a ++ uS d }
  | .ldsp d a b _ _ => { r := uS a ++ uS b, w := uV d }
  | .stsp d a b _ _ => { r := uS a ++ uS b ++ uV d }
  | .ldb d a b n => { r := uS a ++ uOpt b, w := uV d (n.toNat + 1) }
  | .stb d a b n => { r := uS a ++ uOpt b ++ uV d (n.toNat + 1) }
  | .pref a f => { r := uAddr a f }
  | .cpy _ d p _ | .mcopy _ d p _ | .reduce _ d p _ => { r := uS d 4, w := uOpt p, lat := if p = 0 then 0 else 1 }
  | .tlwait _ => { o := uFp }
  | .tlwaitN _ n => { r := uS n, o := uFp }
  | .tlreadCnt d _ | .tlreadLast d _ | .tlreadSkip d _ => { w := uS d }
  | .sleept a => { r := uS a }
  | .atom d a b o => { r := uS a ++ uV b ++ uV d, w := uV d, o := if o = .fadd then uFp else [] }
  | .atom64 d a b _ => { r := uS a ++ uV b ++ uV d 2, w := uV d 2 }
  | .casW d a b => { r := uS a ++ uV b ++ uV d 2, w := uV d }
  | .casD d a b => { r := uS a ++ uV b ++ uV d 4, w := uV d 2 }
  | .red d a b o => { r := uS a ++ uV b ++ uV d (match o with
      | .addD | .andD | .orD | .minD | .maxD | .minuD | .maxuD => 2
      | .add | .and | .or | .xor | .min | .max | .minu | .maxu | .faddOf => 1) }
  | .chunk d a b => { r := uS a ++ uV b, w := uV d 4 }
  | .qpush d a => { r := uS a ++ uV d 8 }
  | .qpop d a k => { r := uS a, w := uV d 8 ++ uK k }
  | .qpops d a => { r := uS a, w := uS d 8 }
  | .qclose a => { r := uS a }
  | .lnch d f t _ | .lnchTry d f t _ => { r := uS (f.setWidth 7) ++ uS t 8, w := uS d, lat := 1 }
  | .joinw d a => { r := uS a, w := uS d, lat := 1 }
  | .cancelL a => { r := uS a }
  | .mma _ a b _ => { r := uS a 2 ++ uS b 2 ++ List.range 128 }
  | .mldw _ b => { r := uS b 2 }
  | .accrd d _ c n => { r := uH n, w := uVrun d 16 ++ uS c }
  | .accwr _ s n => { r := uVrun s 16 ++ uH n }
  | .acccvt d _ _ n => { r := uH n ++ uLs, w := uVrun d 17, o := uFp ++ uOv, lat := 4 }
  | .accadd _ _ n => { r := uH n, o := uFp, lat := 0 }
  | .acccp _ _ n => { r := uH n }
  | .accmx d _ n => { r := uH n, w := uS d, lat := 4 }
  | .shset n a => { r := uS a, w := uH n, lat := 2 }
  | .shget d n => { r := uH n, w := uS d, lat := 2 }
  | .pkld _ a => { r := uS a }
  | .pkq _ d | .pkb _ d => { r := uS d 6 }
  | .ovfq d => { w := uS d }
  | .lsapp d a => { r := uS a ++ uS d ++ uLs ++ uOv, w := uS d ++ uLs ++ uOv, lat := 2 }
  | _ => {}
/-- Whether a number is one of a shape record: R429 does not count it. -/
def isShapeReg (n : Nat) : Bool := 410 ≤ n && n < 420
/-- What the packing knows of `%window` at a word: its value, or only that it is the one that stood at some place. -/
inductive WinAt where
  | known (w : Nat)
  | same (place : Nat)
deriving DecidableEq, Repr
/-- The number of a register under a window (09 R275): a vector register counts through it, from 10,000 on where the window is known; any
other keeps its number. -/
def WinAt.reg (w : WinAt) (n : Nat) : Nat :=
  if 256 ≤ n then n
  else match w with
    | .known b => 10000 + b + n
    | .same p => 20000 + 256 * p + n
/-- A register use under a window. -/
def WinAt.use (w : WinAt) (u : Use) : Use := { u with r := u.r.map w.reg, w := u.w.map w.reg, o := u.o.map w.reg }
/-- Whether two register numbers may name one register: vector registers through windows of which the packing does not know whether they
are the same one may (DESIGN CHOICE, log 51). -/
def sameReg (a b : Nat) : Bool :=
  a = b || (10000 ≤ a && 10000 ≤ b && ((a < 20000) != (b < 20000) || (20000 ≤ a && 20000 ≤ b && (a - 20000) / 256 ≠ (b - 20000) / 256)))
/-- The vector registers whose holding a word shows (09 R280, R535): the first of a group that a shape sizes, none of an `mma`. -/
def namedRegs : Instr → List Nat
  | .mma _ _ _ _ => []
  | .accrd d _ _ _ | .acccvt d _ _ _ => uV d
  | .accwr _ s _ => uV s
  | i => (((regUse i).r ++ (regUse i).w).filter (fun n => n < 256)).eraseDups

end Sys2Proof.Machine
end

