-- ==== Sys2Proof/Machine/Save.lean ====
section
/-! DEFINITION. Save and Resume (18 R485 to R497, 03 R121, 06 R215, 07 R238): a job's gangs on a package leave for a save image
and come back from it. -/

namespace Sys2Proof.Machine

/-- The fields of a Save or Resume request (18 R485): job, mode, function, deadline in microseconds. -/
def reqJob (r : List Word) : Nat := fld (rw r 0) 63 48
def reqMode (r : List Word) : Nat := fld (rw r 0) 9 8
def reqFn (r : List Word) : Nat := fld (rw r 0) 7 0
def reqDl (r : List Word) : Nat := if fld (rw r 2) 31 0 = 0 then 200 else fld (rw r 2) 31 0
/-- Whether a request breaks R485; `fn` is the function that it must name. -/
def reqBad (fn : Nat) (r : List Word) : Bool :=
  r.length ≠ 4 || reqFn r ≠ fn || fld (rw r 0) 47 10 ≠ 0 || (if fn = 1 then 1 else 0) < reqMode r || fld (rw r 2) 63 32 ≠ 0 ||
    rw r 3 ≠ 0 || (rw r 1).toNat % 2 ^ 21 ≠ 0 || (rw r 1).toNat < Config.driverBase ||
    Config.driverBase + Config.driverBytes ≤ (rw r 1).toNat
/-- Whether a Save request is refused: its fields, its deadline, an image that does not fit or meets a live one, a job that is
not resident, is ending, or has an image already (18 R485, R490). -/
def saveBad (s : State) (pkg : Nat) (r : List Word) : Bool :=
  let base := (rw r 1).toNat
  let n := imageBytes s (reqJob r) pkg (reqMode r)
  reqBad 1 r || reqDl r < 10 || 10000000 < reqDl r || Config.driverBase + Config.driverBytes < base + n ||
    deviceHeld s pkg (base - Config.driverBase) n || (imageOf s pkg (reqJob r)).isSome ||
    ((jobOn s pkg (reqJob r)).map (fun j => !j.resident || j.ending.isSome)).getD true
/-- The gangs of a job that hold slots of a package. -/
def jobGangs (s : State) (pkg job : Nat) : List Gang := (gangs s).filter (fun g => g.at_.pkg = pkg && g.job = job && inSlot g)
/-- Whether a gang stands in a holding wait that ends before a Save stops it: the store skid, or a store-fault record that is delivered
first (18 R486 step 2, 12 R394). -/
def isHeld (s : State) (g : Gang) : Bool := mayIssue s g && (skidFull s g || (dueFault s g).isSome)
/-- SAVE (18 R485, R486 steps 1 and 2): no further child of the job starts on the package, and each of its gangs stops, unless a
cancel has reached it (02 R88); one in a holding wait stops once that has ended. -/
def execSave (h : Cmd) (req : List Word) (s : State) : Out :=
  command (.save h req) h true (fun s =>
    if saveBad s h.pkg req then reply (.error h) s
    else
      let i : SaveImage := {
        job := reqJob req, pkg := h.pkg, base := (rw req 1).toNat, mode := reqMode req, state := 0, cmd := h
        deadline := s.cycle + reqDl req * 1700, t0 := pkgCycle s h.pkg, t1 := 0, gangs := [], saved := 0, fresh := 0, stopped := [], kiln := []
        granary := [], spad := [], faults := [], windows := [], acc := [], tiles := [], resuming := none }
      let us := ((jobGangs s h.pkg i.job).filter (fun g => g.phase = .running && !g.cancelled && !isHeld s g)).map (·.uid)
      us.foldl stopGang { s with images := s.images ++ [i] }) s

/-- Whether an engine operation was issued on a package by a gang of a list. -/
def issuedBy (us : List Nat) (uid : Nat) : Bool := us.contains uid
/-- The gangs that a Save takes into its image: those that it has stopped, and those that have ended but have a `pkq` that it stops (07
R238). -/
def savedGangs (s : State) (i : SaveImage) : List Gang :=
  (jobGangs s i.pkg i.job).filter (fun g => g.stopping || s.granary.any (fun o => o.uid = g.uid && granSaved s o))
/-- Whether everything that a Save waits for has ended (18 R486 step 4, 07 R238): every running gang of the job has stopped, its
`pkld`s and `pkb`s have completed, and in mode 1 its other operations and ending gangs have too. -/
def saveReady (s : State) (i : SaveImage) : Bool :=
  let gs := jobGangs s i.pkg i.job
  let held := (savedGangs s i).map (·.uid)
  gs.all (fun g => g.stopping || g.phase = .draining) &&
    !s.granary.any (fun o => o.at_.pkg = i.pkg && o.id.job = i.job && !granSaved s o) &&
    (i.mode ≠ 1 ||
      (gs.all (fun g => held.contains g.uid) && !s.carts.any (fun c => c.at_.pkg = i.pkg && c.id.job = i.job) &&
        !s.mldws.any (fun m => m.at_.pkg = i.pkg && m.op.job = i.job) &&
        !s.kiln.any (fun k => k.at_.pkg = i.pkg && k.op.job = i.job && !held.contains k.uid)))
/-- An `mma` as a save image holds it (06 R215): suspended with cause 0, or suspended by a fault as before. -/
def savedEntry (k : KilnEntry) : KilnEntry :=
  if k.state = 2 then k else { k with state := 2, cause := 0, weights := #[], wscales := #[] }
/-- The status of the tile of an `mma` that a Save suspends (06 R209, R215): it describes the one that has started, else the first
issued; one that has started stays busy. -/
def suspendTile (k : KilnEntry) (s : State) : State :=
  if k.state = 2 || !leads s k then s
  else onTile k.at_ k.tile (fun x => { x with
    ipc := k.ipc, body := k.body, busy := k.began, susp := true, gang := k.at_.slot, entry := 0, cause := 0
    resume := k.next, steps := k.steps }) s
/-- Whether a running cart operation of the job reaches a scratch window (12 R376, 02 R536): the window then stays (log 18). -/
def cartReaches (s : State) (job : Nat) (w : Scratch) : Bool :=
  s.carts.any (fun c => c.id.job = job && (c.win.2.2 = w.gen || (c.level = 2 && unitOf 2 c.at_ = unitOf 2 w.core)))
/-- The bytes that a scratch window's function has written, by window offset. -/
def spadBytes (s : State) (w : Scratch) : List (Nat × Byte) :=
  (List.range w.size).filterMap (fun o =>
    let l := locOf 3 (coreIx w.core) (w.base + o)
    if memKey s l = some (BitVec.ofNat 512 w.gen) then some (o, memByte s l) else none)
/-- A list of gangs leaves its slots. -/
def removeGangs (us : List Nat) (s : State) : State :=
  { s with g := if us.contains s.g.uid then {} else s.g, others := s.others.filter (fun g => !us.contains g.uid) }
/-- The job is evicted (18 R486 step 6): its units unbind, the image takes its windows as they then stand, and the job stops being
resident. -/
def evict (j : Job) (s : State) : State :=
  let s := releaseUnits j s
  let s := onImage j.pkg j.id (fun i => { i with windows := s.mem.filter (fun e => inWindows j e.1) }) s
  onJob j.pkg j.id (fun x => { x with resident := false }) (scrubJob j s)
/-- Free values of an image's die and cluster sections (18 R491). -/
def sectionBytes : Nat := 0x501000
/-- The state that a meaning leaves. -/
def after (o : Out) (s : State) : State :=
  match o with
  | .next t => t
  | .fault _ | .refused _ => s
/-- SAVE_COMPLETE (18 R486 steps 3 to 7, R488, R489, R495, 06 R215, 07 R238, 04 R138): before the deadline, the stopped gangs publish at
their root levels, the kiln completes the step in progress of each of their started `mma`s, and they move into the image with what is theirs. -/
def execSaveComplete (job pkg : Nat) (s : State) : Out :=
  .next (match imageOf s pkg job, jobOn s pkg job with
    | some i, some j =>
      if i.state ≠ 0 || i.deadline ≤ s.cycle || !saveReady s i then s
      else
        let us := (savedGangs s i).map (·.uid)
        let s := us.foldl (fun s u => publishFor u (((gangOf s u).map (·.root)).getD 0) s) s
        let s := us.foldl (fun s u => onGang u settleAll (dropWaits u s)) s
        let gs := us.filterMap (gangOf s)
        let s := (s.kiln.filter (fun k => us.contains k.uid && k.state = 1)).foldl (fun s k => after (execMmaStepComplete k.id s) s) s
        let out (k : KilnEntry) : Bool := us.contains k.uid && (i.mode = 1 || !(k.state = 2 && k.cause ≠ 0))
        let ks := s.kiln.filter out
        let s := ks.foldl (fun s k => suspendTile k s) s
        let s := { s with kiln := s.kiln.filter (fun k => !out k) }
        let ws := s.scratch.filter (fun w => w.core.pkg = pkg && ((launchOf s w.launch).map (·.job)) = some job &&
          !cartReaches s job w)
        let share (t : Nat) : Bool := fld (rw j.words 7) 3 0 ≤ t && t < fld (rw j.words 7) 3 0 + fld (rw j.words 7) 12 8
        let full : SaveImage := { i with
          state := 1, t1 := pkgCycle s pkg, gangs := gs, saved := gs.length, fresh := s.fresh, kiln := ks.map savedEntry
          granary := (s.granary.filter (fun o => us.contains o.uid)).map (fun o => { o with started := false })
          spad := ws.map (fun w => (w, spadBytes s w)), faults := s.faults.filter (fun f => us.contains f.uid)
          acc := s.acc.filter (fun e => e.1 / 2 ^ 25 = pkg && share (e.1 / 2 ^ 13 % 16))
          tiles := s.tiles.filter (fun e => e.1 / 2 ^ 12 = pkg && share (e.1 % 16)) }
        let s := removeGangs us { s with
          granary := s.granary.filter (fun o => !us.contains o.uid)
          scratch := s.scratch.filter (fun w => !ws.contains w)
          faults := s.faults.filter (fun f => !us.contains f.uid)
          fresh := s.fresh + sectionBytes
          images := upd (fun x => x.pkg = pkg && x.job = job) (fun _ => full) s.images }
        reply (.ok i.cmd []) (if i.mode = 1 then evict j s else s)
    | _, _ => s)

/-- Run a meaning a number of times. -/
def timesDo (f : State → Out) : Nat → State → State
  | 0, s => s
  | n + 1, s => timesDo f n (after (f s) s)
/-- A cart operation is abandoned (18 R488): each element that it would have written keeps its old value or takes the new one. -/
def abandonCart (s : State) (op : CartOp) : State :=
  let (ch, s) := pick s
  let m := runCart (reachSlots s op) false (fun _ => true) ⟨[], none, 0, op.held, s⟩
  let e0 := ((m.wr.head?).map (fun w => w.1 / 4)).getD 0
  let ls := (m.wr.filter (fun w => ch / 2 ^ (w.1 / 4 - e0) % 2 = 1)).map (·.1)
  let p := s.wseq + 1
  let t := ls.foldl (fun t l => putByte p l (memByte m.st l) (memKey m.st l) t) { s with wseq := p }
  completeNum op.id { onGangAny op.uid (fun g => { g with own := ls.foldl (fun v l => cset 0 v l p) (vjoin g.own op.wr) }) t with
    carts := t.carts.filter (fun c => c.id ≠ op.id) }
/-- A kiln operation is abandoned: any number of its further steps may have run. -/
def abandonKiln (s : State) (k : KilnEntry) : State :=
  let (ch, s) := pick s
  let s := if k.state = 1 then timesDo (execMmaStepComplete k.id) (ch % 33) s else s
  match s.kiln.find? (fun x => x.id = k.id) with
  | some e => abandonMma e s
  | none => s
/-- A granary operation is abandoned: any number of its further queries or row segments may have been written. -/
def abandonGranary (s : State) (o : GranaryOp) : State :=
  let (ch, s) := pick s
  let head := (granHead s o.at_).map (·.id) = some o.id && o.started
  let s := if !head then s
    else if o.kind = 1 then timesDo (execGranaryQueryBoundary o.at_) ch s
    else if o.kind = 2 then timesDo (execGranarySegmentWrite o.at_) ch s
    else s
  completeNum o.id { s with granary := s.granary.filter (fun x => x.id ≠ o.id) }
/-- A posted store or an atomic of a gang that a reset stops lands or not (18 R488). -/
def landOrNot (uid : Nat) (s : State) : State :=
  let s := (onWay s uid).foldl (fun s i => let (ch, s) := pick s; if ch % 2 = 1 then serveId i s else s) s
  { s with
    stores := s.stores.filter (fun r => r.uid ≠ uid)
    atoms := s.atoms.filter (fun r => r.uid ≠ uid) }
/-- The children of a launch after a reset of the job's context on a package (18 R488): one whose start waits there fails, and one that runs there
fails with its dead leader. -/
def resetKids (us : List Nat) (pkg : Nat) (l : Launch) : Launch :=
  let o := childLevel l
  let there (k : Nat) : Bool := (childCores l k).all (fun c => c.pkg = pkg)
  let mine := (l.issuer.map (fun i => us.contains i.1)).getD false
  { l with
    record := l.record && !mine
    children := (l.children.zip (List.range l.children.length)).map (fun p => match p.1 with
      | .waiting => if there p.2 && !l.completed then .failed cReset o else .waiting
      | .running u => .running u
      | .done => .done
      | .failed a b => .failed a b) }
/-- The context of a job on a package is reset (18 R488): its gangs stop at once, its operations are abandoned, the children and root
launches that run or wait there fail. -/
def resetContext (pkg job : Nat) (s : State) : State :=
  let gs := jobGangs s pkg job
  let all_ := gs.map (·.uid)
  let us := (gs.filter (fun g => g.phase = .running)).map (·.uid)
  let s := (s.carts.filter (fun c => issuedBy all_ c.uid)).foldl abandonCart s
  let s := (s.kiln.filter (fun k => issuedBy all_ k.uid)).foldl abandonKiln s
  let s := (s.granary.filter (fun o => issuedBy all_ o.uid)).foldl abandonGranary s
  let s := (s.mldws.filter (fun m => issuedBy all_ m.uid)).foldl (fun s m => completeNum m.op s) s
  let s := us.foldl (fun s u => landOrNot u (dropWaits u s)) s
  let dead := (us.filterMap (gangOf s)).map (fun g => deadGang (cReset, g.level) g)
  let s := removeGangs us s
  closeDead us { s with
    others := s.others ++ dead
    mldws := s.mldws.filter (fun m => !issuedBy all_ m.uid)
    faults := s.faults.filter (fun f => !us.contains f.uid)
    scratch := s.scratch.filter (fun w => !(w.core.pkg = pkg && ((launchOf s w.launch).map (·.job)) = some job))
    launches := s.launches.map (fun l =>
      if l.job = job && sameJob s job l.pkg pkg then resetKids us pkg l else l) }
/-- SAVE_DEADLINE_EXPIRY (18 R488): a Save that has not completed by its deadline resets the context. -/
def execSaveDeadlineExpiry (job pkg : Nat) (s : State) : Out :=
  .next (match imageOf s pkg job with
    | none => s
    | some i =>
      if i.state ≠ 0 || s.cycle < i.deadline then s
      else
        let s := resetContext pkg job s
        reply (.error i.cmd) (closeImage { i with t1 := pkgCycle s pkg } 2 s))

/-- The job becomes resident again with its windows and tiles (18 R496). -/
def readmit (j : Job) (i : SaveImage) (s : State) : State :=
  let s := onJob j.pkg j.id (fun x => { x with resident := true }) s
  let p := s.wseq + 1
  let s := i.windows.foldl (fun s e => putByte p e.1 e.2 none s) { s with wseq := p }
  { onImage j.pkg j.id (fun i => { i with gangs := i.gangs.map (fun g => { g with
      view := i.windows.foldl (fun v e => cset 0 v e.1 p) g.view }) }) s with
    acc := i.acc.foldl (fun m e => cset 0 m e.1 e.2) s.acc
    tiles := i.tiles.foldl (fun m e => cset {} m e.1 e.2) s.tiles }
/-- RESUME (18 R485, R496, 21 R533): the image is checked, and an evicted job becomes resident again. The restoring waits for the
replies that are still to come. -/
def execResume (h : Cmd) (req : List Word) (s : State) : Out :=
  command (.resume h req) h (!ckptBusy s h.pkg) (fun s =>
    match imageOf s h.pkg (reqJob req), jobOn s h.pkg (reqJob req) with
    | some i, some j =>
      if reqBad 2 req || i.base ≠ (rw req 1).toNat || i.state ≠ 1 || i.resuming.isSome || j.ending.isSome ||
          (if i.mode = 1 then jobRefused s h.pkg j.words else !j.resident) then reply (.error h) s
      else
        onImage h.pkg i.job (fun x => { x with resuming := some h }) (if i.mode = 1 then readmit j i s else s)
    | _, _ => reply (.error h) s) s
/-- What a cancelled gang leaves in an image is dropped (18 R489, R490): the numbers of its operations complete. -/
def dropStopped (i : SaveImage) (s : State) : State :=
  let gone (u : Nat) : Bool := i.stopped.contains u
  let s := (i.kiln.filter (fun k => gone k.uid)).foldl (fun s k => abandonMma k s) s
  let s := (i.granary.filter (fun o => gone o.uid)).foldl (fun s o => completeNum o.id s) s
  onImage i.pkg i.job (fun x => { x with
    gangs := x.gangs.filter (fun g => !gone g.uid)
    granary := x.granary.filter (fun o => !gone o.uid), faults := x.faults.filter (fun f => !gone f.uid)
    spad := x.spad.filter (fun w => s.launches.any (fun l => l.id = w.1.launch && !l.cancelled)), stopped := [] }) s
/-- A saved scratch window comes back at a base where it fits (18 R496, 01 R41): its bytes are new writes there, which the gangs of
the image see. -/
def restoreWindow (pkg job : Nat) (s : State) (w : Scratch × List (Nat × Byte)) : State :=
  match scratchBase s w.1.core w.1.size with
  | none => s
  | some b =>
    let loc (o : Nat) : Nat := locOf 3 (coreIx w.1.core) (b + o)
    let p := s.wseq + 1
    let s := w.2.foldl (fun s e => putByte p (loc e.1) e.2 (some (BitVec.ofNat 512 w.1.gen)) s) { s with wseq := p }
    let see (g : Gang) : Gang :=
      if unitOf 1 g.at_ = w.1.core then { g with view := w.2.foldl (fun v e => cset 0 v (loc e.1) p) g.view } else g
    onImage pkg job (fun i => { i with spad := i.spad.filter (fun x => x.1 ≠ w.1), gangs := i.gangs.map see })
      { s with scratch := s.scratch ++ [{ w.1 with base := b }] }
/-- The saved `mma`s of gangs that a Resume is restoring, in the order of their issue (06 R215). -/
def waitingEntries (s : State) : List KilnEntry :=
  let us := (resumable s).map (·.uid)
  (s.images.flatMap (fun i => i.kiln.filter (fun k => us.contains k.uid))).mergeSort (fun a b => a.id ≤ b.id)
/-- A saved `mma` takes an entry of its cluster's kiln again, where one is free (06 R215). -/
def returnEntry (s : State) (k : KilnEntry) : State :=
  if Config.kilnEntries ≤ (s.kiln.filter (fun x => clIx x.at_ = clIx k.at_)).length then s
  else
    let n := freeEntryOf s k.at_
    let e := if k.cause ≠ 0 then { k with slot := n } else { k with slot := n, state := if k.began then 3 else 0 }
    let s := { s with
      kiln := s.kiln ++ [e]
      images := s.images.map (fun i => { i with kiln := i.kiln.filter (fun x => x.id ≠ k.id) }) }
    if k.cause ≠ 0 then onTile k.at_ k.tile (fun x => if leads s e then { x with entry := n } else x) s else s
/-- Whether a gang of an image can come back now: its slot, its blocks, its scratch window, its kiln entries and its place in the
granary's queue (18 R496, 03 R121, 06 R215, 07 R238). -/
def canReturn (s : State) (i : SaveImage) (g : Gang) : Bool :=
  let os := (i.granary.filter (fun o => o.uid = g.uid)).length
  homeFree s g && blockClaim s g ≤ rawBlocks s (unitOf 1 g.at_) && !i.spad.any (fun w => w.1.core = unitOf 1 g.at_) &&
    !i.kiln.any (fun k => k.uid = g.uid) &&
    (os = 0 || (s.granary.filter (fun o => dieIx o.at_ = dieIx g.at_)).length + os ≤ Config.granaryQueue)
/-- A saved operation enters its granary's queue again, ahead of every operation that waits but for those of its job that were accepted
before it (07 R238). -/
def rejoin (o : GranaryOp) : List GranaryOp → List GranaryOp
  | [] => [o]
  | x :: r =>
    let before (y : GranaryOp) : Bool := y.id.eng = o.id.eng && (y.started || (y.id.job = o.id.job && y.id.n < o.id.n))
    if (x :: r).any before then x :: rejoin o r else o :: x :: r
/-- One gang of an image comes back: its slot, its acquire at its root level, its operations and its records (18 R496). -/
def returnGang (pkg job : Nat) (s : State) (g : Gang) : State :=
  match imageOf s pkg job with
  | none => s
  | some i =>
    if !canReturn s i g then s
    else
      let mine (u : Nat) : Bool := u = g.uid
      let h := { g with
        deferred := g.deferred.map (fun d => { d with anyBoundary := false })
        stopping := false, blocked := false, tried := 0, orNow := 0, view := acquired s g.root g, notBefore := s.cycle, resident := s.cycle }
      onImage pkg job (fun x => { x with
          gangs := x.gangs.filter (fun y => !mine y.uid)
          granary := x.granary.filter (fun o => !mine o.uid), faults := x.faults.filter (fun f => !mine f.uid) })
        { s with
          others := s.others ++ [h]
          early := s.early.drop 1
          granary := (i.granary.filter (fun o => mine o.uid)).foldl (fun q o => rejoin o q) s.granary
          faults := s.faults ++ i.faults.filter (fun f => mine f.uid) }
/-- What a Resume restores now: what stopped gangs leave is dropped, then windows, kiln entries and gangs whose places are free come
back; with the last of them the Resume replies. -/
def restoreMore (job pkg : Nat) (h : Cmd) (i : SaveImage) (s : State) : State :=
  let s := dropStopped i s
  let s := (((imageOf s pkg job).map (·.spad)).getD []).foldl (restoreWindow pkg job) s
  let s := (waitingEntries s).foldl returnEntry s
  let s := (((imageOf s pkg job).map (·.gangs)).getD []).foldl (returnGang pkg job) s
  match imageOf s pkg job with
  | none => s
  | some r => if r.gangs.isEmpty && r.spad.isEmpty then reply (.ok h []) (closeImage r 3 s) else s
/-- RESUME_RESTORE (18 R496, R497, 21 R533): once no reply is pending and no checkpoint operation runs, every saved gang whose place is
free comes back. The image stays as the Save wrote it. -/
def execResumeRestore (job pkg : Nat) (s : State) : Out :=
  .next (match imageOf s pkg job with
    | none => s
    | some i =>
      match i.resuming with
      | none => s
      | some h =>
        if i.state ≠ 1 || imagePending i ≠ 0 || ckptBusy s pkg || restoreMore job pkg h i s = s then s
        else restoreMore job pkg h i (keepImage i s))
/-- REPLY_TO_IMAGE (18 R495): a reply for a saved gang writes its destination in the image. -/
def execReplyToImage (job pkg : Nat) (c : Coords) (n : Nat) (s : State) : Out :=
  .next (match imageOf s pkg job with
    | none => s
    | some i =>
      match i.gangs.find? (fun g => g.at_ = c) with
      | none => s
      | some g => match g.pend.find? (fun p => p.id = n && p.left = 0 && p.far.all (fun f => flows s c.pkg f.2.2)) with
        | none => s
        | some p => onImage pkg job (fun i => { i with gangs := upd (fun x => x.uid = g.uid) (steerPend p) i.gangs }) s)

/-- The engines of a package stop with its dies (21 R531): what the gangs that the cancel has stopped have on its way there is abandoned before
writing, which 02 R86 allows (DESIGN CHOICE, log 50). -/
def haltEngines (pkg : Nat) (s : State) : State :=
  let s := (s.carts.filter (fun c => engPkg c.id.eng = pkg)).foldl (fun s c => completeNum c.id (onGangAny c.uid (fun g => { g with
    own := vjoin g.own c.wr }) { s with carts := s.carts.filter (fun x => x.id ≠ c.id) })) s
  let s := (s.kiln.filter (fun k => k.at_.pkg = pkg)).foldl (fun s k => abandonMma k s) s
  let s := (s.granary.filter (fun o => o.at_.pkg = pkg)).foldl (fun s o =>
    completeNum o.id { s with granary := s.granary.filter (fun x => x.id ≠ o.id) }) s
  (s.mldws.filter (fun m => m.at_.pkg = pkg)).foldl (fun s m => completeNum m.op { s with mldws := s.mldws.filter (fun x => x.op ≠ m.op) }) s
/-- THERMAL_SHUTDOWN (21 R531): at 115 °C every resident job is cancelled and the dies stop. -/
def execThermalShutdown (pkg tmax : Nat) (s : State) : Out :=
  .next (if tmax < 1150 then s else haltEngines pkg (onPkg pkg (fun p => { p with stopped := true }) (cancelAll pkg s)))

end Sys2Proof.Machine
end

