-- ==== Sys2Proof/Machine/Finaliser.lean ====
section
/-! DEFINITION. The finaliser (16 R428 to R447, 09 R290 to R294, R535, 03 R97, R119): from the bytes of an object to clauses, or to
the first error. -/

namespace Sys2Proof.Machine

/-- An error record (16 R446). -/
structure FinErr where
  code : Nat
  sec : Nat := 0xFFFF
  off : Nat := 0
  type : Nat := 0
  value : Word := 0
  sym : Nat := 0xFFFFFFFF
  kernel : Nat := 0xFFFFFFFF
deriving DecidableEq, Repr

/-- What a check answers. -/
abbrev Chk (α : Type) := Except FinErr α
/-- Fail where a condition holds. -/
def failIf (c : Bool) (e : FinErr) : Chk Unit := if c then .error e else .ok ()

/-- A section-table entry (16 R438). -/
structure Sec where
  type : Nat
  name : Nat
  off : Nat
  len : Nat
  align : Nat
  link : Nat
deriving DecidableEq, Repr, Inhabited
/-- An object: its bytes and its sections. -/
structure Obj where
  bytes : Array Byte
  secs : List Sec
/-- Little-endian word `i` of 8 bytes at a byte offset. -/
def objWord (b : Array Byte) (o i : Nat) : Word := wd (leNat ((List.range 8).map (fun k => b[o + 8 * i + k]?.getD 0)))
/-- Four bytes at an offset. -/
def objW32 (b : Array Byte) (o : Nat) : W32 := w32 (leNat ((List.range 4).map (fun k => b[o + k]?.getD 0)))
/-- Section `i`. -/
def secAt (o : Obj) (i : Nat) : Sec := (o.secs[i]?).getD default
/-- Record size of a section type; 1 where the contents are bytes (16 R438). -/
def recSize : Nat → Nat
  | 1 => 4 | 4 => 64 | 5 => 24 | 6 => 24 | 8 => 16 | 9 => 16
  | _ => 1
/-- The indices of the sections of a type. -/
def secsOf (o : Obj) (t : Nat) : List Nat := (List.range o.secs.length).filter (fun i => (secAt o i).type = t)
/-- Records of a section: index and byte offset in the section. -/
def recsOf (o : Obj) (i : Nat) : List Nat := List.range ((secAt o i).len / recSize (secAt o i).type)
/-- Word `w` of record `n` of section `i`. -/
def recWord (o : Obj) (i n w : Nat) : Word := objWord o.bytes ((secAt o i).off + recSize (secAt o i).type * n) w
/-- Whether two sections' contents meet. -/
def secsMeet (a b : Sec) : Bool := a.len ≠ 0 && b.len ≠ 0 && a.off < b.off + b.len && b.off < a.off + a.len
/-- Whether a section's link names what R438 says. -/
def linkOk (ss : List Sec) (s : Sec) : Bool :=
  let t := ((ss[s.link]?).map (·.type)).getD 0
  match s.type with
  | 4 | 8 | 9 => t = 1
  | 5 => t = 7
  | 6 => t = 1 || t = 2 || t = 3
  | _ => s.link = 0
/-- Step 1 (16 R437, R438, R443, R445): the header, the versions and the section table. R447 names no code for a header whose size is not the
number of bytes or whose table stands at no multiple of 8: it is 0x0003 (DESIGN CHOICE, log 51). -/
def readObj (bs : List Byte) : Chk Obj := do
  let b := bs.toArray
  let w := objWord b 0
  failIf (fld (w 0) 63 32 ≠ 0x54485A50 || fld (w 0) 31 16 ≠ 1) { code := 1, value := wd (fld (w 0) 63 16) }
  failIf ((Config.finaliserVersion.toNat % 2 ^ 16) < fld (w 0) 15 0) { code := 2, value := wd (fld (w 0) 15 0) }
  for i in [2, 3, 4, 5, 6, 7] do
    failIf (if i = 2 then fld (w 2) 31 0 ≠ 0 else w i ≠ 0) { code := 4, off := 8 * i, value := w i }
  let nsec := fld (w 1) 63 32
  let stab := fld (w 2) 63 32
  failIf (nsec = 0 || 65535 < nsec) { code := 4, off := 8, value := w 1 }
  failIf (fld (w 1) 31 0 ≠ b.size || b.size < 64) { code := 3, off := 8, value := wd (fld (w 1) 31 0) }
  failIf (stab % 8 ≠ 0 || stab < 64 || b.size < stab + 32 * nsec) { code := 3, off := 16, value := wd (32 * nsec) }
  let ss := (List.range nsec).map (fun i =>
    let v := objWord b (stab + 32 * i)
    ({ type := fld (v 0) 63 32, name := fld (v 0) 31 0, off := fld (v 1) 63 32, len := fld (v 1) 31 0
       align := fld (v 2) 63 32, link := fld (v 2) 31 0 } : Sec))
  let table : Sec := { (default : Sec) with off := stab, len := 32 * nsec }
  for i in List.range nsec do
    let s := (ss[i]?).getD default
    let v := objWord b (stab + 32 * i)
    failIf (s.type = 0 || 10 ≤ s.type) { code := 4, sec := i, value := v 0 }
    failIf (!(List.range 15).any (fun k => s.align = 2 ^ (k + 2)) || !linkOk ss s) { code := 4, sec := i, off := 16, value := v 2 }
    failIf (v 3 ≠ 0) { code := 4, sec := i, off := 24, value := v 3 }
    failIf (b.size < s.off + s.len || s.len % recSize s.type ≠ 0 || (s.len ≠ 0 && s.off < 64) || secsMeet s table ||
        (ss.take i).any (secsMeet s)) { code := 3, sec := i, value := wd s.len }
  pure ⟨b, ss⟩

/-- A symbol (16 R439). -/
structure Sym where
  kind : Nat
  sec : Nat
  value : Word
  fn : Nat
deriving DecidableEq, Repr, Inhabited
/-- The symbols of an object. -/
def symsOf (o : Obj) : List Sym :=
  match (secsOf o 5).head? with
  | none => []
  | some i => (recsOf o i).map (fun n => ⟨fld (recWord o i n 0) 31 24, fld (recWord o i n 0) 15 0, recWord o i n 1,
      fld (recWord o i n 2) 63 32⟩)
/-- Symbol `n`. -/
def symAt (o : Obj) (n : Nat) : Sym := ((symsOf o)[n]?).getD default
/-- Whether a symbol is a function's entry. -/
def isEntry (y : Sym) : Bool := y.kind = 1 || y.kind = 2
/-- Words of a code section. -/
def codeLen (o : Obj) (c : Nat) : Nat := (secAt o c).len / 4
/-- Step 2, a symbol's record (16 R439). -/
def checkSym (o : Obj) (i n : Nat) : Chk Unit := do
  let y := symAt o n
  let t := (secAt o y.sec).type
  let bad := 5 < y.kind || 1 < fld (recWord o i n 0) 23 16 || (secAt o (secAt o i).link).len ≤ fld (recWord o i n 0) 63 32 ||
    (if y.kind ≤ 2 then t ≠ 1 || o.secs.length ≤ y.sec
     else if y.kind = 3 then (t ≠ 2 && t ≠ 3) || o.secs.length ≤ y.sec
     else y.sec ≠ 0)
  failIf bad { code := 4, sec := i, off := 24 * n, value := recWord o i n 0, sym := n }
  let badV := if y.kind ≤ 2 then codeLen o y.sec ≤ y.value.toNat
    else if y.kind = 3 then (secAt o y.sec).len < y.value.toNat
    else y.kind = 4 && y.value ≠ 0
  failIf badV { code := 4, sec := i, off := 24 * n + 8, value := y.value, sym := n }
  let f := symAt o y.fn
  failIf (fld (recWord o i n 2) 31 0 ≠ 0 || (if y.kind = 0 then !isEntry f || f.sec ≠ y.sec else y.fn ≠ 0))
    { code := 4, sec := i, off := 24 * n + 16, value := recWord o i n 2, sym := n }
/-- Step 2, a kernel-table record (16 R440, 09 R288). -/
def checkKernel (o : Obj) (i n : Nat) : Chk Unit := do
  let w := recWord o i n
  let y := symAt o (fld (w 0) 63 32)
  let e (k : Nat) (c : Nat) : FinErr := { code := c, sec := i, off := 64 * n + 8 * k, value := w k, kernel := n }
  failIf (fld (w 0) 31 19 ≠ 0 || fld (w 0) 7 0 ≠ 1 || y.kind ≠ 1 || y.sec ≠ (secAt o i).link) (e 0 4)
  failIf (5 < fld (w 0) 18 16 || fld (w 0) 15 8 = 0 || 4 < fld (w 0) 15 8) (e 0 0x27)
  failIf (fld (w 1) 63 48 ≠ 0) (e 1 4)
  let scratch := fld (w 1) 31 0
  failIf (fld (w 1) 47 32 = 0 || 16 < fld (w 1) 47 32 || (fld (w 0) 18 16 ≠ 1 && scratch ≠ 0)) (e 1 0x27)
  failIf (fld (w 2) 63 1 ≠ 0) (e 2 4)
  for k in [3, 4, 5, 6, 7] do failIf (w k ≠ 0) (e k 4)
/-- The bits of a header that a clause-map record may set: its count and what it gives (16 R441). -/
def givenBits (m : Nat) : W32 :=
  let b (i : Nat) (x : W32) : W32 := if m / 2 ^ i % 2 = 1 then x else 0
  0xC00 ||| b 0 0xFFF00000 ||| b 1 0xF0000 ||| b 2 0xF000 ||| b 3 0x3FC ||| b 4 2
/-- Step 2, a clause-map record (16 R441). -/
def checkClauseRec (o : Obj) (i n : Nat) : Chk Unit := do
  let w := recWord o i n
  let h := w32 (fld (w 0) 31 0)
  let e (k : Nat) : FinErr := { code := 4, sec := i, off := 16 * n + 8 * k, value := w k }
  failIf (codeLen o (secAt o i).link ≤ fld (w 0) 63 32 || h &&& ~~~givenBits (fld (w 1) 4 0) &&& ~~~1 ≠ 0) (e 0)
  failIf (fld (w 1) 63 5 ≠ 0) (e 1)
/-- The word at an index of a code section. -/
def codeW (o : Obj) (c ix : Nat) : W32 := objW32 o.bytes ((secAt o c).off + 4 * ix)
/-- Step 2, a call-target record (16 R441). -/
def checkTargetRec (o : Obj) (i n : Nat) : Chk Unit := do
  let w := recWord o i n
  let c := (secAt o i).link
  let e (k : Nat) : FinErr := { code := 4, sec := i, off := 16 * n + 8 * k, value := w k }
  let word := codeW o c (w 0).toNat
  failIf (codeLen o c ≤ (w 0).toNat || opOf word ≠ 5 || fldD word = 0) (e 0)
  failIf (!isEntry (symAt o (w 1).toNat)) (e 1)
/-- Step 2 (16 R443). -/
def checkRecords (o : Obj) : Chk Unit := do
  for i in List.range o.secs.length do
    for n in recsOf o i do
      match (secAt o i).type with
      | 4 => checkKernel o i n
      | 5 => checkSym o i n
      | 8 => checkClauseRec o i n
      | 9 => checkTargetRec o i n
      | _ => pure ()

/-- A function of a code section: its words, its entry symbol, whether a `.kernel` opened it (16 R439 kind 1), and the index and the
declarations of its kernel-table record, where it has one. -/
structure Fn where
  sec : Nat
  lo : Nat
  hi : Nat
  sym : Nat
  launch : Bool
  kernel : Option Nat
  regs : Nat
  group : Nat
  scratch : Nat
  level : Nat
  dyncall : Bool
deriving DecidableEq, Repr, Inhabited
/-- The kernel-table records of an object, in table order: section and index. -/
def kernelRecs (o : Obj) : List (Nat × Nat) := (secsOf o 4).flatMap (fun i => (recsOf o i).map (fun n => (i, n)))
/-- The functions of a code section in the order of their entries (16 R432). Words before the first entry belong to none. -/
def fnsOf (o : Obj) (c : Nat) : List Fn :=
  let ys := (symsOf o).zip (List.range (symsOf o).length)
  let es := (ys.filter (fun y => isEntry y.1 && y.1.sec = c))
  let starts := (sortNat (es.map (fun y => y.1.value.toNat))).eraseDups
  (starts.zip ((starts.drop 1) ++ [codeLen o c])).map (fun p =>
    let sym := ((es.find? (fun y => y.1.value.toNat = p.1)).map (·.2)).getD 0
    let ks := (kernelRecs o).zip (List.range (kernelRecs o).length)
    let k := ks.find? (fun k => (symAt o (fld (recWord o k.1.1 k.1.2 0) 63 32)).sec = c &&
      (symAt o (fld (recWord o k.1.1 k.1.2 0) 63 32)).value.toNat = p.1)
    let w (i : Nat) : Word := (k.map (fun k => recWord o k.1.1 k.1.2 i)).getD 0
    let launch := es.any (fun y => y.1.value.toNat = p.1 && y.1.kind = 1)
    { sec := c, lo := p.1, hi := p.2, sym := sym, launch := launch, kernel := k.map (·.2), regs := max 1 (fld (w 0) 15 8)
      group := max 1 (fld (w 1) 47 32), scratch := fld (w 1) 31 0, level := fld (w 0) 18 16, dyncall := (w 2).getLsbD 0 })
/-- The kernel-table index that an error of a function names (16 R446). -/
def Fn.err (f : Fn) : Nat := f.kernel.getD 0xFFFFFFFF
/-- All functions of an object. -/
def allFns (o : Obj) : List Fn := (secsOf o 1).flatMap (fnsOf o)
/-- Whether the word at an index is the J word of the `brd` before it. -/
def isJ (o : Obj) (c : Nat) : Nat → Bool
  | 0 => false
  | n + 1 => opOf (codeW o c n) = 3 && !isJ o c n
/-- The instruction at a word index, none for a J word. -/
def insAt (o : Obj) (c ix : Nat) : Option Instr :=
  if isJ o c ix then none else (decode (codeW o c ix) (codeW o c (ix + 1))).toOption
/-- Whether a code symbol stands at a word: it begins a clause (16 R439). -/
def isLabel (o : Obj) (c ix : Nat) : Bool := (symsOf o).any (fun y => y.kind ≤ 2 && y.sec = c && y.value.toNat = ix)

/-- What is known of `%window` and `%blocks` before a word of a kernel (R280). -/
structure Known where
  win : Option Nat := some 0
  blk : Option Nat := some 0
/-- Whether an instruction changes the window, and whether one acquires blocks. -/
def movesWin : Option Instr → Bool
  | some (.winb _) => true
  | _ => false
def takesBlk : Option Instr → Bool
  | some (.rget _) => true
  | _ => false
/-- What is known before word `ix` of a kernel, from what is known after the word before it: nothing is left of either at a label, unless
no instruction of the kernel changes it. -/
def knownAt (o : Obj) (f : Fn) (ix : Nat) (k : Known) : Known :=
  let some_ (p : Option Instr → Bool) : Bool := (List.range (f.hi - f.lo)).any (fun n => p (insAt o f.sec (f.lo + n)))
  if ix = f.lo then {}
  else if isLabel o f.sec ix then
    { win := if some_ movesWin then none else k.win, blk := if some_ takesBlk then none else k.blk }
  else k
/-- What is known after an instruction. -/
def knownAfter (i : Option Instr) (k : Known) : Known :=
  match i with
  | some (.winb b) => { k with win := some b.toNat }
  | some (.rget n) => { k with blk := some n.toNat }
  | some .rput => { k with blk := some 0 }
  | _ => k
/-- The check of R280 that a kernel holds the registers that a word names, where it knows the window. -/
def heldCheck (o : Obj) (f : Fn) (ix : Nat) (k : Known) : Chk Unit :=
  let past (w r : Nat) : Bool := 64 * (k.blk.getD (f.regs - 1) + 1) ≤ w + r
  match k.win, ((insAt o f.sec ix).map namedRegs).getD [] with
  | none, _ => pure ()
  | some w, rs => failIf (rs.any (past w))
      { code := 0x13, sec := f.sec, off := 4 * ix, value := wd (w + (rs.find? (past w)).getD 0), kernel := f.err }
/-- Step 3, one word (16 R443, 09 R279, R280). A `brd` whose J word carries a code label is not followed by it: the label begins a clause (16
R439; that its code is 0x0011 is DEDUCED, log 51). -/
def checkWord (o : Obj) (c ix : Nat) : Chk Unit :=
  let w := codeW o c ix
  let e (k : Nat) (v : W32) : FinErr := { code := k, sec := c, off := 4 * ix, value := v.setWidth 64 }
  if isJ o c ix then .ok ()
  else if opOf w = 3 && (codeLen o c ≤ ix + 1 || (codeW o c (ix + 1)).toNat / 2 ^ 18 ≠ 0 || isLabel o c (ix + 1)) then .error (e 0x11 w)
  else if opOf w = 0 && w ≠ 0 && w.toNat < 2 ^ 18 then .error (e 0x11 w)
  else match decode w (codeW o c (ix + 1)) with
    | .ok _ => .ok ()
    | .error _ => .error (e 0x10 w)
/-- Step 3 (16 R443): word by word, the encoding and then the registers. -/
def checkCode (o : Obj) : Chk Unit := do
  for c in secsOf o 1 do
    let fs := (fnsOf o c).filter (·.launch)
    let _ ← (List.range (codeLen o c)).foldlM (fun (k : Known) ix => do
      checkWord o c ix
      match fs.find? (fun f => f.lo ≤ ix && ix < f.hi) with
      | none => pure k
      | some f =>
        heldCheck o f ix (knownAt o f ix k)
        pure (knownAfter (insAt o c ix) (knownAt o f ix k))) {}

/-- The relocations of an object in section order and then record order (16 R443): section and record. -/
def relocs (o : Obj) : List (Nat × Nat) := (secsOf o 6).flatMap (fun i => (recsOf o i).map (fun n => (i, n)))
/-- The symbol that a relocation of a type names for a code word. -/
def relSym (o : Obj) (t c ix : Nat) : Option Nat :=
  ((relocs o).find? (fun r => (secAt o r.1).link = c && fld (recWord o r.1 r.2 0) 31 24 = t &&
    fld (recWord o r.1 r.2 0) 63 32 = 4 * ix)).map (fun r => fld (recWord o r.1 r.2 0) 23 0)
/-- The word index that a branch or a join relocation leads to in its own section. -/
def relWord (o : Obj) (t c ix : Nat) : Option Nat :=
  (relSym o t c ix).bind (fun n => let y := symAt o n; if y.kind ≤ 2 && y.sec = c then some y.value.toNat else none)
/-- The words that may follow a word inside its function; none where control may leave it. -/
def succs (o : Obj) (c ix : Nat) : Option (List Nat) :=
  match insAt o c ix with
  | some (.bra _) => (relWord o 3 c ix).map (fun t => [t])
  | some (.brcNz _ _) | some (.brcZ _ _) => (relWord o 3 c ix).map (fun t => [t, ix + 1])
  | some (.brd _ _ _) => (relWord o 3 c ix).map (fun t => [t, ix + 2])
  | some .exit | some .term => some []
  | some .ret | some .tret | some (.braIndirect _ _) => none
  | _ => some [ix + 1]
/-- Whether every path from the words of a list stays where `inside` holds until it reaches `stop` or ends. -/
def stays (o : Obj) (c stop : Nat) (inside : Nat → Bool) : Nat → List Nat → List Nat → Bool
  | 0, _, _ => false
  | _, [], _ => true
  | n + 1, x :: r, seen =>
    if x = stop || seen.contains x then stays o c stop inside n r seen
    else if !inside x then false
    else match succs o c x with
      | none => false
      | some l => stays o c stop inside n (l ++ r) (x :: seen)
/-- The words that a transfer may go to by its own target. -/
def jumpsTo (o : Obj) (c ix : Nat) : Option Nat :=
  match insAt o c ix with
  | some (.bra _) | some (.brcNz _ _) | some (.brcZ _ _) | some (.brd _ _ _) => relWord o 3 c ix
  | _ => none
/-- Whether the region of a `brd` at `b` with target `t` and join `j` is structured (03 R97). -/
def structured (o : Obj) (f : Fn) (b t j : Nat) : Bool :=
  let n := f.hi - f.lo
  b < t && t ≤ j && j < f.hi && stays o f.sec j (fun x => b ≤ x && x < j) (4 * n + 8) [t, b + 2] [] &&
    (List.range n).all (fun k =>
      let m := f.lo + k
      (b ≤ m && m < j) || (match jumpsTo o f.sec m with
        | some x => !(b < x && x < j)
        | none => true))
/-- The target and the join of the `brd` at a word. -/
def brdAt (o : Obj) (c ix : Nat) : Option (Nat × Nat) :=
  match insAt o c ix, relWord o 3 c ix, relWord o 4 c (ix + 1) with
  | some (.brd _ _ _), some t, some j => some (t, j)
  | _, _, _ => none
/-- The words of a function. -/
def Fn.words (f : Fn) : List Nat := (List.range (f.hi - f.lo)).map (f.lo + ·)
/-- The words that control reaches from those of a list before it comes to a word of `stops`: the words of a side of a region (03 R97). -/
def sideOf (o : Obj) (c : Nat) (stops : List Nat) : Nat → List Nat → List Nat → List Nat
  | 0, _, seen => seen
  | _, [], seen => seen
  | n + 1, x :: r, seen =>
    if stops.contains x || seen.contains x then sideOf o c stops n r seen
    else sideOf o c stops n ((succs o c x).getD [] ++ r) (x :: seen)
/-- The divergence depth of the region of the `brd` at `b` (03 R97): that of its taken side and that of its fall-through side. A side is
as deep as the deepest of its regions that lie in no other, and no less than 1. `stops` are the joins of the enclosing regions and their
`brd`s. -/
def regionDepth (o : Obj) (f : Fn) : Nat → List Nat → Nat → Nat
  | 0, _, _ => 2
  | n + 1, stops, b =>
    match brdAt o f.sec b with
    | none => 1
    | some (t, j) =>
      let st := j :: b :: stops
      let side (e : Nat) : Nat :=
        let bs := (sideOf o f.sec st (4 * (f.hi - f.lo) + 8) [e] []).filter (fun x => (brdAt o f.sec x).isSome)
        let outer := bs.filter (fun x => !bs.any (fun y => y < x && ((brdAt o f.sec y).map (fun r => decide (x < r.2))).getD false))
        outer.foldl (fun m x => max m (regionDepth o f n st x)) 1
      side t + side (b + 2)
/-- Whether a word is a `brd`. -/
def isBrd : Option Instr → Bool
  | some (.brd _ _ _) => true
  | _ => false
/-- The divergence depth of a function, past the checks of its regions (03 R97): a `brd` whose target or join stands in another code section
has no structured region. -/
def fnDepth (o : Obj) (f : Fn) : Chk Nat := do
  for b in f.words do
    match brdAt o f.sec b with
    | none =>
      let code (n : Option Nat) : Bool := n.any (fun n => (symAt o n).kind ≤ 2)
      let join := relSym o 4 f.sec (b + 1)
      failIf (isBrd (insAt o f.sec b) && code (relSym o 3 f.sec b) && code join)
        { code := 0x28, sec := f.sec, off := 4 * b, value := (join.map (fun n => (symAt o n).value)).getD 0, kernel := f.err }
    | some (t, j) =>
      let e (k : Nat) : FinErr := { code := k, sec := f.sec, off := 4 * b, value := wd j, kernel := f.err }
      failIf (!structured o f b t j) (e 0x28)
      failIf (f.words.any (fun y => y < b && ((brdAt o f.sec y).map (fun r => decide (b < r.2 ∧ r.2 = j))).getD false)) (e 0x23)
  pure (f.words.foldl (fun m b => max m (regionDepth o f (f.hi - f.lo) [] b)) 1)
/-- Whether a word is a `call`. -/
def isCall : Option Instr → Bool
  | some (.call _) | some (.callIndirect _ _) => true
  | _ => false
/-- Whether a word is one that a `.func` may not hold (16 R435). -/
def isBlockOp : Option Instr → Bool
  | some (.rget _) | some .rput | some (.winb _) => true
  | _ => false
/-- The blocks that a word acquires. -/
def rgetCount : Option Instr → Nat
  | some (.rget n) => n.toNat
  | _ => 0
/-- Whether a word lies inside a `brd` region of its function. -/
def inRegion (o : Obj) (f : Fn) (x : Nat) : Bool :=
  f.words.any (fun b => ((brdAt o f.sec b).map (fun r => decide (b < x ∧ x < r.2))).getD false)
/-- The targets of a word that calls: an indirect call without listed targets has none (16 R436). -/
def callees (o : Obj) (c ix : Nat) : List Nat :=
  match insAt o c ix with
  | some (.call _) => (relSym o 3 c ix).toList
  | some (.callIndirect _ _) =>
    (secsOf o 9).flatMap (fun i => if (secAt o i).link = c then
      (recsOf o i).filterMap (fun n => if (recWord o i n 0).toNat = ix then some (recWord o i n 1).toNat else none) else [])
  | _ => []
/-- The functions that a function calls, as indices into the list of functions. -/
def calls (o : Obj) (fs : List Fn) (k : Nat) : List Nat :=
  let f := (fs[k]?).getD default
  ((List.range (f.hi - f.lo)).flatMap (fun i => callees o f.sec (f.lo + i))).filterMap (fun y =>
    fs.findIdx? (fun g => g.sec = (symAt o y).sec && g.lo = (symAt o y).value.toNat))
/-- The functions reached from those of a list in up to `n` calls. -/
def reached (o : Obj) (fs : List Fn) : Nat → List Nat → List Nat
  | 0, l => l
  | n + 1, l => reached o fs n ((l ++ l.flatMap (calls o fs)).eraseDups)
/-- The deepest chain of calls from a function of a graph without cycles. -/
def chain (o : Obj) (fs : List Fn) : Nat → Nat → Nat
  | 0, _ => 0
  | n + 1, k => (calls o fs k).foldl (fun m c => max m (1 + chain o fs n c)) 0
/-- Step 4 (16 R443): every branch has its relocation (R447), then R97, R119, R435 and R436. -/
def checkKernels (o : Obj) : Chk Unit := do
  let fs := allFns o
  for f in fs do
    for ix in f.words do
      let w := codeW o f.sec ix
      let direct := match insAt o f.sec ix with
        | some (.bra _) | some (.brcNz _ _) | some (.brcZ _ _) | some (.brd _ _ _) | some (.call _) => true
        | _ => false
      failIf ((direct && (relSym o 3 f.sec ix).isNone) || (isJ o f.sec ix && (relSym o 4 f.sec ix).isNone))
        { code := 0x14, sec := f.sec, off := 4 * ix, value := w.setWidth 64 }
  for f in fs do
    let d ← fnDepth o f
    failIf (16 < d) { code := 0x22, sec := f.sec, off := 4 * f.lo, value := wd d, kernel := f.err }
  for f in fs do
    if f.launch then
      for ix in f.words do
        let n := rgetCount (insAt o f.sec ix)
        failIf (f.regs - 1 < n) { code := 0x20, sec := f.sec, off := 4 * ix, value := wd n, kernel := f.err }
      failIf (Config.corePool < (f.regs - 1) * f.group)
        { code := 0x21, sec := f.sec, off := 4 * f.lo, value := wd ((f.regs - 1) * f.group), kernel := f.err }
  for f in fs do
    for ix in f.words do
      let i := insAt o f.sec ix
      failIf ((!f.launch && isBlockOp i) || (isCall i && inRegion o f ix))
        { code := 0x26, sec := f.sec, off := 4 * ix, value := (codeW o f.sec ix).setWidth 64 }
  for k in List.range fs.length do
    let f := (fs[k]?).getD default
    if f.launch then
      let rs := reached o fs fs.length [k]
      match rs.find? (fun g => (reached o fs fs.length (calls o fs g)).contains g) with
      | some g =>
        let y := ((fs[g]?).getD default).sym
        .error { code := 0x25, sec := f.sec, off := 4 * f.lo, value := wd y, sym := y, kernel := f.err }
      | none =>
        let d := chain o fs (fs.length + 1) k
        let free := rs.any (fun g => let h := (fs[g]?).getD default
          (List.range (h.hi - h.lo)).any (fun i => match insAt o h.sec (h.lo + i) with
            | some (.callIndirect _ _) => (callees o h.sec (h.lo + i)).isEmpty
            | _ => false))
        failIf (16 < d || (free && !f.dyncall)) { code := 0x24, sec := f.sec, off := 4 * f.lo, value := wd d, kernel := f.err }

end Sys2Proof.Machine
end

