-- ==== Sys2Proof/Machine/Pack.lean ====
section
/-! DEFINITION. Clause packing (09 R290 to R294, 16 R425, R428 to R432): one pass over an object in program order, repeated until what
transfers carry into labels has settled. -/

namespace Sys2Proof.Machine

/-- A flag that is pending (09 R291): the order of its first instruction, how many count on it, and the registers that they
write. -/
structure PFlag where
  f : Nat
  ord : Nat
  cnt : Nat
  regs : List Nat
deriving DecidableEq, Repr
/-- A clause that is being formed. Each body has its word, its distance, and its word index where it is not an inserted `nop`.
`given` is the mask and header of an explicit clause (16 R441). -/
structure Clause where
  first : Nat
  label : Bool
  wait : List Nat := []
  setA : Nat := 15
  setB : Nat := 15
  bodies : List (W32 × Nat × Option Nat) := []
  own : List Nat := []
  given : Option (Nat × W32) := none
deriving DecidableEq, Repr
/-- What a transfer carries into a label: its section and word, the pending flags, for each register the distance still owed (09 R292,
R293), and the window. -/
structure Carry where
  sec : Nat
  ix : Nat
  flags : List PFlag
  owed : List (Nat × Nat)
  win : WinAt
deriving DecidableEq, Repr
abbrev Carried := List Carry
/-- The state of a pass. `dead` says that no path runs into the next word from the one before it. -/
structure Pack where
  done : List Clause := []
  cur : Option Clause := none
  pend : List PFlag := []
  owed : List (Nat × Nat) := []
  win : WinAt := .same 0
  dead : Bool := true
  seen : Carried := []
deriving DecidableEq, Repr

/-- Whether an instruction reads or writes a register of a list (16 R429). -/
def touches (u : Use) (rs : List Nat) : Bool := rs.any (fun r => (u.all && !isShapeReg r) || (u.r ++ u.w).any (sameReg r))
/-- The larger of two tables of owed distances. -/
def joinOwed (a b : List (Nat × Nat)) : List (Nat × Nat) :=
  b.foldl (fun a e => match a.find? (fun x => x.1 = e.1) with
    | some _ => upd (fun x => x.1 = e.1) (fun x => (x.1, max x.2 e.2)) a
    | none => a ++ [e]) a
/-- Pending flags of two paths. -/
def joinFlags (a b : List PFlag) : List PFlag :=
  b.foldl (fun a e =>
    let both (x : PFlag) : PFlag := ⟨x.f, min x.ord e.ord, max x.cnt e.cnt, (x.regs ++ e.regs).eraseDups⟩
    if a.any (fun x => x.f = e.f) then upd (fun x => x.f = e.f) both a else a ++ [e]) a
/-- The place of a word in an object. -/
def placeOf (sec ix : Nat) : Nat := sec * 2 ^ 32 + ix
/-- The window at a label, from those of the paths into it. -/
def joinWin (place : Nat) : List WinAt → WinAt
  | [] => .same place
  | w :: r => if r.all (fun x => x = w) then w else .same place
/-- The windows that a label has by being a function's entry: that of a launch for a kernel (03 R114), its caller's for a `.func`. -/
def entryWin (o : Obj) (sec ix : Nat) : List WinAt :=
  if (symsOf o).any (fun y => y.kind = 1 && y.sec = sec && y.value.toNat = ix) then [.known 0]
  else if (symsOf o).any (fun y => y.kind = 2 && y.sec = sec && y.value.toNat = ix) then [.same (placeOf sec ix)]
  else []
/-- Close the open clause. -/
def closeClause (p : Pack) : Pack :=
  match p.cur with
  | some c => { p with done := p.done ++ [c], cur := none }
  | none => p
/-- Flags of a header's wait mask. -/
def waitFlags (h : W32) : List Nat := (List.range 12).filter (fun f => hWait h / 2 ^ f % 2 = 1)
/-- Open a clause at a word (09 R292, R293): a labelled one waits for every flag pending on any path into it and owes the largest
distance over those paths. `force` are flags that R291 makes the header wait on. -/
def openClause (o : Obj) (entry : Carried) (sec ix : Nat) (label : Bool) (given : Option (Nat × W32)) (force : List Nat) (p : Pack) : Pack :=
  let p := closeClause p
  let ins := if label then entry.filter (fun e => e.sec = sec && e.ix = ix) else []
  let alone := p.dead && label
  let pend := ins.foldl (fun a e => joinFlags a e.flags) (if alone then [] else p.pend)
  let owed := ins.foldl (fun a e => joinOwed a e.owed) (if alone then [] else p.owed)
  let win := if label then joinWin (placeOf sec ix) ((if alone then [] else [p.win]) ++ entryWin o sec ix ++ ins.map (·.win)) else p.win
  let computed := if label then pend.map (·.f) else force
  let wait := match given with
    | some (m, h) => if m % 2 = 1 then waitFlags h else computed
    | none => computed
  { p with
    cur := some { first := ix, label := label, wait := wait, given := given }
    pend := pend.filter (fun x => !wait.contains x.f), owed := owed, win := win, dead := false }
/-- The distance that an instruction needs (09 R293). -/
def needs (u : Use) (p : Pack) : Nat := p.owed.foldl (fun m e => if touches u [e.1] then max m (e.2 - 1) else m) 0
/-- Time passes: an instruction of a distance has issued. -/
def tickOwed (d : Nat) (p : Pack) : Pack :=
  { p with owed := (p.owed.map (fun e => (e.1, e.2 - (d + 1)))).filter (fun e => e.2 ≠ 0) }
/-- Add a body to the open clause. -/
def addBody (w : W32) (d : Nat) (ix : Option Nat) (p : Pack) : Pack :=
  { p with cur := p.cur.map (fun c => { c with bodies := c.bodies ++ [(w, d, ix)] }) }
/-- Bodies of the open clause. -/
def bodyCount (p : Pack) : Nat := ((p.cur.map (·.bodies)).getD []).length
/-- Insert `nop` words with distance 3 until a distance of 3 is enough (09 R293); `fixed_` says that the clause may not be split. -/
def insertNops (reopen : Pack → Pack) (u : Use) (fixed_ : Bool) : Nat → Pack → Option Pack
  | 0, p => some p
  | n + 1, p =>
    if needs u p ≤ 3 then some p
    else if bodyCount p < 4 then insertNops reopen u fixed_ n (tickOwed 3 (addBody 0 3 none p))
    else if fixed_ then none
    else insertNops reopen u fixed_ n (reopen p)
/-- The explicit clauses of a code section: their first words, given masks and headers (16 R441). -/
def allBlocks (o : Obj) (c : Nat) : List (Nat × Nat × W32) :=
  (secsOf o 8).flatMap (fun i => if (secAt o i).link = c then
    (recsOf o i).map (fun n => (fld (recWord o i n 0) 63 32, fld (recWord o i n 1) 4 0, w32 (fld (recWord o i n 0) 31 0)))
    else [])
/-- Those that cover a word, those that begin later first. -/
def blocksOf (o : Obj) (c ix : Nat) : List (Nat × Nat × W32) :=
  let bs := (allBlocks o c).filter (fun b => b.1 ≤ ix && ix < b.1 + hCount b.2.2)
  bs.filter (fun b => b.1 = ix) ++ bs.filter (fun b => b.1 ≠ ix)
/-- The pending flag whose first instruction lies earliest. -/
def oldestFlag (l : List PFlag) : Option PFlag :=
  l.foldl (fun m x => match m with
    | none => some x
    | some y => if x.ord < y.ord then some x else some y) none
/-- Whether an explicit clause gives the flag of its next flagged instruction (16 R441). -/
def setGiven (c : Clause) : Option Nat :=
  let second := !c.own.isEmpty
  c.given.bind (fun g => if g.1 / (if second then 4 else 2) % 2 = 1 then some (if second then hSetB g.2 else hSetA g.2) else none)
/-- The flag that a flagged instruction takes (09 R291): given, or the lowest that is not pending, or the one pending longest. -/
def takeFlag (c : Clause) (p : Pack) : Nat :=
  (setGiven c).getD (((List.range 12).find? (fun f => !p.pend.any (fun x => x.f = f))).getD (((oldestFlag p.pend).map (·.f)).getD 0))
/-- The flag that R291 makes a header wait on, where all twelve are pending and the oldest is full. -/
def exhausted (p : Pack) : Option Nat :=
  if p.pend.length < 12 then none else (oldestFlag p.pend).bind (fun x => if 15 ≤ x.cnt then some x.f else none)
/-- Flags whose instructions the clause waits for. -/
def waitOn (fs : List Nat) (p : Pack) : Pack :=
  { p with
    cur := p.cur.map (fun k => { k with wait := k.wait ++ fs.filter (fun f => !k.wait.contains f) })
    pend := p.pend.filter (fun x => !fs.contains x.f) }
/-- Whether no path continues past a transfer into the next word (09 R266). -/
def endsPath : Instr → Bool
  | .bra _ | .braIndirect _ _ | .exit | .ret | .tret | .term => true
  | _ => false
/-- Where an indirect `bra` may lead, as sections and words: the kernels' entries and the code that a relocated address of a data section
names (16 R442). -/
def addressed (o : Obj) : List (Nat × Nat) :=
  let named := (relocs o).filterMap (fun r =>
    if fld (recWord o r.1 r.2 0) 31 24 = 1 || fld (recWord o r.1 r.2 0) 31 24 = 2 then some (symAt o (fld (recWord o r.1 r.2 0) 23 0)) else none)
  (((symsOf o).filter (fun y => y.kind = 1) ++ named.filter (fun y => y.kind ≤ 2)).map (fun y => (y.sec, y.value.toNat))).eraseDups
/-- The labels that a word may transfer to (09 R292), in its own function and in others. -/
def leadsTo (o : Obj) (c ix : Nat) : List (Nat × Nat) :=
  match insAt o c ix with
  | some (.bra _) | some (.brcNz _ _) | some (.brcZ _ _) | some (.brd _ _ _) =>
    ((relSym o 3 c ix).map (symAt o)).toList.filterMap (fun y => if y.kind ≤ 2 then some (y.sec, y.value.toNat) else none)
  | some (.braIndirect _ _) => addressed o
  | _ => []
/-- The window after an instruction. -/
def winAfter (i : Instr) (w : WinAt) : WinAt :=
  match i with
  | .winb b => .known b.toNat
  | _ => w
/-- What a transfer carries into the labels it may lead to. -/
def carryOn (ts : List (Nat × Nat)) (p : Pack) : Pack :=
  { p with seen := p.seen ++ ts.map (fun t => ⟨t.1, t.2, p.pend, p.owed, p.win⟩) }
/-- One instruction joins the clauses (09 R290 to R294, 16 R428 to R430). -/
def packWord (o : Obj) (c : Nat) (entry : Carried) (p : Pack) (ix : Nat) : Chk Pack :=
  match insAt o c ix with
  | none => .ok p
  | some i =>
    let w := codeW o c ix
    let fl := flaggedWord w
    let label := isLabel o c ix
    let size := if opOf w = 3 then 2 else 1
    let blks := blocksOf o c ix
    let blk := blks.head?
    let bad : FinErr :=
      { code := 0x12, sec := c, off := 4 * (blk.map (·.1)).getD ix, value := ((blk.map (fun b => b.2.2)).getD (0 : W32)).setWidth 64 }
    let fits := match blk with
      | some (b, _, h) => ix + size ≤ b + hCount h
      | none => true
    let uHere := p.win.use (regUse i)
    let left := p.pend.filter (fun x => (p.cur.map (·.own)).getD [] |>.contains x.f)
    let others := p.pend.filter (fun x => !(touches uHere x.regs))
    let full := if fl then exhausted { p with pend := others } else none
    let split := match p.cur with
      | none => true
      | some k => k.given.isSome || label || opOf w = 4 || 4 < k.bodies.length + size || (fl && 2 ≤ k.own.length) ||
          left.any (fun x => touches uHere x.regs) || ((opOf w = 5 || opOf w = 6 || opOf w = 11) && !k.own.isEmpty) || full.isSome
    let opened : Option Pack := match blk with
      | some (b, m, h) =>
        if !fits || 1 < blks.length then none
        else if ix = b then some (openClause o entry c ix label (some (m, h)) [] p)
        else if label || opOf w = 4 || p.cur.isNone then none else some p
      | none => some (if split then openClause o entry c ix label none full.toList p else p)
    match opened with
    | none => .error bad
    | some p =>
      let u := p.win.use (regUse i)
      let given := p.cur.bind (·.given)
      let reopen := openClause o entry c ix false none []
      let gd := given.bind (fun g => if g.1 / 8 % 2 = 1 then some (hDist g.2 (bodyCount p)) else none)
      match (if gd.isSome then some p else insertNops reopen u given.isSome 8 p) with
      | none => .error bad
      | some p =>
        let tooMany := 4 < bodyCount p + size
        if tooMany && given.isSome then .error bad
        else
          let p := if tooMany then reopen p else p
          let d := gd.getD (needs u p)
          let own := (p.cur.map (·.own)).getD []
          let mine (x : PFlag) : Bool := own.contains x.f
          let p := if (given.map (fun g => decide (g.1 % 2 = 1))).getD false then p
            else
              let p := waitOn ((p.pend.filter (fun x => !mine x && touches u x.regs)).map (·.f)) p
              if fl && given.isSome && (p.cur.bind setGiven).isNone then waitOn ((exhausted p).toList.filter (fun f => !own.contains f)) p else p
          let p : Pack := match fl, p.cur with
            | true, some k =>
              let f := takeFlag k p
              let one (x : PFlag) : PFlag := { x with cnt := x.cnt + 1, regs := (x.regs ++ u.w ++ u.o).eraseDups }
              { p with
                cur := some (if k.own.isEmpty then { k with setA := f, own := [f] } else { k with setB := f, own := k.own ++ [f] })
                pend := if f = 15 then p.pend else if p.pend.any (fun x => x.f = f) then upd (fun x => x.f = f) one p.pend
                  else p.pend ++ [⟨f, placeOf c ix, 1, u.w ++ u.o⟩] }
            | _, _ => p
          let p := tickOwed d (addBody w d (some ix) p)
          let p := if fl || u.lat = 0 then p else { p with owed := joinOwed p.owed ((u.w ++ u.o).map (fun r => (r, u.lat))) }
          let p := if size = 2 then addBody (codeW o c (ix + 1)) 0 (some (ix + 1)) p else p
          let p := { p with win := winAfter i p.win }
          .ok (if !transferWord w then p
            else
              let p := carryOn (leadsTo o c ix) p
              let p := if given.isSome then p else closeClause p
              if endsPath i then { p with pend := [], owed := [], dead := true } else p)
/-- A pass over the functions of a code section, in their order: what runs on from one function into the next is carried along. -/
def packSec (o : Obj) (entry : Carried) (acc : List (Fn × List Clause) × Carried) (c : Nat) : Chk (List (Fn × List Clause) × Carried) := do
  let r ← (fnsOf o c).foldlM (fun (a : List (Fn × List Clause) × Pack) f => do
    let p ← f.words.foldlM (packWord o c entry) a.2
    let p := closeClause p
    pure (a.1 ++ [(f, p.done)], { p with done := [] })) (acc.1, { seen := acc.2 })
  pure (r.1, r.2.seen)
/-- Passes over an object until the transfers carry what the pass before assumed; at most `n` of them. -/
def packProg (o : Obj) : Nat → Carried → Chk (List (Fn × List Clause))
  | 0, entry => do pure (← (secsOf o 1).foldlM (packSec o entry) ([], [])).1
  | n + 1, entry => do
    let r ← (secsOf o 1).foldlM (packSec o entry) ([], [])
    if r.2 = entry then pure r.1 else packProg o n r.2
/-- The header word of a clause (09 R264): every field that an explicit clause gives stands as given (16 R430). -/
def clauseHeader (c : Clause) : W32 :=
  let n := c.bodies.length
  let h := c.given.map (·.2)
  let wait := (List.range 12).foldl (fun m f => if c.wait.contains f then m + 2 ^ f else m) 0
  let dist (i : Nat) : Nat := ((c.bodies[i]?).map (·.2.1)).getD 0
  let given (k : Nat) : Bool := (c.given.map (fun g => decide (g.1 / 2 ^ k % 2 = 1))).getD false
  let setA := if given 1 then (h.map hSetA).getD 15 else c.setA
  let setB := if given 2 then (h.map hSetB).getD 15 else c.setB
  let ds := if given 3 then ((h.map (fun h => h.toNat % 2 ^ 10 / 4 * 4)).getD 0) else
    dist 0 * 2 ^ 8 + dist 1 * 2 ^ 6 + dist 2 * 2 ^ 4 + dist 3 * 4
  let y := if given 4 then ((h.map (fun h => h.toNat / 2 % 2)).getD 0) else 0
  w32 (wait * 2 ^ 20 + setA * 2 ^ 16 + setB * 2 ^ 12 + (n - 1) * 2 ^ 10 + ds + y * 2)
/-- Whether an explicit clause breaks R294: its count, or what a header of its words may not be (03 R108, 09 R265, R266, R272: a J word's
distance among it). -/
def clauseBad (c : Clause) : Bool :=
  match c.given with
  | none => false
  | some (_, h) =>
    let hd := clauseHeader c
    c.bodies.length < hCount h || h.getLsbD 0 || !headerOk hd (c.bodies.map (·.1)) ||
      (List.range c.bodies.length).any (fun n => hDist hd (n + 1) ≠ 0 && ((c.bodies[n]?).map (fun b => decide (opOf b.1 = 3))).getD false)
/-- Step 5 (16 R443): the clauses of every function, in the order of the functions. An explicit clause that begins at a J word, which stands in
no clause but that of its `brd`, breaks R266. -/
def packAll (o : Obj) : Chk (List (Fn × List Clause)) := do
  for c in secsOf o 1 do
    for b in allBlocks o c do
      failIf (isJ o c b.1) { code := 0x12, sec := c, off := 4 * b.1, value := b.2.2.setWidth 64 }
  let fs ← packProg o 64 []
  for x in fs do
    for c in x.2 do
      failIf (clauseBad c) { code := 0x12, sec := x.1.sec, off := 4 * c.first, value := (((c.given.map (fun g => g.2)).getD 0 : W32)).setWidth 64 }
  pure fs

end Sys2Proof.Machine
end

