-- ==== Sys2Proof/Machine/Load.lean ====
section
/-! DEFINITION. Placing, relocating and loading an object (16 R442 to R447). -/

namespace Sys2Proof.Machine

/-- How the finaliser lays an object out (16 R431): each clause with its section and its header's offset in the placed code, each data
section with its offset in the placed data, the alignments that both need, and what it needs in all. -/
structure Layout where
  clauses : List (Nat × Nat × Clause)
  data : List (Nat × Nat)
  codeAlign : Nat
  dataAlign : Nat
  codeBytes : Nat
  dataBytes : Nat
/-- Where a load places a layout: the addresses of its code and of its data. -/
structure Bases where
  code : Nat
  data : Nat
/-- `a` rounded up to a multiple of an alignment. -/
def alignUp (a n : Nat) : Nat := ceilDiv a n * n
/-- Place the clauses of one section's functions, contiguous and in order (16 R432). -/
def placeClauses : Nat → List (Nat × Clause) → List (Nat × Nat × Clause) × Nat
  | a, [] => ([], a)
  | a, (sec, c) :: r =>
    let (t, e) := placeClauses (a + 4 * (c.bodies.length + 1)) r
    ((sec, a, c) :: t, e)
/-- Place every code section at its alignment from an offset on (16 R444). -/
def placeCode (o : Obj) (cs : List (Nat × Clause)) : Nat → List Nat → List (Nat × Nat × Clause)
  | _, [] => []
  | a, sec :: r =>
    let (t, e) := placeClauses (alignUp a (secAt o sec).align) (cs.filter (fun c => c.1 = sec))
    t ++ placeCode o cs e r
/-- Place every data section at its alignment from an offset on (16 R444). -/
def placeData (o : Obj) : Nat → List Nat → List (Nat × Nat)
  | _, [] => []
  | a, sec :: r =>
    let b := alignUp a (secAt o sec).align
    (sec, b) :: placeData o (b + (secAt o sec).len) r
/-- The data sections of an object. -/
def dataSecs (o : Obj) : List Nat := (List.range o.secs.length).filter (fun i => (secAt o i).type = 2 || (secAt o i).type = 3)
/-- The layout of packed functions. -/
def layout (o : Obj) (fs : List (Fn × List Clause)) : Layout :=
  let cs := fs.flatMap (fun f => f.2.map (fun c => (f.1.sec, c)))
  let most (l : List Nat) : Nat := l.foldl (fun m i => max m (secAt o i).align) 4
  { clauses := placeCode o cs 0 (secsOf o 1), data := placeData o 0 (dataSecs o)
    codeAlign := most (secsOf o 1), dataAlign := most (dataSecs o)
    codeBytes := cs.foldl (fun n c => n + 4 * (c.2.bodies.length + 1)) 0
    dataBytes := (dataSecs o).foldl (fun n i => n + (secAt o i).len) 0 }
/-- The offset of the header of the clause that a word begins. -/
def labelOff (l : Layout) (sec ix : Nat) : Nat :=
  ((l.clauses.find? (fun c => c.1 = sec && c.2.2.first = ix)).map (·.2.1)).getD 0
/-- The offset of the header of the clause that holds a word. -/
def hdrOff (l : Layout) (sec ix : Nat) : Nat :=
  ((l.clauses.find? (fun c => c.1 = sec && c.2.2.bodies.any (fun b => b.2.2 = some ix))).map (·.2.1)).getD 0
/-- The offset of a data section. -/
def dataOff (l : Layout) (sec : Nat) : Nat := ((l.data.find? (fun d => d.1 = sec)).map (·.2)).getD 0
/-- S of R442: a symbol's address or value. -/
def symValue (l : Layout) (at_ : Bases) (y : Sym) : Word :=
  if y.kind ≤ 2 then wd (at_.code + labelOff l y.sec y.value.toNat)
  else if y.kind = 3 then wd (at_.data + dataOff l y.sec) + y.value
  else y.value

/-- A patched field: section, byte offset, bytes of the item, the field's width from bit 0, and its value. -/
structure Patch where
  sec : Nat
  off : Nat
  size : Nat
  width : Nat
  val : Nat
deriving DecidableEq, Repr
/-- Whether a value fits a signed field. -/
def fitsS (v : Word) (n : Nat) : Bool := -(2 ^ (n - 1) : Int) ≤ v.toInt && v.toInt < (2 ^ (n - 1) : Int)
/-- The symbol kinds that a relocation type allows (16 R442). -/
def relKinds : Nat → List Nat
  | 1 | 2 => [0, 1, 2, 3, 5]
  | 3 => [0, 1, 2]
  | 4 => [0]
  | _ => [3, 5]
/-- Whether a relocation falls on an item of the kind that its type patches (16 R442). -/
def relFits (o : Obj) (t sec off : Nat) : Bool :=
  let s := secAt o sec
  let ix := off / 4
  let w := codeW o sec ix
  if t ≤ 2 then (s.type = 2 || s.type = 3) && off + (if t = 1 then 8 else 4) ≤ s.len
  else
    s.type = 1 && off % 4 = 0 && off + 4 ≤ s.len &&
      (match t with
        | 3 => (jumpsTo o sec ix).isSome || (match insAt o sec ix with
            | some (.call _) | some (.bra _) | some (.brcNz _ _) | some (.brcZ _ _) | some (.brd _ _ _) => true
            | _ => false)
        | 4 => isJ o sec ix
        | 5 | 7 => !isJ o sec ix && opOf w = 0x1D
        | 6 => !isJ o sec ix && opOf w = 0x1B
        | _ => match insAt o sec ix with
          | some (.slogi _ _ .ins _) => true
          | _ => false)
/-- Step 6, one relocation (16 R442, R443). -/
def relocate (o : Obj) (l : Layout) (at_ : Bases) (r : Nat × Nat) : Chk Patch := do
  let w := recWord o r.1 r.2
  let sec := (secAt o r.1).link
  let off := fld (w 0) 63 32
  let t := fld (w 0) 31 24
  let n := fld (w 0) 23 0
  let a := w 1
  let aux := fld (w 2) 7 0
  let e (c : Nat) (v : Word) : FinErr := { code := c, sec := sec, off := off, type := t, value := v, sym := n }
  failIf (fld (w 2) 63 8 ≠ 0) { e 4 (w 2) with sec := r.1, off := 24 * r.2 + 16 }
  failIf ((symsOf o).length ≤ n) { e 4 (w 0) with sec := r.1, off := 24 * r.2 }
  let y := symAt o n
  failIf (t = 0 || 8 < t) (e 0x31 (wd t))
  failIf (y.kind = 4) (e 5 0)
  failIf (!(relKinds t).contains y.kind || ((t = 3 || t = 4) && a ≠ 0) || (t = 8 && 5 < aux)) (e 0x31 (wd t))
  failIf (!relFits o t sec off) (e 0x32 (wd off))
  let f := (fnsOf o sec).find? (fun f => f.lo ≤ off / 4 && off / 4 < f.hi)
  let same := y.sec = sec && (f.map (fun f => decide (f.lo ≤ y.value.toNat && y.value.toNat < f.hi))).getD false
  failIf ((t = 3 || t = 4) && (if isCall (insAt o sec (off / 4)) && t = 3 then !isEntry y else y.kind = 0 && !same)) (e 0x31 (wd t))
  let v := symValue l at_ y + a
  let d := v - wd (at_.code + hdrOff l sec (off / 4))
  let q : Word := BitVec.ofInt 64 (d.toInt / 4)
  match t with
  | 1 => pure ⟨sec, off, 8, 64, v.toNat⟩
  | 2 => do failIf (2 ^ 32 ≤ v.toNat) (e 0x30 v); pure ⟨sec, off, 4, 32, v.toNat⟩
  | 3 | 4 => do failIf (!fitsS q 18) (e 0x30 q); pure ⟨sec, off, 4, 18, q.toNat % 2 ^ 18⟩
  | 5 => do failIf (!fitsS v 18) (e 0x30 v); pure ⟨sec, off, 4, 18, v.toNat % 2 ^ 18⟩
  | 6 => do failIf (!fitsS v 11) (e 0x30 v); pure ⟨sec, off, 4, 11, v.toNat % 2 ^ 11⟩
  | 7 => pure ⟨sec, off, 4, 18, fld v 63 48⟩
  | _ => pure ⟨sec, off, 4, 8, fld v (8 * aux + 7) (8 * aux)⟩
/-- A word of code with its patches. -/
def patched (ps : List Patch) (sec ix : Nat) (w : W32) : W32 :=
  (ps.filter (fun p => p.sec = sec && p.off = 4 * ix)).foldl
    (fun w p => w32 (w.toNat / 2 ^ p.width * 2 ^ p.width + p.val)) w
/-- The words of a clause with their marks (16 R444): 1 a header, 2 a body word, 3 a J word. -/
def clauseWords (ps : List Patch) (sec : Nat) (c : Clause) : List (W32 × Nat) :=
  let brd (i : Nat) : Bool := ((c.bodies[i]?).map (fun b => decide (opOf b.1 = 3))).getD false
  (clauseHeader c, 1) :: ((List.range c.bodies.length).zip c.bodies).map (fun p =>
    (match p.2.2.2 with
      | some ix => patched ps sec ix p.2.1
      | none => p.2.1,
     if p.1 ≠ 0 && brd (p.1 - 1) then 3 else 2))
/-- The bytes of a data section with its patches. -/
def dataBytes (o : Obj) (ps : List Patch) (sec : Nat) : List Byte :=
  let s := secAt o sec
  (List.range s.len).map (fun i =>
    match (ps.filter (fun p => p.sec = sec && p.off ≤ i && i < p.off + p.size)).getLast? with
    | some p => BitVec.ofNat 8 (p.val / 2 ^ (8 * (i - p.off)))
    | none => o.bytes[s.off + i]?.getD 0)

/-- What a successful load places: words with marks, data, the kernels and their records (16 R444, R446). -/
structure Placed where
  code : List (Nat × W32 × Nat)
  data : List (Nat × Byte)
  kernels : List Kernel
  records : List Word
/-- What the finaliser makes of an object (16 R431): a function of its bytes and of the finaliser's version alone. -/
structure Finalised where
  obj : Obj
  lay : Layout
  kernels : List (Nat × Nat × List Word)
/-- Steps 1 to 5 (16 R443), and for each kernel its function, its record's section and word 1 of its load record. -/
def finalise (bs : List Byte) : Chk Finalised := do
  let o ← readObj bs
  checkRecords o
  checkCode o
  checkKernels o
  let fs ← packAll o
  let all_ := allFns o
  let ks ← (kernelRecs o).mapM (fun r => do
    let w := recWord o r.1 r.2
    let y := symAt o (fld (w 0) 63 32)
    let k := (all_.findIdx? (fun f => f.sec = y.sec && f.lo = y.value.toNat)).getD 0
    let d ← fnDepth o ((all_[k]?).getD default)
    pure (r.1, r.2, [wd (d * 2 ^ 56 + chain o all_ (all_.length + 1) k * 2 ^ 48 + (fld (w 0) 15 8 - 1) * 2 ^ 40)]))
  pure ⟨o, layout o fs, ks⟩
/-- The parts of an image at bases, with the permissions that their memory must carry (16 R444). -/
def partsOf (m : Finalised) (at_ : Bases) : List (Nat × Nat × BitVec 4) :=
  m.lay.clauses.map (fun c => (at_.code + c.2.1, 4 * (c.2.2.bodies.length + 1), permR ||| permX)) ++
    m.lay.data.map (fun d => (at_.data + d.2, (secAt m.obj d.1).len, if (secAt m.obj d.1).type = 2 then permR else permR ||| permW))
/-- Step 6 and the placed image (16 R442 to R446). -/
def link (m : Finalised) (at_ : Bases) : Chk Placed := do
  let o := m.obj
  let l := m.lay
  let ps ← (relocs o).mapM (relocate o l at_)
  let ks := m.kernels.map (fun k =>
    let w := recWord o k.1 k.2.1
    let entry := symValue l at_ (symAt o (fld (w 0) 63 32))
    ((⟨entry, fld (w 0) 18 16, 64 * fld (w 0) 15 8, fld (w 1) 31 0, fld (w 1) 47 32⟩ : Kernel),
      entry :: k.2.2 ++ [wd l.codeBytes, wd (((l.data.head?).map (fun d => at_.data + d.2)).getD 0)]))
  pure {
    code := l.clauses.flatMap (fun c =>
      let ws := clauseWords ps c.1 c.2.2
      (List.range ws.length).zip ws |>.map (fun p => (at_.code + c.2.1 + 4 * p.1, p.2.1, p.2.2)))
    data := l.data.flatMap (fun d => let b := dataBytes o ps d.1; (List.range b.length).zip b |>.map (fun p => (at_.data + d.2 + p.1, p.2)))
    kernels := ks.map (·.1), records := ks.flatMap (·.2) }
/-- The load result (16 R446). -/
def loadResult : Except FinErr Placed → List Word
  | .ok p => wd (Config.finaliserVersion.toNat * 2 ^ 16 + p.kernels.length) :: p.records
  | .error e =>
    [wd (e.code * 2 ^ 48 + Config.finaliserVersion.toNat * 2 ^ 16), wd (e.code * 2 ^ 48 + e.sec % 2 ^ 16 * 2 ^ 32 + e.off % 2 ^ 32),
     wd (e.type * 2 ^ 56), e.value, wd (e.sym % 2 ^ 32 * 2 ^ 32 + e.kernel % 2 ^ 32)]

/-- Whether parts may be placed (16 R444): the job's pages and ranges carry what they need, those of code no W with it, so that no store changes
it (DEDUCED, log 19), no two parts meet, and none meets code that has been placed, which changes through the code-patch procedure alone. -/
def roomFor (s : State) (pkg job : Nat) (parts : List (Nat × Nat × BitVec 4)) : Bool :=
  let fits (need : BitVec 4) (h : Hit) : Bool := need &&& permX = 0 || h.perm &&& permW = 0
  parts.all (fun p => (hostHits s pkg job p.2.2 false (wd p.1) p.2.1).any (fun hs => hs.all (fits p.2.2)) &&
      !(codeIn s pkg job (wd p.1) p.2.1).1) &&
    (parts.zip (List.range parts.length)).all (fun p =>
      (parts.drop (p.2 + 1)).all (fun q => p.1.1 + p.1.2.1 ≤ q.1 || q.1 + q.2.1 ≤ p.1.1))
/-- The finalised words of an image. -/
def Placed.words (p : Placed) : List W32 := p.code.map (fun w => w.2.1)
/-- Whether what an object gives at bases is what it has given before, on any package (16 R431): the same finalised words. -/
def sameWords (s : State) (m : Finalised) (at_ : Bases) : Bool :=
  match s.finalised.find? (fun f => f.1 = m.obj.bytes.toList) with
  | none => true
  | some f => match link m at_ with
    | .ok p => p.words = f.2
    | .error _ => false
/-- Whether an image may stand at bases: aligned, with room for it (16 R444), its words the same as ever (R431). -/
def mayStand (s : State) (pkg job : Nat) (m : Finalised) (at_ : Bases) : Bool :=
  at_.code % m.lay.codeAlign = 0 && at_.data % m.lay.dataAlign = 0 && roomFor s pkg job (partsOf m at_) && sameWords s m at_
/-- Whether a job has room for an image anywhere in its space (16 R447 code 0x0040). -/
def hasRoom (s : State) (pkg job : Nat) (m : Finalised) : Bool :=
  (List.range (2 ^ 56)).any (fun c => (List.range (2 ^ 56)).any (fun d => mayStand s pkg job m ⟨c, d⟩))
/-- Write bytes at job addresses for the host, whatever their permissions, and record their positions (17 R453); `m` is the state
whose translation the addresses take. -/
def hostPut (m : State) (pkg job : Nat) (bs : List (Nat × Byte)) (s : State) : State :=
  let (v, s) := bs.foldl (fun (vs : Cells Nat × State) b =>
    match translate m pkg job b.1 with
    | some h => let t := homeWrite [(h.loc, b.2)] h.key vs.2; (cset 0 vs.1 h.loc t.wseq, t)
    | none => vs) ([], s)
  { s with pubs := addPub ⟨none, 5, v⟩ s.pubs }
/-- Bytes at consecutive addresses. -/
def bytesAt (a : Nat) (bs : List Byte) : List (Nat × Byte) := (List.range bs.length).zip bs |>.map (fun p => (a + p.1, p.2))
/-- The image becomes part of the job (16 R444): its bytes, its marks, its kernels. -/
def placeImage (pkg job : Nat) (p : Placed) (s : State) : State :=
  let s := hostPut s pkg job (p.code.flatMap (fun w => bytesAt w.1 (leBytes 4 w.2.1.toNat)) ++ p.data) s
  let gone (k : Kernel) : Bool := p.code.any (fun w => w.1 = k.entry.toNat)
  onJob pkg job (fun j => { j with kernels := j.kernels.filter (fun k => !gone k) ++ p.kernels })
    { s with code := p.code.foldl (fun c w => cset 0 c (codeKey pkg job w.1) w.2.2) s.code }
/-- The finalised words that an object gives are those that it gives from now on (16 R431). -/
def noteWords (obj : List Byte) (p : Placed) (s : State) : State :=
  if s.finalised.any (fun f => f.1 = obj) then s else { s with finalised := s.finalised ++ [(obj, p.words)] }
/-- Whether a result buffer would meet finalised code: that of the image, or code that has been placed (16 R444: no write but a code patch
changes it). -/
def meetsCode (s : State) (pkg job : Nat) (res : Except FinErr Placed) (buf n : Nat) : Bool :=
  (codeIn s pkg job (wd buf) n).1 || (match res with
    | .ok p => p.code.any (fun w => meets w.1 4 buf n)
    | .error _ => false)
/-- LOAD (17 R452, 16 R443 to R447): the object is finalised and placed where the device has chosen, and the load result is written to the
host's buffer together with the image; a buffer in finalised code is refused. An event whose addresses cannot hold an image that the job has room for is no choice of the
device's: it changes nothing (log 12). -/
def execLoad (h : Cmd) (job : Nat) (obj : List Byte) (buf codeAt dataAt : Word) (s : State) : Out :=
  let at_ : Bases := ⟨codeAt.toNat, dataAt.toNat⟩
  let out (res : Except FinErr Placed) : Out :=
    command (.load h job obj buf codeAt dataAt) h true (fun s =>
      let bytes := wordBytes (loadResult res)
      let place (s : State) : State := match res with
        | .ok p => noteWords obj p (placeImage h.pkg job p s)
        | .error _ => s
      if (jobOn s h.pkg job).isNone then reply (.error h) s
      else if tagOf buf = 15 then
        match driverAddr buf bytes.length with
        | none => reply (.error h) s
        | some (p, off) =>
          if deviceHeld s p off bytes.length || (podOf s p).isNone then reply (.error h) s
          else reply (.ok h []) (driverWrite p bytes.length off bytes (place s))
      else if (hostHits s h.pkg job permW false buf bytes.length).isNone || meetsCode s h.pkg job res buf.toNat bytes.length then
        reply (.error h) s
      else reply (.ok h []) (hostPut s h.pkg job (bytesAt buf.toNat bytes) (place s))) s
  match finalise obj with
  | .error e => out (.error e)
  | .ok m =>
    if (jobOn s h.pkg job).isNone || mayStand s h.pkg job m at_ then out (link m at_)
    else if hasRoom s h.pkg job m then .next s
    else out (.error { code := 0x40, value := wd (m.lay.codeBytes + m.lay.dataBytes) })

end Sys2Proof.Machine
end

