-- ==== Sys2Proof/Machine/Dispatch.lean ====
section
/-! DEFINITION. One arm per instruction and event of the opcode table: a direct call of its meaning. -/

namespace Sys2Proof.Machine

open Sys2Proof

def exec (i : Instr) (s : State) : Host.Outcome State Fault Refusal :=
  match i with
  | .nop => Sys2Proof.Machine.execNop s
  | .bra o => Sys2Proof.Machine.execBra o s
  | .braIndirect a o => Sys2Proof.Machine.execBraIndirect a o s
  | .brcNz n o => Sys2Proof.Machine.execBrcNz n o s
  | .brcZ n o => Sys2Proof.Machine.execBrcZ n o s
  | .brd k o j => Sys2Proof.Machine.execBrd k o j s
  | .join => Sys2Proof.Machine.execJoin s
  | .call o => Sys2Proof.Machine.execCall o s
  | .callIndirect a o => Sys2Proof.Machine.execCallIndirect a o s
  | .ret => Sys2Proof.Machine.execRet s
  | .exit => Sys2Proof.Machine.execExit s
  | .yield => Sys2Proof.Machine.execYield s
  | .yieldPath => Sys2Proof.Machine.execYieldPath s
  | .trap xi => Sys2Proof.Machine.execTrap xi s
  | .bkpt => Sys2Proof.Machine.execBkpt s
  | .tret => Sys2Proof.Machine.execTret s
  | .term => Sys2Proof.Machine.execTerm s
  | .rget n => Sys2Proof.Machine.execRget n s
  | .rgetGrant c => Sys2Proof.Machine.execRgetGrant c s
  | .rput => Sys2Proof.Machine.execRput s
  | .winb b => Sys2Proof.Machine.execWinb b s
  | .sadd d a b m => Sys2Proof.Machine.execSadd d a b m s
  | .ssub d a b m => Sys2Proof.Machine.execSsub d a b m s
  | .smul d a b m => Sys2Proof.Machine.execSmul d a b m s
  | .sand d a b m => Sys2Proof.Machine.execSand d a b m s
  | .sor d a b m => Sys2Proof.Machine.execSor d a b m s
  | .sxor d a b m => Sys2Proof.Machine.execSxor d a b m s
  | .sshl d a b m => Sys2Proof.Machine.execSshl d a b m s
  | .sshr d a b m => Sys2Proof.Machine.execSshr d a b m s
  | .sminmax d a b m => Sys2Proof.Machine.execSminmax d a b m s
  | .scmp d a b m => Sys2Proof.Machine.execScmp d a b m s
  | .ssel d a b m => Sys2Proof.Machine.execSsel d a b m s
  | .saddi d a xi => Sys2Proof.Machine.execSaddi d a xi s
  | .slogi d a f xi => Sys2Proof.Machine.execSlogi d a f xi s
  | .sli d xi => Sys2Proof.Machine.execSli d xi s
  | .sbit d a b m => Sys2Proof.Machine.execSbit d a b m s
  | .ssprRd d n => Sys2Proof.Machine.execSsprRd d n s
  | .ssprWr a n => Sys2Proof.Machine.execSsprWr a n s
  | .ssprOr a n => Sys2Proof.Machine.execSsprOr a n s
  | .ssprAndn a n => Sys2Proof.Machine.execSsprAndn a n s
  | .vadd d a b r => Sys2Proof.Machine.execVadd d a b r s
  | .vsub d a b r => Sys2Proof.Machine.execVsub d a b r s
  | .vmul d a b r => Sys2Proof.Machine.execVmul d a b r s
  | .vand d a b r => Sys2Proof.Machine.execVand d a b r s
  | .vor d a b r => Sys2Proof.Machine.execVor d a b r s
  | .vxor d a b r => Sys2Proof.Machine.execVxor d a b r s
  | .vshl d a b x m => Sys2Proof.Machine.execVshl d a b x m s
  | .vshr d a b x m => Sys2Proof.Machine.execVshr d a b x m s
  | .vminmax d a b x m => Sys2Proof.Machine.execVminmax d a b x m s
  | .vcmp k a b x m => Sys2Proof.Machine.execVcmp k a b x m s
  | .vsel d a b x k => Sys2Proof.Machine.execVsel d a b x k s
  | .vmov f => Sys2Proof.Machine.execVmov f s
  | .vperm d a b z => Sys2Proof.Machine.execVperm d a b z s
  | .vvote d a m => Sys2Proof.Machine.execVvote d a m s
  | .vscan d a ex o => Sys2Proof.Machine.execVscan d a ex o s
  | .vredl d a o => Sys2Proof.Machine.execVredl d a o s
  | .fadd d a b r => Sys2Proof.Machine.execFadd d a b r s
  | .fsub d a b r => Sys2Proof.Machine.execFsub d a b r s
  | .fmul d a b r => Sys2Proof.Machine.execFmul d a b r s
  | .ffma d a b r => Sys2Proof.Machine.execFfma d a b r s
  | .fminmax d a b x m => Sys2Proof.Machine.execFminmax d a b x m s
  | .fcmp k a b x m => Sys2Proof.Machine.execFcmp k a b x m s
  | .ffun d a f => Sys2Proof.Machine.execFfun d a f s
  | .fcvt d a m f frm => Sys2Proof.Machine.execFcvt d a m f frm s
  | .fpack d a un w => Sys2Proof.Machine.execFpack d a un w s
  | .hadd2 d a b r => Sys2Proof.Machine.execHadd2 d a b r s
  | .hmul2 d a b r => Sys2Proof.Machine.execHmul2 d a b r s
  | .hfma2 d a b r => Sys2Proof.Machine.execHfma2 d a b r s
  | .fclass d a m => Sys2Proof.Machine.execFclass d a m s
  | .frng d u01 => Sys2Proof.Machine.execFrng d u01 s
  | .fscale d a b x ex => Sys2Proof.Machine.execFscale d a b x ex s
  | .fdot2 d a b r => Sys2Proof.Machine.execFdot2 d a b r s
  | .ld d a f z => Sys2Proof.Machine.execLd d a f z s
  | .st d a f z => Sys2Proof.Machine.execSt d a f z s
  | .lds d a o z => Sys2Proof.Machine.execLds d a o z s
  | .sts d a o z => Sys2Proof.Machine.execSts d a o z s
  | .ldc d a o z => Sys2Proof.Machine.execLdc d a o z s
  | .ldsp d a b col sk => Sys2Proof.Machine.execLdsp d a b col sk s
  | .stsp d a b col sk => Sys2Proof.Machine.execStsp d a b col sk s
  | .ldb d a b n => Sys2Proof.Machine.execLdb d a b n s
  | .stb d a b n => Sys2Proof.Machine.execStb d a b n s
  | .pref a f => Sys2Proof.Machine.execPref a f s
  | .pfence m => Sys2Proof.Machine.execPfence m s
  | .drain => Sys2Proof.Machine.execDrain s
  | .cpy t d p l => Sys2Proof.Machine.execCpy t d p l s
  | .tlwait t => Sys2Proof.Machine.execTlwait t s
  | .tlwaitN t n => Sys2Proof.Machine.execTlwaitN t n s
  | .tlreadCnt d t => Sys2Proof.Machine.execTlreadCnt d t s
  | .tlreadLast d t => Sys2Proof.Machine.execTlreadLast d t s
  | .tlreadSkip d t => Sys2Proof.Machine.execTlreadSkip d t s
  | .sleept a => Sys2Proof.Machine.execSleept a s
  | .sleepEnd c => Sys2Proof.Machine.execSleepEnd c s
  | .promiseExpiry o => Sys2Proof.Machine.execPromiseExpiry o s
  | .atom d a b o => Sys2Proof.Machine.execAtom d a b o s
  | .atom64 d a b o => Sys2Proof.Machine.execAtom64 d a b o s
  | .casW d a b => Sys2Proof.Machine.execCasW d a b s
  | .casD d a b => Sys2Proof.Machine.execCasD d a b s
  | .red d a b o => Sys2Proof.Machine.execRed d a b o s
  | .chunk d a b => Sys2Proof.Machine.execChunk d a b s
  | .qpush d a => Sys2Proof.Machine.execQpush d a s
  | .qpop d a k => Sys2Proof.Machine.execQpop d a k s
  | .qpops d a => Sys2Proof.Machine.execQpops d a s
  | .qclose a => Sys2Proof.Machine.execQclose a s
  | .lnch d f t l => Sys2Proof.Machine.execLnch d f t l s
  | .lnchTry d f t l => Sys2Proof.Machine.execLnchTry d f t l s
  | .joinw d a => Sys2Proof.Machine.execJoinw d a s
  | .bar l => Sys2Proof.Machine.execBar l s
  | .mcopy t d p l => Sys2Proof.Machine.execMcopy t d p l s
  | .reduce t d p l => Sys2Proof.Machine.execReduce t d p l s
  | .fencePub l => Sys2Proof.Machine.execFencePub l s
  | .fenceAcq l => Sys2Proof.Machine.execFenceAcq l s
  | .fenceAr l => Sys2Proof.Machine.execFenceAr l s
  | .cancelL a => Sys2Proof.Machine.execCancelL a s
  | .cancelG => Sys2Proof.Machine.execCancelG s
  | .cancelJ => Sys2Proof.Machine.execCancelJ s
  | .mma t a b h => Sys2Proof.Machine.execMma t a b h s
  | .mldw h b => Sys2Proof.Machine.execMldw h b s
  | .accz t => Sys2Proof.Machine.execAccz t s
  | .accrd d t c n => Sys2Proof.Machine.execAccrd d t c n s
  | .accwr t xs n => Sys2Proof.Machine.execAccwr t xs n s
  | .acccvt d t m n => Sys2Proof.Machine.execAcccvt d t m n s
  | .accadd d xs n => Sys2Proof.Machine.execAccadd d xs n s
  | .acccp d xs n => Sys2Proof.Machine.execAcccp d xs n s
  | .shset n a => Sys2Proof.Machine.execShset n a s
  | .shget d n => Sys2Proof.Machine.execShget d n s
  | .pkld h a => Sys2Proof.Machine.execPkld h a s
  | .pkq h d => Sys2Proof.Machine.execPkq h d s
  | .pkb h d => Sys2Proof.Machine.execPkb h d s
  | .ovfq d => Sys2Proof.Machine.execOvfq d s
  | .lsapp d a => Sys2Proof.Machine.execLsapp d a s
  | .accmx d t n => Sys2Proof.Machine.execAccmx d t n s
  | .tileHoldEnd c => Sys2Proof.Machine.execTileHoldEnd c s
  | .loadReply c xi => Sys2Proof.Machine.execLoadReply c xi s
  | .replyToImage job pkg c xi => Sys2Proof.Machine.execReplyToImage job pkg c xi s
  | .atomicErrorReply id => Sys2Proof.Machine.execAtomicErrorReply id s
  | .postedPermissionTest id => Sys2Proof.Machine.execPostedPermissionTest id s
  | .storeAtHome id => Sys2Proof.Machine.execStoreAtHome id s
  | .storeFaultDelivery c => Sys2Proof.Machine.execStoreFaultDelivery c s
  | .updateOnlyEviction xi => Sys2Proof.Machine.execUpdateOnlyEviction xi s
  | .combineMerge a b => Sys2Proof.Machine.execCombineMerge a b s
  | .replySplit id => Sys2Proof.Machine.execReplySplit id s
  | .atomicAtHome id => Sys2Proof.Machine.execAtomicAtHome id s
  | .chunkGroup id => Sys2Proof.Machine.execChunkGroup id s
  | .queueOpArrival c => Sys2Proof.Machine.execQueueOpArrival c s
  | .queueOpAccept c => Sys2Proof.Machine.execQueueOpAccept c s
  | .poolRecordGrant l c => Sys2Proof.Machine.execPoolRecordGrant l c s
  | .reeveChildStart launch k => Sys2Proof.Machine.execReeveChildStart launch k s
  | .gangEnd c => Sys2Proof.Machine.execGangEnd c s
  | .launchComplete launch => Sys2Proof.Machine.execLaunchComplete launch s
  | .barrierOpen launch => Sys2Proof.Machine.execBarrierOpen launch s
  | .pathAgeingTakeover c => Sys2Proof.Machine.execPathAgeingTakeover c s
  | .rootLaunchStart pkg q => Sys2Proof.Machine.execRootLaunchStart pkg q s
  | .mmaStart e => Sys2Proof.Machine.execMmaStart e s
  | .mmaStepComplete e => Sys2Proof.Machine.execMmaStepComplete e s
  | .mmaRestart e => Sys2Proof.Machine.execMmaRestart e s
  | .operandFetchFailure e step addr => Sys2Proof.Machine.execOperandFetchFailure e step addr s
  | .weightLatchLoaded c xi ok => Sys2Proof.Machine.execWeightLatchLoaded c xi ok s
  | .granaryOpStart c => Sys2Proof.Machine.execGranaryOpStart c s
  | .granaryOpComplete c => Sys2Proof.Machine.execGranaryOpComplete c s
  | .cartOpComplete o => Sys2Proof.Machine.execCartOpComplete o s
  | .fabricTimeout t => Sys2Proof.Machine.execFabricTimeout t s
  | .laneLoss pkg port lane => Sys2Proof.Machine.execLaneLoss pkg port lane s
  | .retrainComplete pkg group => Sys2Proof.Machine.execRetrainComplete pkg group s
  | .portRejoin pkg port => Sys2Proof.Machine.execPortRejoin pkg port s
  | .capabilityWord pkg port w => Sys2Proof.Machine.execCapabilityWord pkg port w s
  | .capabilityTimeout pkg port => Sys2Proof.Machine.execCapabilityTimeout pkg port s
  | .linkDown pkg port => Sys2Proof.Machine.execLinkDown pkg port s
  | .podBringUp pod count links => Sys2Proof.Machine.execPodBringUp pod count links s
  | .memberFailure pkg => Sys2Proof.Machine.execMemberFailure pkg s
  | .hello pkg minMajor minMinor maxMajor maxMinor ct => Sys2Proof.Machine.execHello pkg minMajor minMinor maxMajor maxMinor ct s
  | .confirm pkg sess => Sys2Proof.Machine.execConfirm pkg sess s
  | .messageAuthFailure pkg sess => Sys2Proof.Machine.execMessageAuthFailure pkg sess s
  | .sessionClose pkg sess => Sys2Proof.Machine.execSessionClose pkg sess s
  | .sessionLinkLoss pkg sess => Sys2Proof.Machine.execSessionLinkLoss pkg sess s
  | .jobCreate h r => Sys2Proof.Machine.execJobCreate h r s
  | .jobEnd h job => Sys2Proof.Machine.execJobEnd h job s
  | .keyInstall h job slot wrapped => Sys2Proof.Machine.execKeyInstall h job slot wrapped s
  | .load h job obj buf codeAt dataAt => Sys2Proof.Machine.execLoad h job obj buf codeAt dataAt s
  | .memWrite h job addr data => Sys2Proof.Machine.execMemWrite h job addr data s
  | .memRead h job addr n => Sys2Proof.Machine.execMemRead h job addr n s
  | .graphCreate h job => Sys2Proof.Machine.execGraphCreate h job s
  | .queueBindCmd h q job => Sys2Proof.Machine.execQueueBindCmd h q job s
  | .submit h q recs => Sys2Proof.Machine.execSubmit h q recs s
  | .cancelLaunch h q n => Sys2Proof.Machine.execCancelLaunch h q n s
  | .cancelGraph h job graph => Sys2Proof.Machine.execCancelGraph h job graph s
  | .cancelJob h job => Sys2Proof.Machine.execCancelJob h job s
  | .counterRead h job graph => Sys2Proof.Machine.execCounterRead h job graph s
  | .save h req => Sys2Proof.Machine.execSave h req s
  | .saveComplete job pkg => Sys2Proof.Machine.execSaveComplete job pkg s
  | .saveDeadlineExpiry job pkg => Sys2Proof.Machine.execSaveDeadlineExpiry job pkg s
  | .resume h req => Sys2Proof.Machine.execResume h req s
  | .resumeRestore job pkg => Sys2Proof.Machine.execResumeRestore job pkg s
  | .packageReset pkg => Sys2Proof.Machine.execPackageReset pkg s
  | .functionReady pkg f => Sys2Proof.Machine.execFunctionReady pkg f s
  | .commandReadyTimeout h => Sys2Proof.Machine.execCommandReadyTimeout h s
  | .functionFailure pkg f => Sys2Proof.Machine.execFunctionFailure pkg f s
  | .uncorrectableStateError c => Sys2Proof.Machine.execUncorrectableStateError c s
  | .scrubPass pkg => Sys2Proof.Machine.execScrubPass pkg s
  | .telemetryUpdate pkg v => Sys2Proof.Machine.execTelemetryUpdate pkg v s
  | .powerLimit pkg v => Sys2Proof.Machine.execPowerLimit pkg v s
  | .thermalShutdown pkg tmax => Sys2Proof.Machine.execThermalShutdown pkg tmax s
  | .checkpoint h r => Sys2Proof.Machine.execCheckpoint h r s
  | .checkpointRestore h r => Sys2Proof.Machine.execCheckpointRestore h r s
  | .checkpointComplete pkg failedAt => Sys2Proof.Machine.execCheckpointComplete pkg failedAt s
  | .illegalInstruction w => Sys2Proof.Machine.execIllegalInstruction w s
  | .granarySegmentWrite c => Sys2Proof.Machine.execGranarySegmentWrite c s
  | .granaryQueryBoundary c => Sys2Proof.Machine.execGranaryQueryBoundary c s
  | .linkUp pkg port w => Sys2Proof.Machine.execLinkUp pkg port w s
  | .flitCrcFailure pkg port => Sys2Proof.Machine.execFlitCrcFailure pkg port s
  | .jobClaim pkg sess job owner => Sys2Proof.Machine.execJobClaim pkg sess job owner s

end Sys2Proof.Machine
end

