-- ==== Sys2Proof/Machine/Schedule.lean ====
section
/-! DEFINITION. What one step does: the agenda's next move, or a default order of gangs and events where it names none (log 3). Which
gangs a core issues from in a cycle (03 R111, R112, 16 R424), and when time passes. How a program comes to stand where a step fetches it (log 7). -/

namespace Sys2Proof.Machine

/-- Whether a row of the table is an event that a step may name: the instruction words are fetched, and the fate of an illegal word
follows from its fetch. -/
def isEvent : Instr → Bool
  | .illegalInstruction _ => false
  | i => !i.isWord

/-- Events of one gang. -/
def gangEvents (g : Gang) : List Instr :=
  [Instr.tileHoldEnd g.at_, Instr.sleepEnd g.at_, Instr.queueOpArrival g.at_, Instr.queueOpAccept g.at_, Instr.rgetGrant g.at_, Instr.gangEnd g.at_] ++
    (g.pend.filter (fun p => p.left = 0)).map (fun p => Instr.loadReply g.at_ p.id)
/-- Events of requests on their way. -/
def requestEvents (s : State) : List Instr :=
  s.stores.flatMap (fun r => [Instr.postedPermissionTest r.id, Instr.storeAtHome r.id]) ++
    s.atoms.flatMap (fun r => [Instr.atomicAtHome r.id, Instr.chunkGroup r.id, Instr.atomicErrorReply r.id]) ++
    s.areplies.map (fun r => Instr.replySplit r.id)
/-- Events of the reeves. -/
def reeveEvents (s : State) : List Instr :=
  s.poolQ.filterMap (fun t => (Level.ofCode t.n).map (fun l => Instr.poolRecordGrant l t.at_)) ++
    s.launches.flatMap (fun l => (List.range l.children.length).map (fun k => Instr.reeveChildStart l.id k) ++
      [Instr.barrierOpen l.id, Instr.launchComplete l.id]) ++
    s.queues.map (fun q => Instr.rootLaunchStart q.pkg q.q)
/-- Events of the engines. -/
def engineEvents (s : State) : List Instr :=
  s.kiln.flatMap (fun k => [Instr.mmaStart k.id, Instr.mmaRestart k.id, Instr.mmaStepComplete k.id, Instr.weightLatchLoaded k.at_ 0 true,
    Instr.weightLatchLoaded k.at_ 1 true]) ++
    s.mldws.flatMap (fun m => [Instr.weightLatchLoaded m.at_ 0 true, Instr.weightLatchLoaded m.at_ 1 true]) ++
    s.granary.flatMap (fun o => [Instr.granaryOpStart o.at_, Instr.granaryQueryBoundary o.at_, Instr.granarySegmentWrite o.at_,
      Instr.granaryOpComplete o.at_]) ++
    s.carts.flatMap (fun c => [Instr.promiseExpiry c.id, Instr.cartOpComplete c.id])
/-- Events of the package and of commands that have not completed. -/
def packageEvents (s : State) : List Instr :=
  s.images.flatMap (fun i => i.gangs.flatMap (fun g => g.pend.map (fun p => Instr.replyToImage i.job i.pkg g.at_ p.id)) ++
      [Instr.saveComplete i.job i.pkg, Instr.saveDeadlineExpiry i.job i.pkg, Instr.resumeRestore i.job i.pkg]) ++
    s.jobs.filterMap (fun j => (j.ending.filter (fun h => (sessOf s h.pkg h.sess).isNone)).map (fun h => Instr.jobEnd h j.id)) ++
    s.pkgs.map (fun p => Instr.checkpointComplete p.pkg none)
/-- The events that the machine makes happen by itself; what the outside does, and errors, come from the agenda alone. -/
def ownEvents (s : State) : List Instr :=
  (gangs s).flatMap gangEvents ++ requestEvents s ++ engineEvents s ++ reeveEvents s ++ packageEvents s
/-- The first of its own events that changes the machine. -/
def nextEvent (s : State) : Option Instr :=
  (ownEvents s).find? (fun i => match exec i s with
    | .next t => t ≠ s
    | .fault _ | .refused _ => false)
/-- The command of a session that the device turns to next (17 R450): a JobEnd that has still to complete, or the first that waits. -/
def nextCommand (s : State) (x : Session) : Option (Cmd × Option Instr) :=
  match s.jobs.findSome? (fun j => (j.ending.filter (fun h => h.pkg = x.pkg && h.sess = x.sess)).map (fun h => (h, some (Instr.jobEnd h j.id)))) with
  | some c => some c
  | none => x.waiting.head?.map (fun c => (c.1, c.2.1))
/-- The device turns to a session's next command. -/
def serve (pkg sess : Nat) (s : State) : Choice :=
  match (sessOf s pkg sess).bind (nextCommand s) with
  | none => .done s
  | some (h, i) =>
    let t := onSess pkg sess (fun x => { x with serving := true }) s
    match i with
    | some i => .run i t
    | none => .done (match strayCommand h t with
      | .next u => u
      | .fault _ | .refused _ => s)
/-- A session whose next command goes on now. -/
def nextServe (s : State) : Option Session :=
  s.sessions.find? (fun x => match serve x.pkg x.sess s with
    | .run i t => (match exec i t with
      | .next u => u ≠ s
      | .fault _ | .refused _ => false)
    | .done t => t ≠ s
    | .hold _ => false)
/-- What a gang would do now (03 R111): nothing; take what stands before its next instruction at a boundary; or issue an
instruction. A gang that stands at an instruction whose wait is still unmet does nothing. -/
inductive Turn where
  | idle
  | boundary
  | issue (i : Instr)
/-- What gang `g` would do now. -/
def turnOf (s : State) (g : Gang) : Turn :=
  if !mayIssue s g then .idle
  else match issueNext (focus g.at_ s) with
    | .hold _ => .idle
    | .done _ => .boundary
    | .run i t =>
      if !g.blocked then .issue i
      else match exec i t with
        | .next u => if u.g.blocked then .idle else .issue i
        | .fault _ | .refused _ => .idle
/-- The cycle since which a gang has been eligible, where that is 4,096 cycles or more (03 R112). -/
def starved (s : State) (g : Gang) : Option Nat :=
  match g.eligFrom with
  | some t => if t + 4096 ≤ s.cycle then some t else none
  | none => none
/-- The cycle from which a gang's age counts: in which it last issued or became resident (03 R112). -/
def ageFrom (g : Gang) : Nat := max g.lastIssue g.resident
/-- Whether gang `a` is chosen before gang `b` (03 R112): by the wait of 4,096 cycles, the priority class, the age, `%gang`. -/
def before (s : State) (a b : Gang) : Bool :=
  let rest : Bool :=
    b.prio.toNat < a.prio.toNat || (a.prio = b.prio && (ageFrom a < ageFrom b || (ageFrom a = ageFrom b && a.at_.slot < b.at_.slot)))
  match starved s a, starved s b with
  | some x, some y => x < y || (x = y && rest)
  | some _, none => true
  | none, some _ => false
  | none, none => rest
/-- The resource that an instruction needs (16 R424). -/
def pipeOfInstr (i : Instr) : Option Pipe := pipeOf ((encode i).headD 0)
/-- Place a gang in the order of R112. -/
def insertGang (s : State) (x : Gang × Instr) : List (Gang × Instr) → List (Gang × Instr)
  | [] => [x]
  | y :: r => if before s x.1 y.1 then x :: y :: r else y :: insertGang s x r
/-- The gangs of an ordered list that a core issues from in this cycle: up to four in all, each while its resource is free (03 R112,
16 R424). -/
def pickGangs (core : Nat) : List (Gang × Instr) → State → List Coords
  | [], _ => []
  | x :: r, s =>
    let p := pipeOfInstr x.2
    if pipeFree s core p then x.1.at_ :: pickGangs core r { s with slots := takeSlot s x.1.at_ p } else pickGangs core r s
/-- The gangs of a core that are eligible, in the order of R112. -/
def eligible (s : State) (core : Coords) : List (Gang × Instr) :=
  ((gangs s).filter (fun g => unitOf 1 g.at_ = core)).foldl (fun l g => match turnOf s g with
    | .issue i => insertGang s (g, i) l
    | .idle | .boundary => l) []
/-- Whether a ticket's hold has ended and its gang can still act. -/
def holdEnded (s : State) (t : TileTicket) : Bool :=
  ticketReady s t && ((gangOf s t.uid).map (fun g => g.phase = .running && !g.cancelled && !g.stopping)).getD false
/-- The slots that a core still issues from in this cycle. A tile-ordered instruction whose hold has ended has its core's matrix port before
them (13 R397, 16 R424, log 39). -/
def picked (s : State) (core : Coords) : List Coords :=
  pickGangs (coreIx core) (eligible s core)
    (if s.tickets.any (fun t => t.core = core && holdEnded s t) && pipeFree s (coreIx core) (some .matrix) then
      { s with slots := takeSlot s core (some .matrix) } else s)
/-- Whether an instruction is one that a granary queues (07 R227). -/
def isGranary : Instr → Bool
  | .pkld _ _ | .pkq _ _ | .pkb _ _ => true
  | _ => false
/-- Whether an instruction is tile-ordered (13 R396). -/
def isTile : Instr → Bool
  | .accz _ | .accwr _ _ _ | .accadd _ _ _ | .acccp _ _ _ | .acccvt _ _ _ _ | .accmx _ _ _ => true
  | _ => false
/-- Whether an instruction is an `mma`. -/
def isMma : Instr → Bool
  | .mma _ _ _ _ => true
  | _ => false
/-- Whether gang `g` is among those that its core issues from in this cycle. -/
def isPicked (s : State) (g : Gang) : Bool := (picked s (unitOf 1 g.at_)).contains g.at_
/-- Whether gang `h`, of a lower `%gang` of the same core, enters the order of a tile before gang `g` with instruction `i` in this cycle:
tile-ordered instructions of one cycle, and `mma`s beside them, stand by ascending `%gang` (06 R204, 13 R396). -/
def entersBefore (s : State) (g : Gang) (i : Instr) (h : Gang) : Bool :=
  unitOf 1 h.at_ = unitOf 1 g.at_ && h.at_.slot < g.at_.slot && (match turnOf s h with
    | .issue j => (isTile j && (isTile i || isMma i)) || (isMma j && isTile i && isPicked s h)
    | .idle | .boundary => false)
/-- Whether a granary takes an operation of gang `h` in this cycle before the one of gang `g`: by ascending cluster, core and `%gang`
(07 R227). -/
def queuesBefore (s : State) (g h : Gang) : Bool :=
  dieIx h.at_ = dieIx g.at_ && coreIx h.at_ < coreIx g.at_ && (match turnOf s h with
    | .issue j => isGranary j && isPicked s h
    | .idle | .boundary => false)
/-- Whether gang `g` has become eligible with instruction `i` too late for this cycle: a gang behind it in the order of 06 R204 or 07 R227 has
entered its tile's order or the granary's queue in this cycle already, so that `g` does so in the next one (log 3). -/
def tooLate (s : State) (g : Gang) (i : Instr) : Bool :=
  ((isTile i || isMma i) &&
    (s.slots.any (fun x => x.core = coreIx g.at_ && x.pipe = .matrix && x.cycle = s.cycle && g.at_.slot < x.gang) ||
      s.tickets.any (fun t => t.core = unitOf 1 g.at_ && t.since = s.cycle && g.at_.slot < t.src.at_.slot))) ||
  (isGranary i && s.slots.any (fun x => x.core / 64 = dieIx g.at_ && x.pipe = .engine && x.cycle = s.cycle &&
    (coreIx g.at_ < x.core || (x.core = coreIx g.at_ && g.at_.slot < x.gang))))
/-- Whether gang `g` is the next to act among those of its core. A tile-ordered instruction enters its tile's order as soon as its gang is
eligible (13 R396); any other instruction issues when its gang is chosen (03 R112). -/
def isNext (s : State) (g : Gang) : Bool :=
  match turnOf s g with
  | .idle => false
  | .boundary => true
  | .issue i =>
    (isTile i || isPicked s g) && !tooLate s g i && !(gangs s).any (entersBefore s g i) && !(isGranary i && (gangs s).any (queuesBefore s g))
/-- Whether gang `g` may go now. One that is alone on its die needs no look at the others. -/
def mayGo (s : State) (g : Gang) : Bool :=
  mayIssue s g && (!(gangs s).any (fun h => h.uid ≠ g.uid && h.phase = .running && dieIx h.at_ = dieIx g.at_) || isNext s g)
/-- The cycle at which gang `g` may next become eligible by the passing of time alone. -/
def wakesAt (s : State) (g : Gang) : Option Nat :=
  match g.hold with
  | .sleep t => some (s.cycle + (t.toNat - cycleOf s g))
  | .tile _ => none
  | .none => if !mayIssue s g then none
    else match issueNext (focus g.at_ s) with
      | .hold t => t
      | .done _ | .run _ _ => some s.cycle
/-- Whether some gang has still to act in this cycle: then no time passes (03 R112). -/
def anyGoes (s : State) : Bool := (gangs s).any (fun g => mayIssue s g && isNext s g)
/-- One cycle's end for a gang: a handler whose flags have drained begins 4 cycles later (16 R426), one that was eligible and has
not issued has waited since then (03 R112), and paths that found their waits unmet may try again (03 R99). -/
def tick (s : State) (g : Gang) : Gang :=
  let e := match turnOf s g with
    | .issue _ => some (g.eligFrom.getD s.cycle)
    | .idle | .boundary => none
  let h := { g with eligFrom := e, tried := 0, orNow := 0, blocked := g.blocked && !canGiveWay g }
  if g.drainFlags && flagsZero g then { h with drainFlags := false, notBefore := max g.notBefore (s.cycle + 4) } else h
/-- The promises that have run out (04 R157) are counted as missed. -/
def expirePromises (s : State) : State := s.carts.foldl (fun s c => expirePromise c.id s) s
/-- The cycle at which an open promise runs out. -/
def promiseCycle (s : State) (c : CartOp) : Nat :=
  c.promise + ((s.pkgs.find? (fun p => p.pkg = c.at_.pkg)).map (·.resetAt)).getD 0
/-- Whether a tile-ordered instruction whose hold has ended has still to act: it acts in this cycle (13 R397), unless its core's matrix port
is taken (16 R424). -/
def anyHoldEnds (s : State) : Bool := s.tickets.any (fun t => holdEnded s t && pipeFree s (coreIx t.core) (some .matrix))
/-- How many of `n` cycles pass at once: none while a gang has still to act, one while a gang or a hold that has ended waits for its turn, and otherwise all up to
the next one in which a gang wakes or a promise runs out. -/
def timeFor (n : Nat) (s : State) : Nat :=
  if anyGoes s || anyHoldEnds s then 0
  else if s.tickets.any (holdEnded s) || (gangs s).any (fun g => match turnOf s g with
      | .issue _ => true
      | .idle | .boundary => false) then min n 1
  else
    let stops := (gangs s).filterMap (wakesAt s) ++ (s.carts.filter (fun c => !c.missed)).map (promiseCycle s)
    (stops.filter (fun t => s.cycle < t)).foldl (fun k t => min k (t - s.cycle)) n
/-- Time passes. -/
def passTime (n : Nat) (s : State) : State :=
  let k := timeFor n s
  if k = 0 then s
  else expirePromises { countThrottle k (linkTraffic (onGangs (tick s) s)) with cycle := s.cycle + k }
/-- The gang in slot `c` goes on: its next instruction, or what stands before it (03 R111, R112). A tile-ordered instruction that enters
without being chosen leaves its core's issue slots to those that are (log 39). -/
def goOn (c : Coords) (s : State) : Choice :=
  let t := focus c s
  if t.g.at_ = c && mayGo t t.g then
    match issueNext t with
    | .hold _ => .done s
    | .done u => .done u
    | .run i u => .run i (if isTile i && !isPicked t t.g then { u with slots := u.iss.slots, iss := { u.iss with enters := true } } else u)
  else .done s
/-- An event, or another gang, or time. -/
def elsewhere (s : State) : Choice :=
  match nextEvent s, nextServe s with
  | some i, _ => .run i s
  | none, some x => serve x.pkg x.sess s
  | none, none => match (gangs s).find? (fun g => mayGo s g && match turnOf s g with
      | .idle => false
      | .boundary | .issue _ => true) with
    | some g => goOn g.at_ s
    | none => .done (passTime 1 s)
/-- The default order (log 3): the gang in focus in every even turn where it goes, events and other gangs in every odd one. -/
def byDefault (s : State) : Choice :=
  let t := { s with turn := s.turn + 1 }
  if s.turn % 2 = 0 && mayGo t t.g then
    match turnOf t t.g with
    | .idle => elsewhere t
    | .boundary | .issue _ => goOn t.g.at_ t
  else elsewhere t
/-- The lane addresses of a request that leaves the core of a paired gang, by the instruction's word: loads, stores and `pref`,
atomics, and queue, engine and level instructions, which have none; nothing for an instruction that sends no request (18 R483). -/
def requestAddrs (g : Gang) (w : W32) : Option (List Word) :=
  let a := fldA w
  let b := fldB w
  let m := (fldM w).toNat
  let op := opOf w
  if op = 0x40 || op = 0x41 || op = 0x49 then
    (addrForm (m / 4) b).map (fun f => (laneAddrs g (laneAddr g a f (2 ^ (m % 4)))).map (·.2))
  else if op = 0x42 || op = 0x43 || op = 0x44 then some [offAddr g a ((fldI w).extractLsb' 2 9) (2 ^ (m % 4))]
  else if op = 0x45 || op = 0x46 then some ((tileAddrs g a b ((fldM w).getLsbD 1) ((fldM w).getLsbD 0)).map (·.2))
  else if op = 0x47 || op = 0x48 then some ((blockWords g a b (m + 1)).map (·.2.2))
  else if 0x50 ≤ op && op ≤ 0x54 then some ((atomAddrs g a b).map (·.2))
  else if op = 0x4C || (0x55 ≤ op && op ≤ 0x61) || (0x6A ≤ op && op ≤ 0x6C) then some []
  else none
/-- The lowest of a request's lane addresses; a free value where it has none, since the manual gives none (18 R484). -/
def lowestAddr (n : Nat) (l : List Word) : Word :=
  match l with
  | [] => Config.freeHandle n
  | a :: r => r.foldl (fun x y => if y.ult x then y else x) a
/-- Whether a request of the active path of `g` has left the core and waits: a queue operation, a place in a pool's order, an arrival at a
barrier (08 R258, 02 R56, R67). -/
def outThere (s : State) (g : Gang) : Bool :=
  s.qwaits.any (fun w => w.uid = g.uid && w.path = g.act.val) || s.poolQ.any (fun t => t.uid = g.uid && t.path = g.act.val) ||
    s.launches.any (fun l => l.arrived.contains g.uid)
/-- Whether an instruction that goes on from `s` to `t` has sent its request in this step (18 R483): it raises no trap, and it completes or
waits with its request sent. -/
def hasSent (s t : State) : Bool :=
  t.g.phase = .running && t.g.inh = s.g.inh && !outThere s s.g && ((entry t.g s.g.act).pc ≠ pcOf s || outThere t s.g)
/-- The two slots of a paired gang disagree on the request that its next instruction sends: nothing is sent, and the gang
escalates (18 R484). -/
def mismatched (c : Choice) (s : State) : State :=
  match c with
  | .done _ | .hold _ => s
  | .run i u => match requestAddrs u.g ((encode i).headD 0), exec i u with
    | some l, .next t =>
      if u.g.pair && hasSent u t then
        escalate ⟨cPaired, lowestAddr u.fresh l, 0⟩ (pcOf u) { dropWaits u.g.uid u with fresh := u.fresh + 1 }
      else s
    | _, _ => s
/-- The bytes of the code unit that an uncorrectable error takes: 32 bytes of HBM, 8 bytes of another memory (21 R525). -/
def errorUnit (l : Nat) : List Nat :=
  let n := if locKind l = 0 then 32 else 8
  (List.range n).map (fun i => l / n * n + i)
/-- A miss in the translation caches lengthens the hold of a gang's address check by the cycles of a walk (03 R105). -/
def lengthen (now n : Nat) (g : Gang) : Gang :=
  if g.memHold && now < g.notBefore then { g with notBefore := g.notBefore + n } else g
/-- An agenda's move. A gang that may not go, and an event that is not one, change nothing (log 12). -/
def byAgenda (m : Move) (s : State) : Choice :=
  match m with
  | .event i => if isEvent i then .run i s else .done s
  | .issue c => goOn c s
  | .wait n => .done (passTime n s)
  | .part c id i m => .done (match gangAt s c with
      | some g => if g.pend.any (fun p => p.id = id && !p.far.all (fun f => flows s c.pkg f.2.2)) then s else onGang g.uid (showPart id i m) s
      | none => s)
  | .elements o es => .done (moveElements o es s)
  | .error l => .done { s with poison := s.poison ++ (errorUnit l).filter (fun x => !s.poison.contains x) }
  | .mismatch c => .done (mismatched (goOn c s) s)
  | .miss c n => .done (match gangAt s c with
      | some g => onGang g.uid (lengthen s.cycle n) s
      | none => s)
  | .serve p n => serve p n s
  | .stray h => .done (match strayCommand h s with
      | .next t => t
      | .fault _ | .refused _ => s)
/-- What a step does. -/
def plan (s : State) : Choice :=
  match s.agenda with
  | [] => byDefault s
  | m :: r => byAgenda m { s with agenda := r }

/-- The header of a clause of `n` bodies, its first flagged body counting on f0 (09 R264). -/
def plainHeader (n : Nat) : W32 := w32 (0xF000 + (n - 1) * 2 ^ 10)
/-- Write consecutive bytes of memory as they stand there before a program runs. -/
def poke (l : Nat) (bs : List Byte) (s : State) : State :=
  (consec l bs).foldl (fun s b =>
    { s with mem := cset memDefault s.mem b.1 b.2, keys := cset none s.keys b.1 none, lineKeys := cset (0, none) s.lineKeys (b.1 / 64) (0, none) }) s
/-- The record of the job that a placed instruction runs in (17 R454): job 1, widest level 4, tables in the driver region, key slot 0,
windows of 16 units, a pool share at each level, four tiles. -/
def bootJob : Job := {
  id := 1, pkg := 0
  words := [0x0001000000000401, 0xBC00000000, 0xBC00002000, 0x10000, 0x0010000000100000, 0x100000, 0x0010001000100010,
    0x800400, 0, 0, 0, 0, 0, 0, 0, 0]
  resident := true, sess := none, graphs := [], kernels := [], transfer := none, missed := 0, heldMsgs := [], ending := none
  proto := (1, 0) }
/-- Where a placed instruction's clause begins. -/
def bootPc : Word := 0x1000
/-- The gang that runs a placed instruction: slot 0 of core 0 of cluster 0 of die 0 of package 0, all lanes active, at the clause
header. -/
def bootGang (s : State) : Gang := {
  at_ := ⟨0, 0, 0, 0, 0⟩, uid := s.nextId, phase := .running, job := 1, root := 4
  paths := (Vector.replicate 16 {}).set 0 { lanes := 0xFFFFFFFF, exec := 0xFFFFFFFF, state := .ready, pc := bootPc } }
/-- The instruction with word `w0` (and the J word `w1` of a `brd`) placed as the next that step fetches: what a Load and a root
launch leave (16 R444, 17 R462). Range entry 0 of the job maps its first 4 GiB of addresses to HBM with every permission
(18 R470). -/
def placeWord (w0 w1 : W32) (s : State) : State :=
  let two := opOf w0 = 3
  let words := if two then [plainHeader 2, w0, w1] else [plainHeader 1, w0]
  let code (i m : Nat) (c : Cells Nat) : Cells Nat := cset 0 c (codeKey 0 1 (bootPc.toNat + 4 * i)) m
  let range : List Word := [0x8000000000000000, 0x100000000, 0xF0000000000, 0]
  let s := poke (hbmLoc 0 0xBC00000000) (range.flatMap (fun w => leBytes 8 w.toNat)) s
  let s := poke (hbmLoc 0 bootPc.toNat) (words.flatMap (fun w => leBytes 4 w.toNat)) s
  { s with
    g := bootGang s
    others := (if s.g.phase = .free then s.others else s.g :: s.others).filter (fun h => dieIx h.at_ ≠ 0)
    slots := []
    nextId := s.nextId + 1
    jobs := bootJob :: s.jobs.filter (fun j => !(j.pkg = 0 && j.id = 1))
    code := code 0 1 (code 1 2 (if two then code 2 3 s.code else s.code))
    agenda := [.issue ⟨0, 0, 0, 0, 0⟩] }

end Sys2Proof.Machine
end

