-- ==== Sys2Proof/Certificates/Slice0/Obligations.lean ====
section
/-! DEFINITION. What this row states about the machine. `Sys2Proof.Claims` holds the words that the statements share; each statement
is one `def Obligations.<Name> : Prop`, and its docstring names the rule of spec/ that it formalises or the model's own choice. -/

namespace Sys2Proof.Claims

open Sys2Proof.Machine

/-- `i` completes in `s` with a next state that satisfies `P`. -/
def Runs (i : Instr) (s : State) (P : State → Prop) : Prop := ∃ t, exec i s = .next t ∧ P t
/-- The state after an instruction that sends register results on their way, each with its latency, and goes on at the next word
(03 R106, 09 R263). -/
def done (ws : List (Nat × RegWrite)) (s : State) : State := next (ws.foldl (fun s w => fixed w.1 w.2 s) s)
/-- The state after a flagged instruction whose results, and whose trap, come with the reply (03 R103). -/
def flagged (ws : List RegWrite) (left : Nat) (s : State) : State := next (addPend ws left [] s)
/-- `i` sends the scalar result `z` to `d` with a latency and goes on at the next word; `P` says what `z` is. -/
def ScalarGives (i : Instr) (lat : Nat) (d : Reg) (s : State) (P : Word → Prop) : Prop :=
  ∃ z, exec i s = .next (done [(lat, .s d.toNat z)] s) ∧ P z
/-- The active lanes of the issuing path (03 R89). -/
def Active (s : State) (l : Nat) : Prop := l < 32 ∧ inMask (execMask s.g) l = true
/-- `i` sends a result to the active lanes of vector register `d` and goes on at the next word; `P` says what each active lane
gets. -/
def VectorGives (i : Instr) (lat : Nat) (d : Reg) (s : State) (P : Nat → W32 → Prop) : Prop :=
  ∃ f : Nat → W32, exec i s = .next (done [(lat, .v (vnum s.g d) (execMask s.g) (mkLanes f))] s) ∧ ∀ l, Active s l → P l (f l)
/-- The same with floating-point flags: the flags of the active lanes reach `%fpcsr` with the result (05 R174). -/
def VectorFGives (i : Instr) (lat : Nat) (d : Reg) (s : State) (P : Nat → W32 × Fl → Prop) : Prop :=
  ∃ f : Nat → W32 × Fl, exec i s = .next (done [(lat, .v (vnum s.g d) (execMask s.g) (mkLanes (fun l => (f l).1))),
      (lat, .fp (flagsActive s.g (fun l => (f l).2)))] s) ∧ ∀ l, Active s l → P l (f l)
/-- The gang holds every register of the groups that an instruction names (03 R115, 09 R276). -/
def Holds (g : Gang) (rs : List (Reg × Nat)) : Prop := ∀ r ∈ rs, ∀ i < r.2, held g (vnum g r.1 i) = true

/-- No line of memory is under its key since later than the machine's last write (an invariant of the model, stated below). -/
def LinesOld (s : State) : Prop := ∀ l, (lineOf s l).1 ≤ s.wseq
/-- Nothing but the issuing gang differs. -/
def OnlyGang (s t : State) : Prop := t = { s with g := t.g }
/-- Of the issuing gang, only its paths, what its active path is, and the earliest cycle of its next instruction differ. -/
def OnlyPaths (s t : State) : Prop :=
  OnlyGang s t ∧ t.g = { s.g with paths := t.g.paths, act := t.g.act, notBefore := t.g.notBefore }
/-- The issuing path goes on at `a`, no earlier than 4 cycles later (10 R304, 16 R426), and nothing else differs. -/
def GoesTo (a : Word) (s t : State) : Prop :=
  OnlyPaths s t ∧ t.g.act = s.g.act ∧ t.g.paths = s.g.paths.set s.g.act { path s.g with pc := a } ∧
    t.g.notBefore = max s.g.notBefore (s.cycle + 4)
/-- A trap is delivered to the handler: the gang is not in one, and `%xvec` names a clause header (18 R477). -/
def Delivers (s : State) : Prop := s.g.inh = false ∧ s.g.xvec ≠ 0 ∧ codeMark s s.g s.g.xvec = 1
/-- The handler has been entered for a cause (10 R317, 18 R474, R475): the trap registers hold the cause's values, the trapping path
stands at `%xvec`, and every other register, every flag's count and every byte of memory is as before. -/
def Entered (cause : Nat) (addr info xpc : Word) (s t : State) : Prop :=
  t.g.inh = true ∧ t.g.xcause = BitVec.ofNat 8 cause ∧ t.g.xaddr = addr ∧ t.g.xinfo = info ∧ t.g.xpc = xpc ∧
    t.g.xmask = (path s.g).lanes ∧ path t.g = { path s.g with pc := s.g.xvec } ∧ t.g.drainFlags = true ∧
    t.g = { s.g with inh := t.g.inh, xcause := t.g.xcause, xaddr := t.g.xaddr, xinfo := t.g.xinfo, xpc := t.g.xpc, xmask := t.g.xmask
                     paths := t.g.paths, drainFlags := t.g.drainFlags, notBefore := t.g.notBefore } ∧
    t.mem = s.mem ∧ t.keys = s.keys ∧ t.stores = s.stores ∧ t.atoms = s.atoms ∧ t.others = s.others
/-- The issuing path waits at its instruction (03 R99): it stands there, and another ready path goes on where the gang can give way; else, or
where that one has found its own wait unmet in this cycle too, the gang goes on in a later cycle (log 28). -/
def Waits (s t : State) : Prop :=
  t.g.paths[s.g.act].pc = pcOf s ∧ (canGiveWay s.g = false → t.g.act = s.g.act ∧ t.g.blocked = true) ∧
    (canGiveWay s.g = true → t.g.act ≠ s.g.act ∧ t.g.blocked = s.g.tried.getLsbD t.g.act)
/-- The issuing gang has ended with a failure cause of the gang's level, unless it failed before (02 R63). -/
def EndsWith (cause : Nat) (s t : State) : Prop :=
  t.g.phase = .draining ∧ t.g.fail = (s.g.fail <|> some (cause, s.g.level)) ∧ pathCount t.g = 0 ∧ t.mem = s.mem ∧ t.stores = s.stores

end Sys2Proof.Claims

open Sys2Proof Sys2Proof.Machine Sys2Proof.Claims

/-! Words and instructions. -/

/-- Every legal instruction word decodes to what was encoded: no operand bit is dropped (09 R263 to R281). -/
def Obligations.DecodingInvertsEncoding : Prop :=
  ∀ i : Instr, i.isWord = true → i.wf = true → decode ((encode i).headD 0) (((encode i)[1]?).getD 0) = .ok i

/-- A word that decodes is the first word of its instruction's encoding: no two words mean one instruction (09 R274: bits that a
form does not use are zero). -/
def Sys2Proof.Claims.EncodingInvertsDecoding : Prop :=
  ∀ (w j : W32) (i : Instr), decode w j = .ok i → (encode i).headD 0 = w

/-- Decoding answers only instruction words with legal fields (09 R274 to R276). -/
def Sys2Proof.Claims.DecodedIsLegal : Prop :=
  ∀ (w j : W32) (i : Instr), decode w j = .ok i → i.isWord = true ∧ i.wf = true

/-- A decoded word is its instruction's encoding, and its fields are legal (the statements above named here). -/
def Obligations.EncodingInvertsDecoding : Prop :=
  Claims.EncodingInvertsDecoding ∧ Claims.DecodedIsLegal

/-- Words that the spec's worked examples give (10, "Worked example", and the examples of 11 to 13) are the instructions that they
stand beside. -/
def Obligations.WorkedWordsDecode : Prop :=
  decode 0x3A540007 0 = .ok (.sli 21 7) ∧ decode 0x3850A755 0 = .ok (.slogi 20 20 .ins 0x55) ∧
  decode 0x3C04A008 0 = .ok (.sbit 1 20 0 .tok) ∧ decode 0x06040007 0x00000009 = .ok (.brd 1 7 9) ∧
  decode 0x02000005 0 = .ok (.bra 5) ∧ decode 0x60040006 0 = .ok (.fadd 1 0 0 .xor1) ∧
  decode 0x9A000000 0 = .ok (.tlwait 0) ∧ decode 0x8A04CA00 0 = .ok (.ldsp 1 25 32 false false) ∧
  decode 0xD0054000 0 = .ok (.shset 1 40) ∧ decode 0x3EAC0012 0 = .ok (.ssprRd 43 0x12)

/-! One step. -/

/-- The machine never stops: every step answers a next state (18 R474: every fault is a trap, an error reply or a failure). -/
def Sys2Proof.Claims.StepAlwaysGoesOn : Prop := ∀ s : State, ∃ t, step s = .next t

/-- A step runs the instruction whose word stands at the pc. The agenda names the gang in focus (that an agenda names it: log 3), whose turn it
is, which stands at a body word of a clause and has nothing before that word at this boundary (a cancel, a waiting trap, a store-fault
record, a Save, an aged path, flags to drain, a full skid, a full flag, the power limiter, a distance, a busy resource). The step runs the
instruction with its results due, the other paths aged, the clause and the flag noted, and an issue slot of the core taken; a tile-ordered
instruction that enters its tile's order without being chosen, or with its resource busy, takes none (DEDUCED: log 39). -/
def Obligations.StepRunsTheDecodedInstruction : Prop :=
  ∀ (s : State) (r : List Move) (h w j : W32) (ha : Word) (ws : List W32) (i : Instr),
    let g := s.g
    let s1 := { s with agenda := r }
    s.agenda = .issue g.at_ :: r → mayGo s1 g = true → g.hold = .none → g.cancelled = false →
    dueDeferred s1 g = none → dueFault s1 g = none → isSaving s1 g = false → ageDue g = false → g.drainFlags = false →
    skidFull s1 g = false → codeMark s1 g (path g).pc = 2 → hdrBack s1 g 5 (path g).pc = some ha →
    let ix := ((path g).pc - ha).toNat / 4 - 1
    fetchWords s1 g (ix + 2) ha = .ok ws → ws.headD 0 = h → ws.getLastD 0 = w →
    (if opOf w = 3 then fetchWord s1 g ((path g).pc + 4) else .ok 0) = .ok j →
    let flag := flagFor h w ((ws.drop 1).take ix)
    (12 ≤ flag ∨ flagCount g flag ≠ 15) → (isGated s g.at_.pkg = false ∨ opOf w / 16 ≠ 2 ∧ opOf w / 16 ≠ 3) →
    let free := pipeFree s1 (coreIx g.at_) (pipeOf w)
    issueCycle s1 g h ix ≤ s.cycle → (free = true ∨ tileWord w = true) →
    decode w j = .ok i → (opOf w = 3 → hDist h (ix + 1) = 0) →
    let out := isTile i && !isPicked s1 g
    step s = exec i { s1 with
      g := atIssue s.cycle w h ix g
      iss := { hdr := ha, flag := flag, yield := hYield h && lastBody w h ix, enters := out || (tileWord w && !free), aged := agedBy g
               count := g.icount, last := g.lastIssue, slots := s.slots, notBefore := g.notBefore, memHold := g.memHold
               took := g.tookOver }
      slots := if out || !free then s.slots else takeSlot s1 g.at_ (pipeOf w) }

/-- At a clause header that is legal and whose wait mask is met, a step goes on with the clause's first body word: it does what it
does with the path at that word (03 R103, 09 R263). -/
def Sys2Proof.Claims.StepEntersAClause : Prop :=
  ∀ (s : State) (h : W32) (ws : List W32), fetchWord s s.g (path s.g).pc = .ok h →
    fetchWords s s.g (hCount h) ((path s.g).pc + 4) = .ok ws → headerOk h ws = true → waitMet s.g h = true →
    enterClause s = issueBody (path s.g).pc (setPc ((path s.g).pc + 4) s)

/-- A header that breaks its rules raises the illegal-instruction trap at the header, and an unmet wait mask holds the gang, which
changes nothing (03 R103, R108, 09 R265). -/
def Sys2Proof.Claims.ClauseHeaderTrapsOrHolds : Prop :=
  ∀ (s : State) (h : W32) (ws : List W32), fetchWord s s.g (path s.g).pc = .ok h →
    fetchWords s s.g (hCount h) ((path s.g).pc + 4) = .ok ws →
    (headerOk h ws = false → enterClause s = .done (enterTrap ⟨0x01, (path s.g).pc, h.setWidth 64⟩ (path s.g).pc s)) ∧
    (headerOk h ws = true → waitMet s.g h = false → enterClause s = .hold none)

/-- An event that the agenda names happens in that step (the model's choice of what moves next: log 3); of the time that it names, as
much passes as no gang has still to act in. -/
def Sys2Proof.Claims.StepTakesTheAgendasMove : Prop :=
  ∀ (s : State) (r : List Move),
    (∀ i, s.agenda = .event i :: r → isEvent i = true → step s = exec i { s with agenda := r }) ∧
    (∀ n, s.agenda = .wait n :: r → ∃ t, step s = .next t ∧ t.cycle = s.cycle + timeFor n { s with agenda := r } ∧ t.mem = s.mem ∧
      t.agenda = r)

/-- A step always goes on; how it enters a clause; what the agenda moves (the agenda is the model's choice, log 3) (the statements above named here). -/
def Obligations.StepsAtClauseBoundaries : Prop :=
  Claims.StepAlwaysGoesOn ∧ Claims.StepEntersAClause ∧ Claims.ClauseHeaderTrapsOrHolds ∧ Claims.StepTakesTheAgendasMove

/-! Reset and invariants. -/

/-- After reset no job is resident, no gang runs, no session is open, nothing is on its way, and no memory lists a byte. -/
def Sys2Proof.Claims.ResetLeavesNothingRunning : Prop :=
  State.reset.g.phase = .free ∧ State.reset.others = [] ∧ State.reset.jobs = [] ∧ State.reset.sessions = [] ∧
  State.reset.launches = [] ∧ State.reset.stores = [] ∧ State.reset.atoms = [] ∧ State.reset.kiln = [] ∧
  State.reset.granary = [] ∧ State.reset.carts = [] ∧ State.reset.mem = [] ∧ State.reset.cycle = 0

/-- The reset memory has the canonical form (the model's own form: log 2), and so have the other sparse maps of the state. -/
def Sys2Proof.Claims.ResetMemoryIsCanonical : Prop :=
  Memory.wf State.reset.mem ∧ CellsWf none State.reset.keys ∧ CellsWf (0, none) State.reset.lineKeys ∧ CellsWf 0 State.reset.tags ∧
  CellsWf 0 State.reset.top ∧ CellsWf 0 State.reset.acc ∧ CellsWf {} State.reset.tiles ∧ CellsWf none State.reset.xts ∧
  CellsWf 0 State.reset.code ∧ State.reset.g.inflight = [] ∧ LinesOld State.reset

/-- After reset nothing runs, and the memory has its canonical form (the model's form, log 2) (the statements above named here). -/
def Obligations.ResetLeavesAnEmptyMachine : Prop :=
  Claims.ResetLeavesNothingRunning ∧ Claims.ResetMemoryIsCanonical

/-- Every step keeps the memory's canonical form: addresses strictly rising, no entry equal to what an unlisted address reads as. -/
def Obligations.StepKeepsMemoryCanonical : Prop :=
  ∀ s t : State, Memory.wf s.mem → step s = .next t → Memory.wf t.mem

/-- Every step keeps the canonical form of the other sparse maps of the state, each by itself: the keys of memory's bytes and lines, the
stores that wrote them last, the positions of their last writes, the accumulators and their statuses, the key slots, and the marks of
finalised code (the model's own form, log 2); and no line of memory comes under its key later than at the last write. -/
def Obligations.StepKeepsMapsCanonical : Prop :=
  ∀ s t : State, step s = .next t →
    (CellsWf none s.keys → CellsWf none t.keys) ∧ (CellsWf (0, none) s.lineKeys → CellsWf (0, none) t.lineKeys) ∧
    (CellsWf 0 s.tags → CellsWf 0 t.tags) ∧ (CellsWf 0 s.top → CellsWf 0 t.top) ∧ (CellsWf 0 s.acc → CellsWf 0 t.acc) ∧
    (CellsWf {} s.tiles → CellsWf {} t.tiles) ∧ (CellsWf none s.xts → CellsWf none t.xts) ∧ (CellsWf 0 s.code → CellsWf 0 t.code) ∧
    (CellsWf (0, none) s.lineKeys → LinesOld s → LinesOld t)

/-- Every step keeps the results on their way in the order in which they are due, for every gang in a slot, in a save image, and in an image that
a checkpoint has kept (03 R106; the list is the model's own form of it). -/
def Obligations.StepKeepsResultsInOrder : Prop :=
  let ordered (s : State) : Prop :=
    (∀ g ∈ s.g :: s.others, g.inflight.Pairwise (fun a b => a.due ≤ b.due)) ∧
    ∀ i ∈ s.images ++ s.pkgs.flatMap (fun p => p.kept.2), ∀ g ∈ i.gangs, g.inflight.Pairwise (fun a b => a.due ≤ b.due)
  ∀ s t : State, ordered s → step s = .next t → ordered t

/-- A write at the home is read back byte for byte, and no other location changes (04 R127). -/
def Obligations.HomeWriteReadsBack : Prop :=
  ∀ (s : State) (bs : List (Nat × Byte)) (k : Key), Memory.wf s.mem → (bs.map (·.1)).Nodup →
    (∀ b ∈ bs, memByte (homeWrite bs k s) b.1 = b.2) ∧
    (∀ l, l ∉ bs.map (·.1) → memByte (homeWrite bs k s) l = memByte s l ∧ topOf (homeWrite bs k s) l = topOf s l)

/-! Group 0: control (10 R302 to R321). -/

/-- `nop` goes on at the next word and changes nothing else (R321). -/
def Sys2Proof.Claims.NopOnlyAdvances : Prop := ∀ s : State, exec .nop s = .next (done [] s)

/-- The transfers whose target passes its checks go there, and `brc` goes on at the next word where its condition fails; they change
nothing else (R302, R304). -/
def Sys2Proof.Claims.BranchesGoToTheirTarget : Prop :=
  ∀ (s : State) (a : Reg) (n : BitVec 6) (o : BitVec 18),
    let near := s.iss.hdr + BitVec.ofInt 64 (4 * o.toInt)
    let far := sreg s.g a + BitVec.ofInt 64 (4 * o.toInt)
    let c := s.g.s[n.toNat]'(by omega)
    (targetFault s s.g near = none →
      Runs (.bra o) s (GoesTo near s) ∧
      (c ≠ 0 → Runs (.brcNz n o) s (GoesTo near s) ∧ exec (.brcZ n o) s = .next (done [] s)) ∧
      (c = 0 → Runs (.brcZ n o) s (GoesTo near s) ∧ exec (.brcNz n o) s = .next (done [] s))) ∧
    (targetFault s s.g far = none → Runs (.braIndirect a o) s (GoesTo far s))

/-- A transfer whose target is no clause header, or lies outside executable global space, is not made: the trap of the target is
taken at the transfer, and `brc` checks its target whether or not it is taken (R304, R307, 09 R267). -/
def Sys2Proof.Claims.BadTargetsTrap : Prop :=
  ∀ (s : State) (a : Reg) (n : BitVec 6) (o : BitVec 18) (k : Trap), Delivers s →
    (targetFault s s.g (s.iss.hdr + BitVec.ofInt 64 (4 * o.toInt)) = some k →
      Runs (.bra o) s (Entered k.cause k.addr k.info (pcOf s) s) ∧
      Runs (.brcNz n o) s (Entered k.cause k.addr k.info (pcOf s) s) ∧
      Runs (.brcZ n o) s (Entered k.cause k.addr k.info (pcOf s) s)) ∧
    (targetFault s s.g (sreg s.g a + BitVec.ofInt 64 (4 * o.toInt)) = some k →
      Runs (.braIndirect a o) s (Entered k.cause k.addr k.info (pcOf s) s))

/-- nop advances, branches go to their target, and a bad target traps (the statements above named here). -/
def Obligations.BranchesAndTheirTargets : Prop :=
  Claims.NopOnlyAdvances ∧ Claims.BranchesGoToTheirTarget ∧ Claims.BadTargetsTrap

/-- A call on a gang with one path and fewer than 16 return addresses pushes the address after it and goes to its target, and `ret`
pops it (R304, R305). -/
def Sys2Proof.Claims.CallPushesAndRetPops : Prop :=
  ∀ (s : State) (a : Reg) (o : BitVec 18), pathCount s.g = 1 →
    let goes (x : Word) (i : Instr) : Prop := targetFault s s.g x = none → s.g.rstack.length < 16 →
      Runs i s (fun t => t.g.rstack = (pcOf s + 4) :: s.g.rstack ∧ GoesTo x s { t with g := { t.g with rstack := s.g.rstack } })
    goes (s.iss.hdr + BitVec.ofInt 64 (4 * o.toInt)) (.call o) ∧
    goes (sreg s.g a + BitVec.ofInt 64 (4 * o.toInt)) (.callIndirect a o) ∧
    (∀ x r, s.g.rstack = x :: r → targetFault s s.g x = none →
      Runs .ret s (fun t => t.g.rstack = r ∧ GoesTo x s { t with g := { t.g with rstack := s.g.rstack } }))

/-- The traps of `call`, in both forms, and of `ret` in their order (R307): more than one path, an empty return stack, a bad target, a full
return stack; path, frame and return stack stay as they are. -/
def Sys2Proof.Claims.CallAndRetTrapInOrder : Prop :=
  ∀ (s : State) (a : Reg) (o : BitVec 18), Delivers s →
    let calls (x : Word) (i : Instr) : Prop :=
      (pathCount s.g ≠ 1 → Runs i s (Entered 0x04 0 0 (pcOf s) s)) ∧
      (∀ k, pathCount s.g = 1 → targetFault s s.g x = some k → Runs i s (Entered k.cause k.addr k.info (pcOf s) s)) ∧
      (pathCount s.g = 1 → targetFault s s.g x = none → 16 ≤ s.g.rstack.length → Runs i s (Entered 0x08 0 0 (pcOf s) s))
    calls (s.iss.hdr + BitVec.ofInt 64 (4 * o.toInt)) (.call o) ∧
    calls (sreg s.g a + BitVec.ofInt 64 (4 * o.toInt)) (.callIndirect a o) ∧
    (pathCount s.g ≠ 1 → Runs .ret s (Entered 0x04 0 0 (pcOf s) s)) ∧
    (pathCount s.g = 1 → s.g.rstack = [] → Runs .ret s (Entered 0x09 0 0 (pcOf s) s)) ∧
    (∀ x r k, pathCount s.g = 1 → s.g.rstack = x :: r → targetFault s s.g x = some k →
      Runs .ret s (Entered k.cause k.addr k.info (pcOf s) s))

/-- Calls push and returns pop; their traps in order (the statements above named here). -/
def Obligations.CallsAndReturns : Prop :=
  Claims.CallPushesAndRetPops ∧ Claims.CallAndRetTrapInOrder

/-- `brd` with T and F the path's lanes inside and outside mask k (03 R93, R94, 10 R308): with F empty the path goes to the target, with
T empty to the word after the J word; else it splits, T going on at the target and F, in a free entry, after the J word, both in the
frame that the path's entry now holds. Which free entry F takes, and where the frame goes that the entry held before, is the model's choice
(DESIGN CHOICE: log 15). -/
def Sys2Proof.Claims.BrdSplitsThePath : Prop :=
  ∀ (s : State) (k : BitVec 3) (o j : BitVec 18),
    let target := s.iss.hdr + BitVec.ofInt 64 (4 * o.toInt)
    let joinAt_ := s.iss.hdr + BitVec.ofInt 64 (4 * j.toInt)
    let p := path s.g
    let T := mreg s.g k &&& p.lanes
    let F := p.lanes &&& ~~~(mreg s.g k)
    targetFault s s.g target = none → targetFault s s.g joinAt_ = none → joinAt s joinAt_ = true →
    (F = 0 → Runs (.brd k o j) s (GoesTo target s)) ∧
    (F ≠ 0 → T = 0 → Runs (.brd k o j) s (fun t => OnlyPaths s t ∧ t.g.act = s.g.act ∧ path t.g = { p with pc := pcOf s + 8 })) ∧
    (∀ q, F ≠ 0 → T ≠ 0 → freeEntry s.g = some q → q ≠ s.g.act → Runs (.brd k o j) s (fun t =>
      OnlyPaths s t ∧ t.g.act = s.g.act ∧
      (path t.g).lanes = T ∧ (path t.g).exec = p.exec &&& T ∧ (path t.g).pc = target ∧
      (path t.g).frameV = true ∧ (path t.g).frame = s.g.act ∧ (path t.g).joinV = true ∧ (path t.g).members = p.lanes ∧
      (path t.g).join = joinAt_ ∧ (path t.g).parentV = p.frameV ∧
      (p.joinV = false → (path t.g).parent = if p.frameV then p.frame else 0) ∧
      t.g.paths[q].lanes = F ∧ t.g.paths[q].exec = p.exec &&& F ∧ t.g.paths[q].pc = pcOf s + 8 ∧ t.g.paths[q].state = .ready ∧
      t.g.paths[q].age = 0 ∧ t.g.paths[q].frameV = true ∧ t.g.paths[q].frame = s.g.act))

/-- `brd` traps before it changes the path table: a join address whose clause does not begin with `join` is a bad join, and a split with
no free entry overflows the table (03 R94, 10 R310). -/
def Sys2Proof.Claims.BrdTrapsBeforeItSplits : Prop :=
  ∀ (s : State) (k : BitVec 3) (o j : BitVec 18), Delivers s →
    let target := s.iss.hdr + BitVec.ofInt 64 (4 * o.toInt)
    let joinAt_ := s.iss.hdr + BitVec.ofInt 64 (4 * j.toInt)
    targetFault s s.g target = none → targetFault s s.g joinAt_ = none →
    (joinAt s joinAt_ = false → Runs (.brd k o j) s (Entered 0x06 joinAt_ 0 (pcOf s) s)) ∧
    (joinAt s joinAt_ = true → mreg s.g k &&& (path s.g).lanes ≠ 0 → (path s.g).lanes &&& ~~~(mreg s.g k) ≠ 0 →
      freeEntry s.g = none → Runs (.brd k o j) s (Entered 0x07 0 0 (pcOf s) s))

/-- `join` (03 R95, 10 R309): no effect outside its frame's join address; a path that parks while others of the frame still run gives
way; with the last of them the frame's members become one ready path with age 0 in the lowest of the merging entries, with the union of
their `%exec`, at the word after its `join`, in the frame's parent; the other merging entries are free, and the frame is gone. That the merged path
goes on at once, unless a ready path of a higher age does, is DEDUCED from R99 (log 28). -/
def Sys2Proof.Claims.JoinParksOrMerges : Prop :=
  ∀ s : State,
    let p := path s.g
    let f := p.frame
    let parked := setPath s.g { p with state := .parked, pc := pcOf s + 4 }
    let merging (i : Fin 16) : Prop := parked.paths[i].state = .parked ∧ parked.paths[i].frameV = true ∧ parked.paths[i].frame = f
    (p.frameV = false ∨ s.g.paths[f].join ≠ s.iss.hdr → exec .join s = .next (done [] s)) ∧
    (p.frameV = true → s.g.paths[f].join = s.iss.hdr → s.g.paths[f].members &&& ~~~(parkedLanes f parked) ≠ 0 →
      exec .join s = .next { s with g := takeOver parked }) ∧
    (p.frameV = true → s.g.paths[f].join = s.iss.hdr → s.g.paths[f].members &&& ~~~(parkedLanes f parked) = 0 →
      Runs .join s (fun t => OnlyPaths s t ∧ t.g.paths[f].joinV = false ∧ ∃ e : Fin 16, merging e ∧ (∀ i, merging i → e ≤ i) ∧
        t.g.paths[e].lanes = s.g.paths[f].members ∧ t.g.paths[e].state = .ready ∧ t.g.paths[e].frameV = s.g.paths[f].parentV ∧
        t.g.paths[e].frame = s.g.paths[f].parent ∧ t.g.paths[e].age = 0 ∧ t.g.paths[e].pc = parked.paths[e].pc ∧
        (∀ l < 32, inMask t.g.paths[e].exec l = true ↔ ∃ i, merging i ∧ inMask parked.paths[i].exec l = true) ∧
        (∀ i, merging i → i ≠ e → t.g.paths[i].state = .free ∧ t.g.paths[i].lanes = 0 ∧ t.g.paths[i].exec = 0) ∧
        (s.g.inh = true ∨ readyBest s.g = none → t.g.act = e) ∧
        (∀ i, s.g.inh = false → i ≠ s.g.act → s.g.paths[i].state = .ready → 0 < s.g.paths[i].age → t.g.act ≠ e)))

/-- brd splits a path, its traps come first, and join parks or merges (the statements above named here). -/
def Obligations.PathsSplitAndJoin : Prop :=
  Claims.BrdSplitsThePath ∧ Claims.BrdTrapsBeforeItSplits ∧ Claims.JoinParksOrMerges

/-- `exit` outside a handler ends the issuing path (03 R96, 10 R311): its entry is free, and the best ready path goes on; with the last path the
gang ends, without a failure of its own. -/
def Sys2Proof.Claims.ExitEndsThePath : Prop :=
  ∀ s : State, s.g.inh = false → (path s.g).state ≠ .free →
    (∀ i, (path s.g).frameV = false → readyBest s.g = some i →
      Runs .exit s (fun t => OnlyPaths s t ∧ t.g.act = i ∧ t.g.paths[i] = { s.g.paths[i] with age := 0 } ∧
        t.g.paths[s.g.act].state = .free ∧ t.g.paths[s.g.act].lanes = 0)) ∧
    (pathCount s.g = 1 →
      Runs .exit s (fun t => OnlyGang s t ∧ t.g.phase = .draining ∧ t.g.fail = s.g.fail ∧ pathCount t.g = 0 ∧ t.g.blocks = 0))

/-- `exit` inside a frame (03 R96): the path's lanes leave the frame and the frame that encloses it; with others of the frame still running the
best ready path goes on; with all others parked at its join they merge as the last `join` would have merged them, and with no other the
frame is gone. -/
def Sys2Proof.Claims.ExitLeavesItsFrame : Prop :=
  ∀ s : State, s.g.inh = false → (path s.g).frameV = true →
    let p := path s.g
    let f := p.frame
    let u := setPath s.g { p with lanes := 0, exec := 0, state := .free, frameV := false, frame := 0, pc := 0, age := 0 }
    let left := s.g.paths[f].members &&& ~~~p.lanes
    let merging (i : Fin 16) : Prop := u.paths[i].state = .parked ∧ u.paths[i].frameV = true ∧ u.paths[i].frame = f
    let freed (t : State) : Prop := OnlyPaths s t ∧ (entry t.g s.g.act).lanes = 0 ∧ (entry t.g s.g.act).state = .free
    (∀ i, readyBest s.g = some i → left &&& ~~~(parkedLanes f u) ≠ 0 → (s.g.paths[f].parentV = false →
      Runs .exit s (fun t => freed t ∧ t.g.paths[f].members = left ∧ t.g.paths[f].joinV = s.g.paths[f].joinV ∧ t.g.act = i ∧
        t.g.paths[i].age = 0 ∧ t.g.paths[i].pc = s.g.paths[i].pc ∧ t.g.paths[i].lanes = s.g.paths[i].lanes)) ∧
      ∀ q, s.g.paths[f].parentV = true → s.g.paths[f].parent = q → q ≠ f → s.g.paths[q].parentV = false →
        s.g.paths[q].members &&& ~~~p.lanes &&& ~~~(parkedLanes q u) ≠ 0 →
        Runs .exit s (fun t => freed t ∧ t.g.paths[f].members = left ∧ t.g.paths[q].members = s.g.paths[q].members &&& ~~~p.lanes ∧
          t.g.act = i)) ∧
    (left ≠ 0 → left &&& ~~~(parkedLanes f u) = 0 → s.g.paths[f].parentV = false →
      Runs .exit s (fun t => OnlyPaths s t ∧ t.g.paths[f].joinV = false ∧ ∃ e : Fin 16, merging e ∧ (∀ i, merging i → e ≤ i) ∧
        t.g.paths[e].lanes = left ∧ t.g.paths[e].state = .ready ∧ t.g.paths[e].frameV = false ∧ t.g.paths[e].age = 0 ∧
        t.g.paths[e].pc = s.g.paths[e].pc ∧
        (∀ l < 32, inMask t.g.paths[e].exec l = true ↔ ∃ i, merging i ∧ inMask s.g.paths[i].exec l = true) ∧
        (∀ i, merging i → i ≠ e → t.g.paths[i].state = .free ∧ t.g.paths[i].lanes = 0) ∧ (readyBest s.g = none → t.g.act = e))) ∧
    (∀ i, readyBest s.g = some i → left = 0 → s.g.paths[f].parentV = false →
      Runs .exit s (fun t => freed t ∧ t.g.paths[f].joinV = false ∧ t.g.act = i))

/-- `term` ends every path of the gang, which fails with `%xcause`, and gives up what its paths wait for; `exit` inside a handler does the
same (10 R312, R313). -/
def Sys2Proof.Claims.TermEndsTheGang : Prop :=
  ∀ s : State, Runs .term s (fun t => t = { dropWaits s.g.uid s with g := t.g } ∧ EndsWith s.g.xcause.toNat s t) ∧
    (s.g.inh = true → exec .exit s = exec .term s)

/-- `yield` keeps the gang from the next cycle, and `yield.path` also gives way to the best other ready path; in a handler, in which the others issue
nothing (03 R123), it acts as `yield` (DEDUCED: log 28); no register changes (R314). -/
def Sys2Proof.Claims.YieldGivesWay : Prop :=
  ∀ s : State,
    Runs .yield s (fun t => OnlyPaths s t ∧ path t.g = { path s.g with pc := pcOf s + 4 } ∧ t.g.act = s.g.act ∧ s.cycle + 2 ≤ t.g.notBefore) ∧
    (s.g.inh = true ∨ readyBest s.g = none → exec .yieldPath s = exec .yield s) ∧
    (∀ i, s.g.inh = false → readyBest s.g = some i → Runs .yieldPath s (fun t => OnlyPaths s t ∧ t.g.act = i ∧
      t.g.paths[i] = { s.g.paths[i] with age := 0 } ∧ t.g.paths[s.g.act] = { path s.g with pc := pcOf s + 4, age := 0 }))

/-- An aged path takes over from the active one at a boundary, once between two instructions of the gang (03 R99, R100); that none does in a
handler, a sleep or a tile's order is DEDUCED (log 28). -/
def Sys2Proof.Claims.AgedPathTakesOver : Prop :=
  ∀ (s : State) (c : Coords) (g : Gang), gangAt s c = some g → g.phase = .running →
    (g.inh = true ∨ g.tookOver = true ∨ agedPath g = none → Runs (.pathAgeingTakeover c) s (fun t => gangAt t c = some g ∧ t.mem = s.mem)) ∧
    ∀ i : Fin 16, g.inh = false → g.tookOver = false → g.hold = .none → agedPath g = some i →
    Runs (.pathAgeingTakeover c) s (fun t => ∃ h, gangAt t c = some h ∧ h.act = i ∧ h.tookOver = true ∧
      h.paths[i] = { g.paths[i] with age := 0 } ∧ h.paths[g.act].age = 0 ∧ h.paths[g.act].state = g.paths[g.act].state ∧ h.s = g.s ∧ h.v = g.v)

/-- How paths and gangs end, and how paths take turns (the statements above named here). -/
def Obligations.PathsEndAndTakeTurns : Prop :=
  Claims.ExitEndsThePath ∧ Claims.ExitLeavesItsFrame ∧ Claims.TermEndsTheGang ∧ Claims.YieldGivesWay ∧ Claims.AgedPathTakesOver

/-- The software trap, the breakpoint and an illegal word enter the handler with their causes and addresses (R315, R316, 09 R280,
18 R474). -/
def Sys2Proof.Claims.TrapInstructionsEnterTheHandler : Prop :=
  ∀ (s : State) (i : BitVec 11) (w : W32), Delivers s →
    Runs (.trap i) s (Entered 0x38 0 (i.setWidth 64) (pcOf s + 4) s) ∧
    Runs .bkpt s (Entered 0x39 0 0 (pcOf s + 4) s) ∧
    Runs (.illegalInstruction w) s (Entered 0x01 (pcOf s) (w.setWidth 64) (pcOf s) s)

/-- A trap inside a handler, or with `%xvec` zero, escalates: the gang ends and fails with the cause, and the session that owns its job is
sent a notice that names it (R318, 18 R478). -/
def Sys2Proof.Claims.UndeliveredTrapsEscalate : Prop :=
  ∀ (s : State) (i : BitVec 11), s.g.inh = true ∨ s.g.xvec = 0 →
    (∀ j p n, jobOn s s.g.at_.pkg s.g.job = some j → j.sess = some (p, n) →
      Runs (.trap i) s (fun t => EndsWith 0x38 s t ∧ ∃ m, t.out = s.out ++ [.message p n m] ∧ m.notice = true ∧
        m.words[3]? = some 0x38 ∧ m.words[4]? = some (pcOf s + 4) ∧ m.words[6]? = some (i.setWidth 64)))

/-- Traps enter the handler, and undelivered ones escalate (the statements above named here). -/
def Obligations.TrapsEnterTheHandler : Prop :=
  Claims.TrapInstructionsEnterTheHandler ∧ Claims.UndeliveredTrapsEscalate

/-- `tret` in a handler, with `%xpc` at a clause header or body word, leaves it: inh is 0, `%xcause` the explicit-termination code, and the
path goes on at `%xpc` with its `%exec` as the handler left it (R317); no record of the store-fault queue changes. -/
def Sys2Proof.Claims.TretLeavesTheHandler : Prop :=
  ∀ s : State, s.g.inh = true → execFault s s.g s.g.xpc = none → (codeMark s s.g s.g.xpc = 1 ∨ codeMark s s.g s.g.xpc = 2) →
    Runs .tret s (fun t => t = { s with g := t.g } ∧ t.g.inh = false ∧ t.g.xcause = 0x40 ∧ path t.g = { path s.g with pc := s.g.xpc } ∧
      t.g = { s.g with inh := false, xcause := 0x40, paths := t.g.paths, notBefore := t.g.notBefore })

/-- A handler that does nothing but `tret` brings the path back behind its `trap`, every register as before but those that the entry
wrote (R315, R317). -/
def Sys2Proof.Claims.TrapThenTretReturns : Prop :=
  ∀ (s : State) (i : BitVec 11), Delivers s → execFault s s.g (pcOf s + 4) = none →
    (codeMark s s.g (pcOf s + 4) = 1 ∨ codeMark s s.g (pcOf s + 4) = 2) →
    Runs (.trap i) s (fun t => Runs .tret t (fun u => u.g.inh = false ∧ path u.g = { path s.g with pc := pcOf s + 4 } ∧
      u.g.s = s.g.s ∧ u.g.v = s.g.v ∧ u.g.k = s.g.k ∧ u.g.sh = s.g.sh ∧ u.g.fpcsr = s.g.fpcsr ∧ u.g.rstack = s.g.rstack ∧
      u.g.flags = s.g.flags ∧ u.mem = s.mem))

/-- `tret` outside a handler is an illegal instruction, and one whose `%xpc` is no word of finalised code escalates as a bad target
(R317, R318). -/
def Sys2Proof.Claims.TretTraps : Prop :=
  ∀ s : State,
    (Delivers s → Runs .tret s (Entered 0x01 (pcOf s) 0x16000000 (pcOf s) s)) ∧
    (s.g.inh = true → execFault s s.g s.g.xpc = none → codeMark s s.g s.g.xpc ≠ 1 → codeMark s s.g s.g.xpc ≠ 2 →
      Runs .tret s (EndsWith 0x05 s))

/-- tret leaves the handler, trap then tret comes back, and tret's own traps (the statements above named here). -/
def Obligations.TrapsReturn : Prop :=
  Claims.TretLeavesTheHandler ∧ Claims.TrapThenTretReturns ∧ Claims.TretTraps

/-- `rget`, `rput` and `winb` on a gang with one path (03 R114, R116, R118, 10 R319): `rget n` gets blocks 1 to n when they are free and
no earlier `rget` waits, their registers holding free values (log 6) and the base block's staying as they are. -/
def Sys2Proof.Claims.RegisterBlocksAreTakenAndReleased : Prop :=
  ∀ (s : State) (n b : BitVec 11), pathCount s.g = 1 →
    (s.g.blocks = 0 → n.toNat ≤ freeBlocks s s.g.at_ → s.rgetQ = [] →
      Runs (.rget n) s (fun t => t.g.blocks = n.toNat ∧ path t.g = { path s.g with pc := pcOf s + 4 } ∧ t.g.window = s.g.window ∧
        t.g.s = s.g.s ∧ t.mem = s.mem ∧ (∀ r < 64, vabs t.g r = vabs s.g r) ∧
        ∀ r l, 64 ≤ r → r < 64 * (n.toNat + 1) → r < 256 → l < 32 → lane (vabs t.g r) l = Config.freeWord (s.fresh + 32 * r + l))) ∧
    Runs .rput s (fun t => OnlyGang s t ∧ t.g = { s.g with blocks := 0, paths := t.g.paths } ∧
      path t.g = { path s.g with pc := pcOf s + 4 }) ∧
    Runs (.winb b) s (fun t => OnlyGang s t ∧ t.g = { s.g with window := b.toNat, paths := t.g.paths } ∧
      path t.g = { path s.g with pc := pcOf s + 4 })

/-- An `rget` that finds too few free blocks waits, at its start, behind every earlier one (03 R116, R117); the three instructions trap on a
gang with more than one path, and `rget` on one that holds blocks (10 R320). -/
def Sys2Proof.Claims.RegisterBlocksWaitOrTrap : Prop :=
  ∀ (s : State) (n b : BitVec 11),
    (pathCount s.g = 1 → (path s.g).state ≠ .free → s.g.blocks = 0 → reservedFor s s.g < n.toNat → freeBlocks s s.g.at_ < n.toNat → s.rgetQ = [] →
      Runs (.rget n) s (fun t => t.rgetQ = [⟨s.g.uid, s.g.at_, n.toNat, false, s.g.act, s.iss.yield⟩] ∧ t.g.blocked = true ∧
        t.g.blocks = 0 ∧ t.g.paths[s.g.act].pc = pcOf s ∧ t.g.v = s.g.v)) ∧
    (Delivers s → pathCount s.g ≠ 1 → Runs (.rget n) s (Entered 0x04 0 0 (pcOf s) s) ∧ Runs .rput s (Entered 0x04 0 0 (pcOf s) s) ∧
      Runs (.winb b) s (Entered 0x04 0 0 (pcOf s) s)) ∧
    (Delivers s → pathCount s.g = 1 → s.g.blocks ≠ 0 →
      Runs (.rget n) s (fun t => ∃ r < 256, Entered 0x03 0 (BitVec.ofNat 64 r) (pcOf s) { s with fresh := s.fresh + 1 } t))

/-- RGET_GRANT serves the oldest waiting `rget` of a core once its blocks are free (03 R117): it counts as the gang's instruction of that cycle, and
its path goes on. -/
def Sys2Proof.Claims.WaitingRgetIsServed : Prop :=
  ∀ (s : State) (c : Coords) (t : Ticket) (g : Gang), s.rgetQ.find? (fun t => unitOf 1 t.at_ = unitOf 1 c) = some t →
    t.n ≤ freeBlocks s c → gangOf s t.uid = some g → t.path < 16 →
    Runs (.rgetGrant c) s (fun u => u.rgetQ = s.rgetQ.filter (fun x => x.uid ≠ t.uid) ∧ ∃ h, gangOf u t.uid = some h ∧
      h.blocks = t.n ∧ (entry h t.path).pc = (entry g t.path).pc + 4 ∧ (t.path = g.act → h.blocked = false) ∧ h.act = g.act ∧
      h.lastIssue = s.cycle ∧ h.icount = g.icount + 1 ∧ (∀ r < 64, vabs h r = vabs (settle s.cycle g) r) ∧
      h.s = (settle s.cycle g).s ∧ (t.yield = true → s.cycle + 2 ≤ h.notBefore))

/-- rget, rput and winb, their waits, traps and grants (the statements above named here). -/
def Obligations.RegisterBlocksAreTakenAndReleased : Prop :=
  Claims.RegisterBlocksAreTakenAndReleased ∧ Claims.RegisterBlocksWaitOrTrap ∧ Claims.WaitingRgetIsServed

/-- `exit` in a trap handler does what `term` does there (R312). -/
def Obligations.ExitInAHandlerActsAsTerm : Prop := ∀ s : State, s.g.inh = true → exec .exit s = exec .term s

/-! Group 1: scalar instructions (10 R297 to R301, R322 to R326). Each writes its destination, of latency 2 or 4 (16 R425), goes on at the
next word, and changes nothing else. -/

/-- `sadd`, `ssub` and `smul` in every form (R323). -/
def Sys2Proof.Claims.ScalarArithmeticResults : Prop :=
  ∀ (s : State) (d a b : Reg), let x := sreg s.g a; let y := sreg s.g b
    ScalarGives (.sadd d a b .wrap) 2 d s (fun z => z.toNat = (x.toNat + y.toNat) % 2 ^ 64) ∧
    ScalarGives (.sadd d a b .w) 2 d s (fun z => z.toNat = (x.toNat + y.toNat) % 2 ^ 32) ∧
    ScalarGives (.sadd d a b .ss) 2 d s (fun z => z.toInt = max (-2 ^ 63) (min (2 ^ 63 - 1) (x.toInt + y.toInt))) ∧
    ScalarGives (.sadd d a b .us) 2 d s (fun z => z.toNat = min (2 ^ 64 - 1) (x.toNat + y.toNat)) ∧
    ScalarGives (.ssub d a b .wrap) 2 d s (fun z => (z.toNat + y.toNat) % 2 ^ 64 = x.toNat) ∧
    ScalarGives (.ssub d a b .w) 2 d s (fun z => z.toNat < 2 ^ 32 ∧ (z.toNat + y.toNat) % 2 ^ 32 = x.toNat % 2 ^ 32) ∧
    ScalarGives (.ssub d a b .ss) 2 d s (fun z => z.toInt = max (-2 ^ 63) (min (2 ^ 63 - 1) (x.toInt - y.toInt))) ∧
    ScalarGives (.ssub d a b .us) 2 d s (fun z => z.toNat = x.toNat - y.toNat) ∧
    ScalarGives (.smul d a b .lo) 4 d s (fun z => z.toNat = x.toNat * y.toNat % 2 ^ 64) ∧
    ScalarGives (.smul d a b .hs) 4 d s (fun z => z.toInt = x.toInt * y.toInt / 2 ^ 64) ∧
    ScalarGives (.smul d a b .hu) 4 d s (fun z => z.toNat = x.toNat * y.toNat / 2 ^ 64) ∧
    ScalarGives (.smul d a b .ww) 4 d s (fun z => z.toNat = x.toNat % 2 ^ 32 * (y.toNat % 2 ^ 32))

/-- The logical and shift instructions, bit by bit (R323); c is bits [5:0] of b. -/
def Sys2Proof.Claims.ScalarLogicAndShiftResults : Prop :=
  ∀ (s : State) (d a b : Reg), let x := sreg s.g a; let y := sreg s.g b; let c := y.toNat % 64
    ScalarGives (.sand d a b .plain) 2 d s (fun z => ∀ i < 64, z.getLsbD i = (x.getLsbD i && y.getLsbD i)) ∧
    ScalarGives (.sand d a b .inv) 2 d s (fun z => ∀ i < 64, z.getLsbD i = (x.getLsbD i && !y.getLsbD i)) ∧
    ScalarGives (.sor d a b .plain) 2 d s (fun z => ∀ i < 64, z.getLsbD i = (x.getLsbD i || y.getLsbD i)) ∧
    ScalarGives (.sor d a b .inv) 2 d s (fun z => ∀ i < 64, z.getLsbD i = (x.getLsbD i || !y.getLsbD i)) ∧
    ScalarGives (.sxor d a b .plain) 2 d s (fun z => ∀ i < 64, z.getLsbD i = (x.getLsbD i ^^ y.getLsbD i)) ∧
    ScalarGives (.sxor d a b .inv) 2 d s (fun z => ∀ i < 64, z.getLsbD i = (x.getLsbD i ^^ !y.getLsbD i)) ∧
    ScalarGives (.sshl d a b .shl) 2 d s (fun z => z.toNat = x.toNat * 2 ^ c % 2 ^ 64) ∧
    ScalarGives (.sshl d a b .rol) 2 d s (fun z => ∀ i < 64, z.getLsbD ((i + c) % 64) = x.getLsbD i) ∧
    ScalarGives (.sshr d a b .shr) 2 d s (fun z => z.toNat = x.toNat / 2 ^ c) ∧
    ScalarGives (.sshr d a b .sra) 2 d s (fun z => z.toInt = x.toInt / 2 ^ c) ∧
    ScalarGives (.sshr d a b .ror) 2 d s (fun z => ∀ i < 64, z.getLsbD i = x.getLsbD ((i + c) % 64))

/-- `sminmax`, `scmp` and `ssel` (R323); `ssel` chooses by the old value of its destination. -/
def Sys2Proof.Claims.ScalarCompareAndSelectResults : Prop :=
  ∀ (s : State) (d a b : Reg), let x := sreg s.g a; let y := sreg s.g b; let o := sreg s.g d
    ScalarGives (.sminmax d a b .min) 2 d s (fun z => z.toInt = min x.toInt y.toInt) ∧
    ScalarGives (.sminmax d a b .max) 2 d s (fun z => z.toInt = max x.toInt y.toInt) ∧
    ScalarGives (.sminmax d a b .minu) 2 d s (fun z => z.toNat = min x.toNat y.toNat) ∧
    ScalarGives (.sminmax d a b .maxu) 2 d s (fun z => z.toNat = max x.toNat y.toNat) ∧
    ScalarGives (.scmp d a b .eq) 2 d s (fun z => z = if x = y then 1 else 0) ∧
    ScalarGives (.scmp d a b .ne) 2 d s (fun z => z = if x = y then 0 else 1) ∧
    ScalarGives (.scmp d a b .lt) 2 d s (fun z => z = if x.toInt < y.toInt then 1 else 0) ∧
    ScalarGives (.scmp d a b .ge) 2 d s (fun z => z = if x.toInt < y.toInt then 0 else 1) ∧
    ScalarGives (.scmp d a b .ltu) 2 d s (fun z => z = if x.toNat < y.toNat then 1 else 0) ∧
    ScalarGives (.scmp d a b .geu) 2 d s (fun z => z = if x.toNat < y.toNat then 0 else 1) ∧
    ScalarGives (.ssel d a b .nz) 2 d s (fun z => z = if o = 0 then y else x) ∧
    ScalarGives (.ssel d a b .neg) 2 d s (fun z => z = if o.toInt < 0 then x else y)

/-- `saddi`, `slogi` and `sli` (R325); a shift form's imm is below 64, as its words have it. -/
def Sys2Proof.Claims.ScalarImmediateResults : Prop :=
  ∀ (s : State) (d a : Reg) (i : BitVec 11) (m : BitVec 8) (w : BitVec 18), let x := sreg s.g a
    ScalarGives (.saddi d a i) 2 d s (fun z => (z.toInt - x.toInt - i.toInt) % 2 ^ 64 = 0) ∧
    ScalarGives (.slogi d a .and m) 2 d s (fun z => ∀ n < 64, z.getLsbD n = (x.getLsbD n && m.getLsbD (min n 7))) ∧
    ScalarGives (.slogi d a .or m) 2 d s (fun z => ∀ n < 64, z.getLsbD n = (x.getLsbD n || m.getLsbD (min n 7))) ∧
    ScalarGives (.slogi d a .xor m) 2 d s (fun z => ∀ n < 64, z.getLsbD n = (x.getLsbD n ^^ m.getLsbD (min n 7))) ∧
    (m.toNat < 64 →
      ScalarGives (.slogi d a .shl m) 2 d s (fun z => z.toNat = x.toNat * 2 ^ m.toNat % 2 ^ 64) ∧
      ScalarGives (.slogi d a .shr m) 2 d s (fun z => z.toNat = x.toNat / 2 ^ m.toNat) ∧
      ScalarGives (.slogi d a .sra m) 2 d s (fun z => z.toInt = x.toInt / 2 ^ m.toNat) ∧
      ScalarGives (.slogi d a .ror m) 2 d s (fun z => ∀ n < 64, z.getLsbD n = x.getLsbD ((n + m.toNat) % 64))) ∧
    ScalarGives (.slogi d a .ins m) 2 d s (fun z => z.toNat = x.toNat * 256 % 2 ^ 64 + m.toNat) ∧
    ScalarGives (.sli d w) 2 d s (fun z => z.toInt = w.toInt)

/-- Scalar arithmetic, logic, shift and immediate results (the statements above named here). -/
def Obligations.ScalarIntegerResults : Prop :=
  Claims.ScalarArithmeticResults ∧ Claims.ScalarLogicAndShiftResults ∧ Claims.ScalarImmediateResults

/-- `sbit` in every form (R324). -/
def Sys2Proof.Claims.ScalarBitResults : Prop :=
  ∀ (s : State) (d a b : Reg) (k : BitVec 3), let x := sreg s.g a; let y := sreg s.g b
    let lo := y.toNat % 64; let w := min (y.toNat / 256 % 128) 64
    ScalarGives (.sbit d a b .popc) 2 d s (fun z => z.toNat = ((List.range 64).filter x.getLsbD).length) ∧
    ScalarGives (.sbit d a b .clz) 2 d s (fun z => z.toNat = if x = 0 then 64 else 63 - Nat.log2 x.toNat) ∧
    ScalarGives (.sbit d a b .ctz) 2 d s (fun z => (x = 0 → z.toNat = 64) ∧
      (x ≠ 0 → x.getLsbD z.toNat = true ∧ ∀ n < z.toNat, x.getLsbD n = false)) ∧
    ScalarGives (.sbit d a b .brev) 2 d s (fun z => ∀ n < 64, z.getLsbD n = x.getLsbD (63 - n)) ∧
    ScalarGives (.sbit d a b .bswap) 2 d s (fun z => ∀ n < 64, z.getLsbD n = x.getLsbD (8 * (7 - n / 8) + n % 8)) ∧
    ScalarGives (.sbit d a b .ext) 2 d s (fun z => z.toNat = x.toNat / 2 ^ lo % 2 ^ w) ∧
    ScalarGives (.sbit d a b .exts) 2 d s (fun z => (z.toInt - x.toNat / 2 ^ lo) % 2 ^ w = 0 ∧
      (w = 0 → z = 0) ∧ (0 < w → -2 ^ (w - 1) ≤ z.toInt ∧ z.toInt < 2 ^ (w - 1))) ∧
    exec (.sbit (k.setWidth 7) a 0 .tok) s = .next (done [(2, .k k.toNat (x.setWidth 32))] s) ∧
    ScalarGives (.sbit d (k.setWidth 7) 0 .fromk) 2 d s (fun z => z.toNat = (mreg s.g k).toNat)

/-- Scalar compares, selects and bit operations (the statements above named here). -/
def Obligations.ScalarSelectAndBitResults : Prop :=
  Claims.ScalarCompareAndSelectResults ∧ Claims.ScalarBitResults

/-- `sspr.rd` reads each special register, zero-extended (R297, R298). -/
def Sys2Proof.Claims.SpecialRegistersRead : Prop :=
  ∀ (s : State) (d : Reg), let g := s.g
    let reads (n : BitVec 8) (v : Word) : Prop := exec (.ssprRd d n) s = .next (done [(2, .s d.toNat v)] s)
    reads 0x00 ((path g).exec.setWidth 64) ∧ reads 0x01 ((path g).lanes.setWidth 64) ∧ reads 0x03 (BitVec.ofNat 64 g.at_.slot) ∧
    reads 0x04 (BitVec.ofNat 64 g.at_.core) ∧ reads 0x05 (BitVec.ofNat 64 g.at_.cluster) ∧ reads 0x06 (BitVec.ofNat 64 g.at_.die) ∧
    reads 0x07 (BitVec.ofNat 64 g.at_.pkg) ∧ reads 0x08 (BitVec.ofNat 64 g.level) ∧ reads 0x09 (BitVec.ofNat 64 g.window) ∧
    reads 0x0A (BitVec.ofNat 64 (cycleOf s g)) ∧ reads 0x0B (g.prio.setWidth 64) ∧ reads 0x0C (BitVec.ofNat 64 g.blocks) ∧
    reads 0x0D (BitVec.ofNat 64 g.rstack.length) ∧ reads 0x10 (g.fpcsr.setWidth 64) ∧ reads 0x11 (g.lscale.setWidth 64) ∧
    reads 0x12 g.ovf ∧ reads 0x14 g.rkseed ∧ reads 0x15 (g.rkid.setWidth 64) ∧ reads 0x16 (g.rkstep.setWidth 64) ∧
    reads 0x17 g.rkbase ∧ reads 0x20 g.xpc ∧ reads 0x21 (g.xcause.setWidth 64) ∧ reads 0x22 g.xaddr ∧
    reads 0x23 (g.xmask.setWidth 64) ∧ reads 0x24 g.xinfo ∧
    reads 0x25 (BitVec.ofNat 64 ((if g.inh then 128 else 0) + (if g.prec then 64 else 0) + (if g.pair then 32 else 0) +
      if g.pme then 1 else 0)) ∧ reads 0x26 g.xvec

/-- `sspr.wr` writes each special register that software may write, `sspr.or` and `sspr.andn` write the old value with bits set or cleared;
`%exec` keeps to the path's lanes, `%fpcsr` and `%xctl` keep their read-only and reserved bits, `%fpcsr` also keeps the flags that replies and
engine operations have ORed in in this cycle (05 R174), and nothing else but the path's next address changes (03 R89, R297 to R300). -/
def Sys2Proof.Claims.SpecialRegistersAreWritten : Prop :=
  ∀ (s : State) (a : Reg), let g := s.g
    let ways (n : BitVec 8) (old : Word) (ok : Word → Prop) (f : Word → Gang) : Prop :=
      (ok (sreg g a) → exec (.ssprWr a n) s = .next (next { s with g := f (sreg g a) })) ∧
      (ok (old ||| sreg g a) → exec (.ssprOr a n) s = .next (next { s with g := f (old ||| sreg g a) })) ∧
      (ok (old &&& ~~~sreg g a) → exec (.ssprAndn a n) s = .next (next { s with g := f (old &&& ~~~sreg g a) }))
    ways 0x00 ((path g).exec.setWidth 64) (fun _ => True)
      (fun x => setPath g { path g with exec := x.setWidth 32 &&& (path g).lanes }) ∧
    ways 0x10 (g.fpcsr.setWidth 64) (fun x => x.toNat / 256 % 8 < 5)
      (fun x => { g with fpcsr := (x.setWidth 32 &&& 0x373F) ||| (g.fpcsr &&& 0xFFFFC8C0) ||| g.orNow.setWidth 32 }) ∧
    ways 0x11 (g.lscale.setWidth 64) (fun _ => True) (fun x => { g with lscale := x.setWidth 32 }) ∧
    ways 0x12 g.ovf (fun _ => True) (fun x => { g with ovf := (x &&& 0xFFFF) ||| (g.ovf &&& 0xFFFFFFFFFFFF0000) }) ∧
    ways 0x14 g.rkseed (fun _ => True) (fun x => { g with rkseed := x }) ∧
    ways 0x15 (g.rkid.setWidth 64) (fun _ => True) (fun x => { g with rkid := x.setWidth 32 }) ∧
    ways 0x16 (g.rkstep.setWidth 64) (fun _ => True) (fun x => { g with rkstep := x.setWidth 32 }) ∧
    ways 0x17 g.rkbase (fun _ => True) (fun x => { g with rkbase := x }) ∧
    ways 0x20 g.xpc (fun _ => True) (fun x => { g with xpc := x }) ∧
    ways 0x25 (readSpr s 0x25) (fun _ => True) (fun x => { g with pme := x.getLsbD 0 }) ∧
    ways 0x26 g.xvec (fun _ => True) (fun x => { g with xvec := x })

/-- A write, by `sspr.wr`, `sspr.or` or `sspr.andn`, that would place a reserved rounding mode in `%fpcsr` raises the reserved-operand trap and
writes nothing (05 R171, R172, 10 R299). -/
def Sys2Proof.Claims.ReservedRoundingModeTraps : Prop :=
  ∀ (s : State) (a : Reg), Delivers s →
    let x := sreg s.g a
    let old : Word := s.g.fpcsr.setWidth 64
    (5 ≤ x.toNat / 256 % 8 → Runs (.ssprWr a 0x10) s (Entered 0x02 0 0 (pcOf s) s)) ∧
    (5 ≤ (old ||| x).toNat / 256 % 8 → Runs (.ssprOr a 0x10) s (Entered 0x02 0 0 (pcOf s) s)) ∧
    (5 ≤ (old &&& ~~~x).toNat / 256 % 8 → Runs (.ssprAndn a 0x10) s (Entered 0x02 0 0 (pcOf s) s))

/-- Special registers are read and written, and a reserved rounding mode traps (the statements above named here). -/
def Obligations.SpecialRegistersAreReadAndWritten : Prop :=
  Claims.SpecialRegistersRead ∧ Claims.SpecialRegistersAreWritten ∧ Claims.ReservedRoundingModeTraps

/-- A result on its way is read by an instruction that issues its latency later, and not by one that issues earlier; every other scalar
register and every lane mask then reads as without it (03 R106). The results on their way stand in the order in which they are due. -/
def Sys2Proof.Claims.ResultsAreReadAfterTheirLatency : Prop :=
  ∀ (s : State) (lat n : Nat) (x : Word), s.g.inflight.Pairwise (fun a b => a.due ≤ b.due) → n < 128 →
    let g := (fixed lat (.s n x) s).g
    (settle (s.cycle + lat) g).s[n]? = some x ∧
    (∀ t < s.cycle + lat, (settle t g).s = (settle t s.g).s) ∧
    (∀ t m, m ≠ n → (settle t g).s[m]? = (settle t s.g).s[m]?) ∧
    (∀ t, (settle t g).v = (settle t s.g).v ∧ (settle t g).k = (settle t s.g).k)

/-- The results on their way stay in the order in which they are due: sending one, and writing those that are due, keeps it (the premise of
the statement above). -/
def Sys2Proof.Claims.ResultsStayInOrder : Prop :=
  ∀ (s : State) (lat t : Nat) (w : RegWrite), s.g.inflight.Pairwise (fun a b => a.due ≤ b.due) →
    (fixed lat w s).g.inflight.Pairwise (fun a b => a.due ≤ b.due) ∧
    (settle t s.g).inflight.Pairwise (fun a b => a.due ≤ b.due) ∧ ∀ i ∈ (settle t s.g).inflight, t < i.due

/-- The frame of the instructions whose results are on their way: beside those results nothing changes but the path's address: no register, no
flag, no other path, no byte of memory (09 R263); a flagged one changes its pending list and its flag's count besides (03 R103). -/
def Sys2Proof.Claims.ResultsChangeNothingElse : Prop :=
  ∀ (s : State) (ws : List (Nat × RegWrite)) (rs : List RegWrite) (left : Nat),
    (∀ t, t = done ws s ∨ t = flagged rs left s → t.mem = s.mem ∧ t.stores = s.stores ∧ t.others = s.others ∧ t.g.s = s.g.s ∧ t.g.v = s.g.v ∧
      t.g.k = s.g.k ∧ t.g.sh = s.g.sh ∧ t.g.fpcsr = s.g.fpcsr ∧ path t.g = { path s.g with pc := pcOf s + 4 } ∧
      ∀ i, i ≠ s.g.act → t.g.paths[i] = s.g.paths[i]) ∧
    done ws s = { s with g := { s.g with inflight := (done ws s).g.inflight, paths := (done ws s).g.paths } } ∧
    (let t := flagged rs left s
     t = { s with nextId := s.nextId + 1, g := { s.g with pend := t.g.pend, flags := t.g.flags, paths := t.g.paths } })

/-- Results are read after their latency, stay in order, and nothing else changes (the statements above named here). -/
def Obligations.ResultsTakeTheirLatency : Prop :=
  Claims.ResultsAreReadAfterTheirLatency ∧ Claims.ResultsStayInOrder ∧ Claims.ResultsChangeNothingElse

/-! Groups 2 and 3: vector instructions (11 R327 to R356). Each writes the active lanes of its destination with its latency (16 R425), goes on
at the next word, and changes nothing else. -/

/-- The routed integer instructions modulo 2^32, whatever lane the route reads (09 R277, 11 R334). -/
def Sys2Proof.Claims.VectorIntegerResults : Prop :=
  ∀ (s : State) (d a b : Reg) (r : Route), Holds s.g ([(d, 1), (a, 1)] ++ routedRegs b r) →
    let A := srcA s.g a; let B := routed s.g b r
    VectorGives (.vadd d a b r) 2 d s (fun l z => z.toNat = ((A l).toNat + (B l).toNat) % 2 ^ 32) ∧
    VectorGives (.vsub d a b r) 2 d s (fun l z => (z.toNat + (B l).toNat) % 2 ^ 32 = (A l).toNat) ∧
    VectorGives (.vmul d a b r) 4 d s (fun l z => z.toNat = (A l).toNat * (B l).toNat % 2 ^ 32) ∧
    VectorGives (.vand d a b r) 2 d s (fun l z => ∀ i < 32, z.getLsbD i = ((A l).getLsbD i && (B l).getLsbD i)) ∧
    VectorGives (.vor d a b r) 2 d s (fun l z => ∀ i < 32, z.getLsbD i = ((A l).getLsbD i || (B l).getLsbD i)) ∧
    VectorGives (.vxor d a b r) 2 d s (fun l z => ∀ i < 32, z.getLsbD i = ((A l).getLsbD i ^^ (B l).getLsbD i))

/-- The shifts, `vminmax`, `vcmp` and `vsel` in both forms of their rb operand (11 R328, R335 to R338). -/
def Sys2Proof.Claims.VectorShiftCompareSelectResults : Prop :=
  ∀ (s : State) (d a b : Reg) (x : Bool) (k : BitVec 3), Holds s.g ([(d, 1), (a, 1)] ++ sRegs b x) →
    let A := srcA s.g a; let B := sForm s.g b x
    let shift (m : SShlOp ⊕ ShrOp) (P : W32 → Nat → W32 → Prop) : Prop :=
      VectorGives (match m with | .inl m => .vshl d a b x m | .inr m => .vshr d a b x m) 2 d s
        (fun l z => P (A l) ((B l).toNat % 32) z)
    let minmax (m : MinMaxOp) (P : W32 → W32 → W32 → Prop) : Prop := VectorGives (.vminmax d a b x m) 2 d s (fun l z => P (A l) (B l) z)
    let cmp (m : CmpOp) (P : W32 → W32 → Prop) : Prop := Holds s.g ([(a, 1)] ++ sRegs b x) →
      ∃ z, exec (.vcmp k a b x m) s = .next (done [(2, .k k.toNat z)] s) ∧
        ∀ l < 32, inMask z l = true ↔ Active s l ∧ P (A l) (B l)
    shift (.inl .shl) (fun v c z => z.toNat = v.toNat * 2 ^ c % 2 ^ 32) ∧
    shift (.inl .rol) (fun v c z => ∀ i < 32, z.getLsbD ((i + c) % 32) = v.getLsbD i) ∧
    shift (.inr .shr) (fun v c z => z.toNat = v.toNat / 2 ^ c) ∧
    shift (.inr .sra) (fun v c z => z.toInt = v.toInt / 2 ^ c) ∧
    shift (.inr .ror) (fun v c z => ∀ i < 32, z.getLsbD i = v.getLsbD ((i + c) % 32)) ∧
    minmax .min (fun v w z => z.toInt = min v.toInt w.toInt) ∧ minmax .max (fun v w z => z.toInt = max v.toInt w.toInt) ∧
    minmax .minu (fun v w z => z.toNat = min v.toNat w.toNat) ∧ minmax .maxu (fun v w z => z.toNat = max v.toNat w.toNat) ∧
    cmp .eq (fun v w => v = w) ∧ cmp .ne (fun v w => v ≠ w) ∧ cmp .lt (fun v w => v.toInt < w.toInt) ∧
    cmp .ge (fun v w => w.toInt ≤ v.toInt) ∧ cmp .ltu (fun v w => v.toNat < w.toNat) ∧ cmp .geu (fun v w => w.toNat ≤ v.toNat) ∧
    VectorGives (.vsel d a b x k) 2 d s (fun l z => z = if (mreg s.g k).getLsbD l then A l else B l)

/-- Vector integer, shift, compare and select results (the statements above named here). -/
def Obligations.VectorIntegerResults : Prop :=
  Claims.VectorIntegerResults ∧ Claims.VectorShiftCompareSelectResults

/-- Every form of `vmov`, and `vperm` (11 R339, R340): `vmov.x` and `vmov.ins` take the lane they name whether it is active or not, but
`vmov.ins` writes it only when it is active. -/
def Sys2Proof.Claims.VectorMovesAndPermutes : Prop :=
  ∀ (s : State) (d a b : Reg) (n : BitVec 5) (k : BitVec 3) (z : Bool), Holds s.g [(d, 1)] →
    (Holds s.g [(a, 1)] → VectorGives (.vmov (.v d a)) 2 d s (fun l w => w = srcA s.g a l) ∧
      exec (.vmov (.x d a n)) s = .next (done [(2, .s d.toNat ((srcA s.g a n.toNat).setWidth 64))] s)) ∧
    VectorGives (.vmov (.s d a)) 2 d s (fun _ w => w.toNat = (sreg s.g a).toNat % 2 ^ 32) ∧
    VectorGives (.vmov (.sh d a)) 2 d s (fun _ w => w.toNat = (sreg s.g a).toNat / 2 ^ 32) ∧
    VectorGives (.vmov (.lane d)) 2 d s (fun l w => w.toNat = l) ∧
    VectorGives (.vmov (.k d k)) 2 d s (fun l w => w.toNat = if (mreg s.g k).getLsbD l then 1 else 0) ∧
    (∃ f : Nat → W32, ∃ m : W32, exec (.vmov (.ins d a n)) s = .next (done [(2, .v (vnum s.g d) m (mkLanes f))] s) ∧
      ∀ l < 32, (inMask m l = true ↔ Active s l ∧ l = n.toNat) ∧ (inMask m l = true → (f l).toNat = (sreg s.g a).toNat % 2 ^ 32)) ∧
    (Holds s.g [(a, 1)] → Holds s.g [(b, 1)] → VectorGives (.vperm d a b z) 4 d s (fun l w =>
      let i := (lane (vreg s.g b) l).toNat
      w = if z = true ∧ 32 ≤ i then 0 else srcA s.g a (i % 32)))

/-- `vvote` and the integer forms of `vredl` over the active lanes (11 R341, R343): the empty list gives the entries' values for no
lane. -/
def Sys2Proof.Claims.VotesAndReductionsOverLanes : Prop :=
  ∀ (s : State) (d a : Reg) (k : BitVec 3), Holds s.g [(a, 1)] →
    let A := srcA s.g a
    let on (P : W32 → Prop) (l : Nat) : Prop := Active s l ∧ P (A l)
    let vote (m : VVoteOp) (P : Word → Prop) : Prop := ScalarGives (.vvote d a m) 4 d s P
    let redl (o : VRedlOp) (P : Word → Prop) : Prop :=
      ∃ z, exec (.vredl d a o) s = .next (done [(8, .s d.toNat z), (8, .fp 0)] s) ∧ P z
    let L := lanesOf (execMask s.g)
    vote .any (fun z => z = 0 ∧ (∀ l, ¬ on (· ≠ 0) l) ∨ z = 1 ∧ ∃ l, on (· ≠ 0) l) ∧
    vote .all (fun z => z = 1 ∧ (∀ l, ¬ on (· = 0) l) ∨ z = 0 ∧ ∃ l, on (· = 0) l) ∧
    vote .uni (fun z => z = 1 ∧ (∀ l m, Active s l → Active s m → A l = A m) ∨ z = 0 ∧ ∃ l m, Active s l ∧ Active s m ∧ A l ≠ A m) ∧
    vote .popc (fun z => z.toNat = (L.filter (fun l => A l ≠ 0)).length) ∧
    vote .first (fun z => z = 32 ∧ (∀ l, ¬ on (· ≠ 0) l) ∨ on (· ≠ 0) z.toNat ∧ ∀ l < z.toNat, ¬ on (· ≠ 0) l) ∧
    (∃ z, exec (.vvote (k.setWidth 7) a .ballot) s = .next (done [(4, .k k.toNat z)] s) ∧ ∀ l < 32, inMask z l = true ↔ on (· ≠ 0) l) ∧
    redl .add (fun z => z.toNat = (L.map (fun l => (A l).toNat)).sum % 2 ^ 32) ∧
    redl .and (fun z => ∀ i < 32, z.getLsbD i = true ↔ ∀ l, Active s l → (A l).getLsbD i = true) ∧
    redl .or (fun z => ∀ i < 32, z.getLsbD i = true ↔ ∃ l, Active s l ∧ (A l).getLsbD i = true) ∧
    redl .xor (fun z => ∀ i < 32, z.getLsbD i = decide ((L.filter (fun l => (A l).getLsbD i)).length % 2 = 1)) ∧
    redl .minu (fun z => (∀ l, Active s l → z.toNat ≤ (A l).toNat) ∧ if L = [] then z = 0xFFFFFFFF else ∃ l ∈ L, z.toNat = (A l).toNat) ∧
    redl .maxu (fun z => (∀ l, Active s l → (A l).toNat ≤ z.toNat) ∧ if L = [] then z = 0 else ∃ l ∈ L, z.toNat = (A l).toNat) ∧
    redl .min (fun z => z.toNat < 2 ^ 32 ∧ (∀ l, Active s l → (z.setWidth 32).toInt ≤ (A l).toInt) ∧
      if L = [] then z = 0x7FFFFFFF else ∃ l ∈ L, z.setWidth 32 = A l) ∧
    redl .max (fun z => z.toNat < 2 ^ 32 ∧ (∀ l, Active s l → (A l).toInt ≤ (z.setWidth 32).toInt) ∧
      if L = [] then z = 0x80000000 else ∃ l ∈ L, z.setWidth 32 = A l)

/-- `vscan` in ascending lane order over the active lanes, inclusive and exclusive (11 R342), and the floating-point forms of `vredl`
over the balanced tree of 00 R12. -/
def Sys2Proof.Claims.ScansOverLanes : Prop :=
  ∀ (s : State) (d a : Reg), Holds s.g [(d, 1), (a, 1)] →
    let A := srcA s.g a
    let upTo (ex : Bool) (l : Nat) : List Nat := (lanesOf (execMask s.g)).filter (fun m => if ex then m < l else m ≤ l)
    let scan (o : VScanOp) (ex : Bool) (P : Nat → W32 → Prop) : Prop :=
      ∃ f : Nat → W32, exec (.vscan d a ex o) s = .next (done [(8, .v (vnum s.g d) (execMask s.g) (mkLanes f)), (8, .fp 0)] s) ∧
        ∀ l, Active s l → P l (f l)
    (∀ ex, scan .add ex (fun l z => z.toNat = ((upTo ex l).map (fun m => (A m).toNat)).sum % 2 ^ 32)) ∧
    (∀ ex, scan .minu ex (fun l z => z.toNat = ((upTo ex l).map (fun m => (A m).toNat)).foldr min (2 ^ 32 - 1))) ∧
    (∀ ex, scan .maxu ex (fun l z => z.toNat = ((upTo ex l).map (fun m => (A m).toNat)).foldr max 0)) ∧
    (∀ ex, scan .min ex (fun l z => z.toInt = ((upTo ex l).map (fun m => (A m).toInt)).foldr min (2 ^ 31 - 1))) ∧
    (∀ ex, scan .max ex (fun l z => z.toInt = ((upTo ex l).map (fun m => (A m).toInt)).foldr max (-2 ^ 31))) ∧
    (∃ f : Nat → W32, ∃ fl, exec (.vscan d a false .fadd) s =
        .next (done [(8, .v (vnum s.g d) (execMask s.g) (mkLanes f)), (8, .fp fl)] s) ∧
      (∀ l, Active s l → (∀ m < l, ¬ Active s m) → f l = A l) ∧
      ∀ l m, Active s l → Active s m → l < m → (∀ n, l < n → n < m → ¬ Active s n) → f m = (addRne (f l) (A m)).1) ∧
    (∃ z fl, exec (.vredl d a .fadd) s = .next (done [(8, .s d.toNat z), (8, .fp fl)] s) ∧
      let r := pairwiseSum fFP32 ((lanesOf (execMask s.g)).map (fun l => (A l).toNat))
      z.toNat = r.1 % 2 ^ 32 ∧ fl = r.2)

/-- Moves, permutes, votes, reductions and scans over lanes (the statements above named here). -/
def Obligations.LanesMoveAndCombine : Prop :=
  Claims.VectorMovesAndPermutes ∧ Claims.VotesAndReductionsOverLanes ∧ Claims.ScansOverLanes

/-- The FP32 and packed BF16 arithmetic (11 R344, R345, R354, R355): each active lane's exact value rounded once, with its flags; x, y and z
are the operands, z the old destination. -/
def Sys2Proof.Claims.VectorFloatingPointResults : Prop :=
  ∀ (s : State) (d a b : Reg) (r : Route), Holds s.g ([(d, 1), (a, 1)] ++ routedRegs b r) →
    let m := rmOf s.g.fpcsr
    let A := srcA s.g a; let B := routed s.g b r; let Z := srcA s.g d
    let x := fun l => fpIn s.g (A l); let y := fun l => fpIn s.g (B l); let z := fun l => fpIn s.g (Z l)
    let fp (i : Instr) (v : Nat → FVal × Fl) : Prop := VectorFGives i 4 d s (fun l w => w = fpOut s.g l (v l))
    let bf (i : Instr) (v : FVal → FVal → FVal → FVal × Fl) : Prop := VectorFGives i 4 d s (fun l w => ∃ c0 c1 f0 f1,
      (∀ h c f, (h, c, f) = (0, c0, f0) ∨ (h, c, f) = (1, c1, f1) →
        let e := v (half h (A l)) (half h (B l)) (half h (Z l))
        (c, f) = ((roundTo fBF16 m (laneBits s.g l (32 * h)) false false e.1).1,
          e.2 ||| (roundTo fBF16 m (laneBits s.g l (32 * h)) false false e.1).2)) ∧
      w = (BitVec.ofNat 32 (c0 + 65536 * c1), f0 ||| f1))
    fp (.fadd d a b r) (fun l => sumVal m [x l, y l]) ∧
    fp (.fsub d a b r) (fun l => sumVal m [x l, negVal (y l)]) ∧
    fp (.fmul d a b r) (fun l => mulVal (x l) (y l)) ∧
    fp (.ffma d a b r) (fun l => ((sumVal m [(mulVal (x l) (y l)).1, z l]).1,
      (mulVal (x l) (y l)).2 ||| (sumVal m [(mulVal (x l) (y l)).1, z l]).2)) ∧
    fp (.fdot2 d a b r) (fun l =>
      let p := fun h => mulVal (half h (A l)) (half h (B l))
      ((sumVal m [z l, (p 0).1, (p 1).1]).1, (p 0).2 ||| (p 1).2 ||| (sumVal m [z l, (p 0).1, (p 1).1]).2)) ∧
    bf (.hadd2 d a b r) (fun u v _ => sumVal m [u, v]) ∧
    bf (.hmul2 d a b r) (fun u v _ => mulVal u v) ∧
    bf (.hfma2 d a b r) (fun u v w => ((sumVal m [(mulVal u v).1, w]).1, (mulVal u v).2 ||| (sumVal m [(mulVal u v).1, w]).2))

/-- `fminmax`, `fcmp`, `fscale` and the sign functions of `ffun` (11 R346 to R348, R353), an operand read by the order of its code: where ftz is 1
a denormal operand counts as the zero of its sign (05 R183), but not for `ffun.abs` and `ffun.neg`. -/
def Sys2Proof.Claims.FloatingPointOrderAndSigns : Prop :=
  ∀ (s : State) (d a b : Reg) (x : Bool) (k : BitVec 3), Holds s.g ([(d, 1), (a, 1)] ++ sRegs b x) →
    let flushed (v : W32) : W32 := if ftzOf s.g.fpcsr = true ∧ v.toNat % 2 ^ 31 < 2 ^ 23 then (if v.toNat < 2 ^ 31 then 0 else 0x80000000) else v
    let A := fun l => flushed (srcA s.g a l); let B := fun l => flushed (sForm s.g b x l)
    let nan (v : W32) : Prop := 0x7F800000 < v.toNat % 2 ^ 31
    let sig (v : W32) : Prop := nan v ∧ v.toNat % 2 ^ 31 < 0x7FC00000
    let key (v : W32) : Int := if v.toNat < 2 ^ 31 then v.toNat else 2 ^ 31 - 1 - v.toNat
    let num (v : W32) : Int := if v.toNat < 2 ^ 31 then v.toNat else 2 ^ 31 - v.toNat
    let minmax (m : FMinMaxOp) (P : W32 → W32 → W32 → Prop) : Prop := VectorFGives (.fminmax d a b x m) 4 d s (fun l z =>
      P (A l) (B l) z.1 ∧ (sig (A l) ∨ sig (B l) → z.2 = fIV) ∧ (¬ sig (A l) → ¬ sig (B l) → z.2 = 0))
    let best (least canon : Bool) (v w z : W32) : Prop :=
      (nan v → nan w → z = 0x7FC00000) ∧ (nan v → ¬ nan w → z = if canon then 0x7FC00000 else w) ∧
      (¬ nan v → nan w → z = if canon then 0x7FC00000 else v) ∧
      (¬ nan v → ¬ nan w → (z = v ∨ z = w) ∧ if least then key z = min (key v) (key w) else key z = max (key v) (key w))
    let cmp (m : FCmpOp) (P : W32 → W32 → Prop) : Prop := ∃ z f, exec (.fcmp k a b x m) s = .next (done [(4, .k k.toNat z), (4, .fp f)] s) ∧
      (∀ l < 32, inMask z l = true ↔ Active s l ∧ P (A l) (B l)) ∧ (f = 0 ∨ f = fIV) ∧
      (f = fIV ↔ ∃ l, Active s l ∧ if m = .lt ∨ m = .le ∨ m = .gt ∨ m = .ge then nan (A l) ∨ nan (B l) else sig (A l) ∨ sig (B l))
    minmax .min (best true false) ∧ minmax .max (best false false) ∧ minmax .minp (best true true) ∧ minmax .maxp (best false true) ∧
    cmp .eq (fun v w => ¬ nan v ∧ ¬ nan w ∧ num v = num w) ∧ cmp .ne (fun v w => ¬ (¬ nan v ∧ ¬ nan w ∧ num v = num w)) ∧
    cmp .lt (fun v w => ¬ nan v ∧ ¬ nan w ∧ num v < num w) ∧ cmp .le (fun v w => ¬ nan v ∧ ¬ nan w ∧ num v ≤ num w) ∧
    cmp .gt (fun v w => ¬ nan v ∧ ¬ nan w ∧ num w < num v) ∧ cmp .ge (fun v w => ¬ nan v ∧ ¬ nan w ∧ num w ≤ num v) ∧
    cmp .un (fun v w => nan v ∨ nan w) ∧ cmp .ord (fun v w => ¬ nan v ∧ ¬ nan w) ∧
    VectorFGives (.ffun d a .abs) 2 d s (fun l z => z.1.toNat = (srcA s.g a l).toNat % 2 ^ 31 ∧ z.2 = 0) ∧
    VectorFGives (.ffun d a .neg) 2 d s (fun l z => z.1.toNat = ((srcA s.g a l).toNat + 2 ^ 31) % 2 ^ 32 ∧ z.2 = 0) ∧
    VectorFGives (.fscale d a b x false) 4 d s (fun l z =>
      (sig (A l) → z = (0x7FC00000, fIV)) ∧ (nan (A l) → ¬ sig (A l) → z = (0x7FC00000, 0)) ∧
      ((A l).toNat % 2 ^ 31 = 0 ∨ (A l).toNat % 2 ^ 31 = 0x7F800000 → z = (A l, 0)) ∧
      let n := (sForm s.g b x l).toInt
      (-1000 ≤ n → n ≤ 1000 → z = fpOut s.g l (scaleVal (fpIn s.g (srcA s.g a l)) n, 0)) ∧
      (1000 < n → z = fpOut s.g l (scaleVal (fpIn s.g (srcA s.g a l)) 1000, 0)) ∧
      (n < -1000 → z = fpOut s.g l (scaleVal (fpIn s.g (srcA s.g a l)) (-1000), 0))) ∧
    VectorFGives (.fscale d a b x true) 4 d s (fun l z =>
      (nan (A l) ∨ (A l).toNat % 2 ^ 31 = 0x7F800000 → z = (0x7FFFFFFF, fIV)) ∧ ((A l).toNat % 2 ^ 31 = 0 → z = (0x80000000, fIV)) ∧
      (2 ^ 23 ≤ (A l).toNat % 2 ^ 31 → (A l).toNat % 2 ^ 31 < 0x7F800000 → z.1.toInt = ((A l).toNat % 2 ^ 31 / 2 ^ 23 : Nat) - 127 ∧ z.2 = 0))

/-- `ffun` of its special operands, and of the operands whose value is rational (11 R348): the reciprocal and the integral value of every number; the
two roots, as the rounding of a rational within 1 / v of the root, v at least 2^128, and of the root itself where that is a binary fraction; 2^x
of the integers up to 400; the logarithm of the powers of two; the sine and cosine of half turns. A NaN gives the canonical NaN. How the other
values are computed is log 10. -/
def Sys2Proof.Claims.UnaryFunctionResults : Prop :=
  ∀ (s : State) (d a : Reg), Holds s.g [(d, 1), (a, 1)] →
    let x := fun l => fpIn s.g (srcA s.g a l)
    let out := fun l v => fpOut s.g l (v, 0)
    let bad : W32 × Fl := (0x7FC00000, fIV)
    let gives (f : FFunOp) (lat : Nat) (inf : Bool → W32 × Fl) (P : Nat → W32 × Fl → Bool → Nat → Nat → Prop) : Prop :=
      VectorFGives (.ffun d a f) lat d s (fun l z => (∀ q, x l = .nan q → z = (0x7FC00000, if q then fIV else 0)) ∧
        (∀ neg, x l = .inf neg → z = inf neg) ∧ ∀ neg n e, x l = .fin neg n e → P l z neg n e)
    let root (l n e : Nat) (z : W32 × Fl) : Prop := ∃ u v : Nat, z = out l (.fin false u v) ∧ 2 ^ 128 ≤ v ∧
      ((u : Int) - 1) * (u - 1) * e ≤ n * (v * v) ∧ n * (v * v) < (u + 1) * (u + 1) * e ∧
      ∀ p j, n = p * p → e = 2 ^ j * 2 ^ j → u * u * e = n * (v * v)
    gives .rcp 12 (fun neg => (if neg then 0x80000000 else 0, 0)) (fun l z neg n e =>
      z = if n = 0 then (if neg then 0xFF800000 else 0x7F800000, fDZ) else out l (.fin neg e n)) ∧
    gives .sqrt 12 (fun neg => if neg then bad else (0x7F800000, 0)) (fun l z neg n e =>
      (n = 0 → z = (if neg then 0x80000000 else 0, 0)) ∧ (n ≠ 0 → neg = true → z = bad) ∧ (n ≠ 0 → neg = false → root l n e z)) ∧
    gives .rsqrt 12 (fun neg => if neg then bad else (0, 0)) (fun l z neg n e =>
      (n = 0 → z = (if neg then 0xFF800000 else 0x7F800000, fDZ)) ∧ (n ≠ 0 → neg = true → z = bad) ∧
      (n ≠ 0 → neg = false → root l e n z)) ∧
    gives .exp2 12 (fun neg => (if neg then 0 else 0x7F800000, 0)) (fun l z neg n e =>
      n % e = 0 → n / e ≤ 400 → z = out l (scaleVal (.fin false 1 1) (if neg then -(n / e : Nat) else (n / e : Nat)))) ∧
    gives .log2 12 (fun neg => if neg then bad else (0x7F800000, 0)) (fun l z neg n e =>
      (n = 0 → z = (0xFF800000, fDZ)) ∧ (n ≠ 0 → neg = true → z = bad) ∧
      (n ≠ 0 → neg = false → ∀ k : Nat, (n = e * 2 ^ k → z = out l (intVal k)) ∧ (n * 2 ^ k = e → z = out l (intVal (-k))))) ∧
    gives .sinpi 12 (fun _ => bad) (fun l z neg n e =>
      (n % e = 0 → z = (if neg then 0x80000000 else 0, 0)) ∧
      (2 * n % (2 * e) = e → z = out l (.fin (neg != decide (e ≤ n % (2 * e))) 1 1))) ∧
    gives .cospi 12 (fun _ => bad) (fun l z _ n e =>
      (2 * n % (2 * e) = e → z = (0, 0)) ∧ (n % (2 * e) = 0 → z = (0x3F800000, 0)) ∧ (n % (2 * e) = e → z = (0xBF800000, 0))) ∧
    gives .tanh 12 (fun neg => (if neg then 0xBF800000 else 0x3F800000, 0)) (fun _ z neg n _ =>
      n = 0 → z = (if neg then 0x80000000 else 0, 0)) ∧
    gives .rint 4 (fun neg => (if neg then 0xFF800000 else 0x7F800000, 0)) (fun l z neg n e => ∃ k : Nat,
      z.1.toNat = (roundTo fFP32 .rtz 0 false false (.fin neg k 1)).1 % 2 ^ 32 ∧ z.2 = (if n % e = 0 then 0 else fNX) ∧
      k = n / e + if roundUp (rmOf s.g.fpcsr) neg (n / e % 2 = 1) (laneBits s.g l 0) (n % e) e then 1 else 0)

/-- Vector floating-point results, their order and signs, and the unary functions (the statements above named here). -/
def Obligations.VectorFloatingPointResults : Prop :=
  Claims.VectorFloatingPointResults ∧ Claims.FloatingPointOrderAndSigns ∧ Claims.UnaryFunctionResults

/-- `fcvt` in every format (11 R349, R350): downwards the operand's exact value is rounded once to the format, with the flags of 05 R179 to R181
(an integer target clamps; which of its bounds counts as its largest magnitude under SR is the model's choice, log 51, and no clause here
says so); upwards the code's exact value is rounded to FP32, and kept where the format is not a 32-bit integer. -/
def Sys2Proof.Claims.ConversionsRoundOnce : Prop :=
  ∀ (s : State) (d a : Reg) (m : RndSel), Holds s.g [(d, 1), (a, 1)] →
    let A := srcA s.g a; let md := rndSel s.g.fpcsr m; let ftz := ftzOf s.g.fpcsr
    let bits := fun l => laneBits s.g l 0; let x := fun l => fpIn s.g (A l)
    let down (f : CvtFmt) (P : Nat → W32 × Fl → Prop) : Prop := VectorFGives (.fcvt d a m f false) 4 d s P
    let up (f : CvtFmt) (v : W32 → FVal) : Prop := VectorFGives (.fcvt d a m f true) 4 d s (fun l z =>
      z = result32 ftz md (bits l) (v (A l)) ∧ (f ≠ .i32 → f ≠ .u32 → ftz = false → ∀ neg n e, v (A l) = .fin neg n e →
        z.2 = 0 ∧ ∃ p q, decodeF fFP32 z.1.toNat = .fin neg p q ∧ p * e = n * q))
    (∀ p ∈ [(CvtFmt.fp16, fFP16), (.bf16, fBF16), (.e4m3, fE4M3), (.e5m2, fE5M2), (.e3m2, fE3M2), (.e2m3, fE2M3), (.f4 .e2m1, fE2M1),
        (.f4 .pow2, fPOW2), (.f4 .hyb, fHYB)],
      down p.1 (fun l z => let r := roundTo p.2 md (bits l) true (satOf s.g.fpcsr) (x l)
        z.1.toNat = r.1 % 2 ^ 32 ∧ z.2 = r.2)) ∧
    (∀ p ∈ ([(.i32, -2 ^ 31, 2 ^ 31 - 1, 32), (.u32, 0, 2 ^ 32 - 1, 32), (.i8, -128, 127, 8), (.f4 .int, -8, 7, 4)] :
        List (CvtFmt × Int × Int × Nat)),
      let lo : Int := p.2.1; let hi : Int := p.2.2.1
      down p.1 (fun l z => (∀ q, x l = .nan q → z = (0, fIV)) ∧
        (∀ neg, x l = .inf neg → z.1.toNat = ((if neg then lo else hi) % 2 ^ p.2.2.2).toNat ∧ z.2 = fSA) ∧
        ∀ neg n e, x l = .fin neg n e → (md = .sr → n ≤ hi.toNat * e) →
          let k : Int := (n / e : Nat) + if roundUp md neg (n / e % 2 = 1) (bits l) (n % e) e then 1 else 0
          let v := if neg then -k else k
          z.1.toNat = (max lo (min hi v) % 2 ^ p.2.2.2).toNat ∧
            z.2 = if v < lo ∨ hi < v then fSA ||| fNX else if n % e = 0 then 0 else fNX)) ∧
    (∀ p ∈ [(CvtFmt.fp16, fFP16, 16), (.bf16, fBF16, 16), (.e4m3, fE4M3, 8), (.e5m2, fE5M2, 8), (.e3m2, fE3M2, 6), (.e2m3, fE2M3, 6)],
      up p.1 (fun v => decodeF p.2.1 (v.toNat % 2 ^ p.2.2))) ∧
    (∀ t, up (.f4 t) (fun v => decodeF4 t (v.toNat % 16))) ∧ up .i32 (fun v => intVal v.toInt) ∧
    up .u32 (fun v => intVal (v.toNat : Int)) ∧ up .i8 (fun v => intVal (v.setWidth 8).toInt)

/-- Packing, classes, random bits, and single values of the conversions (11 R349 to R352, R356). -/
def Sys2Proof.Claims.PacksAndClasses : Prop :=
  ∀ (s : State) (d a : Reg) (m : RndSel), Holds s.g [(d, 16), (a, 16)] →
    let A := srcA s.g a; let g := s.g
    let top (i l : Nat) : Nat := (lane (vreg g a i) l).toNat
    let packs (un : Bool) (w : PackW) (n : Nat) (P : Nat → Nat → Nat → Prop) : Prop := ∃ f : Nat → Nat → W32,
      exec (.fpack d a un w) s =
        .next (done ((List.range n).map (fun j => (2, .v (vnum g d j) (execMask g) (mkLanes (f j))))) s) ∧
      ∀ j < n, ∀ l, Active s l → P j l (f j l).toNat
    packs false .h2 1 (fun _ l z => z = top 0 l % 65536 + 65536 * (top 1 l % 65536)) ∧
    packs false .b4 1 (fun _ l z => ∀ i < 4, z / 256 ^ i % 256 = top i l % 256) ∧
    packs false .n8 1 (fun _ l z => ∀ i < 8, z / 16 ^ i % 16 = top i l % 16) ∧
    packs false .s6 3 (fun j l z => ∀ q < 32, z.testBit q = (top ((32 * j + q) / 6) l).testBit ((32 * j + q) % 6)) ∧
    packs true .h2 2 (fun j l z => z = top 0 l / 65536 ^ j % 65536) ∧
    packs true .b4 4 (fun j l z => z = top 0 l / 256 ^ j % 256) ∧
    packs true .n8 8 (fun j l z => z = top 0 l / 16 ^ j % 16) ∧
    packs true .s6 16 (fun j l z => z < 64 ∧ ∀ q < 6, z.testBit q = (top ((6 * j + q) / 32) l).testBit ((6 * j + q) % 32)) ∧
    (∀ p ∈ [(ClassFmt.fp32, 31, 23, 0x7F800000), (.bf16, 15, 7, 0x7F80), (.fp16, 15, 10, 0x7C00)],
      VectorGives (.fclass d a p.1) 2 d s (fun l z => ∃ i < 10, z.toNat = 2 ^ i ∧
        let w := p.2.1; let man := 2 ^ p.2.2.1; let inf := p.2.2.2
        let neg := (A l).toNat.testBit w = true; let c := (A l).toNat % 2 ^ w
        (c = 0 ↔ i = if neg then 5 else 6) ∧ (0 < c ∧ c < man ↔ i = if neg then 4 else 7) ∧
        (man ≤ c ∧ c < inf ↔ i = if neg then 3 else 8) ∧ (c = inf ↔ i = if neg then 2 else 9) ∧
        (inf < c ∧ c < inf + man / 2 ↔ i = 0) ∧ (inf + man / 2 ≤ c ↔ i = 1))) ∧
    VectorFGives (.fcvt d a m .bf16 true) 4 d s (fun l z => ftzOf g.fpcsr = false → (A l).toNat % 2 ^ 15 ≤ 0x7F80 →
      z.1.toNat = (A l).toNat % 2 ^ 16 * 2 ^ 16 ∧ z.2 = 0) ∧
    VectorFGives (.fcvt d a m .i8 false) 4 d s (fun l z => ∀ n c : Nat, 0 < c → fpIn g (A l) = .fin false (n * c) c →
      z.1.toNat = min n 127 ∧ z.2 = if n ≤ 127 then 0 else fSA ||| fNX) ∧
    (∀ f up, VectorFGives (.fcvt d a m f up) 4 d s (fun l z => up = true → ∀ c, 0 < c → cvtFrom f (A l) = .fin false c c → z = (0x3F800000, 0))) ∧
    VectorGives (.frng d false) 6 d s (fun l z => ∀ e : Word, e = g.rkbase + BitVec.ofNat 64 l →
      z = (cg10 g.rkseed g.rkid g.rkstep (e / 4)).extractLsb' (e.toNat % 4 * 32) 32) ∧
    (∀ u, VectorGives (.frng d u) 6 d s (fun _ z => u = true → z.toNat < 0x3F800000))

/-- Conversions, packs, random numbers and classes (the statements above named here). -/
def Obligations.ConversionsPacksAndClasses : Prop :=
  Claims.ConversionsRoundOnce ∧ Claims.PacksAndClasses

/-- Rounding (05 R176, R177) to each format: toward zero takes the code below the value, and each other mode that code or the next as its
rule says, a tie to the even code. The 16 generator bits g decide under SR. -/
def Obligations.RoundingIsNearest : Prop :=
  ∀ f ∈ [fFP32, fFP16, fBF16, fE4M3, fE5M2, fE3M2, fE2M3, fE2M1, fPOW2, fHYB], ∀ (neg : Bool) (g n d : Nat), 0 < n → 0 < d →
    let val (c : Nat) : ℚ := ((magVal f c).1 : ℚ) / (magVal f c).2
    let x : ℚ := (n : ℚ) / d
    let c := (roundMag f .rtz neg g n d).1
    let t := (x - val c) / (val (c + 1) - val c)
    let takes (m : Rnd) (up : Prop) : Prop := (up → roundMag f m neg g n d = (c + 1, true)) ∧ (¬ up → roundMag f m neg g n d = (c, true))
    val c ≤ x ∧ x < val (c + 1) ∧
    (x = val c → ∀ m, roundMag f m neg g n d = (c, false)) ∧
    (x ≠ val c → takes .rtz False ∧ takes .rne (1 / 2 < t ∨ t = 1 / 2 ∧ c % 2 = 1) ∧ takes .rdn (neg = true) ∧ takes .rup (neg = false) ∧
      takes .sr (2 ^ 16 ≤ ⌊t * 2 ^ 16⌋ + g))

/-- A vector instruction of those named here that names registers outside the gang's blocks raises the register-block trap of one of them, before it
has any other effect (03 R115, 09 R276, 18 R474); a register number above 255, which a window can reach, is named modulo 256 (DEDUCED:
log 31). -/
def Obligations.RegistersOutsideTheBlocksTrap : Prop :=
  ∀ (s : State) (d a b : Reg) (r : Route) (x : Bool) (o : VRedlOp) (m : CmpOp) (k : BitVec 3), Delivers s →
    let traps (rs : List Reg) (i : Instr) : Prop := (∃ q ∈ rs, held s.g (vnum s.g q) = false) →
      Runs i s (fun t => ∃ q ∈ rs, held s.g (vnum s.g q) = false ∧ Entered 0x03 0 (BitVec.ofNat 64 (vnum s.g q % 256)) (pcOf s) s t)
    (∀ i ∈ [.vadd d a b r, .vsub d a b r, .vmul d a b r, .vand d a b r, .vor d a b r, .vxor d a b r, .fadd d a b r, .fsub d a b r,
      .fmul d a b r, .ffma d a b r, .hadd2 d a b r, .hmul2 d a b r, .hfma2 d a b r, .fdot2 d a b r],
      traps (if r = .scalar then [d, a] else [d, a, b]) i) ∧
    traps [d] (.vmov (.s d a)) ∧ traps [d] (.frng d x) ∧ traps [d, a] (.fclass d a .fp32) ∧ traps [a] (.vvote d a .any) ∧
    traps [a] (.vredl d a o) ∧ traps (if x then [a] else [a, b]) (.vcmp k a b x m)

namespace Sys2Proof.Claims

open Sys2Proof.Machine

/-- Every byte of the accesses of a list maps, with the permissions `need` (R33), and no access runs over the end of a local window (01
R27). -/
def Maps (s : State) (need : BitVec 4) (n : Nat) (as : List (Nat × Word)) : Prop :=
  ∀ p ∈ as, ∀ i < n, (∃ h, gangByte s s.g (p.2 + BitVec.ofNat 64 i) = .ok h ∧ h.perm &&& need = need) ∧
    windowOf (p.2 + BitVec.ofNat 64 i) = windowOf p.2
/-- The accesses of a register block map (12 R370): in lane-major order the `n` words of a lane are one access. -/
def MapsBlock (s : State) (need : BitVec 4) (a b : Reg) (n : Nat) : Prop :=
  if b = 0 then Maps s need 4 ((blockWords s.g a b n).map (fun p => (p.1, p.2.2)))
  else Maps s need (4 * n) (laneAddrs s.g (blockAddr s.g a b 0))
/-- No byte of an access has an uncorrectable error (21 R526), and no update-only line covers one (04 R147). -/
def Clean (s : State) (n : Nat) (as : List (Nat × Word)) : Prop :=
  ∀ p ∈ as, ∀ i < n, ∀ h, gangByte s s.g (p.2 + BitVec.ofNat 64 i) = .ok h →
    poisoned s h.loc = false ∧ ∀ r ∈ s.lines, lineCovers r h.loc = false
/-- Every byte of the accesses of a list can be read: it maps with R and is clean. -/
def Readable (s : State) (n : Nat) (as : List (Nat × Word)) : Prop := Maps s permR n as ∧ Clean s n as
/-- Byte `i` of one access is its first that fails, with cause `c` (01 R27, 04 R159): it does not map, it lacks a permission of `need`, or it lies
behind the end of the access's local window. -/
def FailsAt (s : State) (need : BitVec 4) (a : Word) (i c : Nat) : Prop :=
  let b := a + BitVec.ofNat 64 i
  (∀ j < i, (∃ h, gangByte s s.g (a + BitVec.ofNat 64 j) = .ok h ∧ h.perm &&& need = need) ∧
    windowOf (a + BitVec.ofNat 64 j) = windowOf a) ∧
  (windowOf b ≠ windowOf a ∧ c = 0x11 ∨
    windowOf b = windowOf a ∧ (gangByte s s.g b = .error c ∨ ∃ h, gangByte s s.g b = .ok h ∧ h.perm &&& need ≠ need ∧ c = 0x13))
/-- Of the accesses of a list, in lane order, that of lane `l` is the first with a byte that fails, the first of them at `x`, with cause `c` (04
R159). -/
def FirstFails (s : State) (need : BitVec 4) (n : Nat) (as : List (Nat × Word)) (l : Nat) (x : Word) (c : Nat) : Prop :=
  ∃ pre a post i, as = pre ++ (l, a) :: post ∧ Maps s need n pre ∧ i < n ∧ x = a + BitVec.ofNat 64 i ∧ FailsAt s need a i c
/-- The same of the accesses of a register block (12 R370). -/
def BlockFails (s : State) (need : BitVec 4) (a b : Reg) (n l : Nat) (x : Word) (c : Nat) : Prop :=
  if b = 0 then FirstFails s need 4 ((blockWords s.g a b n).map (fun p => (p.1, p.2.2))) l x c
  else FirstFails s need (4 * n) (laneAddrs s.g (blockAddr s.g a b 0)) l x c
/-- The same of an atomic (12 R388): the address check of a lane, then its alignment, then space 0xF (04 R145). -/
def AtomFails (s : State) (n align : Nat) (as : List (Nat × Word)) (l : Nat) (x : Word) (c : Nat) : Prop :=
  let rwa : BitVec 4 := permR ||| permW ||| permA
  let bad (a : Word) : Prop := a.toNat % align ≠ 0
  ∃ pre a post, as = pre ++ (l, a) :: post ∧ Maps s rwa n pre ∧ (∀ p ∈ pre, ¬ bad p.2) ∧
    (a.toNat / 2 ^ 60 = 15 ∧ x = a ∧ (bad a ∧ c = 0x15 ∨ ¬ bad a ∧ c = 0x14) ∨
      a.toNat / 2 ^ 60 ≠ 15 ∧ FirstFails s rwa n [(l, a)] l x c ∨ Maps s rwa n [(l, a)] ∧ bad a ∧ x = a ∧ c = 0x15)
/-- Of the accesses of a list, in lane order, that of lane `l` is the first with an uncorrectable error, the first of them at `x` (18 R474). -/
def FirstError (s : State) (n : Nat) (as : List (Nat × Word)) (l : Nat) (x : Word) : Prop :=
  let bad (a : Word) (b : Bool) : Prop := ∃ h, gangByte s s.g a = .ok h ∧ poisoned s h.loc = b
  ∃ pre a post i, as = pre ++ (l, a) :: post ∧ (∀ p ∈ pre, ∀ j < n, bad (p.2 + BitVec.ofNat 64 j) false) ∧ i < n ∧
    (∀ j < i, bad (a + BitVec.ofNat 64 j) false) ∧ x = a + BitVec.ofNat 64 i ∧ bad x true
/-- The number `v` is the little-endian value of `n` bytes at an address, as the issuing gang sees them (01 R26, 04 R130). -/
def Seen (s : State) (n : Nat) (a : Word) (v : Nat) : Prop :=
  v < 256 ^ n ∧ ∀ i < n, ∀ h, gangByte s s.g (a + BitVec.ofNat 64 i) = .ok h → v / 256 ^ i % 256 = (viewByte s s.g h.loc h.key).toNat
/-- The state after a load whose results come with the reply: its flag counts up, the gang's view holds the locations `ls`, the path goes
on (03 R102, R103, 04 R132). `far` is what it asks of other packages (19 R511), and `aw` whether it leaves its core (18 R495). -/
def Loads (i : Instr) (s : State) (ws : List RegWrite) : Prop :=
  ∃ ls far aw, exec i s = .next (next (addPend ws 0 [] { s with g := markSeen ls s.g } far aw))
/-- A load completes its issue (03 R102, R103): the path stands at the next word and every other path as before, one result is pending on the
clause's flag, which counts up, and no register has changed. -/
def Completes (i : Instr) (s : State) : Prop :=
  Runs i s (fun t => t.g.paths = s.g.paths.set s.g.act { path s.g with pc := pcOf s + 4 } ∧
    (∃ p, t.g.pend = s.g.pend ++ [p] ∧ p.id = s.nextId ∧ p.flag = s.iss.flag ∧ p.left = 0) ∧
    (∀ f < 12, flagCount t.g f = if f = s.iss.flag then flagCount s.g f + 1 else flagCount s.g f) ∧
    t.g.s = s.g.s ∧ t.g.v = s.g.v ∧ t.g.k = s.g.k ∧ t.g.inh = s.g.inh ∧ t.g.phase = s.g.phase)
/-- A store request writes, for each location that some access covers, the byte of the highest lane that covers it, and no other location
(04 R127, R129): `v` gives each lane's value. Its other bytes are tested alone (18 R479). -/
def Stores (s : State) (n : Nat) (as : List (Nat × Word)) (v : Nat → Nat) (r : StoreReq) : Prop :=
  (∀ b ∈ r.bytes, ∃ p ∈ as, ∃ i < n, ∃ h, gangByte s s.g (p.2 + BitVec.ofNat 64 i) = .ok h ∧ b.loc = h.loc) ∧
  ∀ p ∈ as, ∀ i < n, ∀ h, gangByte s s.g (p.2 + BitVec.ofNat 64 i) = .ok h →
    (∀ q ∈ as, ∀ j < n, ∀ k, p.1 < q.1 ∨ p.1 = q.1 ∧ i < j → gangByte s s.g (q.2 + BitVec.ofNat 64 j) = .ok k → k.loc ≠ h.loc) →
    ∃ b ∈ r.bytes, b.last = true ∧ b.loc = h.loc ∧ b.val.toNat = v p.1 / 256 ^ i % 256 ∧ b.key = h.key ∧ (b.w = true ↔ h.perm &&& permW ≠ 0)
/-- The store is sent on its way, and nothing else changes but the path's address: its homes are written later (04 R127, R131). -/
def Sends (i : Instr) (s : State) (P : StoreReq → Prop) : Prop :=
  ∃ r, exec i s = .next (next { s with nextId := s.nextId + 1, stores := s.stores ++ [r] }) ∧ r.id = s.nextId ∧ r.uid = s.g.uid ∧
    (r.bytes.filter (·.last)).Pairwise (fun a b => a.loc ≠ b.loc) ∧ P r

end Sys2Proof.Claims

/-! Group 4: loads and stores (12 R357 to R373, 04 R127 to R150). -/

/-- Loads of every form (12 R357 to R360, R364 to R370): each active lane, and a scalar load's one register, gets the bytes at its address as
the gang sees them, low byte first and zero-extended; the registers are written with the reply. -/
def Sys2Proof.Claims.LoadsReadWhatTheGangSees : Prop :=
  ∀ (s : State) (d a b : Reg) (f : AddrForm) (z : Size) (o : BitVec 9) (col sk : Bool) (n : BitVec 4), let g := s.g
    let size := sizeBytes z
    (Holds g ([(d, sizeRegs z)] ++ addrRegs f) → Readable s size (laneAddrs g (laneAddr g a f size)) → ∃ v : Nat → Nat,
      Loads (.ld d a f z) s ((List.range (sizeRegs z)).map (fun i =>
        .v (vnum g d i) (execMask g) (mkLanes (fun l => BitVec.ofNat 32 (v l / 2 ^ (32 * i)))))) ∧
      ∀ l, Active s l → Seen s size (laneAddr g a f size l) (v l)) ∧
    (Readable s size [(0, offAddr g a o size)] → ∃ v,
      Loads (.lds d a o z) s [.s d.toNat (BitVec.ofNat 64 v)] ∧ Seen s size (offAddr g a o size) v) ∧
    (Holds g [(d, 1)] → tileTrap s (sreg g a) = none → Readable s 4 (tileAddrs g a b col sk) → ∃ v : Nat → Nat,
      Loads (.ldsp d a b col sk) s [.v (vnum g d) (execMask g) (mkLanes (fun l => BitVec.ofNat 32 (v l)))] ∧
      ∀ p ∈ tileAddrs g a b col sk, Seen s 4 p.2 (v p.1)) ∧
    (Holds g [(d, n.toNat + 1)] → MapsBlock s permR a b (n.toNat + 1) →
      Clean s 4 ((blockWords g a b (n.toNat + 1)).map (fun p => (p.1, p.2.2))) → ∃ v : Nat → Nat → Nat,
      Loads (.ldb d a b n) s ((List.range (n.toNat + 1)).map (fun i =>
        .v (vnum g d i) (execMask g) (mkLanes (fun l => BitVec.ofNat 32 (v i l))))) ∧
      ∀ i ≤ n.toNat, ∀ l, Active s l → Seen s 4 (blockAddr g a b i l) (v i l))

/-- `ldc` reads through the constant path (04 R149, 12 R364): the bytes of each 4-byte element are those of one moment of their
modification orders (04 R128), none before the writes last fetched for the element or fixed by a `pfence`, and nothing but the path's own record
changes besides. That what was last fetched is kept once for the whole cluster is the model's choice (DESIGN CHOICE: log 14). A 64-bit `lds` or
`ldc` of the identification page reads its word (01 R25, 17 R465). -/
def Sys2Proof.Claims.ConstantAndIdentificationLoads : Prop :=
  ∀ (s : State) (d a : Reg) (o : BitVec 9) (z : Size), let g := s.g
    let x := offAddr g a o (sizeBytes z)
    (Readable s (sizeBytes z) [(0, x)] → ∃ u v far aw,
      exec (.ldc d a o z) s = .next (next (addPend [.s d.toNat (BitVec.ofNat 64 v)] 0 [] u far aw)) ∧
      u = { s with fetched := u.fetched, picks := s.picks.drop 1 } ∧ v < 256 ^ sizeBytes z ∧
      ∃ q : Nat → Nat, ∀ i < sizeBytes z, ∀ h, gangByte s g (x + BitVec.ofNat 64 i) = .ok h →
        min (topOf s h.loc) (max (fetchedPos s (unitOf 2 g.at_) 1 h.loc) (cget 0 g.fenced (h.loc * 4 + 1))) ≤ q (h.loc / 4) ∧
          v / 256 ^ i % 256 = (decrypt h.loc h.key (writeAt s h.loc (lastUpTo s h.loc (q (h.loc / 4))))).toNat) ∧
    (idAddr (offAddr g a o 8) = true → ∀ i ∈ [Instr.lds d a o .d, .ldc d a o .d],
      Loads i s [.s d.toNat (idWord s g ((offAddr g a o 8).toNat % 2 ^ 60))]) ∧
    (offAddr g a o 8 = 0xF000000000000000 → Loads (.lds d a o .d) s [.s d.toNat 0x554D414B0001])

/-- Every load whose lanes' bytes all map with R completes its issue, and so does a 64-bit one of the identification page (12 R360, R364, R366
to R370, 01 R25, R27, R33): whatever update-only lines cover its bytes, whatever errors they have. -/
def Sys2Proof.Claims.LoadsComplete : Prop :=
  ∀ (s : State) (d a b : Reg) (f : AddrForm) (z : Size) (o : BitVec 9) (col sk : Bool) (n : BitVec 4), let g := s.g
    let size := sizeBytes z
    let lanes := laneAddrs g (laneAddr g a f size)
    (Holds g ([(d, sizeRegs z)] ++ addrRegs f) → Maps s permR size lanes → Completes (.ld d a f z) s) ∧
    (Holds g ([(d, 2)] ++ addrRegs f) → (laneAddrs g (laneAddr g a f 8)) ≠ [] →
      (∀ p ∈ laneAddrs g (laneAddr g a f 8), idAddr p.2 = true) → Completes (.ld d a f .d) s) ∧
    (Maps s permR size [(0, offAddr g a o size)] → Completes (.lds d a o z) s ∧ Completes (.ldc d a o z) s) ∧
    (idAddr (offAddr g a o 8) = true → Completes (.lds d a o .d) s ∧ Completes (.ldc d a o .d) s) ∧
    (Holds g [(d, 1)] → tileTrap s (sreg g a) = none → Maps s permR 4 (tileAddrs g a b col sk) → Completes (.ldsp d a b col sk) s) ∧
    (Holds g [(d, n.toNat + 1)] → MapsBlock s permR a b (n.toNat + 1) → Completes (.ldb d a b n) s)

/-- Loads of every form, what they read and where they complete, and the constant and identification loads (the statements above named
here). -/
def Obligations.LoadsReadWhatTheGangSees : Prop :=
  Claims.LoadsReadWhatTheGangSees ∧ Claims.LoadsComplete ∧ Claims.ConstantAndIdentificationLoads

/-- Stores of every form (12 R361 to R370, 04 R127, R129): the bytes of the active lanes' values, low byte first, are on their way to the
addresses that the form gives, where the core's store-fault queue has room. -/
def Sys2Proof.Claims.StoresSendTheirBytes : Prop :=
  ∀ (s : State) (d a b : Reg) (f : AddrForm) (z : Size) (o : BitVec 9) (col sk : Bool) (n : BitVec 4), let g := s.g
    let size := sizeBytes z
    let need : BitVec 4 := if g.prec then permW else 0
    faultsFull s g = false →
    (Holds g ([(d, sizeRegs z)] ++ addrRegs f) → Maps s need size (laneAddrs g (laneAddr g a f size)) →
      Sends (.st d a f z) s (Stores s size (laneAddrs g (laneAddr g a f size)) (fun l =>
        (lane (vreg g d) l).toNat + if z = .d then (lane (vreg g d 1) l).toNat * 2 ^ 32 else 0))) ∧
    (Maps s need size [(0, offAddr g a o size)] →
      Sends (.sts d a o z) s (Stores s size [(0, offAddr g a o size)] (fun _ => (sreg g d).toNat))) ∧
    (Holds g [(d, 1)] → tileTrap s (sreg g a) = none → Maps s need 4 (tileAddrs g a b col sk) →
      Sends (.stsp d a b col sk) s (Stores s 4 (tileAddrs g a b col sk) (fun l => (lane (vreg g d) l).toNat))) ∧
    (Holds g [(d, n.toNat + 1)] → MapsBlock s need a b (n.toNat + 1) →
      Sends (.stb d a b n) s (fun r =>
        (∀ c ∈ r.bytes, ∃ p ∈ blockWords g a b (n.toNat + 1), ∃ i < 4, ∃ h, gangByte s g (p.2.2 + BitVec.ofNat 64 i) = .ok h ∧ c.loc = h.loc) ∧
        ∀ w ∈ blockWords g a b (n.toNat + 1), ∀ i < 4, ∀ h, gangByte s g (w.2.2 + BitVec.ofNat 64 i) = .ok h →
          (∀ q ∈ blockWords g a b (n.toNat + 1), ∀ j < 4, ∀ k, w.1 < q.1 ∨ w.1 = q.1 ∧ (w.2.1 < q.2.1 ∨ w.2.1 = q.2.1 ∧ i < j) →
            gangByte s g (q.2.2 + BitVec.ofNat 64 j) = .ok k → k.loc ≠ h.loc) →
          ∃ c ∈ r.bytes, c.last = true ∧ c.loc = h.loc ∧ c.val.toNat = (lane (vreg g d w.2.1) w.1).toNat / 256 ^ i % 256))

/-- A gang sees its own store at once, before any home holds it (04 R131): the bytes of an `sts` read back, and every other location
reads as before. -/
def Sys2Proof.Claims.OwnStoresAreReadBack : Prop :=
  ∀ (s : State) (d a : Reg) (o : BitVec 9) (z : Size), let n := sizeBytes z; let x := offAddr s.g a o n
    faultsFull s s.g = false → Maps s permW n [(0, x)] →
    Runs (.sts d a o z) s (fun t =>
      (∀ i < n, ∀ h, gangByte s s.g (x + BitVec.ofNat 64 i) = .ok h →
        (∀ j < n, ∀ k, i < j → gangByte s s.g (x + BitVec.ofNat 64 j) = .ok k → k.loc ≠ h.loc) →
        (viewByte t t.g h.loc h.key).toNat = (sreg s.g d).toNat / 256 ^ i % 256) ∧
      (∀ l k, (∀ i < n, ∀ h, gangByte s s.g (x + BitVec.ofNat 64 i) = .ok h → h.loc ≠ l) → viewByte t t.g l k = viewByte s s.g l k) ∧
      t.mem = s.mem ∧ t.g.s = s.g.s ∧ t.g.v = s.g.v ∧ t.g.flags = s.g.flags)

/-- Stores send their bytes, and a gang reads its own back at once (the statements above named here). -/
def Obligations.StoresSendTheirBytes : Prop := Claims.StoresSendTheirBytes ∧ Claims.OwnStoresAreReadBack

/-- An access of any form traps at the access for the lowest lane that has a byte that fails, at the first of its bytes (01 R27, R33, 04 R145, R159,
12 R366 to R370, R388, 18 R474), with the lane in `%xinfo` and no effect. A store tests W here only when it is precise (12 R362). A scratchpad tile
traps for its base (12 R368); that space 0xF raises the device-space fault there too, and that an access which runs over the end of a local window
always raises the local-bound fault, is the model's choice (log 31). -/
def Sys2Proof.Claims.BadAccessesTrap : Prop :=
  ∀ (s : State) (d a b : Reg) (f : AddrForm) (z : Size) (o : BitVec 9) (col sk : Bool) (n : BitVec 4) (l c : Nat) (x : Word), Delivers s →
    let g := s.g
    let size := sizeBytes z
    let lanes := laneAddrs g (laneAddr g a f size)
    let one := [(0, offAddr g a o size)]
    let need : BitVec 4 := if g.prec then permW else 0
    let traps (i : Instr) : Prop := Runs i s (Entered c x (BitVec.ofNat 64 l) (pcOf s) s)
    let word : Prop := ∃ p ∈ lanes, idAddr p.2 = false
    (Holds g ([(d, sizeRegs z)] ++ addrRegs f) →
      ((z = .d → word) → FirstFails s permR size lanes l x c → traps (.ld d a f z)) ∧
      (FirstFails s need size lanes l x c → traps (.st d a f z))) ∧
    ((z = .d → idAddr (offAddr g a o size) = false) → FirstFails s permR size one l x c → traps (.lds d a o z) ∧ traps (.ldc d a o z)) ∧
    (FirstFails s need size one l x c → traps (.sts d a o z)) ∧
    (Holds g [(d, 1)] → tileTrap s (sreg g a) = none →
      (FirstFails s permR 4 (tileAddrs g a b col sk) l x c → traps (.ldsp d a b col sk)) ∧
      (FirstFails s need 4 (tileAddrs g a b col sk) l x c → traps (.stsp d a b col sk))) ∧
    (Holds g [(d, 1)] → let y := (sreg g a).toNat; let w := (scratchOf s g).2.1; let at_ := y % 2 ^ 60
      ∀ k e, (y / 2 ^ 60 = 15 ∧ k = 0x14 ∧ e = sreg g a ∨
          y / 2 ^ 60 ≠ 15 ∧ (y / 2 ^ 60 ≠ 1 ∨ 2 ^ 18 ≤ at_ ∨ at_ % 128 ≠ 0) ∧ k = 0x10 ∧ e = sreg g a ∨
          y / 2 ^ 60 = 1 ∧ at_ < 2 ^ 18 ∧ at_ % 128 = 0 ∧ w < at_ + 4096 ∧ k = 0x11 ∧ e = sreg g a + BitVec.ofNat 64 (w - at_)) →
        Runs (.ldsp d a b col sk) s (Entered k e 0 (pcOf s) s) ∧ Runs (.stsp d a b col sk) s (Entered k e 0 (pcOf s) s)) ∧
    (Holds g [(d, n.toNat + 1)] →
      (BlockFails s permR a b (n.toNat + 1) l x c → traps (.ldb d a b n)) ∧
      (BlockFails s need a b (n.toNat + 1) l x c → traps (.stb d a b n)))

/-- The same of the atomics and of `red` (12 R388, 04 R145). -/
def Sys2Proof.Claims.BadAtomicsTrap : Prop :=
  ∀ (s : State) (d a b : Reg) (o : AtomOp) (p : Atom64Op) (q : RedOp) (l c : Nat) (x : Word), Delivers s →
    let g := s.g
    let as := atomAddrs g a b
    let traps (regs n align : Nat) (i : Instr) : Prop := Holds g [(d, regs), (b, 1)] → AtomFails s n align as l x c →
      Runs i s (Entered c x (BitVec.ofNat 64 l) (pcOf s) s)
    traps 1 4 4 (.atom d a b o) ∧ traps 2 8 8 (.atom64 d a b p) ∧ traps 2 4 4 (.casW d a b) ∧ traps 4 8 8 (.casD d a b) ∧
    traps 4 32 32 (.chunk d a b) ∧ traps (redSize q / 4) (redSize q) (redSize q) (.red d a b q)

/-- An uncorrectable error leaves the destination of a load, and a memory-error of the lowest lane that has one follows the reply (03 R103, 18
R474, 21 R526). -/
def Sys2Proof.Claims.BadLoadsReport : Prop :=
  ∀ (s : State) (d a b : Reg) (f : AddrForm) (z : Size) (o : BitVec 9) (col sk : Bool) (n : BitVec 4) (l : Nat) (x : Word), s.lines = [] →
    let g := s.g
    let size := sizeBytes z
    let lanes := laneAddrs g (laneAddr g a f size)
    let block := (blockWords g a b (n.toNat + 1)).map (fun p => (p.1, p.2.2))
    let fails (i : Instr) : Prop := ∃ ls far aw,
      exec i s = .next (next (addPend [] 0 [⟨0x17, x, BitVec.ofNat 64 l, false, false⟩] { s with g := markSeen ls s.g } far aw))
    (Holds g ([(d, sizeRegs z)] ++ addrRegs f) → Maps s permR size lanes → FirstError s size lanes l x → fails (.ld d a f z)) ∧
    (Maps s permR size [(0, offAddr g a o size)] → FirstError s size [(0, offAddr g a o size)] l x → fails (.lds d a o z)) ∧
    (Holds g [(d, 1)] → tileTrap s (sreg g a) = none → Maps s permR 4 (tileAddrs g a b col sk) →
      FirstError s 4 (tileAddrs g a b col sk) l x → fails (.ldsp d a b col sk)) ∧
    (Holds g [(d, n.toNat + 1)] → MapsBlock s permR a b (n.toNat + 1) → FirstError s 4 block l x → fails (.ldb d a b n))

/-- Bad accesses trap for their lowest lane, atomics too, and errors are reported (the statements above named here). -/
def Obligations.BadAccessesTrap : Prop := Claims.BadAccessesTrap ∧ Claims.BadAtomicsTrap ∧ Claims.BadLoadsReport

/-- LOAD_REPLY writes a pending result whose path from other packages lets it pass, and lowers its flag (03 R103, 19 R507). Its trap waits, but
for a gang that has stopped for a Save, which records the first alone (18 R495). -/
def Obligations.RepliesWriteTheirRegisters : Prop :=
  ∀ (s : State) (c : Coords) (g : Gang) (p : Pend), gangAt s c = some g →
    g.pend.find? (fun q => q.id = p.id && q.left = 0 && q.far.all (fun f => flows s g.at_.pkg f.2.2)) = some p →
    Runs (.loadReply c p.id) s (fun t => t.mem = s.mem ∧ t.stores = s.stores ∧ ∃ h, gangAt t c = some h ∧
      h.s = (p.ws.foldl applyW g).s ∧ h.v = (p.ws.foldl applyW g).v ∧ h.k = (p.ws.foldl applyW g).k ∧
      h.pend = g.pend.filter (fun q => q.id ≠ p.id) ∧ h.deferred = (if g.stopping = true ∧ g.deferred ≠ [] then g.deferred
        else g.deferred ++ p.trap.map (fun d => { d with inh := p.inh })) ∧
      (∀ f < 12, flagCount h f = if f = p.flag then flagCount g f - 1 else flagCount g f) ∧ h.paths = g.paths)

/-- STORE_AT_HOME and POSTED_PERMISSION_TEST (04 R127, 12 R362, 18 R479): a store that may go next and has its path, as a whole where a pick does
not say one part (04 R161), writes each of its bytes that its mapping lets it write, as one later write of that location, and every other byte of
memory stays; bytes without W are not written, and leave one record in the store-fault queue. A part with an uncorrectable error writes nothing,
and the store's record names its lowest lane that has one. What a part is, is DEDUCED (log 32), and where a record waits that arrives at a full
queue is the model's choice (DESIGN CHOICE: log 49). -/
def Sys2Proof.Claims.StoresReachTheirHomes : Prop :=
  ∀ (s : State) (r : StoreReq), s.stores.find? (fun q => q.id = r.id) = some r →
    Memory.wf s.mem → CellsWf none s.keys → CellsWf 0 s.top →
    (storeFirst s r = true → storeFlows s r r.bytes = true → (Sys2Proof.Machine.pick s).1 = 0 →
      (r.bytes.filter (·.last)).Pairwise (fun a b => a.loc ≠ b.loc) → (∀ b ∈ r.bytes, poisoned s b.loc = false) → r.err = none →
      Runs (.storeAtHome r.id) s (fun t =>
        (∀ b ∈ r.bytes, b.w = true → b.last = true → memByte t b.loc = b.val ∧ memKey t b.loc = b.key ∧ s.wseq < topOf t b.loc) ∧
        (∀ l, (∀ b ∈ r.bytes, b.w = true → b.last = true → b.loc ≠ l) →
          memByte t l = memByte s l ∧ memKey t l = memKey s l ∧ topOf t l = topOf s l) ∧
        t.stores = s.stores.filter (fun q => q.id ≠ r.id) ∧
        t.faults.length = s.faults.length + if r.tested = false ∧ r.faulted = false ∧ ∃ b ∈ r.bytes, b.w = false then 1 else 0)) ∧
    (storeFirst s r = true → storeFlows s r r.bytes = true → (Sys2Proof.Machine.pick s).1 = 0 → r.tested = true → r.faulted = false →
      r.err = none → (r.bytes.filter (·.last)).Pairwise (fun a b => a.loc ≠ b.loc) →
      ∀ b ∈ r.bytes, poisoned s b.loc = true → b.w = true → Runs (.storeAtHome r.id) s (fun t =>
        (∀ c ∈ r.bytes, samePart c b = true → c.last = true → memByte t c.loc = memByte s c.loc) ∧
        ∃ e ∈ r.bytes, ∃ f, poisoned s e.loc = true ∧ e.w = true ∧ (∀ c ∈ r.bytes, poisoned s c.loc = true → c.w = true → e.lane ≤ c.lane) ∧
          t.faults = s.faults ++ [f] ∧ f.cause = 0x17 ∧ f.uid = r.uid ∧ f.core = unitOf 1 r.at_ ∧ f.addr = e.va ∧
          f.info = BitVec.ofNat 64 (e.lane + 32))) ∧
    (∀ n b, storeFirst s r = true → (Sys2Proof.Machine.pick s).1 = n + 1 → r.bytes[n % r.bytes.length]? = some b →
      Runs (.storeAtHome r.id) s (fun t =>
        (∀ l, (∀ c ∈ r.bytes, samePart b c = true → c.loc ≠ l) → memByte t l = memByte s l) ∧
        (storeFlows s r [b] = true → (∀ c ∈ r.bytes, poisoned s c.loc = false) → (r.bytes.filter (·.last)).Pairwise (fun a b => a.loc ≠ b.loc) →
          ∀ c ∈ r.bytes, samePart b c = true → c.w = true → c.last = true → memByte t c.loc = c.val ∧ memKey t c.loc = c.key))) ∧
    (r.tested = false → Runs (.postedPermissionTest r.id) s (fun t => t.mem = s.mem ∧ t.g = s.g ∧
      (∃ q ∈ t.stores, q.id = r.id ∧ q.tested = true ∧ q.bytes = r.bytes) ∧
      ((∀ b ∈ r.bytes, b.w = true) ∨ r.faulted = true → t.faults = s.faults) ∧
      ((∃ b ∈ r.bytes, b.w = false) → r.faulted = false → ∃ f, t.faults = s.faults ++ [f] ∧ f.cause = 0x13 ∧ f.uid = r.uid ∧ f.core = unitOf 1 r.at_)))

/-- A store-fault record is delivered at the gang's boundary (18 R480, R481): the handler is entered with the record's cause and address at
the body word that would issue next, and the record leaves the queue. -/
def Sys2Proof.Claims.StoreFaultsAreDelivered : Prop :=
  ∀ (s : State) (c : Coords) (g : Gang) (f : StoreFault), gangAt s c = some g → g.phase = .running → g.stopping = false →
    dueFault s g = some f → let u := focus c s
    Delivers u → Runs (.storeFaultDelivery c) s (fun t => Entered f.cause f.addr f.info (bodyPc u u.g) u t ∧ t.faults = s.faults.erase f)

/-- Stores reach their homes, and store faults are delivered (the statements above named here). -/
def Obligations.StoresReachTheirHomes : Prop :=
  Claims.StoresReachTheirHomes ∧ Claims.StoreFaultsAreDelivered

/-- `pref` only goes on (12 R371); `drain` leaves no store of the gang on its way (12 R373); `pfence` fixes the gang's view on the paths that
it names, a merged atomic of it as its group's one write (08 R247), and, with bit 2, invalidates the cluster's latched weights (12 R372, 04
R150). -/
def Sys2Proof.Claims.FencesAndPrefetches : Prop :=
  ∀ (s : State) (a : Reg) (f : AddrForm) (m : BitVec 4),
    (Holds s.g (addrRegs f) → exec (.pref a f) s = .next (done [] s)) ∧
    (s.faults = [] → (∀ r ∈ s.stores, r.err = none ∧ ∀ b ∈ r.bytes, b.w = true ∧ poisoned s b.loc = false ∧
        hasPath s r.at_.pkg (locPkg b.loc) = true) →
      Runs .drain s (fun t => (∀ r ∈ t.stores, r.uid ≠ s.g.uid) ∧ pcOf t = pcOf s + 4 ∧ t.g.s = s.g.s)) ∧
    (m.getLsbD 0 = false → Runs (.pfence m) s (fun t => t.mem = s.mem ∧ t.stores = s.stores ∧ t.g.view = s.g.view ∧ pcOf t = pcOf s + 4 ∧
      (∀ l p, l ∈ s.g.view.map (·.1) → 1 ≤ p → p ≤ 3 → m.getLsbD p = true →
        cget 0 (covered s s.g.view) l ≤ cget 0 t.g.fenced (l * 4 + p)) ∧
      (m.getLsbD 2 = true → ∀ q ∈ t.latches, q.at_ = unitOf 2 s.g.at_ → q.valid = false) ∧
      (m.getLsbD 2 = false → t.latches = s.latches)))

namespace Sys2Proof.Claims

open Sys2Proof.Machine

/-- The location of the first byte at an address of the issuing gang. -/
def LocOf (s : State) (a : Word) (l : Nat) : Prop := ∃ h, gangByte s s.g a = .ok h ∧ h.loc = l
/-- No update-only line covers a byte of an access at the home (04 R147). -/
def NoLines (s : State) (l n : Nat) : Prop := ∀ r ∈ s.lines, ∀ i < n, lineCovers r (l + i) = false
/-- An atomic completes its issue (08 R242, 12 R383): its flag counts up, one reply for each active lane is to come, no memory
changes, every lane's location has a request of the instruction's operation, and with distinct locations there is one request for each lane,
in lane order. `as` are the lanes' addresses. -/
def Requests (i : Instr) (s : State) (d : Reg) (size : Nat) (op : Nat → HomeOp) (x : Nat → Word) (as : List (Nat × Word)) : Prop :=
  ∃ t, exec i s = .next t ∧ t.g = (next (addPend [] as.length [] s [] true)).g ∧ t.mem = s.mem ∧ t.stores = s.stores ∧
    (∀ p ∈ as, ∃ q ∈ t.atoms, LocOf s p.2 q.loc ∧ q.op = op p.1 ∧ q.size = size) ∧
    (as.Pairwise (fun p q => ∀ l, LocOf s p.2 l → ¬ LocOf s q.2 l) → ∃ rs, t.atoms = s.atoms ++ rs ∧ rs.length = as.length ∧
      ∀ e ∈ rs.zip as, LocOf s e.2.2 e.1.loc ∧ (e.1.lane, e.1.op, e.1.x, e.1.size, e.1.uid, e.1.pend, e.1.dst, e.1.va, e.1.count) =
        (e.2.1, op e.2.1, x e.2.1, size, s.g.uid, s.nextId, vnum s.g d, e.2.2, 1))
/-- The effect of an accepted queue operation (08 R257 to R260): the wait is over, the path goes on, and the unit's counts move. `now` says that
its path issues it in this step; else it counts as the gang's instruction of this cycle (03 R105). -/
def Accepted (now : Bool) (w : QWait) (u : QUnit) (s t : State) : Prop :=
  let o := w.op
  let m := min (opLanes o) (u.tail - u.head)
  (∀ x ∈ t.qwaits, ¬ (x.uid = w.uid ∧ x.path = w.path)) ∧
  (∀ g, gangOf s w.uid = some g → ∃ h, gangOf t w.uid = some h ∧ (entry h w.path).pc = (entry g w.path).pc + 4 ∧
    (if now then h.blocked = false ∧ h.s = g.s ∧ h.v = g.v
      else (w.path = g.act → h.blocked = false) ∧ h.s = (settle s.cycle g).s ∧ h.v = (settle s.cycle g).v ∧ h.lastIssue = s.cycle ∧
        h.icount = g.icount + 1 ∧ (w.yield = true → s.cycle + 2 ≤ h.notBefore)) ∧
    (o.kind ≠ 1 → o.kind ≠ 2 → h.pend = g.pend) ∧
    (o.kind = 1 ∨ o.kind = 2 → ∃ p, h.pend = g.pend ++ [p] ∧ p.flag = o.flag ∧ p.left = 0 ∧
      p.ws = popWrites o ((u.recs.take m).map (·.2)))) ∧
  ∃ v, t.units.find? (fun x => x.at_ = u.at_ && x.pile = u.pile) = some v ∧
    (o.kind = 0 → v.tail = u.tail + o.recs.length ∧ v.head = u.head ∧ v.closed = u.closed ∧
      (u.head + u.recs.length = u.tail → u.recs.length + o.recs.length ≤ 32 →
        v.recs = u.recs ++ (List.range' u.tail o.recs.length).zip o.recs)) ∧
    (o.kind = 1 ∨ o.kind = 2 → v.head = u.head + m ∧ v.tail = u.tail ∧ v.closed = u.closed) ∧
    (o.kind = 3 → v.head = u.head ∧ v.tail = u.tail ∧ v.closed = u.closed + 1 ∧ v.recs = u.recs)
/-- A descriptor names a bound woodpile, or one that the request binds (08 R255, R256); `v` is the state with it bound. -/
def Finds (s : State) (desc : Word) (u : QUnit) (v : State) : Prop :=
  ∃ hs b, spanHits (gangByte s s.g) (permR ||| permW ||| permA) 0 64 desc = .ok hs ∧ bindCheck s s.g desc hs = some b ∧
    (s.units.find? (fun u => u.at_ = b.at_ && u.pile = b.pile) = some u ∧ u.loc = b.loc ∧ u.job = b.job ∧ v = s ∨
     s.units.find? (fun u => u.at_ = b.at_ && u.pile = b.pile) = none ∧ sameUnit b.reach s.g.at_ b.at_ = true ∧
      u = refill 32 b s ∧ v = { s with units := s.units ++ [u] })

end Sys2Proof.Claims

/-! Groups 4 and 5: atomics and queues (12 R381 to R390, 08 R241 to R262). -/

/-- `atom`, `atom64`, `cas` and `chunk` send one request for each active lane (12 R381 to R388). -/
def Sys2Proof.Claims.AtomicsSendTheirRequests : Prop :=
  ∀ (s : State) (d a b : Reg) (o : AtomOp) (p : Atom64Op), let g := s.g
    let as := atomAddrs g a b
    let rwa : BitVec 4 := permR ||| permW ||| permA
    let lo (j l : Nat) : Word := (lane (vreg g d j) l).setWidth 64
    let pair (j l : Nat) : Word := lo j l + lo (j + 1) l <<< 32
    let ok (n size : Nat) : Prop := (∀ q ∈ s.atoms, q.id < s.nextId) ∧ Maps s rwa n as ∧ ∀ q ∈ as, q.2.toNat % size = 0
    (ok 4 4 → Holds g [(d, 1), (b, 1)] → Requests (.atom d a b o) s d 4 (fun _ => .atom o) (lo 0) as) ∧
    (ok 8 8 → Holds g [(d, 2), (b, 1)] → Requests (.atom64 d a b p) s d 8 (fun _ => .atom64 p) (pair 0) as) ∧
    (ok 4 4 → Holds g [(d, 2), (b, 1)] → Requests (.casW d a b) s d 4 (fun l => .cas (lo 0 l)) (lo 1) as) ∧
    (ok 8 8 → Holds g [(d, 4), (b, 1)] → Requests (.casD d a b) s d 8 (fun l => .cas (pair 0 l)) (pair 2) as) ∧
    (ok 32 32 → Holds g [(d, 4), (b, 1)] → Requests (.chunk d a b) s d 8 (fun _ => .chunk) (fun _ => 0) as)

/-- At its home a single request reads the old value and writes the operation's result over it in one step, no other byte changes, and its lane
gets the old value (04 R141, 12 R382 to R385). A `cas` that compares unequal writes nothing. -/
def Obligations.AtomicsAtTheirHomes : Prop :=
  ∀ (s : State) (r : AtomReq), s.atoms.find? (fun q => q.id = r.id) = some r → r.uid ≠ 0 → r.op ≠ .chunk → (r.size = 4 ∨ r.size = 8) →
    atHomeNow s r = true → atomPoisoned s r = false → NoLines s r.loc r.size → Memory.wf s.mem → CellsWf none s.keys →
    CellsWf (0, none) s.lineKeys → CellsWf 0 s.top → LinesOld s →
    let old := homeNatK s r.loc r.size r.key
    let new := fun t => homeNatK t r.loc r.size r.key
    let x := r.x.toNat
    Runs (.atomicAtHome r.id) s (fun t =>
      (∀ l, l < r.loc ∨ r.loc + r.size ≤ l → memByte t l = memByte s l) ∧ t.atoms = s.atoms.filter (fun q => q.id ≠ r.id) ∧
      (∀ g, gangOf s r.uid = some g → ∃ h fl, gangOf t r.uid = some h ∧ h.s = g.s ∧ h.v = g.v ∧
        h.pend = upd (fun p => p.id = r.pend) (fun p => { p with left := p.left - 1, ws := p.ws ++ replyWrites r (BitVec.ofNat 64 old) fl [] })
          g.pend ∧ (r.op ≠ .atom .fadd → fl = 0)) ∧
      (r.size = 4 →
        (r.op = .atom .add → new t = (old + x) % 2 ^ 32) ∧ (r.op = .atom .and → new t = old &&& x % 2 ^ 32) ∧
        (r.op = .atom .or → new t = old ||| x % 2 ^ 32) ∧ (r.op = .atom .xor → new t = old ^^^ x % 2 ^ 32) ∧
        (r.op = .atom .swap → new t = x % 2 ^ 32) ∧
        (r.op = .atom .minu → new t = min old (x % 2 ^ 32)) ∧ (r.op = .atom .maxu → new t = max old (x % 2 ^ 32)) ∧
        (r.op = .atom .min → (BitVec.ofNat 32 (new t)).toInt = min (BitVec.ofNat 32 old).toInt (BitVec.ofNat 32 x).toInt) ∧
        (r.op = .atom .max → (BitVec.ofNat 32 (new t)).toInt = max (BitVec.ofNat 32 old).toInt (BitVec.ofNat 32 x).toInt) ∧
        (r.op = .atom .fadd ∨ r.op = .atom .faddOf →
          new t = (addRne (BitVec.ofNat 32 old) (BitVec.ofNat 32 x)).1.toNat)) ∧
      (r.size = 8 →
        (r.op = .atom64 .add → new t = (old + x) % 2 ^ 64) ∧ (r.op = .atom64 .and → new t = old &&& x) ∧
        (r.op = .atom64 .or → new t = old ||| x) ∧ (r.op = .atom64 .xor → new t = old ^^^ x) ∧ (r.op = .atom64 .swap → new t = x) ∧
        (r.op = .atom64 .minu → new t = min old x) ∧ (r.op = .atom64 .maxu → new t = max old x) ∧
        (r.op = .atom64 .min → (BitVec.ofNat 64 (new t)).toInt = min (BitVec.ofNat 64 old).toInt r.x.toInt) ∧
        (r.op = .atom64 .max → (BitVec.ofNat 64 (new t)).toInt = max (BitVec.ofNat 64 old).toInt r.x.toInt)) ∧
      (∀ c, r.op = .cas c → if BitVec.ofNat 64 old = c then new t = x % 256 ^ r.size else new t = old))

/-- Combined requests give every member what the serial order gives it, for every operation but the floating-point sums (08 R246): the
operation is associative, and the merged operand stands for both. A chunk counter advanced for two groups advances as for one, never
past its total (08 R252). -/
def Sys2Proof.Claims.CombiningKeepsTheSerialOrder : Prop :=
  (∀ (o : AtomOp) (v x y : Word), o ≠ .fadd → o ≠ .faddOf →
    (homeOp (.atom o) (((homeOp (.atom o) v x).1).getD 0) y).1 = (homeOp (.atom o) v (combined (.atom o) x y)).1) ∧
  (∀ (o : Atom64Op) (v x y : Word),
    (homeOp (.atom64 o) (((homeOp (.atom64 o) v x).1).getD 0) y).1 = (homeOp (.atom64 o) v (combined (.atom64 o) x y)).1) ∧
  (∀ n d m x a b : Nat, chunkAdv n d m x (a + b) = chunkAdv n d m (chunkAdv n d m x a) b) ∧
  (∀ n d m x a : Nat, x ≤ n → chunkAdv n d m x a ≤ n) ∧
  (∀ n d m x : Nat, 0 < d → x < n → 0 < chunkSize n d m x ∧
    (m ≤ n - x → m ≤ chunkSize n d m x) ∧ n - x ≤ d * max m (chunkSize n d m x))

/-- COMBINE_MERGE makes one request of two compatible ones at the first combining point at which they meet, the second finds a free wait-buffer
entry, and there is no younger partner for it, and REPLY_SPLIT answers both from its reply: the first with the value, the second with the first's result (08 R242 to
R246). -/
def Sys2Proof.Claims.RequestsMergeAndRepliesSplit : Prop :=
  (∀ (s : State) (a b : AtomReq) (p : Nat), s.atoms.find? (fun r => r.id = a.id) = some a → s.atoms.find? (fun r => r.id = b.id) = some b →
    a.id ≠ b.id → a.uid ≠ 0 → b.uid ≠ 0 → (a.uid = b.uid → a.id < b.id) → compatible s a b = true →
    (meetAt a b).find? (mayMerge s a b) = some p →
    (let rest := { s with atoms := s.atoms.filter (fun r => r.id ≠ a.id && r.id ≠ b.id) }; atomReady rest a = true ∧ atomReady rest b = true) →
    Runs (.combineMerge a.id b.id) s (fun t => t.mem = s.mem ∧ t.g = s.g ∧ t.merges = s.merges ++ [⟨s.nextId, a, b, some p, portAt s b.at_ b.loc p⟩] ∧
      (∀ r ∈ t.atoms, r.id ≠ a.id ∧ r.id ≠ b.id ∨ r.id = s.nextId) ∧
      ∃ r ∈ t.atoms, r.id = s.nextId ∧ r.op = a.op ∧ r.loc = a.loc ∧ r.count = a.count + b.count ∧ r.uid = 0 ∧ r.queued = some p ∧
        (a.op ≠ .chunk → r.x = combined a.op a.x b.x))) ∧
  (∀ (s : State) (m : Merge) (v : Word) (fl : Fl), s.areplies.find? (fun r => r.id = m.id) = some ⟨m.id, some v, fl, []⟩ →
    s.merges.find? (fun x => x.id = m.id) = some m → m.a.uid ≠ 0 → m.b.uid ≠ 0 → m.a.uid ≠ m.b.uid → m.a.op ≠ .chunk →
    Runs (.replySplit m.id) s (fun t => t.mem = s.mem ∧ t.merges = s.merges.filter (fun x => x.id ≠ m.id) ∧
      ∀ r y, (r, y) = (m.a, v) ∨ (r, y) = (m.b, ((homeOp m.a.op v m.a.x).1).getD 0) →
        ∀ g, gangOf s r.uid = some g → ∃ h, gangOf t r.uid = some h ∧
          h.pend = upd (fun p => p.id = r.pend) (fun p => { p with left := p.left - 1, ws := p.ws ++ replyWrites r y fl [] }) g.pend))

/-- Combined requests answer as the serial order does (the statements above named here). -/
def Obligations.CombiningKeepsTheSerialOrder : Prop :=
  Claims.CombiningKeepsTheSerialOrder ∧ Claims.RequestsMergeAndRepliesSplit

/-- CHUNK_GROUP advances the record's first word and gives the requester the old value and its chunk's size, or all ones and 0 for a
bad record (08 R252, R254); ATOMIC_ERROR_REPLY changes no memory and leaves an atomic-error trap (08 R250), but with a gang that has stopped for a
Save only where it has recorded none (18 R495). -/
def Sys2Proof.Claims.ChunksAndErrorReplies : Prop :=
  (∀ (s : State) (r : AtomReq) (n d m : Word), s.atoms.find? (fun q => q.id = r.id) = some r → r.uid ≠ 0 → r.op = .chunk → r.size = 8 →
    r.count = 1 → atHomeNow s r = true → atomPoisoned s r = false → NoLines s r.loc 32 → Memory.wf s.mem → CellsWf none s.keys →
    CellsWf (0, none) s.lineKeys → CellsWf 0 s.top → LinesOld s →
    chunkWords s r = [n, d, m] →
    let old := homeNatK s r.loc 8 r.key
    let z := chunkSize n.toNat d.toNat m.toNat old
    Runs (.chunkGroup r.id) s (fun t => homeNatK t r.loc 8 r.key = (old + z) % 2 ^ 64 ∧
      (∀ l, l < r.loc ∨ r.loc + 8 ≤ l → memByte t l = memByte s l) ∧
      ∀ g, gangOf s r.uid = some g → ∃ h, gangOf t r.uid = some h ∧
        h.pend = upd (fun p => p.id = r.pend) (fun p => { p with left := p.left - 1, ws := p.ws ++
          [laneWrite r.dst r.lane (BitVec.ofNat 32 old), laneWrite (r.dst + 1) r.lane (BitVec.ofNat 32 (old / 2 ^ 32)),
           laneWrite (r.dst + 2) r.lane (BitVec.ofNat 32 z), laneWrite (r.dst + 3) r.lane (BitVec.ofNat 32 (z / 2 ^ 32))] }) g.pend)) ∧
  (∀ (s : State) (r : AtomReq), s.atoms.find? (fun q => q.id = r.id) = some r → r.uid ≠ 0 → r.lane < 32 → atHomeNow s r = true →
    atomPoisoned s r = true →
    Runs (.atomicErrorReply r.id) s (fun t => t.mem = s.mem ∧ t.atoms = s.atoms.filter (fun q => q.id ≠ r.id) ∧
      ∀ g, gangOf s r.uid = some g → ∃ h, gangOf t r.uid = some h ∧ h.v = g.v ∧
        h.pend = upd (fun p => p.id = r.pend) (fun p => { p with left := p.left - 1, ws := p.ws ++ [] }) g.pend ∧
        ∃ i, h.deferred = (if g.stopping = true ∧ g.deferred ≠ [] then g.deferred
            else g.deferred ++ [⟨0x16, r.va, BitVec.ofNat 64 (r.lane + 2 ^ r.lane * 2 ^ 32), false, i⟩]) ∧
          (i = true ↔ ∃ p ∈ g.pend, p.inh = true ∧ p.id = r.pend)))

/-- Atomics send their requests, and chunk groups and error replies answer (the statements above named here). -/
def Obligations.AtomicsSendTheirRequests : Prop :=
  Claims.AtomicsSendTheirRequests ∧ Claims.ChunksAndErrorReplies

/-- `red` adds each active lane's contribution to its core's update-only lines, with no reply and no byte of memory changed: a line of its
location takes the lanes' values in, in ascending lane order (DESIGN CHOICE: log 44), a new one starts with the lowest of them, and every other line
stays; the gang's view holds the locations as they are (04 R132, R146, 12 R386). UPDATE_ONLY_EVICTION combines a line that has its path, behind its
contributors' earlier requests, at its home as one write, and it is gone (04 R147, 19 R510). -/
def Obligations.UpdateOnlyLines : Prop :=
  (∀ (s : State) (d a b : Reg) (o : RedOp), let z := redSize o; Holds s.g [(d, z / 4), (b, 1)] →
    Maps s (permR ||| permW ||| permA) z (atomAddrs s.g a b) → (∀ q ∈ atomAddrs s.g a b, q.2.toNat % z = 0) →
    ∃ ls ms, exec (.red d a b o) s = .next (next { s with g := markSeen ms s.g, lines := ls }) ∧
      (∀ q ∈ atomAddrs s.g a b, ∀ h, gangByte s s.g q.2 = .ok h →
        let here (r : RedLine) : Bool := r.core = unitOf 1 s.g.at_ && r.loc = h.loc && r.op = o && r.key = h.key
        let mine := (atomAddrs s.g a b).filter (fun p => match gangByte s s.g p.2 with
          | .ok k => k.loc = h.loc && k.key = h.key
          | .error _ => false)
        let vs := mine.map (fun p => groupWord s.g d 0 z p.1)
        ∃ r ∈ ls, here r = true ∧ s.g.uid ∈ r.uids ∧ (∀ r0, s.lines.find? here = some r0 →
            r.x = vs.foldl (redOp o) r0.x ∧ ∀ u ∈ r0.uids, u ∈ r.uids) ∧
          (s.lines.find? here = none → r.uids = [s.g.uid] ∧ ∃ v vt, vs = v :: vt ∧ r.x = vt.foldl (redOp o) v)) ∧
      (∀ r ∈ s.lines, (∀ q ∈ atomAddrs s.g a b, ∀ h, gangByte s s.g q.2 = .ok h →
        ¬ (r.core = unitOf 1 s.g.at_ ∧ r.loc = h.loc ∧ r.op = o ∧ r.key = h.key)) → r ∈ ls)) ∧
  (∀ (s : State) (i : Nat) (r : RedLine), s.lines[i]? = some r → flows s r.core.pkg (locPkg r.loc) = true →
    (∀ u ∈ r.uids, behindLine s r u = []) → Memory.wf s.mem → CellsWf none s.keys → CellsWf (0, none) s.lineKeys → CellsWf 0 s.top → LinesOld s →
    let n := redSize r.op
    let old := homeNatK s r.loc n r.key
    Runs (.updateOnlyEviction i) s (fun t => t.lines = s.lines.erase r ∧
      homeNatK t r.loc n r.key = (redOp r.op (BitVec.ofNat 64 old) r.x).toNat % 256 ^ n ∧
      (∀ l, l < r.loc ∨ r.loc + n ≤ l → memByte t l = memByte s l) ∧
      (r.op = .add → homeNatK t r.loc n r.key = (old + r.x.toNat) % 2 ^ 32) ∧ (r.op = .addD → homeNatK t r.loc n r.key = (old + r.x.toNat) % 2 ^ 64)))

/-- A queue instruction whose request reaches its unit at once, with its condition met, its completion flag not full (03 R104) and nobody waiting for the same condition, is
accepted: `qpush` and `qclose` publish first (08 R257 to R260, 12 R389). -/
def Sys2Proof.Claims.QueueInstructionsAreAccepted : Prop :=
  ∀ (s v : State) (d a : Reg) (k : BitVec 3) (u : QUnit), s.g.phase = .running →
    (∀ x ∈ s.qwaits, ¬ (x.uid = s.g.uid ∧ x.path = s.g.act.val)) →
    let desc := sreg s.g a
    let first := drainOwn s.g.uid s
    let runs (i : Instr) (o : QOp) (pub : Bool) : Prop :=
      Finds (if pub then first else s) desc u v → unitTrap v.g u o = none → qCondition u o = true → flagFull s.g o = false →
      (∀ x ∈ s.qwaits, x.at_ = u.at_ → x.pile = u.pile → x.arrived = true → sameGroup x.op o = false) →
      (if pub then publish u.reach v else v).picks.headD 0 = 0 →
      Runs i s (fun t => Accepted true ⟨s.g.uid, s.g.act.val, u.at_, u.pile, true, o, s.iss.yield⟩ u (if pub then publish u.reach v else v) t ∧
        (pub = true → ∃ p ∈ t.pubs, p.by_ = some (s.g.uid, s.g.at_) ∧ p.level = u.reach))
    (Holds s.g [(d, 8)] → runs (.qpush d a) ⟨0, desc, execMask s.g, 0, 0, 15,
      (lanesOf (execMask s.g)).map (fun l => (List.range 8).map (fun i => lane (vreg s.g d i) l))⟩ true) ∧
    (Holds s.g [(d, 8)] → runs (.qpop d a k) ⟨1, desc, execMask s.g, vnum s.g d, k.toNat, s.iss.flag, []⟩ false) ∧
    runs (.qpops d a) ⟨2, desc, 0, d.toNat, 0, s.iss.flag, []⟩ false ∧
    runs (.qclose a) ⟨3, desc, 0, 0, 0, 15, []⟩ true

/-- A request on its way arrives, and one that waits at its unit is accepted once its condition holds and its turn has come (08 R258,
R259); while it does not hold, the gang waits at the instruction. What a pop delivers: record j to the j-th active lane, and all ones to a
`qpops` that finds its queue closed and empty (08 R260). -/
def Sys2Proof.Claims.QueueWaitsAndDeliveries : Prop :=
  (∀ (s : State) (c : Coords) (g : Gang) (w : QWait) (u : QUnit), gangAt s c = some g → gangOf s w.uid = some g → w.path < 16 →
    s.units.find? (fun u => u.at_ = w.at_ && u.pile = w.pile) = some u → unitTrap g u w.op = none →
    g.phase = .running → flagFull g w.op = false →
    (s.qwaits.find? (fun x => x.uid = g.uid && x.arrived) = some w → qCondition u w.op = true → qBehind s w = false →
      Runs (.queueOpAccept c) s (Accepted false w u s)) ∧
    (s.qwaits.find? (fun x => x.uid = g.uid && !x.arrived) = some w →
      let rest := s.qwaits.filter (fun x => !(x.uid = w.uid && x.path = w.path))
      let u0 := { s with qwaits := rest ++ [{ w with arrived := true }] }
      (qCondition u w.op = true → qBehind u0 { w with arrived := true } = false → Runs (.queueOpArrival c) s (Accepted false w u s)) ∧
      (qCondition u w.op = false → exec (.queueOpArrival c) s = .next u0))) ∧
  (∀ (o : QOp) (recs : List (List W32)) (j l i : Nat), o.kind = 1 → (lanesOf o.act)[j]? = some l → i < 8 →
    ∃ m, ∃ f : Nat → Nat → W32, popWrites o recs = .k o.mask m :: (List.range 8).map (fun n => .v (o.dst + n) m (mkLanes (f n))) ∧
      (inMask m l = true ↔ j < recs.length) ∧ (j < recs.length → f i l = (((recs[j]?).getD [])[i]?).getD 0)) ∧
  (∀ o : QOp, o.kind = 2 → popWrites o [] = [.s o.dst 0xFFFFFFFFFFFFFFFF])

/-- Queue instructions are accepted, wait, and deliver (the statements above named here). -/
def Obligations.QueuesMoveRecords : Prop :=
  Claims.QueueInstructionsAreAccepted ∧ Claims.QueueWaitsAndDeliveries

/-! Groups 4 and 5: timelines and carts (12 R374 to R380, 04 R152 to R157, 02 R71 to R79). -/

/-- `tlwait` in both forms (04 R154, 12 R380): for a number given out it acquires at the engine's level, takes the flags of the gang's
covered operations into `%fpcsr`, and goes on once the count has reached the number; before that the path waits, and gives way where another can
go on (03 R99). An unbound handle or a number
not given out traps (18 R474). -/
def Sys2Proof.Claims.TimelineWaits : Prop :=
  ∀ (s : State) (tl : BitVec 3) (r : Reg), ∀ p ∈ [(Instr.tlwait tl, (tlh s.g tl).last), (.tlwaitN tl r, (sreg s.g r).toNat)],
    let n := p.2
    ((tlh s.g tl).eng = none → Delivers s → Runs p.1 s (Entered 0x1B 0 (tl.setWidth 64) (pcOf s) s)) ∧
    ∀ e, (tlh s.g tl).eng = some e → let x := timelineOf s e s.g.job
      (x.last < n → Delivers s → Runs p.1 s (Entered 0x1B 0 (tl.setWidth 64) (pcOf s) s)) ∧
      (n ≤ x.last → coveredSusp s s.g e n = none → tlCount x < n → Runs p.1 s (fun t => Waits s t ∧ t.g.s = s.g.s ∧ t.g.view = s.g.view ∧ t.mem = s.mem ∧ t.timelines = s.timelines)) ∧
      (n ≤ x.last → coveredSusp s s.g e n = none → n ≤ tlCount x → (∀ f ∈ x.faults, n < f.1) → s.g.phase ≠ .free →
        Runs p.1 s (fun t => path t.g = { path s.g with pc := pcOf s + 4 } ∧ t.g.view = acquired s (engLevel e) s.g ∧
          (∀ f ∈ x.flags, f.1 ≤ n → f.2.1 = s.g.uid → t.g.fpcsr &&& f.2.2.setWidth 32 = f.2.2.setWidth 32) ∧
          ((∀ f ∈ x.flags, n < f.1) → t.g.fpcsr = s.g.fpcsr) ∧ t.g.s = s.g.s ∧ t.g.v = s.g.v ∧ t.mem = s.mem))

/-- `tlread` reads a timeline's count, the largest k such that operations 1 to k have completed, and a handle's number and skipped slots
(04 R154, 12 R380); 0 for an unbound handle. -/
def Sys2Proof.Claims.TimelineReads : Prop :=
  ∀ (s : State) (d : Reg) (tl : BitVec 3), let h := tlh s.g tl
    exec (.tlreadLast d tl) s = .next (flagged [.s d.toNat (BitVec.ofNat 64 h.last)] 0 s) ∧
    exec (.tlreadSkip d tl) s = .next (flagged [.s d.toNat (h.skip.setWidth 64)] 0 s) ∧
    (h.eng = none → exec (.tlreadCnt d tl) s = .next (flagged [.s d.toNat 0] 0 s)) ∧
    (∀ e, h.eng = some e → ∃ k, exec (.tlreadCnt d tl) s = .next (flagged [.s d.toNat (BitVec.ofNat 64 k)] 0 s) ∧
      let x := timelineOf s e s.g.job
      k ≤ x.last ∧ (∀ j, 1 ≤ j → j ≤ k → j ∈ x.done) ∧ (k < x.last → k + 1 ∉ x.done))

/-- `sleept` goes on at once when `%cycle` has reached the value, and otherwise holds the whole gang, which SLEEP_END wakes behind it
(04 R156, 12 R380). A promise that runs out counts as missed, and traps a gang that asked for it (04 R157). -/
def Sys2Proof.Claims.SleepsAndPromises : Prop :=
  ∀ (s : State) (a : Reg),
    ((sreg s.g a).toNat ≤ cycleOf s s.g → exec (.sleept a) s = .next (done [] s)) ∧
    (cycleOf s s.g < (sreg s.g a).toNat → exec (.sleept a) s = .next { s with g := { s.g with hold := .sleep (sreg s.g a) } }) ∧
    (∀ c g t, gangAt s c = some g → g.hold = .sleep t → t.toNat ≤ cycleOf s g → g.phase = .running → g.stopping = false →
      Runs (.sleepEnd c) s (fun u => u.mem = s.mem ∧ ∃ h, gangAt u c = some h ∧ h.hold = .none ∧
        path h = { path g with pc := (path g).pc + 4 } ∧ h.s = g.s)) ∧
    (∀ o c, s.carts.find? (fun c => c.id = o) = some c → c.missed = false →
      c.promise ≤ s.cycle - ((s.pkgs.find? (fun p => p.pkg = c.at_.pkg)).map (·.resetAt)).getD 0 → Runs (.promiseExpiry o) s (fun t => t.mem = s.mem ∧
        t.carts = upd (fun x => x.id = o) (fun x => { x with missed := true }) s.carts ∧
        (∀ j, jobOn s c.at_.pkg o.job = some j → ∃ k, jobOn t c.at_.pkg o.job = some k ∧ k.missed = j.missed + 1) ∧
        ∀ g, gangOf s c.uid = some g → ∃ h, gangOf t c.uid = some h ∧
          h.deferred = if g.pme then g.deferred ++ [⟨0x1A, 0, BitVec.ofNat 64 o.n, true, g.inh⟩] else g.deferred))

/-- Timeline waits and reads, sleeps and promises (the statements above named here). -/
def Obligations.TimelinesAreReadAndWaitedFor : Prop :=
  Claims.TimelineWaits ∧ Claims.TimelineReads ∧ Claims.SleepsAndPromises

/-- `cpy`, `mcopy` and `reduce` whose descriptor passes its checks publish at the engine's level, take the next number of its timeline,
bind the handle, and give the promise of 12 R379: F cycles and the queued and new bytes at W a cycle (12 R374 to R379, 02 R71). -/
def Sys2Proof.Claims.CartInstructionsTakeNumbers : Prop :=
  ∀ (s : State) (tl : BitVec 3) (d p : Reg) (l : Level), s.g.phase ≠ .free →
    let ws := descWords s.g d
    let e := cartOf s.g l
    let n := (timelineOf s e s.g.job).last + 1
    let q := publish l.code s
    let queued := ((s.carts.filter (fun c => c.id.eng = e)).map (·.bytes)).sum
    let takes (i : Instr) (kind bytes : Nat) : Prop := Runs i s (fun t =>
      let w := queued + bytes
      let fw := cartFigures l.code
      let promise := cycleOf s s.g + fw.1 + (w + fw.2 - 1) / fw.2
      (∃ op, t.carts = s.carts ++ [op] ∧ op.id = ⟨e, s.g.job, n⟩ ∧ op.kind = kind ∧ op.level = l.code ∧ op.words = ws ∧
        op.uid = s.g.uid ∧ op.promise = promise ∧ op.missed = false ∧ op.bytes = bytes) ∧
      tlh t.g tl = ⟨some e, n, 0⟩ ∧ (timelineOf t e s.g.job).last = n ∧ pcOf t = pcOf s + 4 ∧ t.mem = q.mem ∧ t.g.s = s.g.s ∧
      t.g.inflight = if p = 0 then s.g.inflight else (fixed 1 (.s p.toNat (BitVec.ofNat 64 promise)) s).g.inflight)
    let w2 := sregAt s.g d 2
    (cpyTrap s.g l.code ws = none → takes (.cpy tl d p l) 0 (fld w2 55 32 * fld w2 31 0)) ∧
    (levelOpTrap s s.g false l.code ws = none →
      takes (.mcopy tl d p l) 1 (fld w2 31 0 * selCount l.code (sregAt s.g d 3))) ∧
    (levelOpTrap s s.g true l.code ws = none →
      takes (.reduce tl d p l) 2 (fld w2 31 0 * redBytes (fld w2 34 32) * selCount l.code (sregAt s.g d 3))) ∧
    (∀ k, Delivers s → (cpyTrap s.g l.code ws = some k → Runs (.cpy tl d p l) s (Entered k.cause k.addr k.info (pcOf s) s)) ∧
      (levelOpTrap s s.g false l.code ws = some k → Runs (.mcopy tl d p l) s (Entered k.cause k.addr k.info (pcOf s) s)) ∧
      (levelOpTrap s s.g true l.code ws = some k → Runs (.reduce tl d p l) s (Entered k.cause k.addr k.info (pcOf s) s)))

namespace Sys2Proof.Claims

open Sys2Proof.Machine

/-- The sides of a cart operation whose bytes can all move, none of which has moved yet: `rd` are the bytes that it reads, `wr` those that it
writes, each with its side, and `H` their places. No byte that it writes is one that it reads, spoils one (21 R523), or belongs to a translation
table; and no pick takes an older fetch (04 R149). -/
def Sides (s : State) (op : CartOp) (rd wr : List (Option Nat × Word)) (H : Option Nat × Word → Hit) : Prop :=
  s.carts.find? (fun c => c.id = op.id) = some op ∧ op.errs = [] ∧ op.done = [] ∧ op.held = [] ∧ op.slots = none ∧ s.picks = [] ∧ s.lines = [] ∧
  Memory.wf s.mem ∧ CellsWf none s.keys ∧ isStopped s (engPkg op.id.eng) = false ∧
  (∀ q ∈ rd ++ wr, sideByte s op q.1 q.2 = .ok (H q) ∧ poisoned s (H q).loc = false ∧ (H q).loc % 4 = q.2.toNat % 4 ∧
    flows s op.at_.pkg (locPkg (H q).loc) = true ∧
    ∀ u : State, u.pkgs = s.pkgs → u.xts = s.xts → u.scratch = s.scratch → u.launches = s.launches →
      (∀ p j, (jobOn u p j).map (·.words) = (jobOn s p j).map (·.words)) → (∀ l, (∀ w ∈ wr, (H w).loc ≠ l) → memByte u l = memByte s l) →
      sideByte u op q.1 q.2 = sideByte s op q.1 q.2) ∧
  (∀ q ∈ rd, (H q).perm &&& permR = permR) ∧ (∀ q ∈ wr, (H q).perm &&& permW = permW) ∧
  (∀ p ∈ rd ++ wr, ∀ q ∈ rd ++ wr, p.1 = q.1 → p.2.toNat / 4 = q.2.toNat / 4 → (H p).loc / 4 = (H q).loc / 4 ∧ (H p).key = (H q).key) ∧
  (wr.map (fun q => (H q).loc)).Nodup ∧
  ∀ p ∈ rd, ∀ q ∈ wr, (H p).loc ≠ (H q).loc ∧
    ((H p).loc / 64 = (H q).loc / 64 → locKind (H q).loc = 0 → (lineOf s (H q).loc).2 = (H q).key)
/-- A byte of a side as its home holds it. -/
def sideVal (s : State) (H : Option Nat × Word → Hit) (q : Option Nat × Word) : Byte := homeByte s (H q).loc (H q).key
/-- CART_OP_COMPLETE completes the operation's number, and of memory writes the bytes of `out` at their places and no others (04 R153, R154). -/
def CartWrites (s : State) (op : CartOp) (H : Option Nat × Word → Hit) (out : List ((Option Nat × Word) × Byte)) (P : State → Prop) : Prop :=
  Runs (.cartOpComplete op.id) s (fun t => t.carts = s.carts.filter (fun c => c.id ≠ op.id) ∧
    op.id.n ∈ (timelineOf t op.id.eng op.id.job).done ∧ t.stores = s.stores ∧
    (∀ b ∈ out, memByte t (H b.1).loc = b.2 ∧ memKey t (H b.1).loc = (H b.1).key) ∧
    (∀ l, (∀ b ∈ out, (H b.1).loc ≠ l) → memByte t l = memByte s l) ∧ P t)
/-- Consecutive bytes of a side. -/
def run (who : Option Nat) (a : Word) (n : Nat) : List (Option Nat × Word) := (List.range n).map (fun i => (who, a + BitVec.ofNat 64 i))

end Sys2Proof.Claims

/-- CART_OP_COMPLETE completes the operation's number (04 R153, R154), unless the package's dies stand still (21 R531) or a request of it waits for
its path (19 R507). A `cpy` writes every row of its rectangle (12 R378), and a `mcopy` the parent's block to every selected child or the children's
blocks one after another (02 R75): each byte as its source's home holds it. Level 1's blocks stand in the registers of the gangs of the issuer's job
in the selected slots, and a slot without one is skipped (02 R74). That the bytes which have not moved early move at this event is DEDUCED (log 23). -/
def Sys2Proof.Claims.CopiesMoveTheirBytes : Prop :=
  (∀ (s : State) (op : CartOp), s.carts.find? (fun c => c.id = op.id) = some op →
    Runs (.cartOpComplete op.id) s (fun t => t = s ∨ t.carts = s.carts.filter (fun c => c.id ≠ op.id) ∧
      op.id.n ∈ (timelineOf t op.id.eng op.id.job).done ∧ t.stores = s.stores) ∧
    (isStopped s (engPkg op.id.eng) = true → exec (.cartOpComplete op.id) s = .next s)) ∧
  (∀ (s : State) (op : CartOp) (H : Option Nat × Word → Hit) (w0 w1 w2 w3 : Word), op.kind = 0 → op.words = [w0, w1, w2, w3] →
    let rows := (List.range (fld w2 55 32)).map (fun i => (w0 + BitVec.ofNat 64 (i * fld w3 31 0), w1 + BitVec.ofNat 64 (i * fld w3 63 32)))
    let src := rows.flatMap (fun r => run none r.1 (fld w2 31 0))
    let dst := rows.flatMap (fun r => run none r.2 (fld w2 31 0))
    Sides s op src dst H → CartWrites s op H (dst.zip (src.map (sideVal s H))) (fun _ => True)) ∧
  (∀ (s : State) (op : CartOp) (H : Option Nat × Word → Hit), op.kind = 1 → 2 ≤ op.level →
    let ranks := List.range (selected op).length
    let child := ranks.flatMap (fun j => run (some j) (dChild op) (dCount op))
    let parent := ranks.flatMap (fun j => run none (dParent op + BitVec.ofNat 64 (if dUp op then j * dCount op else 0)) (dCount op))
    (dUp op = false → Sides s op parent child H → CartWrites s op H (child.zip (parent.map (sideVal s H))) (fun _ => True)) ∧
    (dUp op = true → Sides s op child parent H → CartWrites s op H (parent.zip (child.map (sideVal s H))) (fun _ => True))) ∧
  (∀ (s : State) (op : CartOp) (H : Option Nat × Word → Hit), op.kind = 1 → op.level = 1 →
    (s.g :: s.others).Pairwise (fun g h => g.uid ≠ h.uid) → (∀ g ∈ s.g :: s.others, g.inflight = []) →
    let m := fld (dChild op) 6 0
    m + dCount op / 128 ≤ 64 → dCount op % 128 = 0 →
    let held := ((selected op).zip (List.range (selected op).length)).filterMap (fun c => (slotGang s op c.1).map (fun g => (g, c.2)))
    (dUp op = false → Sides s op (run none (dParent op) (dCount op)) [] H → CartWrites s op H [] (fun t =>
      ∀ e ∈ held, ∃ h, gangOf t e.1.uid = some h ∧ (∀ b < dCount op, regByte h m b = sideVal s H (none, dParent op + BitVec.ofNat 64 b)) ∧
        ∀ r, r < m ∨ m + dCount op / 128 ≤ r → vabs h r = vabs e.1 r)) ∧
    (dUp op = true →
      let dst := held.flatMap (fun e => run none (dParent op + BitVec.ofNat 64 (e.2 * dCount op)) (dCount op))
      Sides s op [] dst H →
      CartWrites s op H (dst.zip (held.flatMap (fun e => (List.range (dCount op)).map (regByte e.1 m)))) (fun _ => True)))

/-- A `reduce` writes, for each element, what its operation makes of the children's values in ascending order and, with acc, of the parent's old
value (02 R76); level 1's values stand in registers, without those of skipped slots (02 R74). Floating-point sums take the balanced tree of 00 R12
over the children and then the old value, the orders take it over all; integer sums are modulo 2^32. -/
def Sys2Proof.Claims.ReductionsCombineTheirChildren : Prop :=
  (∀ (s : State) (op : CartOp) (H : Option Nat × Word → Hit) (w2 : Word), op.kind = 2 → op.words[2]? = some w2 →
    (op.level = 1 → ∀ g ∈ s.g :: s.others, g.inflight = []) →
    let z := redBytes (dKind op)
    let n := z * dCount op
    let ranks := List.range (selected op).length
    let dst := run none (dParent op) n
    let src := if op.level = 1 then [] else ranks.flatMap (fun j => run (some j) (dChild op) n)
    let vals (e : Nat) : List Nat := ((selected op).zip ranks).filterMap (fun c =>
      if op.level = 1 then (slotGang s op c.1).map (fun g => leNat ((List.range z).map (fun i => regByte g (fld (dChild op) 6 0) (z * e + i))))
      else some (leNat ((List.range z).map (fun i => sideVal s H (some c.2, dChild op + BitVec.ofNat 64 (z * e + i))))))
    let old (e : Nat) : Option Nat :=
      if w2.getLsbD 37 then some (leNat ((List.range z).map (fun i => sideVal s H (none, dParent op + BitVec.ofNat 64 (z * e + i))))) else none
    Sides s op src dst H → (∀ e < dCount op, vals e ≠ []) →
    (w2.getLsbD 37 = true → ∀ q ∈ dst, (H q).perm &&& permR = permR ∧ (locKind (H q).loc = 0 → (lineOf s (H q).loc).2 = (H q).key)) →
    CartWrites s op H (dst.zip ((List.range (dCount op)).flatMap (fun e =>
      leBytes z (redValue (dKind op) (fld w2 36 35) (vals e) (old e)).1))) (fun _ => True)) ∧
  (∀ (l : List Nat) (o : Nat),
    (∀ p ∈ [(0, fFP32), (1, fBF16)], (redValue p.1 0 l none).1 = (pairwiseSum p.2 l).1 ∧
      (redValue p.1 0 l (some o)).1 = (addF p.2 o (pairwiseSum p.2 l).1).1 ∧
      ∀ q ∈ [(1, FMinMaxOp.min), (2, .max)], (redValue p.1 q.1 l none).1 = (pairwiseMinMax p.2 q.2 l).1 ∧
        (redValue p.1 q.1 l (some o)).1 = (pairwiseMinMax p.2 q.2 (l ++ [o])).1) ∧
    (∀ f a b c d, (pairwiseSum f []).1 = loneF f 0 ∧ (pairwiseSum f [a]).1 = loneF f a ∧ (pairwiseSum f [a, b]).1 = loneF f (addF f a b).1 ∧
      (pairwiseSum f [a, b, c]).1 = loneF f (addF f (addF f a b).1 c).1 ∧
      (pairwiseSum f [a, b, c, d]).1 = loneF f (addF f (addF f a b).1 (addF f c d).1).1) ∧
    ∀ old ∈ [none, some o], let all := l ++ old.toList
      all ≠ [] → (∀ x ∈ all, x < 2 ^ 32) →
      (∀ kind ∈ [2, 3], (redValue kind 0 l old).1 = all.sum % 2 ^ 32) ∧
      (redValue 3 1 l old).1 ∈ all ∧ (∀ x ∈ all, (redValue 3 1 l old).1 ≤ x) ∧ (redValue 3 2 l old).1 ∈ all ∧
      (∀ x ∈ all, x ≤ (redValue 3 2 l old).1) ∧ (redValue 2 1 l old).1 ∈ all ∧ (redValue 2 2 l old).1 ∈ all ∧
      ∀ x ∈ all, (BitVec.ofNat 32 (redValue 2 1 l old).1).toInt ≤ (BitVec.ofNat 32 x).toInt ∧
        (BitVec.ofNat 32 x).toInt ≤ (BitVec.ofNat 32 (redValue 2 2 l old).1).toInt)

/-- Cart instructions take numbers, and their operations complete (the statements above named here). -/
def Obligations.CartOperationsRun : Prop :=
  Claims.CartInstructionsTakeNumbers ∧ Claims.CopiesMoveTheirBytes ∧ Claims.ReductionsCombineTheirChildren

/-! Group 5: launches, barriers, fences and cancels (02 R43 to R88, 04 R133 to R138, 12 R391 to R394). -/

/-- The block split (02 R49): the sub-tiles of c children follow each other and cover the tile, and their numbers of granules differ by at
most one. -/
def Sys2Proof.Claims.SplitsCoverTheTile : Prop :=
  ∀ (ws : List Word) (c : Nat), 0 < c → tMode ws ≠ 1 →
    let e := tExt ws (tDim ws)
    let at_ (k : Nat) : Nat := min (tStart ws c k * tGran ws) e
    at_ 0 = 0 ∧ at_ c = e ∧
    ∀ k < c, at_ k + tPart ws c k = at_ (k + 1) ∧ (tEmpty ws c k = true ↔ at_ k = at_ (k + 1)) ∧
      tUnits ws / c ≤ tStart ws c (k + 1) - tStart ws c k ∧ tStart ws c (k + 1) - tStart ws c k ≤ (tUnits ws + c - 1) / c

/-- `lnch` and `lnch.try` whose checks pass, with a record free in the pool, publish and start a launch of C children, whose new handle goes to
the destination (02 R43 to R57, 12 R391); without a record `lnch` waits and `lnch.try` answers so, and the checks trap in their
order (12 R393). That a free record which an earlier waiter is about to take counts as none for `lnch.try` is the model's choice (DESIGN CHOICE:
log 50). -/
def Sys2Proof.Claims.LaunchesTakeRecords : Prop :=
  ∀ (s : State) (d t : Reg) (f : BitVec 6) (l : Level), s.launches.length < 2 ^ 32 →
    let func := sreg s.g (f.setWidth 7)
    let ws := launchTile s t
    let depth := launchDepth s.g l.code
    let c := tChildren ws l.code (launchKids s s.g.at_ l.code)
    let q := publish l.code { s with poolQ := s.poolQ.filter (fun t => !ownTicket s l.code t) }
    (launchTrap s l.code func ws = none → depth ≤ 8 → poolReady s l.code = true →
      ∀ i ∈ [Instr.lnch d f t l, .lnchTry d f t l], Runs i s (fun u => ∃ n, u.launches = q.launches ++ [n] ∧
        n.level = l.code ∧ n.func = func ∧ n.tile = ws ∧ n.depth = depth ∧ n.children.length = c ∧ n.record = true ∧
        n.issuer = some (s.g.uid, s.g.at_) ∧ n.parent = some s.g.launch ∧ n.joined = false ∧ n.cancelled = false ∧
        n.handle ≠ 0 ∧ n.handle.getLsbD 63 = false ∧ (∀ x ∈ q.launches, x.handle ≠ n.handle) ∧
        u.g.inflight = (fixed 1 (.s d.toNat n.handle) q).g.inflight ∧ pcOf u = pcOf s + 4 ∧ u.mem = q.mem ∧
        (∀ k < c, n.children[k]? = some (if tEmpty ws c k then .done else .waiting)))) ∧
    (launchTrap s l.code func ws = none → depth ≤ 8 → poolReady s l.code = false →
      exec (.lnchTry d f t l) s = .next (done [(1, .s d.toNat 0x8000000000000001)] s) ∧
      Runs (.lnch d f t l) s (fun u => Waits s u ∧ u.mem = s.mem ∧
        u.launches = s.launches ∧ ∃ k ∈ u.poolQ, k.uid = s.g.uid ∧ k.path = s.g.act.val ∧ k.n = l.code)) ∧
    (launchTrap s l.code func ws = none → 8 < depth →
      exec (.lnchTry d f t l) s = .next (done [(1, .s d.toNat 0x8000000000000002)] s) ∧
      (Delivers s → Runs (.lnch d f t l) s (Entered 0x2B 0 0 (pcOf s) s))) ∧
    (∀ k, Delivers s → launchTrap s l.code func ws = some k → ∀ i ∈ [Instr.lnch d f t l, .lnchTry d f t l],
      Runs i s (Entered k.cause k.addr k.info (pcOf s) s)) ∧
    (s.g.root < l.code → launchTrap s l.code func ws = some ⟨0x2A, 0, 0⟩)

/-- `joinw` of a handle that the gang holds waits for its launch, then acquires at the launch's level, frees the record and gives the status
word (02 R60, R62): how many children failed, 65,535 for more, with the lowest of them, its cause and origin; 0 failures and index 0xFFFF where
every child is done. Any other handle traps. -/
def Sys2Proof.Claims.JoinsGiveTheStatus : Prop :=
  ∀ (s : State) (d a : Reg),
    let mine := s.launches.find? (fun l => l.handle = sreg s.g a && (l.issuer.map (·.1)) = some s.g.uid && !l.joined)
    (mine = none → Delivers s → Runs (.joinw d a) s (Entered 0x2C 0 0 (pcOf s) s)) ∧
    ∀ l, mine = some l →
      (l.completed = false → Runs (.joinw d a) s (fun t => Waits s t ∧ t.launches = s.launches)) ∧
      (l.completed = true → Runs (.joinw d a) s (fun t =>
        t.launches = upd (fun x => x.id = l.id) (fun x => { x with joined := true, record := false }) s.launches ∧
        pcOf t = pcOf s + 4 ∧ t.mem = s.mem ∧ t.g.s = s.g.s ∧ t.g.view = acquired s l.level s.g ∧ ∃ z, t.g.inflight = (fixed 1 (.s d.toNat z) s).g.inflight ∧
          ((∀ c ∈ l.children, c = .done) → l.cancelled = false → z = 0xFFFF0000) ∧
          (∀ k c o, l.children[k]? = some (.failed c o) → (∀ j < k, ∀ x y, l.children[j]? ≠ some (.failed x y)) → k < 2 ^ 16 → c < 256 → o < 8 →
            z.toNat % 2 ^ 16 = min (l.children.filter (fun c => match c with
              | .failed _ _ => true
              | .waiting | .running _ | .done => false)).length 65535 ∧
            z.toNat / 2 ^ 16 % 2 ^ 16 = k ∧ z.toNat / 2 ^ 32 % 2 ^ 8 = c ∧ z.toNat / 2 ^ 40 % 8 = o ∧ z.getLsbD 48 = l.cancelled)))

/-- Splits cover the tile, launches take records, and joins give the status (the statements above named here). -/
def Obligations.LaunchesAndJoins : Prop :=
  Claims.SplitsCoverTheTile ∧ Claims.LaunchesTakeRecords ∧ Claims.JoinsGiveTheStatus

/-- `bar` (02 R67 to R70): its traps; at level 0 it publishes and acquires; a gang that arrives while others have not waits, with what it wrote
published; the last to arrive publishes, opens the barrier and goes on; BARRIER_OPEN frees every gang that waits once each member has arrived or
ended, and each acquires at the barrier's level; and a gang that finds the barrier open goes on. That a child which has still to start holds the
barrier is the model's choice (DESIGN CHOICE: log 50). -/
def Obligations.BarriersOpen : Prop :=
  ∀ (s : State) (l : Level),
    (∀ k, Delivers s → barTrap s l.code = some k → Runs (.bar l) s (Entered k.cause k.addr k.info (pcOf s) s)) ∧
    (pathCount s.g ≠ 1 → l = .g → barTrap s l.code = some ⟨0x2E, 0, 0⟩) ∧
    (barTrap s l.code = none → l = .g → exec (.bar l) s = .next (next (acquire 0 (publish 0 s)))) ∧
    (barTrap s l.code = none → l ≠ .g → s.g.barOpen = true → exec (.bar l) s = .next (next { s with g := { s.g with barOpen := false } })) ∧
    (barTrap s l.code = none → l ≠ .g → s.g.barOpen = false → ∀ x, launchOf s s.g.launch = some x → s.g.uid ∉ x.arrived →
      (∃ u ∈ x.children, ∃ v, u = .running v ∧ v ≠ s.g.uid ∧ v ∉ x.arrived ∧ ∃ h, gangOf s v = some h ∧ h.phase = .running) →
      Runs (.bar l) s (fun t => Waits s t ∧ t.pubs = (publish l.code s).pubs ∧ t.mem = (publish l.code s).mem ∧ t.stores = (publish l.code s).stores ∧
        ∃ y, launchOf t s.g.launch = some y ∧ y.arrived = x.arrived ++ [s.g.uid])) ∧
    (barTrap s l.code = none → l ≠ .g → s.g.barOpen = false → s.g.phase = .running → ∀ x, launchOf s s.g.launch = some x → s.g.uid ∉ x.arrived →
      (∀ c ∈ x.children, c = .running s.g.uid ∨ memberArrived s x c = true) → let u := publish l.code s
      Runs (.bar l) s (fun t => pcOf t = pcOf s + 4 ∧ t.g.barOpen = false ∧ t.pubs = u.pubs ∧ t.mem = u.mem ∧
        (∀ loc, cget 0 (acquired { u with early := [] } l.code u.g) loc ≤ cget 0 t.g.view loc) ∧
        ∃ y, launchOf t s.g.launch = some y ∧ y.arrived = [])) ∧
    (∀ i x, launchOf s i = some x → x.arrived ≠ [] → (∀ c ∈ x.children, memberArrived s x c = true) →
      Runs (.barrierOpen i) s (fun t => t.mem = s.mem ∧ (∃ y, launchOf t i = some y ∧ y.arrived = []) ∧
        ∀ u ∈ x.arrived, ∀ g, gangOf s u = some g → ∃ h, gangOf t u = some h ∧ h.barOpen = true ∧ h.blocked = false ∧
          ∀ loc, cget 0 (acquired { s with early := [] } x.level g) loc ≤ cget 0 h.view loc))

/-- What a publish covers, an acquire takes in (04 R133, R135): after gang A publishes at level m, any gang whose common level with A is at
most m and at most l that acquires at level l has every location at least at the position of A's view. -/
def Obligations.PublishedWritesAreAcquired : Prop :=
  ∀ (s : State) (uid m l : Nat) (g q : Gang),
    let t := publishFor uid m s
    gangOf t uid = some g → commonLevel t (some (uid, g.at_)) q ≤ m → commonLevel t (some (uid, g.at_)) q ≤ l →
    ∀ loc, cget 0 q.view loc ≤ cget 0 (acquired t l q) loc ∧ cget 0 (covered t g.view) loc ≤ cget 0 (acquired t l q) loc

/-- The fences (02 R80, R81, 04 R133, R135): a publishing fence has the gang's stores reach their homes in its own step, which stands for its wait
for them (DEDUCED: log 27), publishes at the named level, at most the job's widest, and `fence.ar` then acquires; a store-fault record of the gang traps there, outside a handler (18 R481), once it has entered
the core's store-fault queue (DESIGN CHOICE: log 49). -/
def Sys2Proof.Claims.FencesPublishAndAcquire : Prop :=
  ∀ (s : State) (l : Level), let u := drainOwn s.g.uid s
    let lv := min l.code (wideOf u u.g)
    exec (.fenceAcq l) s = .next (next (acquire (min l.code (wideOf s s.g)) s)) ∧
    ((∀ f ∈ u.faults, f.uid ≠ u.g.uid) ∨ u.g.inh = true →
      exec (.fencePub l) s = .next (next (publish lv u)) ∧ exec (.fenceAr l) s = .next (next (acquire lv (publish lv u)))) ∧
    (∀ f, (faultQueueOf u (unitOf 1 u.g.at_)).find? (fun f => f.uid = u.g.uid) = some f → Delivers u →
      ∀ i ∈ [Instr.fencePub l, .fenceAr l, .drain], Runs i s (Entered f.cause f.addr f.info (pcOf u) u)) ∧
    (∀ f ∈ u.faults, f.uid = u.g.uid → u.g.inh = false → (∀ k ∈ faultQueueOf u (unitOf 1 u.g.at_), k.uid ≠ u.g.uid) →
      ∀ i ∈ [Instr.fencePub l, .fenceAr l, .drain], exec i s = .next (stall u))

/-- Prefetches, drains and fences (the statements above named here). -/
def Obligations.FencesOrderMemory : Prop :=
  Claims.FencesAndPrefetches ∧ Claims.FencesPublishAndAcquire

/-- The cancels (02 R85 to R88): no launch that they cover has a child left to start, one that had such a child or a running leader is
cancelled, and every running gang of it stops at its next boundary. `cancel.l` covers the handle's launch and all that were issued beneath it;
`cancel.g` and `cancel.j` cover those of the graph and of the job, cancel its queued records too, and end the issuing gang, which fails as
cancelled. -/
def Obligations.CancelsReachTheirLaunches : Prop :=
  ∀ (s : State) (a : Reg),
    let stops (t : State) (p : Launch → Prop) : Prop := ∀ x ∈ s.launches, p x → x.completed = false →
      ∃ y ∈ t.launches, y.id = x.id ∧ .waiting ∉ y.children ∧ (.waiting ∈ x.children → y.cancelled = true) ∧
        (∀ u g, .running u ∈ x.children → gangOf s u = some g → g.phase = .running → y.cancelled = true) ∧
        ∀ g ∈ t.others, g.launch = x.id → g.phase = .running → g.cancelled = true
    let mine := s.launches.find? (fun l => l.handle = sreg s.g a && (l.issuer.map (·.1)) = some s.g.uid)
    (mine = none → Delivers s → Runs (.cancelL a) s (Entered 0x2C 0 0 (pcOf s) s)) ∧
    (∀ l, mine = some l → l.completed = true → exec (.cancelL a) s = .next (done [] s)) ∧
    (∀ l, mine = some l → l.completed = false → Runs (.cancelL a) s (fun t => t.mem = s.mem ∧
      stops t (fun x => Relation.ReflTransGen (fun i j => ∃ y ∈ s.launches, y.id = j ∧ y.parent = some i) l.id x.id))) ∧
    (∀ r, launchOf s s.g.launch = some r → Runs .cancelG s (fun t => t.mem = s.mem ∧
      stops t (fun x => x.job = s.g.job ∧ x.pkg = r.pkg ∧ x.graph = r.graph) ∧ (r.job = s.g.job → s.g.phase = .running → EndsWith 0x41 s t) ∧
      ∀ q ∈ t.queues, q.job = s.g.job → q.pkg = r.pkg → ∀ c ∈ q.recs, c.graph = r.graph → c.cancelled = true)) ∧
    Runs .cancelJ s (fun t => t.mem = s.mem ∧ stops t (fun x => x.job = s.g.job ∧ x.pkg = s.g.at_.pkg) ∧
      (∀ r ∈ s.launches, r.id = s.g.launch → r.job = s.g.job → r.pkg = s.g.at_.pkg → s.g.phase = .running → EndsWith 0x41 s t) ∧
      ∀ q ∈ t.queues, q.job = s.g.job → q.pkg = s.g.at_.pkg → ∀ c ∈ q.recs, c.cancelled = true)

/-- A child that no lower one that can start precedes starts (02 R51 to R54): its leader gang is in the slot, all lanes active at the function, with the tile record in s0 to s7, the
level, child index, child count, root level and depth in s8 to s12, 0 in every other register, and the view of its start acquire (R65). A costart
launch starts all its children together, or none (R54). A root launch whose wait is met starts its one child and leaves its queue (17 R462); one
whose counter is short waits, and one that a failed dependency skips completes as failed without a gang (02 R83, 17 R459). -/
def Sys2Proof.Claims.ChildrenStart : Prop :=
  let starts (l : Launch) (k : Nat) (c : Coords) (s t : State) : Prop :=
    ∃ g ∈ t.others, g.at_ = c ∧ g.phase = .running ∧ g.job = l.job ∧ g.level = l.level - 1 ∧ g.launch = l.id ∧ g.child = k ∧
      g.uid = s.nextId ∧ (path g).lanes = 0xFFFFFFFF ∧ (path g).exec = 0xFFFFFFFF ∧ (path g).pc = l.func ∧ pathCount g = 1 ∧
      g.view = (let v := acquired s l.startLevel { g with view := [] }; if l.issuer = none then hostView s v else v) ∧
      g.prio = l.prio ∧ g.xvec = l.xvec ∧ g.fpcsr = 0x2000 ∧ g.blocks = 0 ∧ g.window = 0 ∧
      sregAt g 0 8 = BitVec.ofNat 64 (l.level - 1) ∧ sregAt g 0 9 = BitVec.ofNat 64 k ∧
      sregAt g 0 10 = BitVec.ofNat 64 l.children.length ∧ sregAt g 0 11 = BitVec.ofNat 64 l.root ∧ sregAt g 0 12 = BitVec.ofNat 64 l.depth ∧
      (∀ n, 13 ≤ n → sregAt g 0 n = 0) ∧
      (∀ n < 8, sregAt g 0 n = if l.issuer = none ∧ n ≠ 0 then rw l.tile n else if l.issuer = none then BitVec.ofNat 64 (fld (rw l.tile 0) 31 0)
        else rw (childTile l.tile l.children.length k) n)
  (∀ (s : State) (l : Launch) (k : Nat) (c : Coords) (b : Nat), launchOf s l.id = some l → l.children[k]? = some .waiting → l.cancelled = false →
    l.issuer ≠ none → l.tile.length = 8 → (l.level = 1 → (rw l.tile 7).getLsbD 2 = false ∧ (waitingKids l).head? = some k) →
    (∀ j ∈ waitingKids l, j < k → placeFor s l j = none) → placeFor s l k = some (c, b) →
    Runs (.reeveChildStart l.id k) s (fun t => starts l k c s t ∧ t.mem = s.mem ∧
      ∃ x, launchOf t l.id = some x ∧ x.children = l.children.set k (.running s.nextId))) ∧
  (∀ (s : State) (l : Launch) (k : Nat), launchOf s l.id = some l → l.children[k]? = some .waiting → l.cancelled = false → l.issuer ≠ none →
    l.level = 1 → (rw l.tile 7).getLsbD 2 = true →
    (freeBlocks s l.inst < l.reserved * (waitingKids l).length ∨ startAll l.id (waitingKids l) s = none →
      exec (.reeveChildStart l.id k) s = .next s) ∧
    (l.reserved * (waitingKids l).length ≤ freeBlocks s l.inst → startAll l.id (waitingKids l) s ≠ none →
      Runs (.reeveChildStart l.id k) s (fun t => t.mem = s.mem ∧ ∃ x, launchOf t l.id = some x ∧ x.children.length = l.children.length ∧
        ∀ j < l.children.length, if j ∈ waitingKids l then ∃ u, x.children[j]? = some (.running u) ∧
            ∃ g ∈ t.others, g.uid = u ∧ g.launch = l.id ∧ g.child = j ∧ g.phase = .running ∧ unitOf 1 g.at_ = unitOf 1 l.inst
          else x.children[j]? = l.children[j]?))) ∧
  (∀ (s : State) (pkg q : Nat) (lq : LQueue) (r : QRec) (rest : List QRec),
    s.queues.find? (fun x => x.pkg = pkg && x.q = q) = some lq → lq.recs = r :: rest → r.cancelled = false →
    (∀ p ∈ [pkg, (recCore r.words).pkg], ckptBusy s p = false ∧ isOut s p = false) →
    let wv := fld (rw r.words 3) 47 0
    let waited := (jobOn s pkg lq.job).bind (fun j => j.graphs.find? (fun x => x.idx = fld (rw r.words 3) 63 48))
    let short : Prop := wv ≠ 0 ∧ ∀ x, waited = some x → countFrom x.done x.accepted 0 < wv
    let skipped : Prop := wv ≠ 0 ∧ (rw r.words 0).getLsbD 18 = true ∧ ∃ x, waited = some x ∧ ∃ n ∈ x.failed, n ≤ wv
    (short → exec (.rootLaunchStart pkg q) s = .next s) ∧
    (¬ short → skipped → Runs (.rootLaunchStart pkg q) s (fun t => t.mem = s.mem ∧
      (∃ x, t.queues.find? (fun x => x.pkg = pkg && x.q = q) = some x ∧ x.recs.map (·.number) = rest.map (·.number)) ∧
      ∀ j, jobOn s pkg lq.job = some j → ∃ k, jobOn t pkg lq.job = some k ∧ ∀ x ∈ j.graphs, x.idx = r.graph →
        ∃ y ∈ k.graphs, y.idx = r.graph ∧ y.done = r.number :: x.done ∧ y.failed = r.number :: x.failed)) ∧
    (¬ short → ¬ skipped → r.words.length = 16 → let l := rootOf s pkg q lq.job r
      ∀ c b, placeFor s l 0 = some (c, b) → Runs (.rootLaunchStart pkg q) s (fun t => starts l 0 c { s with nextId := s.nextId + 1 } t ∧
        t.mem = s.mem ∧ ∃ x, t.queues.find? (fun x => x.pkg = pkg && x.q = q) = some x ∧ x.recs = rest)))

/-- A gang that has ended and drained leaves its slot and its child of the launch is done or failed (10 R311, 02 R59, R63); a launch
whose children have all ended completes (02 R64), and a root launch's number enters its graph (02 R82, 17 R463); a freed pool record goes to
the oldest `lnch` that waits (02 R56). -/
def Sys2Proof.Claims.GangsAndLaunchesComplete : Prop :=
  (∀ (s : State) (c : Coords) (g : Gang), gangAt s c = some g → gangOf s g.uid = some g → g.phase = .draining → drained s g = true →
    (∀ l ∈ s.launches, l.issuer.map (·.1) ≠ some g.uid) → (∀ k ∈ s.kiln, k.uid ≠ g.uid) → (∀ f ∈ s.faults, f.uid ≠ g.uid) →
    Runs (.gangEnd c) s (fun t => gangOf t g.uid = none ∧ ∀ x ∈ s.launches, x.id = g.launch → ∃ y ∈ t.launches, y.id = x.id ∧
      y.children = x.children.set g.child (match g.fail with
        | some f => .failed f.1 f.2
        | none => .done))) ∧
  (∀ (s : State) (l : Launch), launchOf s l.id = some l → l.completed = false →
    (∀ c ∈ l.children, c ≠ .waiting ∧ ∀ u, c ≠ .running u) →
    (∀ u p g, l.issuer = some (u, p) → gangOf s u = some g → g.phase = .running →
      Runs (.launchComplete l.id) s (fun t => t.mem = s.mem ∧ ∃ x, launchOf t l.id = some x ∧ x.completed = true ∧ x.children = l.children)) ∧
    (l.issuer = none → Runs (.launchComplete l.id) s (fun t => t.mem = s.mem ∧ launchOf t l.id = none ∧
      ∀ j, jobOn s l.pkg l.job = some j → ∃ k, jobOn t l.pkg l.job = some k ∧
        ∀ x ∈ j.graphs, x.idx = l.graph → ∃ y ∈ k.graphs, y.idx = l.graph ∧ y.done = l.number :: x.done))) ∧
  (∀ (s : State) (l : Level) (c : Coords) (tk : Ticket) (g : Gang), gangOf s tk.uid = some g →
    s.poolQ.find? (fun t => poolUnit t.n t.at_ = poolUnit l.code c && !t.granted &&
      ((gangOf s t.uid).map (fun g => decide (poolHeld s g.job (poolUnit l.code c) < poolShare s g l.code))).getD false) = some tk →
    Runs (.poolRecordGrant l c) s (fun t => t.mem = s.mem ∧
      t.poolQ = upd (fun u => u = tk) (fun u => { u with granted := true }) s.poolQ ∧
      ∃ h, gangOf t tk.uid = some h ∧ h.blocked = false ∧ h.s = g.s ∧ h.paths = g.paths))

/-- Children start as the spec says, and gangs and launches complete (the statements above named here). -/
def Obligations.LaunchesRunTheirChildren : Prop :=
  Claims.ChildrenStart ∧ Claims.GangsAndLaunchesComplete

/-- The sub-tile of child k (R49): in block mode its origin in the split dimension is org + a(k) · G and its extent min(a(k+1) · G, E) − a(k) · G,
with a(k) = floor(k · U / C), and every other dimension is the parent's; in replicate mode every dimension is. The record has passed R47's
checks, so that origins and extents fit their fields. -/
def Obligations.SubTilesFollowTheSplit : Prop :=
  ∀ (ws : List Word) (c k : Nat), k < c → ws.length = 8 → tOrg ws (tDim ws) + tExt ws (tDim ws) ≤ 2 ^ 32 →
    let t := childTile ws c k
    let d := tDim ws
    let G := 2 ^ fld (rw ws 0) 25 20
    let E := tExt ws d
    let a (k : Nat) : Nat := k * ((E + G - 1) / G) / c
    (tMode ws ≠ 1 → tOrg t d = tOrg ws d + a k * G ∧ tExt t d = min (a (k + 1) * G) E - a k * G ∧
      ∀ e < 4, e ≠ d → tOrg t e = tOrg ws e ∧ tExt t e = tExt ws e) ∧
    (tMode ws = 1 → ∀ e < 4, tOrg t e = tOrg ws e ∧ tExt t e = tExt ws e)

/-! Group 6: the kiln and its accumulators (06 R193 to R218, 13 R395 to R416). -/

/-- `mma` and `mldw` whose checks pass publish at level 2, take the next number of the kiln's timeline and bind the handle (13 R403, R405,
06 R211): a new entry holds what a fresh `mma` computes from, an `mma` on a tile that its own gang's suspended operation holds resumes
that operation under its old number (06 R214), on the rows active at the re-issue (the model's choice, log 50), and a full kiln makes the
gang wait (03 R124). -/
def Sys2Proof.Claims.KilnInstructionsEnter : Prop :=
  ∀ (s : State) (t : BitVec 4) (a b : Reg) (h : BitVec 3), s.g.phase ≠ .free →
    let g := s.g
    let oa := opBlock g a
    let ob := opBlock g b
    let tile := tileBase s g + t.toNat
    let st := tileStatus s g.at_ tile
    let n := (timelineOf s (kilnOf g) g.job).last + 1
    let room := (s.kiln.filter (fun k => clIx k.at_ = clIx g.at_)).length + kilnNeed s g.at_
    (mmaTrap s g t oa ob = none → (st.susp = false ∨ st.cause = 0) → mmaCheck s g oa ob 0 = none →
      (room < 32 → Runs (.mma t a b h) s (fun u => (∃ e, u.kiln = s.kiln ++ [e] ∧ e.op = ⟨kilnOf g, g.job, n⟩ ∧ e.uid = g.uid ∧
          e.tile = tile ∧ e.opA = oa ∧ e.opB = ob ∧ e.act = execMask g ∧ e.steps = kK oa / 32 ∧ e.next = 0 ∧ e.state = 0 ∧
          e.aRegs = aGroup g oa ∧ e.prio = g.prio.toNat) ∧
        tlh u.g h = ⟨some (kilnOf g), n, 0⟩ ∧ (timelineOf u (kilnOf g) g.job).last = n ∧ pcOf u = pcOf s + 4 ∧ u.mem = (publish 2 s).mem ∧
        u.g.s = g.s ∧ u.acc = s.acc)) ∧
      (32 ≤ room → exec (.mma t a b h) s = .next (stall s))) ∧
    (∀ e, mmaTrap s g t oa ob = none → st.susp = true → st.cause ≠ 0 → suspEntry s g.at_ g.job tile = some e →
      mmaCheck s g oa ob e.next = none → Runs (.mma t a b h) s (fun u =>
        u.kiln.map (fun k => (k.id, k.op, k.next)) = s.kiln.map (fun k => (k.id, k.op, k.next)) ∧
        (∀ k ∈ u.kiln, k.id = e.id → k.state = 3 ∧ k.cause = 0 ∧ k.opA = oa ∧ k.opB = ob ∧ k.act = execMask g) ∧
        tlh u.g h = ⟨some e.op.eng, e.op.n, 0⟩ ∧ u.mem = s.mem ∧ pcOf u = pcOf s + 4)) ∧
    (blockBad s g false ob = false → checkB s g ob = none → Runs (.mldw h b) s (fun u =>
      (∃ m, u.mldws = s.mldws ++ [m] ∧ m.op = ⟨kilnOf g, g.job, n⟩ ∧ m.opB = ob ∧ m.uid = g.uid) ∧
      tlh u.g h = ⟨some (kilnOf g), n, 0⟩ ∧ pcOf u = pcOf s + 4 ∧ u.mem = (publish 2 s).mem)) ∧
    (Delivers s → (tileShare s g ≤ t.toNat → Runs (.mma t a b h) s (Entered 0x22 0 (t.setWidth 64) (pcOf s) s)) ∧
      (blockBad s g false ob = true → Runs (.mldw h b) s (Entered 0x23 0 0 (pcOf s) s)) ∧
      (∀ k, mmaTrap s g t oa ob = some k → Runs (.mma t a b h) s (Entered k.cause k.addr k.info (pcOf s) s)))

/-- The events of the kiln (06 R201 to R218, 03 R125, 21 R526, R531), in a package that heat has not stopped: the chosen entry starts on a
latched tile; a step adds to each element of the active rows the rounded exact sum of 32 scaled products (here for an A operand in
registers), and the last one completes the number; a failed fetch of a byte of A or a parity error in the weights that the next step
reads suspends the operation before it, the tile still busy where the operation had started; a restarted one goes on, its tile suspended
no more. In one that is stopped nothing changes. -/
def Obligations.KilnOperationsRun : Prop :=
  (∀ (s : State) (e : KilnEntry) (l : Latch), s.kiln.find? (fun k => k.id = e.id) = some e →
    hitLatch s (unitOf 2 e.at_) e.op.job e.opB e.view = some l → (chosen s (unitOf 2 e.at_)).map (·.id) = some e.id → isGated s e.at_.pkg = false →
    isStopped s e.at_.pkg = false → CellsWf {} s.tiles → Runs (.mmaStart e.id) s (fun t => t.mem = s.mem ∧ t.acc = s.acc ∧ (tileStatus t e.at_ e.tile).busy = true ∧
      ∃ k, t.kiln.find? (fun k => k.id = e.id) = some k ∧ k.state = 1 ∧ k.weights = l.bytes ∧ k.wscales = l.scales ∧ k.latch = l.idx)) ∧
  (∀ (s : State) (e : KilnEntry), s.kiln.find? (fun k => k.id = e.id && k.state = 1) = some e → isStopped s e.at_.pkg = false →
    s.picks = [] → kKind e.opA = 1 →
    CellsWf 0 s.acc → CellsWf {} s.tiles →
    let reg (l b : Nat) : Nat := ((lane ((e.aRegs[b / 4]?).getD (Vector.replicate 32 0)) l).toNat / 2 ^ (8 * (b % 4))) % 256
    let sa (l : Nat) : Nat := (lane e.sRegs l).toNat / 2 ^ (8 * e.next) % 256
    let blk := kKb0 e.opA + e.next
    let value (l j : Nat) : W32 := (stepValue
      ((List.range 32).map (fun i => kDecode (kFmt e.opA) (sa l) (codeAt (kBits (kFmt e.opA)) (32 * e.next + i) (reg l))))
      ((List.range 32).map (fun i => kDecode (kFmt e.opB) (bScale e blk j) (bCode e (32 * blk + i) j)))
      (kScale (kFmt e.opA) (sa l)) (kScale (kFmt e.opB) (bScale e blk j))).1
    Runs (.mmaStepComplete e.id) s (fun t => t.mem = s.mem ∧
      (∀ l < 32, ∀ j < 256, accAt t e.at_ e.tile l j = if inMask e.act l then (addRne (accAt s e.at_ e.tile l j) (value l j)).1
        else accAt s e.at_ e.tile l j) ∧
      (∀ k, (∀ l < 32, ∀ j < 256, k ≠ accKey e.at_ e.tile l j) → cget 0 t.acc k = cget 0 s.acc k) ∧
      (tileStatus t e.at_ e.tile).count = ((tileStatus s e.at_ e.tile).count + 1) % 2 ^ 16 ∧
      (e.steps ≤ e.next + 1 → (∀ k ∈ t.kiln, k.id ≠ e.id) ∧ e.op.n ∈ (timelineOf t e.op.eng e.op.job).done ∧
        (tileStatus t e.at_ e.tile).busy = false) ∧
      (e.next + 1 < e.steps → t.kiln.map (·.id) = s.kiln.map (·.id) ∧ (∀ k ∈ t.kiln, k.id = e.id → k.next = e.next + 1) ∧
        (tileStatus t e.at_ e.tile).resume = e.next + 1))) ∧
  (∀ (s : State) (e : KilnEntry) (a : Word), s.kiln.find? (fun k => k.id = e.id) = some e → CellsWf {} s.tiles →
    (e.state = 1 ∨ e.state = 3 → fetchesA e e.next a = true ∨ readsB e e.next a = true →
      Runs (.operandFetchFailure e.id e.next a) s (fun t => t.mem = s.mem ∧ t.acc = s.acc ∧
      (∀ k ∈ t.kiln, k.id = e.id → k.state = 2 ∧ k.cause = 0x17 ∧ k.addr = a) ∧
      (tileStatus t e.at_ e.tile).susp = true ∧ (tileStatus t e.at_ e.tile).busy = e.began ∧ (tileStatus t e.at_ e.tile).entry = e.slot ∧
      (tileStatus t e.at_ e.tile).resume = e.next ∧ (tileStatus t e.at_ e.tile).cause = 0x17 ∧
      (fetchesA e e.next a = true → t.latches = s.latches) ∧
      (fetchesA e e.next a = false → ∀ l ∈ t.latches, l.at_ = unitOf 2 e.at_ → l.idx = e.latch → l.valid = false))) ∧
    (isStopped s e.at_.pkg = true → e.state = 3 → Runs (.mmaRestart e.id) s (fun t => t = s)) ∧
    (isStopped s e.at_.pkg = false → e.state = 3 → e.weights ≠ #[] → Runs (.mmaRestart e.id) s (fun t => t.mem = s.mem ∧ t.acc = s.acc ∧
      ∀ k ∈ t.kiln, k.id = e.id → k.state = 1)) ∧
    (∀ l, isStopped s e.at_.pkg = false → e.state = 3 → e.weights = #[] → hitLatch s (unitOf 2 e.at_) e.op.job e.opB e.view = some l →
      Runs (.mmaRestart e.id) s (fun t => t.mem = s.mem ∧ (∀ k ∈ t.kiln, k.id = e.id → k.state = 1 ∧ k.weights = l.bytes) ∧
        (tileStatus t e.at_ e.tile).busy = true ∧ (tileStatus t e.at_ e.tile).susp = false)))

/-- WEIGHT_LATCH_LOADED serves the oldest `mldw` of a cluster whose kiln holds no operation (06 R206, R208): its number completes, and
where no latch holds the tile already for its issuer the victim latch takes it, once no byte of it waits for a path (19 R507). What counts as
a hit, and that an `mldw` that hits completes with its event, is the model's reading (log 37). -/
def Sys2Proof.Claims.WeightTilesAreLatched : Prop :=
  ∀ (s : State) (c : Coords) (i : Nat) (ok : Bool) (m : KilnLoad), s.kiln = [] → s.mldws.find? (fun m => unitOf 2 m.at_ = unitOf 2 c) = some m →
    victim s (unitOf 2 c) = some i → isStopped s c.pkg = false →
    (hitLatch s (unitOf 2 c) m.op.job m.opB m.view = none → ∀ a h, mapByte s m.at_ m.op.job noWin a = .ok h →
      flows s c.pkg (locPkg h.loc) = true) →
    Runs (.weightLatchLoaded c i ok) s (fun t => (∀ x ∈ t.mldws, x.op ≠ m.op) ∧ m.op.n ∈ (timelineOf t m.op.eng m.op.job).done ∧
      t.acc = s.acc ∧ t.stores = s.stores ∧
      ((hitLatch s (unitOf 2 c) m.op.job m.opB m.view).isSome = true → t.latches = s.latches ∧ t.mem = s.mem) ∧
      (hitLatch s (unitOf 2 c) m.op.job m.opB m.view = none → ∃ l ∈ t.latches, l.at_ = unitOf 2 c ∧ l.idx = i ∧ l.job = m.op.job ∧
        l.opB = m.opB ∧ (ok = false → l.valid = false) ∧ l.scales.size ≤ 256 * (kK m.opB / 32)))

/-- mma and mldw enter the kiln, and weight tiles are latched (the statements above named here). -/
def Obligations.KilnInstructionsEnter : Prop :=
  Claims.KilnInstructionsEnter ∧ Claims.WeightTilesAreLatched

/-- The accumulator instructions where nothing stands before them in the order of their tiles (13 R396, R406 to R413): `accz` clears a
tile; `accwr`, `accadd` and `acccp` change the elements of the active rows and the shape's columns; `accmx` gives the largest magnitude;
`acccvt` sends the rows out (here FP32 unchanged); and one that must wait holds its gang. No other element changes. That one behind another
tile-ordered instruction waits, and that one whose core has no slot of the matrix port for it enters the order without one, is the model's
choice (log 39). -/
def Sys2Proof.Claims.AccumulatorInstructionsAct : Prop :=
  ∀ (s : State) (d a : BitVec 4) (r : Reg) (n : BitVec 3) (m : RndSel), CellsWf 0 s.acc → CellsWf {} s.tiles →
    let g := s.g
    let D := tileOf s g d
    let x := shape g n
    let el (t : State) (l j : Nat) : W32 := accAt t g.at_ D l j
    let src (l j : Nat) : W32 := accAt s g.at_ (tileOf s g a) l j
    let inShape (l j : Nat) : Prop := Active s l ∧ shCol0 x ≤ j ∧ j < shCol0 x + shCols x
    let changes (i : Instr) (P : Nat → Nat → Prop) (v : Nat → Nat → W32) : Prop := Runs i s (fun t =>
      (∀ l < 32, ∀ j < 256, (P l j → el t l j = v l j) ∧ (¬ P l j → el t l j = el s l j)) ∧
      (∀ k, (∀ l < 32, ∀ j < 256, k ≠ accKey g.at_ D l j) → cget 0 t.acc k = cget 0 s.acc k) ∧
      pcOf t = pcOf s + 4 ∧ t.mem = s.mem ∧ t.g.s = g.s ∧ t.g.v = g.v)
    let goes (o : TileOp) : Prop := s.iss.enters = false ∧ accTrap s g o = none ∧ tileWaits s g.at_ g.job ((tileNames o).map (tileOf s g)) = [] ∧
      ∀ u ∈ s.tickets, u.core = unitOf 1 g.at_ → ∀ k ∈ u.tiles, k ∉ (tileNames o).map (tileOf s g)
    let held (o : TileOp) : Prop := s.iss.enters = true ∨ (∃ i ∈ tileWaits s g.at_ g.job ((tileNames o).map (tileOf s g)), letsGo s i = false) ∨
      ∃ u ∈ s.tickets, u.core = unitOf 1 g.at_ ∧ ∃ k ∈ u.tiles, k ∈ (tileNames o).map (tileOf s g)
    shCol0 x + shCols x ≤ 256 →
    (goes (.z d) → changes (.accz d) (fun _ _ => True) (fun _ _ => 0)) ∧
    (goes (.wr d r n) → changes (.accwr d r n) inShape (fun l j => lane (vreg g r (j - shCol0 x)) l)) ∧
    (goes (.add d a n) → suspTrap s g [d, a] = none → changes (.accadd d a n) inShape (fun l j => (addRne (el s l j) (src l j)).1)) ∧
    (goes (.cp d a n) → suspTrap s g [d, a] = none → changes (.acccp d a n) inShape src) ∧
    (goes (.mx r d n) → suspTrap s g [d] = none → ∃ z : Nat, exec (.accmx r d n) s = .next (done [(4, .s r.toNat (BitVec.ofNat 64 z))] s) ∧
      ((∃ l j, inShape l j ∧ 0x7F800000 < (el s l j).toNat % 2 ^ 31) → z = 0x7FC00000) ∧
      ((∀ l j, inShape l j → (el s l j).toNat % 2 ^ 31 ≤ 0x7F800000) → (∀ l j, inShape l j → (el s l j).toNat % 2 ^ 31 ≤ z) ∧
        (z = 0 ∨ ∃ l j, inShape l j ∧ (el s l j).toNat % 2 ^ 31 = z))) ∧
    (goes (.cvt r d m n) → suspTrap s g [d] = none → ∃ ws, exec (.acccvt r d m n) s = .next (done ws s) ∧
      (∀ w ∈ ws, w.1 = 4) ∧ (∀ q < cvtRegs x, ∃ f, (ws[q]?) = some (4, .v (vnum g r q) (execMask g) (mkLanes f)) ∧
        (shFmt x = 15 → shDiv x = false → shBlk x = false → ∀ l, Active s l → (el s l (shCol0 x + q)).toNat % 2 ^ 31 ≤ 0x7F800000 →
          f l = el s l (shCol0 x + q)))) ∧
    (∀ p ∈ [(Instr.accz d, TileOp.z d), (.accwr d r n, .wr d r n), (.accadd d a n, .add d a n), (.acccp d a n, .cp d a n),
        (.acccvt r d m n, .cvt r d m n), (.accmx r d n, .mx r d n)],
      (∀ k, Delivers s → accTrap s g p.2 = some k → Runs p.1 s (Entered k.cause k.addr k.info (pcOf s) s)) ∧
      (accTrap s g p.2 = none → held p.2 → Runs p.1 s (fun t =>
        t.g = { (unissue s).g with hold := .tile s.nextId } ∧ t.acc = s.acc ∧ t.mem = s.mem ∧ ∃ k, t.tickets = s.tickets ++ [k] ∧
          k.ticket = s.nextId ∧ k.uid = g.uid ∧ k.op = p.2 ∧ k.src = g ∧ k.since = s.cycle ∧ k.tiles = (tileNames p.2).map (tileOf s g))))

/-- TILE_HOLD_END: the instruction that a gang's ticket holds acts once no entry before it holds it any more (13 R396, R397), in a cycle in
which its core has a slot of the matrix port left (16 R424, log 39), and issues then: an `accz` clears its tile; an `accwr` writes the elements of its shape from the
registers as they were when it entered (00 R11, 03 R106). -/
def Sys2Proof.Claims.TileHoldsEnd : Prop :=
  ∀ (s : State) (c : Coords) (g : Gang) (t : BitVec 4) (k : TileTicket), gangAt s c = some g → g.phase = .running → g.cancelled = false →
    g.stopping = false → g.hold = .tile k.ticket → s.tickets.find? (fun t => t.uid = g.uid && g.hold = .tile t.ticket && g.phase = .running &&
      !g.cancelled && !g.stopping) = some k →
    CellsWf 0 s.acc → (∀ h ∈ s.g :: s.others, inSlot h = true → h.at_ = c → h = g) →
    let T := tileOf s g t
    let ends (P : State → Prop) : Prop := Runs (.tileHoldEnd c) s (fun u => P u ∧
      (∃ h, gangAt u c = some h ∧ h.hold = .none ∧ (path h).pc = (path g).pc + 4 ∧ h.lastIssue = s.cycle ∧ h.icount = g.icount + 1) ∧ u.mem = s.mem ∧ ∀ x ∈ u.tickets, x.ticket ≠ k.ticket)
    let free := pipeFree s (coreIx c) (some .matrix) = true
    (ticketReady s k = false ∨ ¬ free → exec (.tileHoldEnd c) s = .next s) ∧
    (ticketReady s k = true → free → k.op = .z t → ends (fun u => ∀ l < 32, ∀ j < 256, accAt u c T l j = 0)) ∧
    (∀ r n, ticketReady s k = true → free → k.op = .wr t r n → let x := shape k.src n
      shCol0 x + shCols x ≤ 256 → ends (fun u => ∀ l < 32, ∀ j < 256,
        accAt u c T l j = if inMask (execMask k.src) l = true ∧ shCol0 x ≤ j ∧ j < shCol0 x + shCols x then lane (vreg k.src r (j - shCol0 x)) l
          else accAt s c T l j))

/-- Accumulator instructions act in the order of their tiles (the statements above named here). -/
def Obligations.AccumulatorInstructionsAct : Prop :=
  Claims.AccumulatorInstructionsAct ∧ Claims.TileHoldsEnd

/-- `shset` checks and writes a shape record and `shget` reads it (13 R401); `accrd` sends the elements of a tile as they are and its count
(13 R409, 06 R210), and `ovfq` the tiles that hold a non-finite value (13 R414). -/
def Sys2Proof.Claims.ShapesAndTileReads : Prop :=
  ∀ (s : State) (n : BitVec 3) (a d : Reg) (t : BitVec 4), let g := s.g; let x := shape g n
    (shapeBad (sreg g a) = false → exec (.shset n a) s = .next (done [(2, .sh n.toNat (sreg g a))] s)) ∧
    (shapeBad (sreg g a) = true → Delivers s → Runs (.shset n a) s (Entered 0x02 0 0 (pcOf s) s)) ∧
    exec (.shget d n) s = .next (done [(2, .s d.toNat (g.sh[n.toNat]'(by omega)))] s) ∧
    (shCols x ≤ 16 → Holds g [(d, shCols x)] → t.toNat < tileShare s g →
      exec (.accrd d t a n) s = .next (flagged ((List.range (shCols x)).map (fun i => RegWrite.v (vnum g d i) (execMask g)
        (mkLanes (fun l => accAt s g.at_ (tileOf s g t) l (shCol0 x + i)))) ++
        [.s a.toNat (BitVec.ofNat 64 (tileStatus s g.at_ (tileOf s g t)).count)]) 0 s)) ∧
    (Delivers s → shCols x ≤ 16 → Holds g [(d, shCols x)] → tileShare s g ≤ t.toNat →
      Runs (.accrd d t a n) s (Entered 0x22 0 (t.setWidth 64) (pcOf s) s)) ∧
    ∃ z, exec (.ovfq d) s = .next (flagged [.s d.toNat z] 0 s) ∧ ∀ i < 64, z.getLsbD i = true ↔
      i < 16 ∧ i < tileShare s g ∧ (tileStatus s g.at_ (tileBase s g + i)).nonfinite = true

/-- `lsapp` (13 R415): an overflow lowers the loss scale by 2^-dn, not below 2^-126, and clears `%ovf` and the counter; else the counter
counts up, and at n the scale grows by 2^u, not above 2^127. Bad parameters trap. -/
def Sys2Proof.Claims.LossScaleFollowsOverflow : Prop :=
  ∀ (s : State) (d a : Reg), let p := sreg s.g a
    let n := p.toNat % 2 ^ 32; let u := p.toNat / 2 ^ 32 % 256; let dn := p.toNat / 2 ^ 40 % 256
    let e := s.g.lscale.toNat / 2 ^ 23
    let good := p.toNat < 2 ^ 48 ∧ n ≠ 0 ∧ u ≤ 15 ∧ dn ≤ 15 ∧ 1 ≤ e ∧ e ≤ 254
    let c := sreg s.g d + 1
    (good → s.g.ovf.toNat % 2 ^ 16 ≠ 0 → ∃ x : W32, exec (.lsapp d a) s = .next (done [(2, .s d.toNat 0), (2, .lscale x), (2, .ovfSet 0)] s) ∧
      (dn < e → x.toNat = s.g.lscale.toNat - dn * 2 ^ 23) ∧ (e ≤ dn → x = 0x00800000)) ∧
    (good → s.g.ovf.toNat % 2 ^ 16 = 0 → n ≤ c.toNat → ∃ x : W32, exec (.lsapp d a) s = .next (done [(2, .s d.toNat 0), (2, .lscale x)] s) ∧
      (e + u < 254 → x.toNat = s.g.lscale.toNat + u * 2 ^ 23) ∧ (254 ≤ e + u → x = 0x7F000000)) ∧
    (good → s.g.ovf.toNat % 2 ^ 16 = 0 → c.toNat < n → exec (.lsapp d a) s = .next (done [(2, .s d.toNat c), (2, .lscale s.g.lscale)] s)) ∧
    (¬ good → Delivers s → Runs (.lsapp d a) s (Entered 0x02 0 0 (pcOf s) s))

/-- Shapes and tile reads, and the loss scale (the statements above named here). -/
def Obligations.ShapesTileReadsAndLossScale : Prop :=
  Claims.ShapesAndTileReads ∧ Claims.LossScaleFollowsOverflow

/-! Group 6: the granary (07 R219 to R240, 13 R417, R418). -/

/-- `pkld`, `pkq` and `pkb` whose operands pass their checks publish at level 3, take the next number of the granary's timeline, bind the
handle and join the die's queue; a full queue makes the gang wait; a device address and a bad descriptor trap (07 R226, R227, 13 R417). -/
def Sys2Proof.Claims.GranaryInstructionsQueue : Prop :=
  ∀ (s : State) (h : BitVec 3) (a : Reg), s.g.phase ≠ .free →
    let g := s.g
    let ws := granWords g a
    let n := (timelineOf s (granaryOf g) g.job).last + 1
    let room := (s.granary.filter (fun o => unitOf 3 o.at_ = unitOf 3 g.at_)).length
    let queues (i : Instr) (kind : Nat) (rec_ : Word) (ws : List Word) (trap : Option Trap) : Prop :=
      (trap = none → room < 16 → Runs i s (fun t =>
        (∃ o, t.granary = s.granary ++ [o] ∧ o.id = ⟨granaryOf g, g.job, n⟩ ∧ o.kind = kind ∧ o.recA = rec_ ∧ o.words = ws ∧
          o.uid = g.uid ∧ o.at_ = g.at_ ∧ o.started = false) ∧
        tlh t.g h = ⟨some (granaryOf g), n, 0⟩ ∧ (timelineOf t (granaryOf g) g.job).last = n ∧ pcOf t = pcOf s + 4 ∧
        t.mem = (publish 3 s).mem ∧ t.g.s = g.s ∧ t.g.v = g.v)) ∧
      (trap = none → 16 ≤ room → exec i s = .next (stall s)) ∧
      (∀ k, trap = some k → Delivers s → Runs i s (Entered k.cause k.addr k.info (pcOf s) s))
    let r := sreg g a
    queues (.pkld h a) 0 r [] (if tagOf r = 15 then some ⟨0x14, r, 0⟩
      else if tagOf r = 0 ∧ r.toNat % 256 = 0 ∨ tagOf r = 3 ∧ r.toNat % 256 = 0 ∨ tagOf r = 4 ∧ r.toNat % 256 = 0 then none
      else some ⟨0x28, 0, 0⟩) ∧
    queues (.pkq h a) 1 (ws.headD 0) ws (granaryTrap (ws.take 4) (granBad true ws)) ∧
    queues (.pkb h a) 2 (ws.headD 0) ws (granaryTrap (ws.take 4) (granBad false ws))

/-- The bytes of some ranges that a granary operation reaches stand where its requests have a path that lets them pass (19 R507, R538). -/
def Sys2Proof.Claims.Paths (s : State) (o : GranaryOp) (ps : List (Word × Nat)) : Prop :=
  ∀ p ∈ ps, ∀ i < p.2, ∀ h, mapByte s o.at_ o.id.job noWin (p.1 + wd i) = .ok h → flows s o.at_.pkg (locPkg h.loc) = true

/-- GRANARY_OP_START (07 R219 to R223, R237): the oldest operation of a die reads its 32-word record and checks it; an unreadable record or
one that fails its check is a fault of kind 1 and leaves memory alone; a `pkld` with a good record invalidates its key slot; another operation whose slot
does not carry its tag faults with kind 2. -/
def Sys2Proof.Claims.GranaryOperationsStart : Prop :=
  ∀ (s : State) (c : Coords) (o : GranaryOp), granHead s c = some o → o.started = false → granCancelled s o = false → o.table = [] →
    o.fault = none → s.picks = [] → s.lines = [] → isStopped s c.pkg = false → Paths s o [(o.recA, 256)] →
    let starts (P : State → GranaryOp → Prop) : Prop := Runs (.granaryOpStart c) s (fun t => t.mem = s.mem ∧ t.g = s.g ∧ t.stores = s.stores ∧
      ∃ u, t.granary = upd (fun x => x.id = o.id) (fun _ => u) s.granary ∧ u.id = o.id ∧ u.started = true ∧ P t u)
    (∀ a, granLow s o permR [(o.recA, 256)] = some a → starts (fun t u => u.fault = some (1, o.recA) ∧ t.keySlots = s.keySlots)) ∧
    (granLow s o permR [(o.recA, 256)] = none → o.kind ≠ 2 → starts (fun t u => u.table.length = 32 ∧
      (∀ i < 32, ∀ b < 8, ∀ h, mapByte s o.at_ o.id.job noWin (o.recA + wd (8 * i + b)) = .ok h →
        (rw u.table i).toNat / 256 ^ b % 256 = (homeByte s h.loc h.key).toNat) ∧
      let v := { o with started := true, table := u.table }
      (recordBad v = true → u = { v with fault := some (1, o.recA) } ∧ t.keySlots = s.keySlots) ∧
      (recordBad v = false → o.kind = 0 → u = v ∧ ∃ k, keySlot t v = some k ∧ k.tag = none) ∧
      (recordBad v = false → o.kind = 1 → t.keySlots = s.keySlots ∧
        (((keySlot s v).bind (·.tag)) = some (keyTag v) → u = v) ∧
        (((keySlot s v).bind (·.tag)) ≠ some (keyTag v) → u = { v with fault := some (2, o.recA) }))))

/-- The candidates of a query (07 R230, R231): the k best by value, a NaN below every number, ties to the lower index; they come in
rank order, and everything left out ranks after each of them. -/
def Obligations.CandidatesAreTheBest : Prop :=
  (∀ (k : Nat) (l : List (Nat × W32)), (l.map (·.1)).Nodup →
    (bestK k l).length = min k l.length ∧ (∀ x ∈ bestK k l, x ∈ l) ∧
    (bestK k l).Pairwise (fun a b => ranksBefore a b = true) ∧
    ∀ x ∈ l, x ∉ bestK k l → ∀ y ∈ bestK k l, ranksBefore y x = true) ∧
  (∀ (i j : Nat) (x y : W32), (val32 x).isNan = true → (val32 y).isNan = false → ranksBefore (j, y) (i, x) = true) ∧
  (∀ (i j : Nat) (x : W32), ranksBefore (i, x) (j, x) = true ↔ i < j)

/-- GRANARY_QUERY_BOUNDARY (07 R230, R232, R237, R238): where every byte of the query can be read or written as it needs, the next query
completes and no byte outside its candidates and its output row changes; an input that cannot be read, with writable outputs, is a
fault of kind 4 at the lowest failing address and changes no memory. -/
def Sys2Proof.Claims.QueriesRunOneByOne : Prop :=
  ∀ (s : State) (c : Coords) (o : GranaryOp) (k : KeySlot), granHead s c = some o → o.started = true → o.kind = 1 → o.fault = none →
    o.nextQ < opB o → granCancelled s o = false → keySlot s o = some k → s.picks = [] → s.lines = [] → isStopped s c.pkg = false →
    let inA := opIn o + wd (o.nextQ * tQp o)
    let outs := [(opCand o + wd (16 * (tK o * o.nextQ)), 16 * tK o), (opOut o + wd (o.nextQ * tOp o), tElems o * tOsz o)]
    (granLow s o permR [(inA, 2 * tD o)] = none → granLow s o permW outs = none →
      (∀ r < tN o * tN o, granLow s o permR [(rowVa o r, tRow o)] = none) → Memory.wf s.mem →
      (∀ p ∈ outs, ∀ i < p.2, sramTag (p.1 + wd i) = true) →
      Paths s o ((inA, 2 * tD o) :: outs ++ (List.range (tN o * tN o)).map (fun r => (rowVa o r, tRow o))) →
      Runs (.granaryQueryBoundary c) s (fun t => t.g.s = s.g.s ∧ t.keySlots = s.keySlots ∧
        (∃ u, t.granary = upd (fun x => x.id = o.id) (fun _ => u) s.granary ∧ u.nextQ = o.nextQ + 1 ∧ u.fault = none) ∧
        ∀ l, (∀ p ∈ outs, ∀ i < p.2, ∀ h, mapByte s o.at_ o.id.job noWin (p.1 + wd i) = .ok h → h.loc ≠ l) → memByte t l = memByte s l)) ∧
    (∀ a, granLow s o permR [(inA, 2 * tD o)] = some a → granLow s o permW outs = none →
      Runs (.granaryQueryBoundary c) s (fun t =>
        t = { s with cut := false, granary := upd (fun x => x.id = o.id) (fun _ => { o with fault := some (4, a) }) s.granary }))

/-- GRANARY_SEGMENT_WRITE (04 R158, 07 R235): the next 64-byte segment of a row, with the accumulator at the last one, enters its homes and
is published at level 3; no other byte changes. -/
def Sys2Proof.Claims.SegmentsArePublished : Prop :=
  ∀ (s : State) (c : Coords) (o : GranaryOp) (w : SegWrite) (rest : List SegWrite), granHead s c = some o → o.started = true → o.kind = 2 →
    o.segs = w :: rest → w.bytes.length + w.acc.length ≤ 68 → ((w.bytes ++ w.acc).map (·.1)).Nodup → Memory.wf s.mem →
    (w.bytes ++ w.acc ≠ []) → isStopped s c.pkg = false → (∀ b ∈ w.bytes ++ w.acc, flows s c.pkg (locPkg b.1) = true) →
    Runs (.granarySegmentWrite c) s (fun t =>
      (∀ b ∈ w.bytes ++ w.acc, memByte t b.1 = b.2.1 ∧ s.wseq < topOf t b.1) ∧
      (∀ l, (∀ b ∈ w.bytes ++ w.acc, b.1 ≠ l) → memByte t l = memByte s l) ∧
      (∃ u, t.granary = upd (fun x => x.id = o.id) (fun _ => u) s.granary ∧ u.segs = rest ∧ u.rows = o.rows ∧
        (rest = [] → u.cur = none)) ∧
      ∃ p ∈ t.pubs, p.by_ = some (o.uid, o.at_) ∧ p.level = 3 ∧ ∀ b ∈ w.bytes ++ w.acc, s.wseq < cget 0 p.view b.1)

/-- GRANARY_OP_COMPLETE (07 R222, R229, R237, R239): an operation that has nothing more to do leaves the queue and its number completes; its
fault waits, with cause 0x25, for a `tlwait` that covers it; a `pkld` whose tables can be read gives its key slot its tag. -/
def Sys2Proof.Claims.GranaryOperationsComplete : Prop :=
  ∀ (s : State) (c : Coords) (o : GranaryOp), granHead s c = some o → granDone s o = true → isStopped s c.pkg = false →
    let n := tN o * tKp o
    let m := if tKfmt o = 0 then 0 else tN o * tNb o
    let keys := [(tw o 4, n), (tw o 5, n), (tw o 6, m), (tw o 7, m)]
    (o.kind = 0 → Paths s o keys) →
    Runs (.granaryOpComplete c) s (fun t => t.granary = s.granary.filter (fun x => x.id ≠ o.id) ∧
      o.id.n ∈ (timelineOf t o.id.eng o.id.job).done ∧ (o.kind ≠ 0 → t.mem = s.mem ∧ t.keySlots = s.keySlots) ∧
      (∀ k a, o.fault = some (k, a) → (o.id.n, 0x25, a, BitVec.ofNat 64 (o.id.n % 2 ^ 32 * 2 ^ 32 + k)) ∈
        (timelineOf t o.id.eng o.id.job).faults) ∧
      (o.kind = 0 → o.fault = none → granCancelled s o = false →
        (granLow s o permR keys = none → s.lines = [] →
          ∃ x ∈ t.keySlots, x.at_ = unitOf 3 c ∧ x.slot = physSlot s o ∧ x.tag = some (keyTag o)) ∧
        (∀ a, granLow s o permR keys = some a → t.keySlots = s.keySlots ∧
          (o.id.n, 0x25, a, BitVec.ofNat 64 (o.id.n % 2 ^ 32 * 2 ^ 32 + 3)) ∈ (timelineOf t o.id.eng o.id.job).faults)))

/-- Granary instructions queue, and their operations start, run and complete (the statements above named here). -/
def Obligations.GranaryOperationsRun : Prop :=
  Claims.GranaryInstructionsQueue ∧ Claims.GranaryOperationsStart ∧ Claims.QueriesRunOneByOne ∧ Claims.SegmentsArePublished ∧
  Claims.GranaryOperationsComplete

namespace Sys2Proof.Claims

open Sys2Proof.Machine

/-- A list of packages leads from one package to another, link by link (19 R538). -/
def Walks (s : State) (cold : Bool) : Nat → List Nat → Nat → Prop
  | p, [], q => p = q
  | p, h :: r, q => h ∈ neighbours s cold p ∧ Walks s cold h r q
/-- The bond record of a port's group is settled (19 R505, R506, R508): without two members there is no bond, and else 4 lanes for each of
the ports in use, the largest power of two of the healthy ones. -/
def Settled (t : State) (pkg g : Nat) : Prop :=
  let ms := bondMembers t pkg g
  let up := ms.filter (fun n => (portOf t pkg n).state = 2 && !(partner t pkg n).any (fun q => (portOf t q.1 q.2).state = 3))
  let b := bondOf t pkg g
  (ms.length < 2 → b.width = 0 ∧ b.members = 0) ∧
  (2 ≤ ms.length → b.width = 4 * (if 4 ≤ up.length then 4 else if 2 ≤ up.length then 2 else up.length))
/-- A cancel has reached the launches that `p` names (02 R62, R85): none of their children is left to start, and one that had such a child
or a leader that ran is cancelled. -/
def Stopped (s t : State) (p : Launch → Prop) : Prop :=
  ∀ x ∈ s.launches, p x → x.completed = false → ∃ y ∈ t.launches, y.id = x.id ∧ .waiting ∉ y.children ∧
    (.waiting ∈ x.children → y.cancelled = true) ∧
    ∀ u g, .running u ∈ x.children → gangOf s u = some g → g.phase = .running → y.cancelled = true
/-- The launches of a job that started on a package. -/
def ofJob (job pkg : Nat) (x : Launch) : Prop := x.job = job ∧ x.pkg = pkg
/-- A command is the next one of its confirmed session, none waits before it, and no earlier one has still to complete (17 R450). -/
def NextOf (h : Cmd) (s : State) : Prop :=
  ∃ x, sessOf s h.pkg h.sess = some x ∧ x.confirmed = true ∧ x.serving = false ∧ x.waiting = [] ∧ h.seq = x.next ∧
    sessBusy s h.pkg h.sess = false
/-- A command that must wait waits behind those of its session that arrived before it (17 R450). -/
def waits (i : Instr) (h : Cmd) (s : State) : State :=
  onSess h.pkg h.sess (fun x => { x with waiting := x.waiting ++ [(h, some i, s.cycle)], fails := 0 }) s
/-- The functions that a command needs are ready, and its package does not refuse it as one that is out of service (21 R528, R529, log 22). -/
def Serves (s : State) (h : Cmd) (i : Instr) : Prop :=
  allReady s h.pkg (some i) = true ∧ (isOut s h.pkg && outRefuses (some i)) = false
/-- The state in which a command's sequence number has been taken (17 R450). -/
def taken (h : Cmd) (s : State) : State := onSess h.pkg h.sess (fun x => { x with next := x.next + 1, fails := 0 }) s
/-- What a Load makes of an object (16 R443, R447): the image at the bases, where it may stand; an error; nothing where the device could not have
chosen those bases (log 12). -/
def loadsTo (s : State) (pkg job : Nat) (obj : List Byte) (ca da : Word) : Option (Except FinErr Placed) :=
  match finalise obj with
  | .error e => some (.error e)
  | .ok m =>
    if (jobOn s pkg job).isNone || mayStand s pkg job m ⟨ca.toNat, da.toNat⟩ then some (link m ⟨ca.toNat, da.toNat⟩)
    else if hasRoom s pkg job m then none
    else some (.error { code := 0x40, value := BitVec.ofNat 64 (m.lay.codeBytes + m.lay.dataBytes) })
/-- A command completes with a reply. -/
def Answers (i : Instr) (h : Cmd) (s : State) (o : HostOut) (P : State → Prop) : Prop :=
  Runs i s (fun t => t.out = s.out ++ [o] ∧ t.sessions = (taken h s).sessions ∧ P t)
/-- A command completes with an error reply and changes nothing else (17 R452). -/
def Refuses (i : Instr) (h : Cmd) (s : State) : Prop := exec i s = .next (reply (.error h) (taken h s))

end Sys2Proof.Claims

/-! Group 6: the fabric and the package (19 R499 to R514, 21 R518 to R534). -/

/-- Every route of a pod leads from its first package to its last over the fewest links, and among those it takes the lowest next package
hop by hop (19 R538). -/
def Obligations.RoutesAreShortest : Prop :=
  ∀ (s : State) (cold : Bool) (count p q : Nat) (r : List Nat), (p, q, r) ∈ allRoutes s cold count →
    Walks s cold p r q ∧ ∀ c, Walks s cold p c q → r.length ≤ c.length ∧
      (c.length = r.length → c ≠ r → ∃ i, r.take i = c.take i ∧ r.getD i 0 < c.getD i 0)

/-- POD_BRING_UP sets the wiring, the routes and the members, or is refused and changes nothing where a member would have no route (19
R504, R538). That packages come with it is the model's presumption (log 22). -/
def Sys2Proof.Claims.PodsFormOrAreRefused : Prop :=
  ∀ (s : State) (pod count : Nat) (links : List Link), let rs := allRoutes { s with links := links } true count
    (0 < count → count ≤ 1024 → rs.length = count * (count - 1) → Runs (.podBringUp pod count links) s (fun t =>
      t.links = links ∧ t.routes = rs ∧ t.mem = s.mem ∧ t.g = s.g ∧ t.jobs = s.jobs ∧
      (∀ p < count, ∃ k ∈ t.pkgs, k.pkg = p ∧ k.pod = pod ∧ k.count = count ∧ (k.member = true ↔ k.failed = [])) ∧
      ∀ l ∈ links, (portOf t l.pkgA l.portA).state ≠ 0 ∧ (portOf t l.pkgB l.portB).state ≠ 0)) ∧
    (count = 0 ∨ 1024 < count ∨ rs.length ≠ count * (count - 1) → exec (.podBringUp pod count links) s = .next s)

/-- The events of a port (19 R499, R502, R503, R505 to R508): the capability word within 10 µs, or 10 µs without one, settles combining and
bonding until the link next goes down; a lost lane, which the fifth bad flit within 1 ms makes too, changes the bond's width, a rejoin after
1 s of clean running widens it; flits that are sent again are counted, and which lane bad flits lose and how many flits go again is a pick
(log 20); a link that goes down ends what was negotiated. No other port, no gang and no memory changes. -/
def Sys2Proof.Claims.LinksNegotiate : Prop :=
  ∀ (s : State) (pkg port lane g : Nat) (w : Word), lane < 4 →
    let p := portOf s pkg port
    let gives (i : Instr) (P : Port → Prop) : Prop := Runs i s (fun t => t.mem = s.mem ∧ t.g = s.g ∧ t.others = s.others ∧
      P (portOf t pkg port) ∧ ∀ a b, a ≠ pkg ∨ b ≠ port → portOf t a b = portOf s a b)
    (p.state < 2 → gives (.linkUp pkg port (capWord s pkg port)) (fun q => q.state = 2 ∧ q.lanes = 0xF ∧ q.comb = false ∧ q.std = false ∧
      q.since = s.cycle)) ∧
    (2 ≤ p.state → exec (.linkUp pkg port w) s = .next s) ∧
    let late := p.since + 17000 ≤ s.cycle
    let open_ := p.state = 2 ∧ p.pword = 0 ∧ p.std = false
    (open_ → ¬ late → gives (.capabilityWord pkg port w) (fun q => q.pword = w ∧ q.state = 2 ∧
      (q.comb = true ↔ fld w 63 48 = 0x5B4D ∧ 1 ≤ fld w 7 0 ∧ w.getLsbD 14 = true) ∧ q.std = !q.comb ∧
      (q.bond = true ↔ q.comb = true ∧ w.getLsbD 15 = true))) ∧
    (open_ → ¬ late → Runs (.capabilityWord pkg port w) s (fun t => Settled t pkg (port / 4))) ∧
    (open_ → late → gives (.capabilityTimeout pkg port) (fun q => q.std = true ∧ q.comb = false ∧ q.bond = false)) ∧
    (¬ open_ ∨ late → exec (.capabilityWord pkg port w) s = .next s) ∧
    (¬ open_ ∨ ¬ late → exec (.capabilityTimeout pkg port) s = .next s) ∧
    (2 ≤ p.state → gives (.laneLoss pkg port lane) (fun q => q.state = 3 ∧ q.losses = (p.losses + 1) % 2 ^ 32 ∧
      q.lanes = p.lanes &&& ~~~(1#4 <<< lane))) ∧
    (2 ≤ p.state → Runs (.laneLoss pkg port lane) s (fun t => Settled t pkg (port / 4))) ∧
    let clean := ∃ c, p.clean = some c ∧ c + 1700000000 ≤ s.cycle
    (p.state = 3 → clean → gives (.portRejoin pkg port) (fun q => q.state = 2 ∧ q.lanes = 0xF)) ∧
    (p.state = 3 → clean → Runs (.portRejoin pkg port) s (fun t => Settled t pkg (port / 4))) ∧
    (¬ (p.state = 3 ∧ clean) → exec (.portRejoin pkg port) s = .next s) ∧
    (let ch := s.picks.headD 0
     let bad := s.cycle :: p.crc.filter (fun c => s.cycle < c + 1700000)
     let again (x : Nat) : Nat := (x + (ch / 4 + 1)) % 2 ^ 64
     (p.state < 2 → exec (.flitCrcFailure pkg port) s = .next s) ∧
     (2 ≤ p.state → bad.length ≤ 4 → gives (.flitCrcFailure pkg port) (fun q => q = { p with
      crc := bad, clean := p.clean.map (fun _ => s.cycle), flits := again p.flits, replays := again p.replays })) ∧
     (2 ≤ p.state → 4 < bad.length → gives (.flitCrcFailure pkg port) (fun q => q.state = 3 ∧ q.losses = (p.losses + 1) % 2 ^ 32 ∧
      q.lanes = p.lanes &&& ~~~(1#4 <<< (ch % 4)) ∧ q.replays = again p.replays))) ∧
    (let b := bondOf s pkg g
     let as := bondActive s pkg g
     Runs (.retrainComplete pkg g) s (fun t => t.mem = s.mem ∧ t.g = s.g ∧ (bondOf t pkg g).retraining = false ∧
      (∀ a n, (portOf t a n).state = (portOf s a n).state ∧ (portOf t a n).lanes = (portOf s a n).lanes) ∧
      (∀ n, n / 4 = g → (portOf s pkg n).state = 3 → (portOf t pkg n).clean = some s.cycle) ∧
      (b.retraining = true → ∀ n ∈ as, (portOf t pkg n).replays =
        ((portOf s pkg n).replays + flitShare as.length (as.findIdx (fun k => k = n)) b.acked b.sent) % 2 ^ 64))) ∧
    Runs (.linkDown pkg port) s (fun t => t.mem = s.mem ∧ t.g = s.g ∧
      ∀ a b, (a, b) = (pkg, port) ∨ partner s pkg port = some (a, b) →
        (portOf t a b).state = 0 ∧ (portOf t a b).comb = false ∧ (portOf t a b).bond = false)

/-- A package that fails leaves its pod, the jobs that span packages are cancelled on its other members, and no store is left on its way to it
(that those stores fail at once is the model's reading, log 20); a failed function and a thermal shutdown cancel the package's own resident
jobs (19 R504, 21 R529, R531). -/
def Sys2Proof.Claims.FailuresCancelJobs : Prop :=
  ∀ (s : State) (pkg tmax : Nat) (f : Func) (p : Package), podOf s pkg = some p →
    let far (t : State) : Prop := ∀ j ∈ s.jobs, j.pkg ≠ pkg → j.resident = true → fld (rw j.words 0) 10 8 = 5 → inPod s pkg j.pkg = true →
      Stopped s t (ofJob j.id j.pkg)
    let own (t : State) : Prop := ∀ j ∈ s.jobs, j.pkg = pkg → j.resident = true → Stopped s t (ofJob j.id pkg)
    let cut (t : State) : Prop := (s.stores = [] → s.atoms = [] → t.mem = s.mem) ∧
      ∀ r ∈ t.stores, r.at_.pkg ≠ pkg → ∀ b ∈ r.bytes, locPkg b.loc ≠ pkg
    Runs (.memberFailure pkg) s (fun t => cut t ∧ podOf t pkg = some { p with member := false } ∧ far t) ∧
    (funcOk f = true → Runs (.functionFailure pkg f) s (fun t => cut t ∧ far t ∧ own t ∧
      ∃ q, podOf t pkg = some q ∧ q.member = false ∧ f ∈ q.failed ∧ f ∉ q.ready)) ∧
    (1150 ≤ tmax → Runs (.thermalShutdown pkg tmax) s (fun t => t.mem = s.mem ∧ own t ∧ podOf t pkg = some { p with stopped := true })) ∧
    (tmax < 1150 → exec (.thermalShutdown pkg tmax) s = .next s)

/-- FABRIC_TIMEOUT (19 R511): a load whose request for one of its lanes has no reply for 1 ms leaves its destination as it was, lowers its flag and leaves a memory error; a
store leaves a store-fault record, its bytes for its own package stay on their way and the others do not; and the failed request of a cart
operation is noted for its elements. -/
def Sys2Proof.Claims.FabricTimeoutsAreErrors : Prop :=
  (∀ (s : State) (c : Coords) (g : Gang) (p : Pend) (a : Word) (l q : Nat), gangAt s c = some g → gangOf s g.uid = some g → g.stopping = false →
    g.pend.find? (fun x => x.id = p.id) = some p → p.far[s.picks.headD 0 % p.far.length]? = some (a, l, q) → p.sent + 1700000 ≤ s.cycle →
    Runs (.fabricTimeout (.load c p.id)) s (fun t => t.mem = s.mem ∧ t.stores = s.stores ∧ ∃ h, gangOf t g.uid = some h ∧
      h.s = g.s ∧ h.v = g.v ∧ h.k = g.k ∧ h.paths = g.paths ∧ h.pend = g.pend.filter (fun x => x.id ≠ p.id) ∧
      h.deferred = g.deferred ++ [⟨0x17, a, BitVec.ofNat 64 l, false, p.inh⟩] ∧ flagCount h p.flag = flagCount g p.flag - 1)) ∧
  (∀ (s : State) (r : StoreReq) (b : ByteWrite), s.stores.find? (fun x => x.id = r.id) = some r → r.faulted = false →
    firstByte (fun b => locPkg b.loc ≠ r.at_.pkg) r.bytes = some b → r.sent + 1700000 ≤ s.cycle →
    Runs (.fabricTimeout (.req r.id)) s (fun t => t.stores.filter (fun x => x.id ≠ r.id) = s.stores.filter (fun x => x.id ≠ r.id) ∧
      (∀ x ∈ t.stores, x.id = r.id → x.bytes = r.bytes.filter (fun b => locPkg b.loc = r.at_.pkg) ∧ x.bytes ≠ []) ∧
      (∃ f, t.faults = s.faults ++ [f] ∧ f.cause = 0x17 ∧ f.addr = b.va ∧ f.uid = r.uid ∧ f.core = unitOf 1 r.at_ ∧ f.info = BitVec.ofNat 64 (b.lane + 32)) ∧
      (s.picks.headD 0 % 2 = 0 → t.mem = s.mem))) ∧
  (∀ (s : State) (o : CartOp) (who : Option Nat) (w : Bool) (a : Word) (h : Hit), o ∈ s.carts → sideByte s o who a = .ok h → locPkg h.loc ≠ o.at_.pkg →
    o.sent + 1700000 ≤ s.cycle →
    Runs (.fabricTimeout (.cart o.id who w a)) s (fun t => t.mem = s.mem ∧ { o with errs := (who, w, a) :: o.errs } ∈ t.carts))

/-- Pods form, links negotiate, failures cancel jobs, timeouts are errors (the statements above named here). -/
def Obligations.PodLinksAndFailures : Prop :=
  Claims.PodsFormOrAreRefused ∧ Claims.LinksNegotiate ∧ Claims.FailuresCancelJobs ∧ Claims.FabricTimeoutsAreErrors

/-- PACKAGE_RESET (21 R518, R519): no gang, request, operation, job or session of the package is left; a new firmware image takes effect where it
verifies, and where it does not the previous one loads, if that one verifies. That memory stays, and the list of what does not, is the model's
presumption (log 22). -/
def Sys2Proof.Claims.PackagesAreReset : Prop :=
  ∀ (s : State) (pkg : Nat) (p : Package), podOf s pkg = some p → Runs (.packageReset pkg) s (fun t => t.mem = s.mem ∧ t.keys = s.keys ∧
    (∀ g ∈ gangs t, g.at_.pkg ≠ pkg) ∧ (∀ r ∈ t.stores, r.at_.pkg ≠ pkg) ∧ (∀ r ∈ t.atoms, r.at_.pkg ≠ pkg) ∧
    (∀ c ∈ t.carts, c.at_.pkg ≠ pkg) ∧ (∀ k ∈ t.kiln, k.at_.pkg ≠ pkg) ∧ (∀ o ∈ t.granary, o.at_.pkg ≠ pkg) ∧
    (∀ j ∈ t.jobs, j.pkg ≠ pkg) ∧ (∀ x ∈ t.sessions, x.pkg ≠ pkg) ∧ (∀ x ∈ t.ports, x.pkg ≠ pkg) ∧
    ∃ q, podOf t pkg = some q ∧ q.ready = [] ∧ q.failed = [] ∧ q.gated = false ∧ q.stopped = false ∧ q.resetAt = s.cycle ∧
      q.rollback = p.rollback ∧ ∀ k < 4,
        (∀ i, (stagedImages s pkg).find? (fun i => i.kind = k) = some i → imageOk p.rollback i = true →
          q.images.find? (fun i => i.kind = k) = some i) ∧
        ((∀ i, (stagedImages s pkg).find? (fun i => i.kind = k) = some i → imageOk p.rollback i = false) →
          q.images.find? (fun i => i.kind = k) = (p.images.find? (fun i => i.kind = k)).filter (imageOk p.rollback)))

/-- The reports of a package (21 R518, R527, R528, R530, R531): a function whose image, if it runs one, has loaded becomes ready and its bit shows in the readiness word; the sensors'
figures and the limiter follow their events; a scrub pass changes no value; an error in a gang's state ends the gang and is counted. -/
def Sys2Proof.Claims.PackagesReport : Prop :=
  ∀ (s : State) (pkg : Nat) (p : Package) (f : Func) (v : Sensors), podOf s pkg = some p →
    let only (i : Instr) (P : State → Package → Prop) : Prop := Runs i s (fun t => t.mem = s.mem ∧ t.top = s.top ∧ t.hist = s.hist ∧
      t.keys = s.keys ∧ t.g = s.g ∧ t.others = s.others ∧ ∃ q, podOf t pkg = some q ∧ P t q)
    (funcOk f = true → f ∉ p.failed → f ∉ p.ready → (∀ k, imageKind f = some k → ∃ i ∈ p.images, i.kind = k) →
      only (.functionReady pkg f) (fun t q => q.ready = p.ready ++ [f] ∧ (telemetryWord t pkg 0).getLsbD (funcBit f) = true ∧
        (f ≠ .security → q.rollback = p.rollback) ∧
        (f = .security → p.rollback ≤ q.rollback ∧ ∀ i ∈ p.images, i.rollback ≤ q.rollback))) ∧
    only (.scrubPass pkg) (fun _ q => q = { p with scrubs := p.scrubs + 1 }) ∧
    only (.telemetryUpdate pkg v) (fun t q => q = { p with sensors := v } ∧ telemetryWord t pkg 2 = BitVec.ofNat 64 v.ce ∧
      telemetryWord t pkg 3 = telemetryWord s pkg 3 ∧ telemetryWord t pkg 5 = BitVec.ofNat 64 p.throttle) ∧
    only (.powerLimit pkg v) (fun _ q => q.sensors = v ∧ (q.gated = true ↔
      3200000 < v.power ∨ 1050 < v.tmax ∨ p.gated = true ∧ ¬ (v.power < 3200000 ∧ v.tmax < 1050))) ∧
    ∀ c g, gangAt s c = some g → g.phase = .running →
      Runs (.uncorrectableStateError c) s (fun t => EndsWith 0x17 (focus c (dropWaits g.uid s)) t ∧
        (c.pkg = pkg → ∃ q, podOf t pkg = some q ∧ q.ue = p.ue + 1))

/-- CHECKPOINT and CHECKPOINT_RESTORE (21 R532, R533): a good record starts its operation, and a bad one, one beside a running operation or beside
live gangs, and a restore beside resident jobs, end failed at once. -/
def Sys2Proof.Claims.CheckpointsStart : Prop :=
  ∀ (s : State) (h : Cmd) (r : List Word) (p : Package), NextOf h s → podOf s h.pkg = some p →
    let ws := (List.range 32).map (rw r)
    let free := ckptBad ws = false ∧ p.run = none ∧ ∀ g ∈ gangs s, ¬ (g.at_.pkg = h.pkg ∧ inSlot g = true)
    ∀ e ∈ [(Instr.checkpoint h r, 1), (.checkpointRestore h r, 2)], Serves s h e.1 → fld (rw r 0) 1 0 = e.2 →
      let idle := e.2 = 1 ∨ ∀ j ∈ s.jobs, ¬ (j.pkg = h.pkg ∧ j.resident = true)
      (free → idle → Answers e.1 h s (.ok h []) (fun t => t.g = s.g ∧ ∃ q, podOf t h.pkg = some q ∧ (q.run.map (·.1)) = some e.2 ∧
        fld (rw q.ckpt 0) 63 62 = 1 ∧ rw q.ckpt 1 = 0)) ∧
      (¬ (free ∧ idle) → Answers e.1 h s (.ok h []) (fun t => ∃ q, podOf t h.pkg = some q ∧ q.run = p.run ∧ fld (rw q.ckpt 0) 63 62 = 3))

/-- Packages reset and report, and checkpoints start (the statements above named here). -/
def Obligations.PackagesResetAndReport : Prop :=
  Claims.PackagesAreReset ∧ Claims.PackagesReport ∧ Claims.CheckpointsStart

/-- CHECKPOINT_COMPLETE (21 R533, R534): a checkpoint that meets no error has copied every byte of the package's HBM to its targets, the live save
images in their stored form among them (18 R491), and a restore every byte back, in order; no other byte of memory changes, and the record says
done. That the copy is made as a whole at this event, and that a restore brings back the live images that the
checkpoint to its targets held, is the model's reading (log 42). -/
def Obligations.CheckpointsCopyTheMemory : Prop :=
  ∀ (s : State) (pkg fn : Nat) (p : Package) (ws : List Word), podOf s pkg = some p → p.run = some (fn, ws) → p.ckpt.length = 32 →
    s.poison = [] → Memory.wf s.mem → fld (rw ws 0) 12 8 ∈ [1, 2, 3, 4, 6, 8, 12, 16] →
    (∀ o o', o < Config.hbmBytes → o' < Config.hbmBytes → (o ≠ o' → ckptFar ws o ≠ ckptFar ws o') ∧ ckptFar ws o ≠ hbmLoc pkg o') →
    let src (o : Nat) : Nat := if fn = 1 then hbmLoc pkg o else ckptFar ws o
    let dst (o : Nat) : Nat := if fn = 1 then ckptFar ws o else hbmLoc pkg o
    let live := if fn = 1 then liveBytes s pkg else []
    (live.map (·.1)).Nodup → (∀ b ∈ live, b.1 < Config.hbmBytes) →
    Runs (.checkpointComplete pkg none) s (fun t =>
      (∀ o < Config.hbmBytes, o ∉ live.map (·.1) → memByte t (dst o) = memByte s (src o)) ∧ (∀ b ∈ live, memByte t (dst b.1) = b.2) ∧
      (fn = 2 → ckptPlan p.kept.1 = ckptPlan ws → t.images = s.images.filter (fun i => i.pkg ≠ pkg) ++ p.kept.2) ∧
      (∀ l, (∀ o < Config.hbmBytes, dst o ≠ l) → memByte t l = memByte s l) ∧ t.g = s.g ∧
      ∃ q, podOf t pkg = some q ∧ q.run = none ∧ fld (rw q.ckpt 0) 63 62 = 2 ∧ rw q.ckpt 1 = BitVec.ofNat 64 Config.hbmBytes)

/-! Group 7: the host (17 R448 to R464, 18 R485 to R497). -/

/-- Sessions (17 R448, R449, R451): a HELLO gets the highest version that both sides know, or the device's own range; a CONFIRM confirms; the
16th authentication failure in a row, a close and a lost link close the session, and its jobs run on without one. -/
def Sys2Proof.Claims.SessionsOpenAndClose : Prop :=
  (∀ lo hi v, commonProto lo hi = some v → verLe lo v = true ∧ verLe v hi = true ∧ v.1 = 1 ∧ v.2 ≤ 2 ∧
    ∀ n ≤ 2, verLe lo (1, n) = true → verLe (1, n) hi = true → n ≤ v.2) ∧
  (∀ (s : State) (pkg a b c d : Nat) (ct : List Byte),
    let ready := isReady s pkg .security = true ∧ isReady s pkg .morcy = true
    let room := (s.sessions.filter (fun x => x.pkg = pkg)).length < 8
    (¬ ready → exec (.hello pkg a b c d ct) s = .next s) ∧
    (ready → commonProto (a, b) (c, d) = none ∨ ¬ room →
      exec (.hello pkg a b c d ct) s = .next { s with out := s.out ++ [.refuse pkg (1, 0) (1, 2)] }) ∧
    (∀ v, ready → room → commonProto (a, b) (c, d) = some v → Runs (.hello pkg a b c d ct) s (fun t => t.mem = s.mem ∧ t.g = s.g ∧
      (∃ x, t.sessions = s.sessions ++ [x] ∧ x.pkg = pkg ∧ x.sess = s.nextId ∧ x.proto = v ∧ x.confirmed = false ∧ x.next = 1 ∧ x.fails = 0 ∧ x.waiting = []) ∧
      ∃ sig, t.out = s.out ++ [.helloReply pkg s.nextId v (certificate pkg) (measurement s pkg) sig])) ∧
    (certificate pkg).length = 4966 ∧ (certificate pkg).take 8 = leBytes 8 1) ∧
  (∀ (s : State) (pkg n : Nat) (x : Session), sessOf s pkg n = some x →
    let closed (i : Instr) : Prop := Runs i s (fun t => sessOf t pkg n = none ∧ t.mem = s.mem ∧ t.g = s.g ∧ t.launches = s.launches ∧
      t.jobs = s.jobs.map (fun j => if j.sess = some (pkg, n) then { j with sess := none } else j))
    Runs (.confirm pkg n) s (fun t => t.mem = s.mem ∧ sessOf t pkg n = some { x with confirmed := true, fails := 0 }) ∧
    (x.fails < 15 → Runs (.messageAuthFailure pkg n) s (fun t => t.mem = s.mem ∧ t.jobs = s.jobs ∧
      sessOf t pkg n = some { x with fails := x.fails + 1, dropped := x.dropped + 1 })) ∧
    (15 ≤ x.fails → closed (.messageAuthFailure pkg n)) ∧ closed (.sessionClose pkg n) ∧ closed (.sessionLinkLoss pkg n))

/-- Every command of a session (17 R450, R452, 21 R528): without a confirmed session it does nothing; a gap or a repeated number closes the
session; it waits for the earlier ones and for the functions that it needs, and executes when the device turns to it; after 30 s without those
functions it gets an error reply, as one does that a package out of service refuses (which commands need functions, and which such a package
refuses, is log 22); the queue of waiting commands and its service are the model's reading (logs 3 and 41); and one with an opcode outside the table gets an error reply and changes nothing. -/
def Sys2Proof.Claims.CommandsFollowTheirNumbers : Prop :=
  ∀ (s : State) (h : Cmd) (a b : Nat) (w x y : Word) (r : List Word) (rs : List (List Word)) (bs : List Byte) (g : Option Nat),
    (∀ i ∈ [Instr.jobCreate h r, .keyInstall h a b bs, .memWrite h a w bs, .memRead h a w b, .graphCreate h a, .queueBindCmd h a b,
        .submit h a rs, .cancelLaunch h a b, .cancelGraph h a b, .cancelJob h a, .counterRead h a g, .save h r, .resume h r, .checkpoint h r,
        .checkpointRestore h r] ++ (if (loadsTo s h.pkg a bs x y).isSome then [.load h a bs w x y] else []) ++
        (if (jobOn s h.pkg a).bind (·.ending) = some h then [] else [.jobEnd h a]),
      (sessOf s h.pkg h.sess = none → exec i s = .next s) ∧
      ∀ z, sessOf s h.pkg h.sess = some z →
        (z.confirmed = false → exec i s = .next s) ∧
        (z.confirmed = true → z.serving = false → h.seq = z.next + z.waiting.length → sessBusy s h.pkg h.sess = true ∨ z.waiting ≠ [] →
          exec i s = .next (waits i h s)) ∧
        (z.confirmed = true → z.serving = false → h.seq = z.next → sessBusy s h.pkg h.sess = false → z.waiting = [] →
          ((isOut s h.pkg && outRefuses (some i)) = true → Refuses i h s) ∧
          ((isOut s h.pkg && outRefuses (some i)) = false → allReady s h.pkg (some i) = false → exec i s = .next (waits i h s))) ∧
        (z.confirmed = true → z.serving = true → sessBusy s h.pkg h.sess = true →
          exec i s = .next (onSess h.pkg h.sess (fun x => { x with serving := false }) s)) ∧
        (z.confirmed = true → z.serving = false → h.seq ≠ z.next + z.waiting.length → Runs i s (fun t => sessOf t h.pkg h.sess = none ∧
          t.mem = s.mem ∧ t.out = s.out ∧ t.launches = s.launches ∧ t.queues = s.queues))) ∧
    (∀ z i c, sessOf s h.pkg h.sess = some z → z.waiting.head? = some (h, some i, c) →
      (allReady s h.pkg (some i) = false → c + 30 * 1700000000 ≤ s.cycle → exec (.commandReadyTimeout h) s = .next (reply (.error h)
        (onSess h.pkg h.sess (fun x => { x with next := x.next + 1, waiting := x.waiting.drop 1 }) s))) ∧
      (s.cycle < c + 30 * 1700000000 → exec (.commandReadyTimeout h) s = .next s)) ∧
    (∀ m, let s1 := { s with agenda := m }
      (s.agenda = .stray h :: m → NextOf h s1 → step s = .next (reply (.error h) (taken h s1))) ∧
      ∀ z i c, s.agenda = .serve h.pkg h.sess :: m → sessOf s h.pkg h.sess = some z → (∀ j ∈ s.jobs, j.ending = none) →
        z.waiting.head? = some (h, some i, c) → step s = exec i (onSess h.pkg h.sess (fun x => { x with serving := true }) s1))

/-- Sessions open and close, and commands follow their numbers (the statements above named here). -/
def Obligations.SessionsAndCommandOrder : Prop :=
  Claims.SessionsOpenAndClose ∧ Claims.CommandsFollowTheirNumbers

/-- JobCreate, JobEnd and a claim (17 R451, R452, R454, R455, 21 R524): an accepted record is a new resident job; a job with nothing left ends, and
its windows read as zero while no other byte changes (which memories are cleared is the model's reading, log 43); a claim needs the owner token
and delivers what was held. -/
def Sys2Proof.Claims.JobsComeAndGo : Prop :=
  ∀ (s : State) (h : Cmd) (r : List Word) (job : Nat) (owner : Word),
    (NextOf h s → allReady s h.pkg (some (.jobCreate h r)) = true →
      (jobRefused s h.pkg r = true → Refuses (.jobCreate h r) h s) ∧
      ((jobOn s h.pkg (fld (rw r 0) 63 48)).isSome = true → Refuses (.jobCreate h r) h s) ∧
      (jobRefused s h.pkg r = false → jobOn s h.pkg (fld (rw r 0) 63 48) = none → Answers (.jobCreate h r) h s (.ok h []) (fun t =>
        t.mem = s.mem ∧ ∃ j, t.jobs = s.jobs ++ [j] ∧ j.id = fld (rw r 0) 63 48 ∧ j.pkg = h.pkg ∧ j.words = r ∧ j.resident = true ∧
          j.sess = some (h.pkg, h.sess) ∧ j.graphs = [] ∧ j.kernels = [] ∧ j.transfer = none))) ∧
    (2 ≤ (s.jobs.filter (fun j => j.pkg = h.pkg && j.resident)).length → jobRefused s h.pkg r = true) ∧
    (NextOf h s → jobOn s h.pkg job = none → Refuses (.jobEnd h job) h s) ∧
    (∀ j, NextOf h s → jobOn s h.pkg job = some j → j.ending = none → (∀ l ∈ s.launches, ¬ (l.job = job ∧ l.pkg = h.pkg)) →
      (∀ g ∈ gangs s, ¬ (g.job = job ∧ g.at_.pkg = h.pkg)) → (∀ q ∈ s.queues, q.pkg = h.pkg → q.job = job → q.recs = []) →
      imageOf s h.pkg job = none → (∀ u ∈ s.units, ¬ (u.at_.pkg = h.pkg ∧ u.job = job)) →
      Answers (.jobEnd h job) h s (.ok h []) (fun t => jobOn t h.pkg job = none ∧ (∀ q ∈ t.queues, ¬ (q.pkg = h.pkg ∧ q.job = job)) ∧
        (∀ l, j.resident = true ∧ inWindows j l = true → memByte t l = 0) ∧
        ∀ l, ¬ (j.resident = true ∧ inWindows j l = true) → memByte t l = memByte s l)) ∧
    (∀ j x n, jobOn s h.pkg job = some j → sessOf s h.pkg n = some x → x.confirmed = true → j.sess = none →
      (rw j.words 9 = owner → Runs (.jobClaim h.pkg n job owner) s (fun t => t.mem = s.mem ∧
        t.out = s.out ++ j.heldMsgs.map (.message h.pkg n) ∧ jobOn t h.pkg job = some { j with sess := some (h.pkg, n), heldMsgs := [] })) ∧
      (rw j.words 9 ≠ owner → exec (.jobClaim h.pkg n job owner) s = .next (onSess h.pkg n (fun x => { x with fails := 0 }) s)))

/-- Keys, graphs, queues and counters (17 R452, R457, R459, 02 R82): a key that the security engine unwraps reaches its slot once no access under
the old one is pending; graphs count from 1; a queue is bound once; a counter is the largest k such that launches 1 to k have completed. -/
def Sys2Proof.Claims.KeysGraphsQueuesAndCounters : Prop :=
  ∀ (s : State) (h : Cmd) (job : Nat), NextOf h s →
    (∀ slot wrapped j, jobOn s h.pkg job = some j →
      let b := fld (rw j.words 3) 15 0
      let good := b ≤ slot ∧ slot < b + fld (rw j.words 3) 31 16
      isOut s h.pkg = false →
      (keyPending s (slotKey s h.pkg slot) = true → exec (.keyInstall h job slot wrapped) s = .next (waits (.keyInstall h job slot wrapped) h s)) ∧
      (keyPending s (slotKey s h.pkg slot) = false → good → match Config.unwrapKey h.pkg wrapped with
        | some k => Answers (.keyInstall h job slot wrapped) h s (.ok h []) (fun t =>
          t.mem = s.mem ∧ slotKey t h.pkg slot = some k ∧ (∀ n, n ≠ h.pkg * 4096 + slot → cget none t.xts n = cget none s.xts n) ∧
          transferOf t h.pkg job = if j.transfer = none then some k else j.transfer)
        | none => Refuses (.keyInstall h job slot wrapped) h s) ∧
      (keyPending s (slotKey s h.pkg slot) = false → ¬ good → Refuses (.keyInstall h job slot wrapped) h s)) ∧
    (∀ j, jobOn s h.pkg job = some j → j.graphs.length + 1 < 2 ^ 16 →
      Answers (.graphCreate h job) h s (.ok h [BitVec.ofNat 64 (j.graphs.length + 1)]) (fun t => t.mem = s.mem ∧
        jobOn t h.pkg job = some { j with graphs := j.graphs ++ [⟨j.graphs.length + 1, false, 0, [], [], []⟩] })) ∧
    (∀ q, let free := q < 2048 ∧ (jobOn s h.pkg job).isSome = true ∧ ∀ x ∈ s.queues, ¬ (x.pkg = h.pkg ∧ x.q = q)
      (free → Answers (.queueBindCmd h q job) h s (.ok h []) (fun t => t.mem = s.mem ∧ t.queues = s.queues ++ [⟨h.pkg, q, job, []⟩])) ∧
      (¬ free → Refuses (.queueBindCmd h q job) h s)) ∧
    (∀ j gr g, jobOn s h.pkg job = some j → j.graphs.find? (fun g => g.idx = gr) = some g → ∃ k,
      exec (.counterRead h job (some gr)) s = .next (reply (.ok h [BitVec.ofNat 64 k]) (taken h s)) ∧ k ≤ g.accepted ∧
        (∀ i, 1 ≤ i → i ≤ k → i ∈ g.done) ∧ (k < g.accepted → k + 1 ∉ g.done)) ∧
    (jobOn s h.pkg job = none → ∀ gr, Refuses (.counterRead h job gr) h s ∧ Refuses (.graphCreate h job) h s)

/-- MemWrite and MemRead (17 R453, 18 R467, 21 R533): a write waits while a checkpoint operation holds it; the bytes of a write enter their homes, are published at level 5 and change no other byte; a read gives
the bytes that the homes hold; an address that does not map with the permission is refused; and the driver region is written and read as
it is stored, a read of a byte with an uncorrectable error refused (21 R526). -/
def Sys2Proof.Claims.HostMemoryAccesses : Prop :=
  ∀ (s : State) (h : Cmd) (job : Nat) (a : Word) (bs : List Byte), NextOf h s → Memory.wf s.mem →
    (Serves s h (.memWrite h job a bs) → memHeld s h.pkg job a bs.length = true → exec (.memWrite h job a bs) s = .next (waits (.memWrite h job a bs) h s)) ∧
    (Serves s h (.memWrite h job a bs) → memHeld s h.pkg job a bs.length = false → tagOf a ≠ 15 → transferOf s h.pkg job ≠ none → (codeIn s h.pkg job a bs.length).1 = false →
      (hostHits s h.pkg job permW false a bs.length = none → Refuses (.memWrite h job a bs) h s) ∧
      ∀ hs, hostHits s h.pkg job permW false a bs.length = some hs → (hs.map (·.loc)).Nodup →
        Answers (.memWrite h job a bs) h s (.ok h []) (fun t => t.g = s.g ∧
          (∀ p ∈ hs.zip bs, memByte t p.1.loc = p.2 ∧ memKey t p.1.loc = p.1.key ∧
            ∃ v ∈ t.pubs, v.by_ = none ∧ v.level = 5 ∧ s.wseq < cget 0 v.view p.1.loc) ∧
          ∀ l, l ∉ hs.map (·.loc) → memByte t l = memByte s l)) ∧
    (∀ n, Serves s h (.memRead h job a n) → tagOf a ≠ 15 → transferOf s h.pkg job ≠ none →
      (hostHits s h.pkg job permR false a n = none → Refuses (.memRead h job a n) h s) ∧
      ∀ hs, hostHits s h.pkg job permR false a n = some hs →
        exec (.memRead h job a n) s = .next (reply (.bytes h (hs.map (fun x => homeByte s x.loc x.key))) (taken h s))) ∧
    (∀ p off k, driverAddr a bs.length = some (p, off) → podOf s p = some k → off + bs.length ≤ 0x3FFFFD000 →
      (∀ i ∈ s.images, i.pkg ≠ p) → Serves s h (.memWrite h job a bs) →
      let bad := ∃ i < bs.length, poisoned s (driverLoc p (off + i)) = true
      (memHeld s h.pkg job a bs.length = false → Answers (.memWrite h job a bs) h s (.ok h []) (fun t =>
        (∀ i < bs.length, memByte t (driverLoc p (off + i)) = (bs[i]?).getD 0) ∧
        ∀ l, (∀ i < bs.length, driverLoc p (off + i) ≠ l) → memByte t l = memByte s l)) ∧
      (bad → Refuses (.memRead h job a bs.length) h s) ∧
      (¬ bad → Answers (.memRead h job a bs.length) h s
        (.bytes h ((List.range bs.length).map (fun i => homeByte s (driverLoc p (off + i)) none))) (fun t => t.mem = s.mem)))

/-- Load (16 R443 to R447; where an image may stand, and that its result is written with it, are the model's reading, log 19): a good object's words and kernels become the job's, with their marks, where its image may stand; a bad one, and one
for which the job has no room, changes no code; either way the load result is in the host's buffer, and a buffer in finalised code is refused
(log 19). -/
def Sys2Proof.Claims.LoadsPlaceTheirImage : Prop :=
  ∀ (s : State) (h : Cmd) (job : Nat) (j : Job) (obj : List Byte) (buf ca da : Word), NextOf h s → jobOn s h.pkg job = some j →
    Memory.wf s.mem → CellsWf 0 s.code → tagOf buf ≠ 15 → ∀ res, loadsTo s h.pkg job obj ca da = some res →
    let bytes := wordBytes (loadResult res)
    let met := meetsCode s h.pkg job res buf.toNat bytes.length
    Serves s h (.load h job obj buf ca da) →
    (hostHits s h.pkg job permW false buf bytes.length = none ∨ met = true → Refuses (.load h job obj buf ca da) h s) ∧
    ∀ hs, hostHits s h.pkg job permW false buf bytes.length = some hs → met = false → (hs.map (·.loc)).Nodup →
      Answers (.load h job obj buf ca da) h s (.ok h []) (fun t => t.g = s.g ∧ (∀ p ∈ hs.zip bytes, memByte t p.1.loc = p.2) ∧
        (∀ e, res = .error e → t.code = s.code ∧ t.jobs = s.jobs ∧ ∀ l, l ∉ hs.map (·.loc) → memByte t l = memByte s l) ∧
        ∀ p, res = .ok p → (p.code.map (·.1)).Nodup →
          (∀ w ∈ p.code, cget 0 t.code (codeKey h.pkg job w.1) = w.2.2) ∧
          ∃ k, jobOn t h.pkg job = some k ∧ k.words = j.words ∧ ∀ x ∈ p.kernels, x ∈ k.kernels)

/-- Jobs, keys, graphs, queues, host accesses and loads (the statements above named here). -/
def Obligations.JobsAndTheirMemory : Prop :=
  Claims.JobsComeAndGo ∧ Claims.KeysGraphsQueuesAndCounters ∧ Claims.HostMemoryAccesses ∧ Claims.LoadsPlaceTheirImage

/-- Submit and the host's cancels (17 R459 to R461, R464, 02 R82, R85): a good record joins its queue with the next launch number of its graph, a
bad one completes at once, a full queue takes nothing; a cancel reaches queued and started launches. -/
def Sys2Proof.Claims.SubmitsAndCancels : Prop :=
  ∀ (s : State) (h : Cmd) (q : Nat), NextOf h s →
    (∀ lq j r x, s.queues.find? (fun x => x.pkg = h.pkg && x.q = q) = some lq → jobOn s h.pkg lq.job = some j → j.id = lq.job →
      j.sess = some (h.pkg, h.sess) → j.ending = none → r.length = 16 → isOut s h.pkg = false →
      j.graphs.find? (fun g => g.idx = fld (rw r 0) 47 32) = some x → (∀ g ∈ j.graphs, g.idx = x.idx → g = x) → x.sealed = false →
      (256 ≤ lq.recs.length → exec (.submit h q [r]) s = .next (reply (.queueFull h) (taken h s))) ∧
      (lq.recs.length < 256 → recordFails s h.pkg j r = false → Answers (.submit h q [r]) h s (.ok h []) (fun t => t.mem = s.mem ∧
        (∃ l, t.queues.find? (fun x => x.pkg = h.pkg && x.q = q) = some l ∧
          l.recs = lq.recs ++ [⟨r, x.idx, x.accepted + 1, false⟩]) ∧
        ∃ k, jobOn t h.pkg lq.job = some k ∧ ∃ y ∈ k.graphs, y.idx = x.idx ∧ y.accepted = x.accepted + 1 ∧ y.sealed = (rw r 0).getLsbD 21)) ∧
      (lq.recs.length < 256 → recordFails s h.pkg j r = true → Runs (.submit h q [r]) s (fun t => t.mem = s.mem ∧
        (∃ l, t.queues.find? (fun x => x.pkg = h.pkg && x.q = q) = some l ∧ l.recs.length = lq.recs.length) ∧
        ∃ k, jobOn t h.pkg lq.job = some k ∧ ∃ y ∈ k.graphs, y.idx = x.idx ∧ y.accepted = x.accepted + 1 ∧ x.accepted + 1 ∈ y.done))) ∧
    (∀ n, (∃ x ∈ s.queues, x.pkg = h.pkg ∧ x.q = q) → Answers (.cancelLaunch h q n) h s (.ok h []) (fun t => t.mem = s.mem ∧
      (∀ x ∈ t.queues, x.pkg = h.pkg → x.q = q → ∀ r ∈ x.recs, r.number = n → r.cancelled = true) ∧
      Stopped s t (fun x => x.issuer = none ∧ x.pkg = h.pkg ∧ x.queue = q ∧ x.number = n))) ∧
    (∀ job j, jobOn s h.pkg job = some j →
      Answers (.cancelJob h job) h s (.ok h []) (fun t => t.mem = s.mem ∧ Stopped s t (ofJob job h.pkg)) ∧
      ∀ gr, (∃ g ∈ j.graphs, g.idx = gr) → Answers (.cancelGraph h job gr) h s (.ok h []) (fun t => t.mem = s.mem ∧
        Stopped s t (fun x => ofJob job h.pkg x ∧ x.graph = gr)))

/-- Save (18 R485 to R489): it stops every running gang of the job on the package that stands in no holding wait; once all have drained before the
deadline they are in the image and in no slot, with every register as it was; at the deadline the context is reset instead. What a Save waits
for, and the image as data, are the model's reading (log 18). -/
def Sys2Proof.Claims.SavesTakeTheGangs : Prop :=
  (∀ (s : State) (h : Cmd) (r : List Word), NextOf h s → isOut s h.pkg = false →
    (saveBad s h.pkg r = true → Refuses (.save h r) h s) ∧
    (saveBad s h.pkg r = false → Runs (.save h r) s (fun t => t.out = s.out ∧ t.mem = s.mem ∧
      (∃ i, t.images = s.images ++ [i] ∧ i.job = fld (rw r 0) 63 48 ∧ i.pkg = h.pkg ∧ i.base = (rw r 1).toNat ∧ i.state = 0 ∧ i.cmd = h ∧
        i.gangs = [] ∧ i.deadline = s.cycle + (if fld (rw r 2) 31 0 = 0 then 200 else fld (rw r 2) 31 0) * 1700) ∧
      ∀ g, gangOf s g.uid = some g → g.at_.pkg = h.pkg → g.job = fld (rw r 0) 63 48 → g.phase = .running → g.cancelled = false →
        isHeld s g = false → ∃ u, gangOf t g.uid = some u ∧ u.stopping = true ∧ u.paths = g.paths ∧ u.s = g.s))) ∧
  (∀ (s : State) (pkg job : Nat) (i : SaveImage) (j : Job), imageOf s pkg job = some i → jobOn s pkg job = some j → i.state = 0 →
    (i.deadline ≤ s.cycle → exec (.saveComplete job pkg) s = .next s) ∧
    (s.cycle < i.deadline → i.mode = 0 → saveReady s i = true → Runs (.saveComplete job pkg) s (fun t => t.out = s.out ++ [.ok i.cmd []] ∧
      ∃ k, imageOf t pkg job = some k ∧ k.state = 1 ∧ k.saved = k.gangs.length ∧
        ∀ g, gangOf s g.uid = some g → g.at_.pkg = pkg → g.job = job → inSlot g = true → g.stopping = true → g.inflight = [] →
          (∀ p ∈ g.pend, p.left ≠ 0 ∨ p.away = true) → gangOf t g.uid = none ∧ ∃ u ∈ k.gangs, u.uid = g.uid ∧ u.at_ = g.at_ ∧ u.s = g.s ∧ u.v = g.v ∧ u.paths = g.paths ∧ u.tl = g.tl)) ∧
    (i.deadline ≤ s.cycle → Runs (.saveDeadlineExpiry job pkg) s (fun t => t.out = s.out ++ [.error i.cmd] ∧ imageOf t pkg job = none ∧
      ∀ g, gangOf s g.uid = some g → g.at_.pkg = pkg → g.job = job → g.phase = .running → ∀ u, gangOf t g.uid = some u → u.phase = .ended)) ∧
    (s.cycle < i.deadline → exec (.saveDeadlineExpiry job pkg) s = .next s))

/-- Resume (18 R485, R495, R496): it marks the image; a reply for a saved gang is written there, an error writing no destination; once no reply is
pending the gangs come back to their slots as they were, and the Resume replies (that they come back one by one is the model's reading, log 18). -/
def Sys2Proof.Claims.ResumesBringTheGangsBack : Prop :=
  (∀ (s : State) (h : Cmd) (r : List Word) (i : SaveImage) (j : Job), NextOf h s → isOut s h.pkg = false → ckptBusy s h.pkg = false →
    imageOf s h.pkg (fld (rw r 0) 63 48) = some i → jobOn s h.pkg (fld (rw r 0) 63 48) = some j → j.ending = none → i.mode = 0 →
    i.job = fld (rw r 0) 63 48 → j.resident = true →
    let good := reqBad 2 r = false ∧ i.base = (rw r 1).toNat ∧ i.state = 1 ∧ i.resuming = none
    (good → Runs (.resume h r) s (fun t => t.out = s.out ∧ t.mem = s.mem ∧ t.g = s.g ∧ imageOf t h.pkg i.job = some { i with resuming := some h })) ∧
    (¬ good → Refuses (.resume h r) h s)) ∧
  (∀ (s : State) (pkg job : Nat) (i : SaveImage) (h : Cmd) (g : Gang), imageOf s pkg job = some i → i.resuming = some h → i.state = 1 →
    i.pkg = pkg → i.job = job → imagePending i = 0 → ckptBusy s pkg = false → i.stopped = [] → i.spad = [] → i.gangs = [g] → canReturn s i g = true →
    g.phase = .running → gangOf s g.uid = none →
    Runs (.resumeRestore job pkg) s (fun t => t.out = s.out ++ [.ok h []] ∧ imageOf t pkg job = none ∧ ∃ u, gangOf t g.uid = some u ∧
      u.at_ = g.at_ ∧ u.stopping = false ∧ u.s = g.s ∧ u.v = g.v ∧ u.k = g.k ∧ u.paths = g.paths ∧ u.flags = g.flags ∧ u.tl = g.tl)) ∧
  (∀ (s : State) (pkg job n : Nat) (c : Coords) (i : SaveImage) (g : Gang) (p : Pend), imageOf s pkg job = some i →
    i.gangs.find? (fun g => g.at_ = c) = some g → g.pend.find? (fun p => p.id = n && p.left = 0 && p.far.all (fun f => flows s c.pkg f.2.2)) = some p →
    Runs (.replyToImage job pkg c n) s (fun t => t.mem = s.mem ∧ t.g = s.g ∧ ∃ k, imageOf t pkg job = some k ∧ ∃ u ∈ k.gangs, u.uid = g.uid ∧
      u.pend = g.pend.filter (fun q => q.id ≠ p.id) ∧ (p.trap = [] → u = finishPend p g) ∧
      (p.trap ≠ [] → u.s = g.s ∧ u.v = g.v ∧ u.k = g.k)))

/-- Submits, host cancels, saves and resumes (the statements above named here). -/
def Obligations.SubmitsSavesAndResumes : Prop :=
  Claims.SubmitsAndCancels ∧ Claims.SavesTakeTheGangs ∧ Claims.ResumesBringTheGangsBack
end

