-- ==== Sys2Proof/Laws/Cells.lean ====
section
/-! SUPPORT. Sparse maps: a read after a write, and the canonical form that every write keeps. -/

namespace Sys2Proof.Laws

open Sys2Proof.Machine

variable {α : Type} [DecidableEq α]

omit [DecidableEq α] in
@[simp] theorem cget_nil (d : α) (k : Nat) : cget d [] k = d := rfl

omit [DecidableEq α] in
/-- Keys that all lie above `k` do not list `k`. -/
theorem cget_above (d : α) {k : Nat} : ∀ {m : Cells α}, (∀ p ∈ m, k < p.1) → cget d m k = d
  | [], _ => rfl
  | (j, y) :: r, h => by
    have hj : k < j := h (j, y) (by simp)
    rw [cget, if_neg (by omega)]
    exact cget_above d (fun p hp => h p (List.mem_cons_of_mem _ hp))

/-- The keys of a map after a write are old ones, or the written one. -/
theorem mem_cset {d : α} {p : Nat × α} {k : Nat} {x : α} : ∀ {m : Cells α}, p ∈ cset d m k x → p ∈ m ∨ (p = (k, x) ∧ x ≠ d)
  | [], h => by
    rw [cset] at h
    split at h <;> simp_all
  | (j, y) :: r, h => by
    rw [cset] at h
    split at h
    · split at h
      · exact .inl h
      · rcases List.mem_cons.1 h with h | h
        · exact .inr ⟨h, by assumption⟩
        · exact .inl h
    · split at h
      · split at h
        · exact .inl (List.mem_cons_of_mem _ h)
        · rcases List.mem_cons.1 h with h | h
          · exact .inr ⟨h, by assumption⟩
          · exact .inl (List.mem_cons_of_mem _ h)
      · rcases List.mem_cons.1 h with h | h
        · exact .inl (by simp [h])
        · rcases mem_cset h with h | h
          · exact .inl (List.mem_cons_of_mem _ h)
          · exact .inr h

/-- A write keeps the canonical form. -/
theorem cset_wf {d : α} (k : Nat) (x : α) : ∀ {m : Cells α}, CellsWf d m → CellsWf d (cset d m k x)
  | [], _ => by
    rw [cset]
    split <;> simp_all [CellsWf]
  | (j, y) :: r, h => by
    have hs := List.pairwise_cons.1 h.1
    have hr : CellsWf d r := ⟨hs.2, fun p hp => h.2 p (List.mem_cons_of_mem _ hp)⟩
    have hjr : ∀ p ∈ r, j < p.1 := fun p hp => hs.1 p hp
    rw [cset]
    split
    · split
      · exact h
      · rename_i hk hx
        refine ⟨List.pairwise_cons.2 ⟨?_, h.1⟩, ?_⟩
        · intro p hp
          rcases List.mem_cons.1 hp with hp | hp
          · simpa [hp] using hk
          · exact Nat.lt_trans hk (hjr p hp)
        · intro p hp
          rcases List.mem_cons.1 hp with hp | hp
          · simpa [hp] using hx
          · exact h.2 p hp
    · split
      · split
        · exact hr
        · rename_i hk hj hx
          subst hj
          refine ⟨List.pairwise_cons.2 ⟨hjr, hs.2⟩, ?_⟩
          intro p hp
          rcases List.mem_cons.1 hp with hp | hp
          · simpa [hp] using hx
          · exact hr.2 p hp
      · rename_i hk hj
        have ih := cset_wf k x hr
        refine ⟨List.pairwise_cons.2 ⟨?_, ih.1⟩, ?_⟩
        · intro p hp
          rcases mem_cset hp with hp | hp
          · exact hjr p hp
          · rw [hp.1]
            simp only
            omega
        · intro p hp
          rcases List.mem_cons.1 hp with hp | hp
          · exact h.2 p (by simp [hp])
          · exact ih.2 p hp

/-- A read of the written key gives the written value. -/
theorem cget_cset_same {d : α} (k : Nat) (x : α) : ∀ {m : Cells α}, CellsWf d m → cget d (cset d m k x) k = x
  | [], _ => by
    rw [cset]
    split <;> simp_all [cget]
  | (j, y) :: r, h => by
    have hs := List.pairwise_cons.1 h.1
    have hr : CellsWf d r := ⟨hs.2, fun p hp => h.2 p (List.mem_cons_of_mem _ hp)⟩
    rw [cset]
    split
    · rename_i hk
      split
      · rename_i hx
        rw [hx]
        refine cget_above d (fun p hp => ?_)
        rcases List.mem_cons.1 hp with hp | hp
        · simpa [hp] using hk
        · exact Nat.lt_trans hk (hs.1 p hp)
      · simp [cget]
    · split
      · rename_i hk hj
        subst hj
        split
        · rename_i hx
          rw [hx]
          exact cget_above d hs.1
        · simp [cget]
      · rename_i hk hj
        rw [cget, if_neg hj]
        exact cget_cset_same k x hr

/-- A write leaves every other key alone. -/
theorem cget_cset_other {d : α} {k l : Nat} (x : α) (hkl : l ≠ k) : ∀ (m : Cells α), cget d (cset d m k x) l = cget d m l
  | [] => by
    rw [cset]
    split
    · rfl
    · simp [cget, Ne.symm hkl]
  | (j, y) :: r => by
    rw [cset]
    split
    · split
      · rfl
      · rw [cget, if_neg (Ne.symm hkl)]
    · split
      · rename_i hk hj
        subst hj
        split
        · simp [cget, Ne.symm hkl]
        · simp [cget, Ne.symm hkl]
      · rw [cget, cget, cget_cset_other x hkl r]

omit [DecidableEq α] in
/-- Entries that leave a map leave it canonical. -/
theorem filter_wf {d : α} (p : Nat × α → Bool) {m : Cells α} (h : CellsWf d m) : CellsWf d (m.filter p) :=
  ⟨h.1.filter p, fun q hq => h.2 q (List.mem_filter.1 hq).1⟩

end Sys2Proof.Laws
end

