-- ==== Sys2Proof/Laws/Encoding.lean ====
section
/-! SUPPORT. The fields of an encoded word, the word of its fields, and the selector tables read back (09 R263, R270). -/

namespace Sys2Proof.Laws

/-- A word of format R as a number. -/
theorem wordR_toNat (op : Nat) (d a b : Reg) (m : BitVec 4) :
    (wordR op d a b m).toNat = op % 128 * 2 ^ 25 + d.toNat * 2 ^ 18 + a.toNat * 2 ^ 11 + b.toNat * 2 ^ 4 + m.toNat := by
  have := d.isLt; have := a.isLt; have := b.isLt; have := m.isLt
  simp only [wordR, BitVec.toNat_append, BitVec.toNat_ofNat]
  repeat rw [← Nat.shiftLeft_add_eq_or_of_lt (by omega)]
  simp only [Nat.shiftLeft_eq]
  omega
/-- A word of format I as a number. -/
theorem wordI_toNat (op : Nat) (d a : Reg) (i : BitVec 11) :
    (wordI op d a i).toNat = op % 128 * 2 ^ 25 + d.toNat * 2 ^ 18 + a.toNat * 2 ^ 11 + i.toNat := by
  have := d.isLt; have := a.isLt; have := i.isLt
  simp only [wordI, BitVec.toNat_append, BitVec.toNat_ofNat]
  repeat rw [← Nat.shiftLeft_add_eq_or_of_lt (by omega)]
  simp only [Nat.shiftLeft_eq]
  omega
/-- A word of format L or B as a number. -/
theorem wordL_toNat (op : Nat) (d : Reg) (i : BitVec 18) :
    (wordL op d i).toNat = op % 128 * 2 ^ 25 + d.toNat * 2 ^ 18 + i.toNat := by
  have := d.isLt; have := i.isLt
  simp only [wordL, BitVec.toNat_append, BitVec.toNat_ofNat]
  repeat rw [← Nat.shiftLeft_add_eq_or_of_lt (by omega)]
  simp only [Nat.shiftLeft_eq]
  omega

@[simp] theorem opOf_wordR (op : Nat) (h : op < 128) (d a b : Reg) (m : BitVec 4) : opOf (wordR op d a b m) = op := by
  have := d.isLt; have := a.isLt; have := b.isLt; have := m.isLt
  simp only [opOf, BitVec.extractLsb'_toNat, wordR_toNat, Nat.shiftRight_eq_div_pow]
  omega
@[simp] theorem fldD_wordR (op : Nat) (d a b : Reg) (m : BitVec 4) : fldD (wordR op d a b m) = d := by
  have := d.isLt; have := a.isLt; have := b.isLt; have := m.isLt
  apply BitVec.eq_of_toNat_eq
  simp only [fldD, BitVec.extractLsb'_toNat, wordR_toNat, Nat.shiftRight_eq_div_pow]
  omega
@[simp] theorem fldA_wordR (op : Nat) (d a b : Reg) (m : BitVec 4) : fldA (wordR op d a b m) = a := by
  have := d.isLt; have := a.isLt; have := b.isLt; have := m.isLt
  apply BitVec.eq_of_toNat_eq
  simp only [fldA, BitVec.extractLsb'_toNat, wordR_toNat, Nat.shiftRight_eq_div_pow]
  omega
@[simp] theorem fldB_wordR (op : Nat) (d a b : Reg) (m : BitVec 4) : fldB (wordR op d a b m) = b := by
  have := d.isLt; have := a.isLt; have := b.isLt; have := m.isLt
  apply BitVec.eq_of_toNat_eq
  simp only [fldB, BitVec.extractLsb'_toNat, wordR_toNat, Nat.shiftRight_eq_div_pow]
  omega
@[simp] theorem fldM_wordR (op : Nat) (d a b : Reg) (m : BitVec 4) : fldM (wordR op d a b m) = m := by
  have := d.isLt; have := a.isLt; have := b.isLt; have := m.isLt
  apply BitVec.eq_of_toNat_eq
  simp only [fldM, BitVec.extractLsb'_toNat, wordR_toNat, Nat.shiftRight_eq_div_pow]
  omega
@[simp] theorem opOf_wordI (op : Nat) (h : op < 128) (d a : Reg) (i : BitVec 11) : opOf (wordI op d a i) = op := by
  have := d.isLt; have := a.isLt; have := i.isLt
  simp only [opOf, BitVec.extractLsb'_toNat, wordI_toNat, Nat.shiftRight_eq_div_pow]
  omega
@[simp] theorem fldD_wordI (op : Nat) (d a : Reg) (i : BitVec 11) : fldD (wordI op d a i) = d := by
  have := d.isLt; have := a.isLt; have := i.isLt
  apply BitVec.eq_of_toNat_eq
  simp only [fldD, BitVec.extractLsb'_toNat, wordI_toNat, Nat.shiftRight_eq_div_pow]
  omega
@[simp] theorem fldA_wordI (op : Nat) (d a : Reg) (i : BitVec 11) : fldA (wordI op d a i) = a := by
  have := d.isLt; have := a.isLt; have := i.isLt
  apply BitVec.eq_of_toNat_eq
  simp only [fldA, BitVec.extractLsb'_toNat, wordI_toNat, Nat.shiftRight_eq_div_pow]
  omega
@[simp] theorem fldI_wordI (op : Nat) (d a : Reg) (i : BitVec 11) : fldI (wordI op d a i) = i := by
  have := d.isLt; have := a.isLt; have := i.isLt
  apply BitVec.eq_of_toNat_eq
  simp only [fldI, BitVec.extractLsb'_toNat, wordI_toNat, Nat.shiftRight_eq_div_pow]
  omega
@[simp] theorem opOf_wordL (op : Nat) (h : op < 128) (d : Reg) (i : BitVec 18) : opOf (wordL op d i) = op := by
  have := d.isLt; have := i.isLt
  simp only [opOf, BitVec.extractLsb'_toNat, wordL_toNat, Nat.shiftRight_eq_div_pow]
  omega
@[simp] theorem fldD_wordL (op : Nat) (d : Reg) (i : BitVec 18) : fldD (wordL op d i) = d := by
  have := d.isLt; have := i.isLt
  apply BitVec.eq_of_toNat_eq
  simp only [fldD, BitVec.extractLsb'_toNat, wordL_toNat, Nat.shiftRight_eq_div_pow]
  omega
@[simp] theorem fldL_wordL (op : Nat) (d : Reg) (i : BitVec 18) : fldL (wordL op d i) = i := by
  have := d.isLt; have := i.isLt
  apply BitVec.eq_of_toNat_eq
  simp only [fldL, BitVec.extractLsb'_toNat, wordL_toNat, Nat.shiftRight_eq_div_pow]
  omega
/-- The fields of a word make the word again (R270). -/
theorem wordR_fields (w : W32) : wordR (opOf w) (fldD w) (fldA w) (fldB w) (fldM w) = w := by
  have := w.isLt
  apply BitVec.eq_of_toNat_eq
  simp only [wordR_toNat, opOf, fldD, fldA, fldB, fldM, BitVec.extractLsb'_toNat, Nat.shiftRight_eq_div_pow]
  omega
/-- The fields of a word make the word again (R270). -/
theorem wordI_fields (w : W32) : wordI (opOf w) (fldD w) (fldA w) (fldI w) = w := by
  have := w.isLt
  apply BitVec.eq_of_toNat_eq
  simp only [wordI_toNat, opOf, fldD, fldA, fldI, BitVec.extractLsb'_toNat, Nat.shiftRight_eq_div_pow]
  omega
/-- The fields of a word make the word again (R270). -/
theorem wordL_fields (w : W32) : wordL (opOf w) (fldD w) (fldL w) = w := by
  have := w.isLt
  apply BitVec.eq_of_toNat_eq
  simp only [wordL_toNat, opOf, fldD, fldL, BitVec.extractLsb'_toNat, Nat.shiftRight_eq_div_pow]
  omega
@[simp] theorem tblSAdd_code (x : SAddOp) : pick tblSAdd (code tblSAdd x) = some x := by
  cases x <;> rfl
@[simp] theorem tblSMul_code (x : SMulOp) : pick tblSMul (code tblSMul x) = some x := by
  cases x <;> rfl
@[simp] theorem tblSLog_code (x : SLogOp) : pick tblSLog (code tblSLog x) = some x := by
  cases x <;> rfl
@[simp] theorem tblShl_code (x : SShlOp) : pick tblShl (code tblShl x) = some x := by
  cases x <;> rfl
@[simp] theorem tblShr_code (x : ShrOp) : pick tblShr (code tblShr x) = some x := by
  cases x <;> rfl
@[simp] theorem tblMinMax_code (x : MinMaxOp) : pick tblMinMax (code tblMinMax x) = some x := by
  cases x <;> rfl
@[simp] theorem tblCmp_code (x : CmpOp) : pick tblCmp (code tblCmp x) = some x := by
  cases x <;> rfl
@[simp] theorem tblSSel_code (x : SSelOp) : pick tblSSel (code tblSSel x) = some x := by
  cases x <;> rfl
@[simp] theorem tblSLogi_code (x : SLogiOp) : pick tblSLogi (code tblSLogi x) = some x := by
  cases x <;> rfl
@[simp] theorem tblSBit_code (x : SBitOp) : pick tblSBit (code tblSBit x) = some x := by
  cases x <;> rfl
@[simp] theorem tblRoute_code (x : Route) : pick tblRoute (code tblRoute x) = some x := by
  cases x <;> rfl
@[simp] theorem tblVVote_code (x : VVoteOp) : pick tblVVote (code tblVVote x) = some x := by
  cases x <;> rfl
@[simp] theorem tblVScan_code (x : VScanOp) : pick tblVScan (code tblVScan x) = some x := by
  cases x <;> rfl
@[simp] theorem tblVRedl_code (x : VRedlOp) : pick tblVRedl (code tblVRedl x) = some x := by
  cases x <;> rfl
@[simp] theorem tblFMinMax_code (x : FMinMaxOp) : pick tblFMinMax (code tblFMinMax x) = some x := by
  cases x <;> rfl
@[simp] theorem tblFCmp_code (x : FCmpOp) : pick tblFCmp (code tblFCmp x) = some x := by
  cases x <;> rfl
@[simp] theorem tblFFun_code (x : FFunOp) : pick tblFFun (code tblFFun x) = some x := by
  cases x <;> rfl
@[simp] theorem tblRnd_code (x : RndSel) : pick tblRnd (code tblRnd x) = some x := by
  cases x <;> rfl
@[simp] theorem tblF4_code (x : F4Type) : pick tblF4 (code tblF4 x) = some x := by
  cases x <;> rfl
@[simp] theorem tblPack_code (x : PackW) : pick tblPack (code tblPack x) = some x := by
  cases x <;> rfl
@[simp] theorem tblClass_code (x : ClassFmt) : pick tblClass (code tblClass x) = some x := by
  cases x <;> rfl
@[simp] theorem tblSize_code (x : Size) : pick tblSize (code tblSize x) = some x := by
  cases x <;> rfl
@[simp] theorem tblAtom_code (x : AtomOp) : pick tblAtom (code tblAtom x) = some x := by
  cases x <;> rfl
@[simp] theorem tblAtom64_code (x : Atom64Op) : pick tblAtom64 (code tblAtom64 x) = some x := by
  cases x <;> rfl
@[simp] theorem tblRed_code (x : RedOp) : pick tblRed (code tblRed x) = some x := by
  cases x <;> rfl
/-- The format of `fcvt` from its codes (R349). -/
@[simp] theorem cvtOf_code (x : CvtFmt) : cvtOf (cvtCode x).1 (cvtCode x).2 = some x := by
  cases x with
  | f4 t => cases t <;> rfl
  | _ => rfl

end Sys2Proof.Laws
end

