-- ==== Sys2Proof/Laws/Memory.lean ====
section
/-! SUPPORT. The operations that write memory: each keeps the canonical form, and what a read finds after it. -/

namespace Sys2Proof.Laws

open Sys2Proof.Machine

/-- A write of one byte keeps the canonical form. -/
theorem putByte_wf (p l : Nat) (b : Byte) (k : Key) {s : State} (h : Memory.wf s.mem) : Memory.wf (putByte p l b k s).mem :=
  cset_wf l b h
/-- A fold of operations that each keep the canonical form keeps it. -/
theorem foldl_wf {β : Type} (f : State → β → State) (hf : ∀ s b, Memory.wf s.mem → Memory.wf (f s b).mem) :
    ∀ (bs : List β) {s : State}, Memory.wf s.mem → Memory.wf (bs.foldl f s).mem
  | [], _, h => h
  | b :: r, s, h => foldl_wf f hf r (hf s b h)
/-- A write at the home keeps the canonical form. -/
theorem homeWrite_wf (bs : List (Nat × Byte)) (k : Key) {s : State} (h : Memory.wf s.mem) : Memory.wf (homeWrite bs k s).mem :=
  foldl_wf _ (fun _ b h => putByte_wf _ b.1 b.2 k h) bs h
/-- Clearing locations keeps the canonical form. -/
theorem scrubLocs_wf (p : Nat → Bool) {s : State} (h : Memory.wf s.mem) : Memory.wf (scrubLocs p s).mem := filter_wf _ h
/-- Placing bytes keeps the canonical form. -/
theorem poke_wf (l : Nat) (bs : List Byte) {s : State} (h : Memory.wf s.mem) : Memory.wf (poke l bs s).mem :=
  foldl_wf _ (fun _ b h => cset_wf b.1 b.2 h) (consec l bs) h
/-- A change of gangs writes no memory. -/
@[simp] theorem onGang_mem (u : Nat) (f : Gang → Gang) (s : State) : (onGang u f s).mem = s.mem := rfl
@[simp] theorem onGangAny_mem (u : Nat) (f : Gang → Gang) (s : State) : (onGangAny u f s).mem = s.mem := rfl
@[simp] theorem onGangs_mem (f : Gang → Gang) (s : State) : (onGangs f s).mem = s.mem := rfl
/-- A write of a store keeps the canonical form. -/
theorem putTagged_wf (t p l : Nat) (b : Byte) (k : Key) {s : State} (h : Memory.wf s.mem) : Memory.wf (putTagged t p l b k s).mem :=
  cset_wf l b h
/-- The bytes of a store keep the canonical form. -/
theorem storeBytes_wf (r : StoreReq) {s : State} (h : Memory.wf s.mem) : Memory.wf (storeBytes r s).mem :=
  foldl_wf _ (fun t b h => by simpa using putTagged_wf r.id _ b.loc b.val b.key h) _ h
/-- A record for the store-fault queue changes no memory. -/
@[simp] theorem storeFault_mem (r : StoreReq) (c : Nat) (a i : Word) (s : State) : (storeFault r c a i s).mem = s.mem := rfl
/-- A store that reaches its homes keeps the canonical form. -/
theorem storeHome_wf (r : StoreReq) {s : State} (h : Memory.wf s.mem) : Memory.wf (storeHome r s).mem := by
  unfold storeHome
  split
  · split
    · exact storeBytes_wf r h
    · simpa using storeBytes_wf r h
  · exact storeBytes_wf r h

/-- A byte that was written reads as it was written. -/
theorem memByte_putByte_same (p l : Nat) (b : Byte) (k : Key) {s : State} (h : Memory.wf s.mem) : memByte (putByte p l b k s) l = b :=
  cget_cset_same l b h
/-- A write of one byte changes no other byte. -/
theorem memByte_putByte_other (p : Nat) {l m : Nat} (b : Byte) (k : Key) (s : State) (hl : m ≠ l) :
    memByte (putByte p l b k s) m = memByte s m :=
  cget_cset_other b hl s.mem
/-- A write of one byte takes a position in no other location's modification order. -/
theorem topOf_putByte_other (p : Nat) {l m : Nat} (b : Byte) (k : Key) (s : State) (hl : m ≠ l) :
    topOf (putByte p l b k s) m = topOf s m :=
  cget_cset_other p hl s.top

end Sys2Proof.Laws
end

