-- ==== Sys2Proof/Laws/State.lean ====
section
/-! SUPPORT. One lemma for each field and update of the state that the meanings share. -/

namespace Sys2Proof.Laws

open Sys2Proof.Machine

/-! setPath: the path table of a gang -/

@[simp] theorem setPath_at_ (g : Gang) (p : PathEntry) : (setPath g p).at_ = g.at_ := rfl
@[simp] theorem setPath_uid (g : Gang) (p : PathEntry) : (setPath g p).uid = g.uid := rfl
@[simp] theorem setPath_phase (g : Gang) (p : PathEntry) : (setPath g p).phase = g.phase := rfl
@[simp] theorem setPath_job (g : Gang) (p : PathEntry) : (setPath g p).job = g.job := rfl
@[simp] theorem setPath_level (g : Gang) (p : PathEntry) : (setPath g p).level = g.level := rfl
@[simp] theorem setPath_root (g : Gang) (p : PathEntry) : (setPath g p).root = g.root := rfl
@[simp] theorem setPath_depth (g : Gang) (p : PathEntry) : (setPath g p).depth = g.depth := rfl
@[simp] theorem setPath_inRoot (g : Gang) (p : PathEntry) : (setPath g p).inRoot = g.inRoot := rfl
@[simp] theorem setPath_launch (g : Gang) (p : PathEntry) : (setPath g p).launch = g.launch := rfl
@[simp] theorem setPath_child (g : Gang) (p : PathEntry) : (setPath g p).child = g.child := rfl
@[simp] theorem setPath_prio (g : Gang) (p : PathEntry) : (setPath g p).prio = g.prio := rfl
@[simp] theorem setPath_act (g : Gang) (p : PathEntry) : (setPath g p).act = g.act := rfl
@[simp] theorem setPath_s (g : Gang) (p : PathEntry) : (setPath g p).s = g.s := rfl
@[simp] theorem setPath_v (g : Gang) (p : PathEntry) : (setPath g p).v = g.v := rfl
@[simp] theorem setPath_k (g : Gang) (p : PathEntry) : (setPath g p).k = g.k := rfl
@[simp] theorem setPath_sh (g : Gang) (p : PathEntry) : (setPath g p).sh = g.sh := rfl
@[simp] theorem setPath_tl (g : Gang) (p : PathEntry) : (setPath g p).tl = g.tl := rfl
@[simp] theorem setPath_fpcsr (g : Gang) (p : PathEntry) : (setPath g p).fpcsr = g.fpcsr := rfl
@[simp] theorem setPath_orNow (g : Gang) (p : PathEntry) : (setPath g p).orNow = g.orNow := rfl
@[simp] theorem setPath_lscale (g : Gang) (p : PathEntry) : (setPath g p).lscale = g.lscale := rfl
@[simp] theorem setPath_ovf (g : Gang) (p : PathEntry) : (setPath g p).ovf = g.ovf := rfl
@[simp] theorem setPath_rkseed (g : Gang) (p : PathEntry) : (setPath g p).rkseed = g.rkseed := rfl
@[simp] theorem setPath_rkid (g : Gang) (p : PathEntry) : (setPath g p).rkid = g.rkid := rfl
@[simp] theorem setPath_rkstep (g : Gang) (p : PathEntry) : (setPath g p).rkstep = g.rkstep := rfl
@[simp] theorem setPath_rkbase (g : Gang) (p : PathEntry) : (setPath g p).rkbase = g.rkbase := rfl
@[simp] theorem setPath_xpc (g : Gang) (p : PathEntry) : (setPath g p).xpc = g.xpc := rfl
@[simp] theorem setPath_xcause (g : Gang) (p : PathEntry) : (setPath g p).xcause = g.xcause := rfl
@[simp] theorem setPath_xaddr (g : Gang) (p : PathEntry) : (setPath g p).xaddr = g.xaddr := rfl
@[simp] theorem setPath_xmask (g : Gang) (p : PathEntry) : (setPath g p).xmask = g.xmask := rfl
@[simp] theorem setPath_xinfo (g : Gang) (p : PathEntry) : (setPath g p).xinfo = g.xinfo := rfl
@[simp] theorem setPath_xvec (g : Gang) (p : PathEntry) : (setPath g p).xvec = g.xvec := rfl
@[simp] theorem setPath_inh (g : Gang) (p : PathEntry) : (setPath g p).inh = g.inh := rfl
@[simp] theorem setPath_prec (g : Gang) (p : PathEntry) : (setPath g p).prec = g.prec := rfl
@[simp] theorem setPath_pair (g : Gang) (p : PathEntry) : (setPath g p).pair = g.pair := rfl
@[simp] theorem setPath_pme (g : Gang) (p : PathEntry) : (setPath g p).pme = g.pme := rfl
@[simp] theorem setPath_window (g : Gang) (p : PathEntry) : (setPath g p).window = g.window := rfl
@[simp] theorem setPath_blocks (g : Gang) (p : PathEntry) : (setPath g p).blocks = g.blocks := rfl
@[simp] theorem setPath_rstack (g : Gang) (p : PathEntry) : (setPath g p).rstack = g.rstack := rfl
@[simp] theorem setPath_flags (g : Gang) (p : PathEntry) : (setPath g p).flags = g.flags := rfl
@[simp] theorem setPath_inflight (g : Gang) (p : PathEntry) : (setPath g p).inflight = g.inflight := rfl
@[simp] theorem setPath_pend (g : Gang) (p : PathEntry) : (setPath g p).pend = g.pend := rfl
@[simp] theorem setPath_deferred (g : Gang) (p : PathEntry) : (setPath g p).deferred = g.deferred := rfl
@[simp] theorem setPath_hold (g : Gang) (p : PathEntry) : (setPath g p).hold = g.hold := rfl
@[simp] theorem setPath_barOpen (g : Gang) (p : PathEntry) : (setPath g p).barOpen = g.barOpen := rfl
@[simp] theorem setPath_blocked (g : Gang) (p : PathEntry) : (setPath g p).blocked = g.blocked := rfl
@[simp] theorem setPath_drainFlags (g : Gang) (p : PathEntry) : (setPath g p).drainFlags = g.drainFlags := rfl
@[simp] theorem setPath_tried (g : Gang) (p : PathEntry) : (setPath g p).tried = g.tried := rfl
@[simp] theorem setPath_tookOver (g : Gang) (p : PathEntry) : (setPath g p).tookOver = g.tookOver := rfl
@[simp] theorem setPath_eligFrom (g : Gang) (p : PathEntry) : (setPath g p).eligFrom = g.eligFrom := rfl
@[simp] theorem setPath_memHold (g : Gang) (p : PathEntry) : (setPath g p).memHold = g.memHold := rfl
@[simp] theorem setPath_seen (g : Gang) (p : PathEntry) : (setPath g p).seen = g.seen := rfl
@[simp] theorem setPath_notBefore (g : Gang) (p : PathEntry) : (setPath g p).notBefore = g.notBefore := rfl
@[simp] theorem setPath_lastIssue (g : Gang) (p : PathEntry) : (setPath g p).lastIssue = g.lastIssue := rfl
@[simp] theorem setPath_resident (g : Gang) (p : PathEntry) : (setPath g p).resident = g.resident := rfl
@[simp] theorem setPath_icount (g : Gang) (p : PathEntry) : (setPath g p).icount = g.icount := rfl
@[simp] theorem setPath_startLevel (g : Gang) (p : PathEntry) : (setPath g p).startLevel = g.startLevel := rfl
@[simp] theorem setPath_view (g : Gang) (p : PathEntry) : (setPath g p).view = g.view := rfl
@[simp] theorem setPath_own (g : Gang) (p : PathEntry) : (setPath g p).own = g.own := rfl
@[simp] theorem setPath_fenced (g : Gang) (p : PathEntry) : (setPath g p).fenced = g.fenced := rfl
@[simp] theorem setPath_fail (g : Gang) (p : PathEntry) : (setPath g p).fail = g.fail := rfl
@[simp] theorem setPath_cancelled (g : Gang) (p : PathEntry) : (setPath g p).cancelled = g.cancelled := rfl
@[simp] theorem setPath_stopping (g : Gang) (p : PathEntry) : (setPath g p).stopping = g.stopping := rfl

/-! setPc: the pc of the active path (R92) -/

@[simp] theorem setPc_others (a : Word) (s : State) : (setPc a s).others = s.others := rfl
@[simp] theorem setPc_iss (a : Word) (s : State) : (setPc a s).iss = s.iss := rfl
@[simp] theorem setPc_cycle (a : Word) (s : State) : (setPc a s).cycle = s.cycle := rfl
@[simp] theorem setPc_mem (a : Word) (s : State) : (setPc a s).mem = s.mem := rfl
@[simp] theorem setPc_keys (a : Word) (s : State) : (setPc a s).keys = s.keys := rfl
@[simp] theorem setPc_lineKeys (a : Word) (s : State) : (setPc a s).lineKeys = s.lineKeys := rfl
@[simp] theorem setPc_tags (a : Word) (s : State) : (setPc a s).tags = s.tags := rfl
@[simp] theorem setPc_origin (a : Word) (s : State) : (setPc a s).origin = s.origin := rfl
@[simp] theorem setPc_top (a : Word) (s : State) : (setPc a s).top = s.top := rfl
@[simp] theorem setPc_wseq (a : Word) (s : State) : (setPc a s).wseq = s.wseq := rfl
@[simp] theorem setPc_hist (a : Word) (s : State) : (setPc a s).hist = s.hist := rfl
@[simp] theorem setPc_pubs (a : Word) (s : State) : (setPc a s).pubs = s.pubs := rfl
@[simp] theorem setPc_poison (a : Word) (s : State) : (setPc a s).poison = s.poison := rfl
@[simp] theorem setPc_fetched (a : Word) (s : State) : (setPc a s).fetched = s.fetched := rfl
@[simp] theorem setPc_stores (a : Word) (s : State) : (setPc a s).stores = s.stores := rfl
@[simp] theorem setPc_atoms (a : Word) (s : State) : (setPc a s).atoms = s.atoms := rfl
@[simp] theorem setPc_merges (a : Word) (s : State) : (setPc a s).merges = s.merges := rfl
@[simp] theorem setPc_areplies (a : Word) (s : State) : (setPc a s).areplies = s.areplies := rfl
@[simp] theorem setPc_lines (a : Word) (s : State) : (setPc a s).lines = s.lines := rfl
@[simp] theorem setPc_faults (a : Word) (s : State) : (setPc a s).faults = s.faults := rfl
@[simp] theorem setPc_rgetQ (a : Word) (s : State) : (setPc a s).rgetQ = s.rgetQ := rfl
@[simp] theorem setPc_poolQ (a : Word) (s : State) : (setPc a s).poolQ = s.poolQ := rfl
@[simp] theorem setPc_units (a : Word) (s : State) : (setPc a s).units = s.units := rfl
@[simp] theorem setPc_slots (a : Word) (s : State) : (setPc a s).slots = s.slots := rfl
@[simp] theorem setPc_qwaits (a : Word) (s : State) : (setPc a s).qwaits = s.qwaits := rfl
@[simp] theorem setPc_launches (a : Word) (s : State) : (setPc a s).launches = s.launches := rfl
@[simp] theorem setPc_scratch (a : Word) (s : State) : (setPc a s).scratch = s.scratch := rfl
@[simp] theorem setPc_timelines (a : Word) (s : State) : (setPc a s).timelines = s.timelines := rfl
@[simp] theorem setPc_carts (a : Word) (s : State) : (setPc a s).carts = s.carts := rfl
@[simp] theorem setPc_kiln (a : Word) (s : State) : (setPc a s).kiln = s.kiln := rfl
@[simp] theorem setPc_mldws (a : Word) (s : State) : (setPc a s).mldws = s.mldws := rfl
@[simp] theorem setPc_latches (a : Word) (s : State) : (setPc a s).latches = s.latches := rfl
@[simp] theorem setPc_acc (a : Word) (s : State) : (setPc a s).acc = s.acc := rfl
@[simp] theorem setPc_tiles (a : Word) (s : State) : (setPc a s).tiles = s.tiles := rfl
@[simp] theorem setPc_tickets (a : Word) (s : State) : (setPc a s).tickets = s.tickets := rfl
@[simp] theorem setPc_granary (a : Word) (s : State) : (setPc a s).granary = s.granary := rfl
@[simp] theorem setPc_keySlots (a : Word) (s : State) : (setPc a s).keySlots = s.keySlots := rfl
@[simp] theorem setPc_xts (a : Word) (s : State) : (setPc a s).xts = s.xts := rfl
@[simp] theorem setPc_jobs (a : Word) (s : State) : (setPc a s).jobs = s.jobs := rfl
@[simp] theorem setPc_queues (a : Word) (s : State) : (setPc a s).queues = s.queues := rfl
@[simp] theorem setPc_sessions (a : Word) (s : State) : (setPc a s).sessions = s.sessions := rfl
@[simp] theorem setPc_out (a : Word) (s : State) : (setPc a s).out = s.out := rfl
@[simp] theorem setPc_images (a : Word) (s : State) : (setPc a s).images = s.images := rfl
@[simp] theorem setPc_ports (a : Word) (s : State) : (setPc a s).ports = s.ports := rfl
@[simp] theorem setPc_bonds (a : Word) (s : State) : (setPc a s).bonds = s.bonds := rfl
@[simp] theorem setPc_links (a : Word) (s : State) : (setPc a s).links = s.links := rfl
@[simp] theorem setPc_routes (a : Word) (s : State) : (setPc a s).routes = s.routes := rfl
@[simp] theorem setPc_pkgs (a : Word) (s : State) : (setPc a s).pkgs = s.pkgs := rfl
@[simp] theorem setPc_code (a : Word) (s : State) : (setPc a s).code = s.code := rfl
@[simp] theorem setPc_finalised (a : Word) (s : State) : (setPc a s).finalised = s.finalised := rfl
@[simp] theorem setPc_nextId (a : Word) (s : State) : (setPc a s).nextId = s.nextId := rfl
@[simp] theorem setPc_fresh (a : Word) (s : State) : (setPc a s).fresh = s.fresh := rfl
@[simp] theorem setPc_agenda (a : Word) (s : State) : (setPc a s).agenda = s.agenda := rfl
@[simp] theorem setPc_turn (a : Word) (s : State) : (setPc a s).turn = s.turn := rfl
@[simp] theorem setPc_picks (a : Word) (s : State) : (setPc a s).picks = s.picks := rfl
@[simp] theorem setPc_early (a : Word) (s : State) : (setPc a s).early = s.early := rfl
@[simp] theorem setPc_cut (a : Word) (s : State) : (setPc a s).cut = s.cut := rfl
@[simp] theorem setPc_g_at_ (a : Word) (s : State) : (setPc a s).g.at_ = s.g.at_ := rfl
@[simp] theorem setPc_g_uid (a : Word) (s : State) : (setPc a s).g.uid = s.g.uid := rfl
@[simp] theorem setPc_g_phase (a : Word) (s : State) : (setPc a s).g.phase = s.g.phase := rfl
@[simp] theorem setPc_g_job (a : Word) (s : State) : (setPc a s).g.job = s.g.job := rfl
@[simp] theorem setPc_g_level (a : Word) (s : State) : (setPc a s).g.level = s.g.level := rfl
@[simp] theorem setPc_g_root (a : Word) (s : State) : (setPc a s).g.root = s.g.root := rfl
@[simp] theorem setPc_g_depth (a : Word) (s : State) : (setPc a s).g.depth = s.g.depth := rfl
@[simp] theorem setPc_g_inRoot (a : Word) (s : State) : (setPc a s).g.inRoot = s.g.inRoot := rfl
@[simp] theorem setPc_g_launch (a : Word) (s : State) : (setPc a s).g.launch = s.g.launch := rfl
@[simp] theorem setPc_g_child (a : Word) (s : State) : (setPc a s).g.child = s.g.child := rfl
@[simp] theorem setPc_g_prio (a : Word) (s : State) : (setPc a s).g.prio = s.g.prio := rfl
@[simp] theorem setPc_g_act (a : Word) (s : State) : (setPc a s).g.act = s.g.act := rfl
@[simp] theorem setPc_g_s (a : Word) (s : State) : (setPc a s).g.s = s.g.s := rfl
@[simp] theorem setPc_g_v (a : Word) (s : State) : (setPc a s).g.v = s.g.v := rfl
@[simp] theorem setPc_g_k (a : Word) (s : State) : (setPc a s).g.k = s.g.k := rfl
@[simp] theorem setPc_g_sh (a : Word) (s : State) : (setPc a s).g.sh = s.g.sh := rfl
@[simp] theorem setPc_g_tl (a : Word) (s : State) : (setPc a s).g.tl = s.g.tl := rfl
@[simp] theorem setPc_g_fpcsr (a : Word) (s : State) : (setPc a s).g.fpcsr = s.g.fpcsr := rfl
@[simp] theorem setPc_g_orNow (a : Word) (s : State) : (setPc a s).g.orNow = s.g.orNow := rfl
@[simp] theorem setPc_g_lscale (a : Word) (s : State) : (setPc a s).g.lscale = s.g.lscale := rfl
@[simp] theorem setPc_g_ovf (a : Word) (s : State) : (setPc a s).g.ovf = s.g.ovf := rfl
@[simp] theorem setPc_g_rkseed (a : Word) (s : State) : (setPc a s).g.rkseed = s.g.rkseed := rfl
@[simp] theorem setPc_g_rkid (a : Word) (s : State) : (setPc a s).g.rkid = s.g.rkid := rfl
@[simp] theorem setPc_g_rkstep (a : Word) (s : State) : (setPc a s).g.rkstep = s.g.rkstep := rfl
@[simp] theorem setPc_g_rkbase (a : Word) (s : State) : (setPc a s).g.rkbase = s.g.rkbase := rfl
@[simp] theorem setPc_g_xpc (a : Word) (s : State) : (setPc a s).g.xpc = s.g.xpc := rfl
@[simp] theorem setPc_g_xcause (a : Word) (s : State) : (setPc a s).g.xcause = s.g.xcause := rfl
@[simp] theorem setPc_g_xaddr (a : Word) (s : State) : (setPc a s).g.xaddr = s.g.xaddr := rfl
@[simp] theorem setPc_g_xmask (a : Word) (s : State) : (setPc a s).g.xmask = s.g.xmask := rfl
@[simp] theorem setPc_g_xinfo (a : Word) (s : State) : (setPc a s).g.xinfo = s.g.xinfo := rfl
@[simp] theorem setPc_g_xvec (a : Word) (s : State) : (setPc a s).g.xvec = s.g.xvec := rfl
@[simp] theorem setPc_g_inh (a : Word) (s : State) : (setPc a s).g.inh = s.g.inh := rfl
@[simp] theorem setPc_g_prec (a : Word) (s : State) : (setPc a s).g.prec = s.g.prec := rfl
@[simp] theorem setPc_g_pair (a : Word) (s : State) : (setPc a s).g.pair = s.g.pair := rfl
@[simp] theorem setPc_g_pme (a : Word) (s : State) : (setPc a s).g.pme = s.g.pme := rfl
@[simp] theorem setPc_g_window (a : Word) (s : State) : (setPc a s).g.window = s.g.window := rfl
@[simp] theorem setPc_g_blocks (a : Word) (s : State) : (setPc a s).g.blocks = s.g.blocks := rfl
@[simp] theorem setPc_g_rstack (a : Word) (s : State) : (setPc a s).g.rstack = s.g.rstack := rfl
@[simp] theorem setPc_g_flags (a : Word) (s : State) : (setPc a s).g.flags = s.g.flags := rfl
@[simp] theorem setPc_g_inflight (a : Word) (s : State) : (setPc a s).g.inflight = s.g.inflight := rfl
@[simp] theorem setPc_g_pend (a : Word) (s : State) : (setPc a s).g.pend = s.g.pend := rfl
@[simp] theorem setPc_g_deferred (a : Word) (s : State) : (setPc a s).g.deferred = s.g.deferred := rfl
@[simp] theorem setPc_g_hold (a : Word) (s : State) : (setPc a s).g.hold = s.g.hold := rfl
@[simp] theorem setPc_g_barOpen (a : Word) (s : State) : (setPc a s).g.barOpen = s.g.barOpen := rfl
@[simp] theorem setPc_g_blocked (a : Word) (s : State) : (setPc a s).g.blocked = s.g.blocked := rfl
@[simp] theorem setPc_g_drainFlags (a : Word) (s : State) : (setPc a s).g.drainFlags = s.g.drainFlags := rfl
@[simp] theorem setPc_g_tried (a : Word) (s : State) : (setPc a s).g.tried = s.g.tried := rfl
@[simp] theorem setPc_g_tookOver (a : Word) (s : State) : (setPc a s).g.tookOver = s.g.tookOver := rfl
@[simp] theorem setPc_g_eligFrom (a : Word) (s : State) : (setPc a s).g.eligFrom = s.g.eligFrom := rfl
@[simp] theorem setPc_g_memHold (a : Word) (s : State) : (setPc a s).g.memHold = s.g.memHold := rfl
@[simp] theorem setPc_g_seen (a : Word) (s : State) : (setPc a s).g.seen = s.g.seen := rfl
@[simp] theorem setPc_g_notBefore (a : Word) (s : State) : (setPc a s).g.notBefore = s.g.notBefore := rfl
@[simp] theorem setPc_g_lastIssue (a : Word) (s : State) : (setPc a s).g.lastIssue = s.g.lastIssue := rfl
@[simp] theorem setPc_g_resident (a : Word) (s : State) : (setPc a s).g.resident = s.g.resident := rfl
@[simp] theorem setPc_g_icount (a : Word) (s : State) : (setPc a s).g.icount = s.g.icount := rfl
@[simp] theorem setPc_g_startLevel (a : Word) (s : State) : (setPc a s).g.startLevel = s.g.startLevel := rfl
@[simp] theorem setPc_g_view (a : Word) (s : State) : (setPc a s).g.view = s.g.view := rfl
@[simp] theorem setPc_g_own (a : Word) (s : State) : (setPc a s).g.own = s.g.own := rfl
@[simp] theorem setPc_g_fenced (a : Word) (s : State) : (setPc a s).g.fenced = s.g.fenced := rfl
@[simp] theorem setPc_g_fail (a : Word) (s : State) : (setPc a s).g.fail = s.g.fail := rfl
@[simp] theorem setPc_g_cancelled (a : Word) (s : State) : (setPc a s).g.cancelled = s.g.cancelled := rfl
@[simp] theorem setPc_g_stopping (a : Word) (s : State) : (setPc a s).g.stopping = s.g.stopping := rfl

/-! next: the instruction completes (R263) -/

@[simp] theorem next_others (s : State) : (next s).others = s.others := rfl
@[simp] theorem next_iss (s : State) : (next s).iss = s.iss := rfl
@[simp] theorem next_cycle (s : State) : (next s).cycle = s.cycle := rfl
@[simp] theorem next_mem (s : State) : (next s).mem = s.mem := rfl
@[simp] theorem next_keys (s : State) : (next s).keys = s.keys := rfl
@[simp] theorem next_lineKeys (s : State) : (next s).lineKeys = s.lineKeys := rfl
@[simp] theorem next_tags (s : State) : (next s).tags = s.tags := rfl
@[simp] theorem next_origin (s : State) : (next s).origin = s.origin := rfl
@[simp] theorem next_top (s : State) : (next s).top = s.top := rfl
@[simp] theorem next_wseq (s : State) : (next s).wseq = s.wseq := rfl
@[simp] theorem next_hist (s : State) : (next s).hist = s.hist := rfl
@[simp] theorem next_pubs (s : State) : (next s).pubs = s.pubs := rfl
@[simp] theorem next_poison (s : State) : (next s).poison = s.poison := rfl
@[simp] theorem next_fetched (s : State) : (next s).fetched = s.fetched := rfl
@[simp] theorem next_stores (s : State) : (next s).stores = s.stores := rfl
@[simp] theorem next_atoms (s : State) : (next s).atoms = s.atoms := rfl
@[simp] theorem next_merges (s : State) : (next s).merges = s.merges := rfl
@[simp] theorem next_areplies (s : State) : (next s).areplies = s.areplies := rfl
@[simp] theorem next_lines (s : State) : (next s).lines = s.lines := rfl
@[simp] theorem next_faults (s : State) : (next s).faults = s.faults := rfl
@[simp] theorem next_rgetQ (s : State) : (next s).rgetQ = s.rgetQ := rfl
@[simp] theorem next_poolQ (s : State) : (next s).poolQ = s.poolQ := rfl
@[simp] theorem next_units (s : State) : (next s).units = s.units := rfl
@[simp] theorem next_slots (s : State) : (next s).slots = s.slots := rfl
@[simp] theorem next_qwaits (s : State) : (next s).qwaits = s.qwaits := rfl
@[simp] theorem next_launches (s : State) : (next s).launches = s.launches := rfl
@[simp] theorem next_scratch (s : State) : (next s).scratch = s.scratch := rfl
@[simp] theorem next_timelines (s : State) : (next s).timelines = s.timelines := rfl
@[simp] theorem next_carts (s : State) : (next s).carts = s.carts := rfl
@[simp] theorem next_kiln (s : State) : (next s).kiln = s.kiln := rfl
@[simp] theorem next_mldws (s : State) : (next s).mldws = s.mldws := rfl
@[simp] theorem next_latches (s : State) : (next s).latches = s.latches := rfl
@[simp] theorem next_acc (s : State) : (next s).acc = s.acc := rfl
@[simp] theorem next_tiles (s : State) : (next s).tiles = s.tiles := rfl
@[simp] theorem next_tickets (s : State) : (next s).tickets = s.tickets := rfl
@[simp] theorem next_granary (s : State) : (next s).granary = s.granary := rfl
@[simp] theorem next_keySlots (s : State) : (next s).keySlots = s.keySlots := rfl
@[simp] theorem next_xts (s : State) : (next s).xts = s.xts := rfl
@[simp] theorem next_jobs (s : State) : (next s).jobs = s.jobs := rfl
@[simp] theorem next_queues (s : State) : (next s).queues = s.queues := rfl
@[simp] theorem next_sessions (s : State) : (next s).sessions = s.sessions := rfl
@[simp] theorem next_out (s : State) : (next s).out = s.out := rfl
@[simp] theorem next_images (s : State) : (next s).images = s.images := rfl
@[simp] theorem next_ports (s : State) : (next s).ports = s.ports := rfl
@[simp] theorem next_bonds (s : State) : (next s).bonds = s.bonds := rfl
@[simp] theorem next_links (s : State) : (next s).links = s.links := rfl
@[simp] theorem next_routes (s : State) : (next s).routes = s.routes := rfl
@[simp] theorem next_pkgs (s : State) : (next s).pkgs = s.pkgs := rfl
@[simp] theorem next_code (s : State) : (next s).code = s.code := rfl
@[simp] theorem next_finalised (s : State) : (next s).finalised = s.finalised := rfl
@[simp] theorem next_nextId (s : State) : (next s).nextId = s.nextId := rfl
@[simp] theorem next_fresh (s : State) : (next s).fresh = s.fresh := rfl
@[simp] theorem next_agenda (s : State) : (next s).agenda = s.agenda := rfl
@[simp] theorem next_turn (s : State) : (next s).turn = s.turn := rfl
@[simp] theorem next_picks (s : State) : (next s).picks = s.picks := rfl
@[simp] theorem next_early (s : State) : (next s).early = s.early := rfl
@[simp] theorem next_cut (s : State) : (next s).cut = s.cut := rfl
@[simp] theorem next_g_at_ (s : State) : (next s).g.at_ = s.g.at_ := rfl
@[simp] theorem next_g_uid (s : State) : (next s).g.uid = s.g.uid := rfl
@[simp] theorem next_g_phase (s : State) : (next s).g.phase = s.g.phase := rfl
@[simp] theorem next_g_job (s : State) : (next s).g.job = s.g.job := rfl
@[simp] theorem next_g_level (s : State) : (next s).g.level = s.g.level := rfl
@[simp] theorem next_g_root (s : State) : (next s).g.root = s.g.root := rfl
@[simp] theorem next_g_depth (s : State) : (next s).g.depth = s.g.depth := rfl
@[simp] theorem next_g_inRoot (s : State) : (next s).g.inRoot = s.g.inRoot := rfl
@[simp] theorem next_g_launch (s : State) : (next s).g.launch = s.g.launch := rfl
@[simp] theorem next_g_child (s : State) : (next s).g.child = s.g.child := rfl
@[simp] theorem next_g_prio (s : State) : (next s).g.prio = s.g.prio := rfl
@[simp] theorem next_g_act (s : State) : (next s).g.act = s.g.act := rfl
@[simp] theorem next_g_s (s : State) : (next s).g.s = s.g.s := rfl
@[simp] theorem next_g_v (s : State) : (next s).g.v = s.g.v := rfl
@[simp] theorem next_g_k (s : State) : (next s).g.k = s.g.k := rfl
@[simp] theorem next_g_sh (s : State) : (next s).g.sh = s.g.sh := rfl
@[simp] theorem next_g_tl (s : State) : (next s).g.tl = s.g.tl := rfl
@[simp] theorem next_g_fpcsr (s : State) : (next s).g.fpcsr = s.g.fpcsr := rfl
@[simp] theorem next_g_orNow (s : State) : (next s).g.orNow = s.g.orNow := rfl
@[simp] theorem next_g_lscale (s : State) : (next s).g.lscale = s.g.lscale := rfl
@[simp] theorem next_g_ovf (s : State) : (next s).g.ovf = s.g.ovf := rfl
@[simp] theorem next_g_rkseed (s : State) : (next s).g.rkseed = s.g.rkseed := rfl
@[simp] theorem next_g_rkid (s : State) : (next s).g.rkid = s.g.rkid := rfl
@[simp] theorem next_g_rkstep (s : State) : (next s).g.rkstep = s.g.rkstep := rfl
@[simp] theorem next_g_rkbase (s : State) : (next s).g.rkbase = s.g.rkbase := rfl
@[simp] theorem next_g_xpc (s : State) : (next s).g.xpc = s.g.xpc := rfl
@[simp] theorem next_g_xcause (s : State) : (next s).g.xcause = s.g.xcause := rfl
@[simp] theorem next_g_xaddr (s : State) : (next s).g.xaddr = s.g.xaddr := rfl
@[simp] theorem next_g_xmask (s : State) : (next s).g.xmask = s.g.xmask := rfl
@[simp] theorem next_g_xinfo (s : State) : (next s).g.xinfo = s.g.xinfo := rfl
@[simp] theorem next_g_xvec (s : State) : (next s).g.xvec = s.g.xvec := rfl
@[simp] theorem next_g_inh (s : State) : (next s).g.inh = s.g.inh := rfl
@[simp] theorem next_g_prec (s : State) : (next s).g.prec = s.g.prec := rfl
@[simp] theorem next_g_pair (s : State) : (next s).g.pair = s.g.pair := rfl
@[simp] theorem next_g_pme (s : State) : (next s).g.pme = s.g.pme := rfl
@[simp] theorem next_g_window (s : State) : (next s).g.window = s.g.window := rfl
@[simp] theorem next_g_blocks (s : State) : (next s).g.blocks = s.g.blocks := rfl
@[simp] theorem next_g_rstack (s : State) : (next s).g.rstack = s.g.rstack := rfl
@[simp] theorem next_g_flags (s : State) : (next s).g.flags = s.g.flags := rfl
@[simp] theorem next_g_inflight (s : State) : (next s).g.inflight = s.g.inflight := rfl
@[simp] theorem next_g_pend (s : State) : (next s).g.pend = s.g.pend := rfl
@[simp] theorem next_g_deferred (s : State) : (next s).g.deferred = s.g.deferred := rfl
@[simp] theorem next_g_hold (s : State) : (next s).g.hold = s.g.hold := rfl
@[simp] theorem next_g_barOpen (s : State) : (next s).g.barOpen = s.g.barOpen := rfl
@[simp] theorem next_g_blocked (s : State) : (next s).g.blocked = s.g.blocked := rfl
@[simp] theorem next_g_drainFlags (s : State) : (next s).g.drainFlags = s.g.drainFlags := rfl
@[simp] theorem next_g_tried (s : State) : (next s).g.tried = s.g.tried := rfl
@[simp] theorem next_g_tookOver (s : State) : (next s).g.tookOver = s.g.tookOver := rfl
@[simp] theorem next_g_eligFrom (s : State) : (next s).g.eligFrom = s.g.eligFrom := rfl
@[simp] theorem next_g_memHold (s : State) : (next s).g.memHold = s.g.memHold := rfl
@[simp] theorem next_g_seen (s : State) : (next s).g.seen = s.g.seen := rfl
@[simp] theorem next_g_notBefore (s : State) : (next s).g.notBefore = s.g.notBefore := rfl
@[simp] theorem next_g_lastIssue (s : State) : (next s).g.lastIssue = s.g.lastIssue := rfl
@[simp] theorem next_g_resident (s : State) : (next s).g.resident = s.g.resident := rfl
@[simp] theorem next_g_icount (s : State) : (next s).g.icount = s.g.icount := rfl
@[simp] theorem next_g_startLevel (s : State) : (next s).g.startLevel = s.g.startLevel := rfl
@[simp] theorem next_g_view (s : State) : (next s).g.view = s.g.view := rfl
@[simp] theorem next_g_own (s : State) : (next s).g.own = s.g.own := rfl
@[simp] theorem next_g_fenced (s : State) : (next s).g.fenced = s.g.fenced := rfl
@[simp] theorem next_g_fail (s : State) : (next s).g.fail = s.g.fail := rfl
@[simp] theorem next_g_cancelled (s : State) : (next s).g.cancelled = s.g.cancelled := rfl
@[simp] theorem next_g_stopping (s : State) : (next s).g.stopping = s.g.stopping := rfl

/-! fixed: a result on its way (R106) -/

@[simp] theorem fixed_others (n : Nat) (w : RegWrite) (s : State) : (fixed n w s).others = s.others := rfl
@[simp] theorem fixed_iss (n : Nat) (w : RegWrite) (s : State) : (fixed n w s).iss = s.iss := rfl
@[simp] theorem fixed_cycle (n : Nat) (w : RegWrite) (s : State) : (fixed n w s).cycle = s.cycle := rfl
@[simp] theorem fixed_mem (n : Nat) (w : RegWrite) (s : State) : (fixed n w s).mem = s.mem := rfl
@[simp] theorem fixed_keys (n : Nat) (w : RegWrite) (s : State) : (fixed n w s).keys = s.keys := rfl
@[simp] theorem fixed_lineKeys (n : Nat) (w : RegWrite) (s : State) : (fixed n w s).lineKeys = s.lineKeys := rfl
@[simp] theorem fixed_tags (n : Nat) (w : RegWrite) (s : State) : (fixed n w s).tags = s.tags := rfl
@[simp] theorem fixed_origin (n : Nat) (w : RegWrite) (s : State) : (fixed n w s).origin = s.origin := rfl
@[simp] theorem fixed_top (n : Nat) (w : RegWrite) (s : State) : (fixed n w s).top = s.top := rfl
@[simp] theorem fixed_wseq (n : Nat) (w : RegWrite) (s : State) : (fixed n w s).wseq = s.wseq := rfl
@[simp] theorem fixed_hist (n : Nat) (w : RegWrite) (s : State) : (fixed n w s).hist = s.hist := rfl
@[simp] theorem fixed_pubs (n : Nat) (w : RegWrite) (s : State) : (fixed n w s).pubs = s.pubs := rfl
@[simp] theorem fixed_poison (n : Nat) (w : RegWrite) (s : State) : (fixed n w s).poison = s.poison := rfl
@[simp] theorem fixed_fetched (n : Nat) (w : RegWrite) (s : State) : (fixed n w s).fetched = s.fetched := rfl
@[simp] theorem fixed_stores (n : Nat) (w : RegWrite) (s : State) : (fixed n w s).stores = s.stores := rfl
@[simp] theorem fixed_atoms (n : Nat) (w : RegWrite) (s : State) : (fixed n w s).atoms = s.atoms := rfl
@[simp] theorem fixed_merges (n : Nat) (w : RegWrite) (s : State) : (fixed n w s).merges = s.merges := rfl
@[simp] theorem fixed_areplies (n : Nat) (w : RegWrite) (s : State) : (fixed n w s).areplies = s.areplies := rfl
@[simp] theorem fixed_lines (n : Nat) (w : RegWrite) (s : State) : (fixed n w s).lines = s.lines := rfl
@[simp] theorem fixed_faults (n : Nat) (w : RegWrite) (s : State) : (fixed n w s).faults = s.faults := rfl
@[simp] theorem fixed_rgetQ (n : Nat) (w : RegWrite) (s : State) : (fixed n w s).rgetQ = s.rgetQ := rfl
@[simp] theorem fixed_poolQ (n : Nat) (w : RegWrite) (s : State) : (fixed n w s).poolQ = s.poolQ := rfl
@[simp] theorem fixed_units (n : Nat) (w : RegWrite) (s : State) : (fixed n w s).units = s.units := rfl
@[simp] theorem fixed_slots (n : Nat) (w : RegWrite) (s : State) : (fixed n w s).slots = s.slots := rfl
@[simp] theorem fixed_qwaits (n : Nat) (w : RegWrite) (s : State) : (fixed n w s).qwaits = s.qwaits := rfl
@[simp] theorem fixed_launches (n : Nat) (w : RegWrite) (s : State) : (fixed n w s).launches = s.launches := rfl
@[simp] theorem fixed_scratch (n : Nat) (w : RegWrite) (s : State) : (fixed n w s).scratch = s.scratch := rfl
@[simp] theorem fixed_timelines (n : Nat) (w : RegWrite) (s : State) : (fixed n w s).timelines = s.timelines := rfl
@[simp] theorem fixed_carts (n : Nat) (w : RegWrite) (s : State) : (fixed n w s).carts = s.carts := rfl
@[simp] theorem fixed_kiln (n : Nat) (w : RegWrite) (s : State) : (fixed n w s).kiln = s.kiln := rfl
@[simp] theorem fixed_mldws (n : Nat) (w : RegWrite) (s : State) : (fixed n w s).mldws = s.mldws := rfl
@[simp] theorem fixed_latches (n : Nat) (w : RegWrite) (s : State) : (fixed n w s).latches = s.latches := rfl
@[simp] theorem fixed_acc (n : Nat) (w : RegWrite) (s : State) : (fixed n w s).acc = s.acc := rfl
@[simp] theorem fixed_tiles (n : Nat) (w : RegWrite) (s : State) : (fixed n w s).tiles = s.tiles := rfl
@[simp] theorem fixed_tickets (n : Nat) (w : RegWrite) (s : State) : (fixed n w s).tickets = s.tickets := rfl
@[simp] theorem fixed_granary (n : Nat) (w : RegWrite) (s : State) : (fixed n w s).granary = s.granary := rfl
@[simp] theorem fixed_keySlots (n : Nat) (w : RegWrite) (s : State) : (fixed n w s).keySlots = s.keySlots := rfl
@[simp] theorem fixed_xts (n : Nat) (w : RegWrite) (s : State) : (fixed n w s).xts = s.xts := rfl
@[simp] theorem fixed_jobs (n : Nat) (w : RegWrite) (s : State) : (fixed n w s).jobs = s.jobs := rfl
@[simp] theorem fixed_queues (n : Nat) (w : RegWrite) (s : State) : (fixed n w s).queues = s.queues := rfl
@[simp] theorem fixed_sessions (n : Nat) (w : RegWrite) (s : State) : (fixed n w s).sessions = s.sessions := rfl
@[simp] theorem fixed_out (n : Nat) (w : RegWrite) (s : State) : (fixed n w s).out = s.out := rfl
@[simp] theorem fixed_images (n : Nat) (w : RegWrite) (s : State) : (fixed n w s).images = s.images := rfl
@[simp] theorem fixed_ports (n : Nat) (w : RegWrite) (s : State) : (fixed n w s).ports = s.ports := rfl
@[simp] theorem fixed_bonds (n : Nat) (w : RegWrite) (s : State) : (fixed n w s).bonds = s.bonds := rfl
@[simp] theorem fixed_links (n : Nat) (w : RegWrite) (s : State) : (fixed n w s).links = s.links := rfl
@[simp] theorem fixed_routes (n : Nat) (w : RegWrite) (s : State) : (fixed n w s).routes = s.routes := rfl
@[simp] theorem fixed_pkgs (n : Nat) (w : RegWrite) (s : State) : (fixed n w s).pkgs = s.pkgs := rfl
@[simp] theorem fixed_code (n : Nat) (w : RegWrite) (s : State) : (fixed n w s).code = s.code := rfl
@[simp] theorem fixed_finalised (n : Nat) (w : RegWrite) (s : State) : (fixed n w s).finalised = s.finalised := rfl
@[simp] theorem fixed_nextId (n : Nat) (w : RegWrite) (s : State) : (fixed n w s).nextId = s.nextId := rfl
@[simp] theorem fixed_fresh (n : Nat) (w : RegWrite) (s : State) : (fixed n w s).fresh = s.fresh := rfl
@[simp] theorem fixed_agenda (n : Nat) (w : RegWrite) (s : State) : (fixed n w s).agenda = s.agenda := rfl
@[simp] theorem fixed_turn (n : Nat) (w : RegWrite) (s : State) : (fixed n w s).turn = s.turn := rfl
@[simp] theorem fixed_picks (n : Nat) (w : RegWrite) (s : State) : (fixed n w s).picks = s.picks := rfl
@[simp] theorem fixed_early (n : Nat) (w : RegWrite) (s : State) : (fixed n w s).early = s.early := rfl
@[simp] theorem fixed_cut (n : Nat) (w : RegWrite) (s : State) : (fixed n w s).cut = s.cut := rfl
@[simp] theorem fixed_g_at_ (n : Nat) (w : RegWrite) (s : State) : (fixed n w s).g.at_ = s.g.at_ := rfl
@[simp] theorem fixed_g_uid (n : Nat) (w : RegWrite) (s : State) : (fixed n w s).g.uid = s.g.uid := rfl
@[simp] theorem fixed_g_phase (n : Nat) (w : RegWrite) (s : State) : (fixed n w s).g.phase = s.g.phase := rfl
@[simp] theorem fixed_g_job (n : Nat) (w : RegWrite) (s : State) : (fixed n w s).g.job = s.g.job := rfl
@[simp] theorem fixed_g_level (n : Nat) (w : RegWrite) (s : State) : (fixed n w s).g.level = s.g.level := rfl
@[simp] theorem fixed_g_root (n : Nat) (w : RegWrite) (s : State) : (fixed n w s).g.root = s.g.root := rfl
@[simp] theorem fixed_g_depth (n : Nat) (w : RegWrite) (s : State) : (fixed n w s).g.depth = s.g.depth := rfl
@[simp] theorem fixed_g_inRoot (n : Nat) (w : RegWrite) (s : State) : (fixed n w s).g.inRoot = s.g.inRoot := rfl
@[simp] theorem fixed_g_launch (n : Nat) (w : RegWrite) (s : State) : (fixed n w s).g.launch = s.g.launch := rfl
@[simp] theorem fixed_g_child (n : Nat) (w : RegWrite) (s : State) : (fixed n w s).g.child = s.g.child := rfl
@[simp] theorem fixed_g_prio (n : Nat) (w : RegWrite) (s : State) : (fixed n w s).g.prio = s.g.prio := rfl
@[simp] theorem fixed_g_paths (n : Nat) (w : RegWrite) (s : State) : (fixed n w s).g.paths = s.g.paths := rfl
@[simp] theorem fixed_g_act (n : Nat) (w : RegWrite) (s : State) : (fixed n w s).g.act = s.g.act := rfl
@[simp] theorem fixed_g_s (n : Nat) (w : RegWrite) (s : State) : (fixed n w s).g.s = s.g.s := rfl
@[simp] theorem fixed_g_v (n : Nat) (w : RegWrite) (s : State) : (fixed n w s).g.v = s.g.v := rfl
@[simp] theorem fixed_g_k (n : Nat) (w : RegWrite) (s : State) : (fixed n w s).g.k = s.g.k := rfl
@[simp] theorem fixed_g_sh (n : Nat) (w : RegWrite) (s : State) : (fixed n w s).g.sh = s.g.sh := rfl
@[simp] theorem fixed_g_tl (n : Nat) (w : RegWrite) (s : State) : (fixed n w s).g.tl = s.g.tl := rfl
@[simp] theorem fixed_g_fpcsr (n : Nat) (w : RegWrite) (s : State) : (fixed n w s).g.fpcsr = s.g.fpcsr := rfl
@[simp] theorem fixed_g_orNow (n : Nat) (w : RegWrite) (s : State) : (fixed n w s).g.orNow = s.g.orNow := rfl
@[simp] theorem fixed_g_lscale (n : Nat) (w : RegWrite) (s : State) : (fixed n w s).g.lscale = s.g.lscale := rfl
@[simp] theorem fixed_g_ovf (n : Nat) (w : RegWrite) (s : State) : (fixed n w s).g.ovf = s.g.ovf := rfl
@[simp] theorem fixed_g_rkseed (n : Nat) (w : RegWrite) (s : State) : (fixed n w s).g.rkseed = s.g.rkseed := rfl
@[simp] theorem fixed_g_rkid (n : Nat) (w : RegWrite) (s : State) : (fixed n w s).g.rkid = s.g.rkid := rfl
@[simp] theorem fixed_g_rkstep (n : Nat) (w : RegWrite) (s : State) : (fixed n w s).g.rkstep = s.g.rkstep := rfl
@[simp] theorem fixed_g_rkbase (n : Nat) (w : RegWrite) (s : State) : (fixed n w s).g.rkbase = s.g.rkbase := rfl
@[simp] theorem fixed_g_xpc (n : Nat) (w : RegWrite) (s : State) : (fixed n w s).g.xpc = s.g.xpc := rfl
@[simp] theorem fixed_g_xcause (n : Nat) (w : RegWrite) (s : State) : (fixed n w s).g.xcause = s.g.xcause := rfl
@[simp] theorem fixed_g_xaddr (n : Nat) (w : RegWrite) (s : State) : (fixed n w s).g.xaddr = s.g.xaddr := rfl
@[simp] theorem fixed_g_xmask (n : Nat) (w : RegWrite) (s : State) : (fixed n w s).g.xmask = s.g.xmask := rfl
@[simp] theorem fixed_g_xinfo (n : Nat) (w : RegWrite) (s : State) : (fixed n w s).g.xinfo = s.g.xinfo := rfl
@[simp] theorem fixed_g_xvec (n : Nat) (w : RegWrite) (s : State) : (fixed n w s).g.xvec = s.g.xvec := rfl
@[simp] theorem fixed_g_inh (n : Nat) (w : RegWrite) (s : State) : (fixed n w s).g.inh = s.g.inh := rfl
@[simp] theorem fixed_g_prec (n : Nat) (w : RegWrite) (s : State) : (fixed n w s).g.prec = s.g.prec := rfl
@[simp] theorem fixed_g_pair (n : Nat) (w : RegWrite) (s : State) : (fixed n w s).g.pair = s.g.pair := rfl
@[simp] theorem fixed_g_pme (n : Nat) (w : RegWrite) (s : State) : (fixed n w s).g.pme = s.g.pme := rfl
@[simp] theorem fixed_g_window (n : Nat) (w : RegWrite) (s : State) : (fixed n w s).g.window = s.g.window := rfl
@[simp] theorem fixed_g_blocks (n : Nat) (w : RegWrite) (s : State) : (fixed n w s).g.blocks = s.g.blocks := rfl
@[simp] theorem fixed_g_rstack (n : Nat) (w : RegWrite) (s : State) : (fixed n w s).g.rstack = s.g.rstack := rfl
@[simp] theorem fixed_g_flags (n : Nat) (w : RegWrite) (s : State) : (fixed n w s).g.flags = s.g.flags := rfl
@[simp] theorem fixed_g_pend (n : Nat) (w : RegWrite) (s : State) : (fixed n w s).g.pend = s.g.pend := rfl
@[simp] theorem fixed_g_deferred (n : Nat) (w : RegWrite) (s : State) : (fixed n w s).g.deferred = s.g.deferred := rfl
@[simp] theorem fixed_g_hold (n : Nat) (w : RegWrite) (s : State) : (fixed n w s).g.hold = s.g.hold := rfl
@[simp] theorem fixed_g_barOpen (n : Nat) (w : RegWrite) (s : State) : (fixed n w s).g.barOpen = s.g.barOpen := rfl
@[simp] theorem fixed_g_blocked (n : Nat) (w : RegWrite) (s : State) : (fixed n w s).g.blocked = s.g.blocked := rfl
@[simp] theorem fixed_g_drainFlags (n : Nat) (w : RegWrite) (s : State) : (fixed n w s).g.drainFlags = s.g.drainFlags := rfl
@[simp] theorem fixed_g_tried (n : Nat) (w : RegWrite) (s : State) : (fixed n w s).g.tried = s.g.tried := rfl
@[simp] theorem fixed_g_tookOver (n : Nat) (w : RegWrite) (s : State) : (fixed n w s).g.tookOver = s.g.tookOver := rfl
@[simp] theorem fixed_g_eligFrom (n : Nat) (w : RegWrite) (s : State) : (fixed n w s).g.eligFrom = s.g.eligFrom := rfl
@[simp] theorem fixed_g_memHold (n : Nat) (w : RegWrite) (s : State) : (fixed n w s).g.memHold = s.g.memHold := rfl
@[simp] theorem fixed_g_seen (n : Nat) (w : RegWrite) (s : State) : (fixed n w s).g.seen = s.g.seen := rfl
@[simp] theorem fixed_g_notBefore (n : Nat) (w : RegWrite) (s : State) : (fixed n w s).g.notBefore = s.g.notBefore := rfl
@[simp] theorem fixed_g_lastIssue (n : Nat) (w : RegWrite) (s : State) : (fixed n w s).g.lastIssue = s.g.lastIssue := rfl
@[simp] theorem fixed_g_resident (n : Nat) (w : RegWrite) (s : State) : (fixed n w s).g.resident = s.g.resident := rfl
@[simp] theorem fixed_g_icount (n : Nat) (w : RegWrite) (s : State) : (fixed n w s).g.icount = s.g.icount := rfl
@[simp] theorem fixed_g_startLevel (n : Nat) (w : RegWrite) (s : State) : (fixed n w s).g.startLevel = s.g.startLevel := rfl
@[simp] theorem fixed_g_view (n : Nat) (w : RegWrite) (s : State) : (fixed n w s).g.view = s.g.view := rfl
@[simp] theorem fixed_g_own (n : Nat) (w : RegWrite) (s : State) : (fixed n w s).g.own = s.g.own := rfl
@[simp] theorem fixed_g_fenced (n : Nat) (w : RegWrite) (s : State) : (fixed n w s).g.fenced = s.g.fenced := rfl
@[simp] theorem fixed_g_fail (n : Nat) (w : RegWrite) (s : State) : (fixed n w s).g.fail = s.g.fail := rfl
@[simp] theorem fixed_g_cancelled (n : Nat) (w : RegWrite) (s : State) : (fixed n w s).g.cancelled = s.g.cancelled := rfl
@[simp] theorem fixed_g_stopping (n : Nat) (w : RegWrite) (s : State) : (fixed n w s).g.stopping = s.g.stopping := rfl

/-! addPend: a flagged result (R103) -/

@[simp] theorem addPend_others (ws : List RegWrite) (n : Nat) (d : List Deferred) (s : State) (f : List (Word × Nat × Nat)) (a : Bool) : (addPend ws n d s f a).others = s.others := rfl
@[simp] theorem addPend_iss (ws : List RegWrite) (n : Nat) (d : List Deferred) (s : State) (f : List (Word × Nat × Nat)) (a : Bool) : (addPend ws n d s f a).iss = s.iss := rfl
@[simp] theorem addPend_cycle (ws : List RegWrite) (n : Nat) (d : List Deferred) (s : State) (f : List (Word × Nat × Nat)) (a : Bool) : (addPend ws n d s f a).cycle = s.cycle := rfl
@[simp] theorem addPend_mem (ws : List RegWrite) (n : Nat) (d : List Deferred) (s : State) (f : List (Word × Nat × Nat)) (a : Bool) : (addPend ws n d s f a).mem = s.mem := rfl
@[simp] theorem addPend_keys (ws : List RegWrite) (n : Nat) (d : List Deferred) (s : State) (f : List (Word × Nat × Nat)) (a : Bool) : (addPend ws n d s f a).keys = s.keys := rfl
@[simp] theorem addPend_lineKeys (ws : List RegWrite) (n : Nat) (d : List Deferred) (s : State) (f : List (Word × Nat × Nat)) (a : Bool) : (addPend ws n d s f a).lineKeys = s.lineKeys := rfl
@[simp] theorem addPend_tags (ws : List RegWrite) (n : Nat) (d : List Deferred) (s : State) (f : List (Word × Nat × Nat)) (a : Bool) : (addPend ws n d s f a).tags = s.tags := rfl
@[simp] theorem addPend_origin (ws : List RegWrite) (n : Nat) (d : List Deferred) (s : State) (f : List (Word × Nat × Nat)) (a : Bool) : (addPend ws n d s f a).origin = s.origin := rfl
@[simp] theorem addPend_top (ws : List RegWrite) (n : Nat) (d : List Deferred) (s : State) (f : List (Word × Nat × Nat)) (a : Bool) : (addPend ws n d s f a).top = s.top := rfl
@[simp] theorem addPend_wseq (ws : List RegWrite) (n : Nat) (d : List Deferred) (s : State) (f : List (Word × Nat × Nat)) (a : Bool) : (addPend ws n d s f a).wseq = s.wseq := rfl
@[simp] theorem addPend_hist (ws : List RegWrite) (n : Nat) (d : List Deferred) (s : State) (f : List (Word × Nat × Nat)) (a : Bool) : (addPend ws n d s f a).hist = s.hist := rfl
@[simp] theorem addPend_pubs (ws : List RegWrite) (n : Nat) (d : List Deferred) (s : State) (f : List (Word × Nat × Nat)) (a : Bool) : (addPend ws n d s f a).pubs = s.pubs := rfl
@[simp] theorem addPend_poison (ws : List RegWrite) (n : Nat) (d : List Deferred) (s : State) (f : List (Word × Nat × Nat)) (a : Bool) : (addPend ws n d s f a).poison = s.poison := rfl
@[simp] theorem addPend_fetched (ws : List RegWrite) (n : Nat) (d : List Deferred) (s : State) (f : List (Word × Nat × Nat)) (a : Bool) : (addPend ws n d s f a).fetched = s.fetched := rfl
@[simp] theorem addPend_stores (ws : List RegWrite) (n : Nat) (d : List Deferred) (s : State) (f : List (Word × Nat × Nat)) (a : Bool) : (addPend ws n d s f a).stores = s.stores := rfl
@[simp] theorem addPend_atoms (ws : List RegWrite) (n : Nat) (d : List Deferred) (s : State) (f : List (Word × Nat × Nat)) (a : Bool) : (addPend ws n d s f a).atoms = s.atoms := rfl
@[simp] theorem addPend_merges (ws : List RegWrite) (n : Nat) (d : List Deferred) (s : State) (f : List (Word × Nat × Nat)) (a : Bool) : (addPend ws n d s f a).merges = s.merges := rfl
@[simp] theorem addPend_areplies (ws : List RegWrite) (n : Nat) (d : List Deferred) (s : State) (f : List (Word × Nat × Nat)) (a : Bool) : (addPend ws n d s f a).areplies = s.areplies := rfl
@[simp] theorem addPend_lines (ws : List RegWrite) (n : Nat) (d : List Deferred) (s : State) (f : List (Word × Nat × Nat)) (a : Bool) : (addPend ws n d s f a).lines = s.lines := rfl
@[simp] theorem addPend_faults (ws : List RegWrite) (n : Nat) (d : List Deferred) (s : State) (f : List (Word × Nat × Nat)) (a : Bool) : (addPend ws n d s f a).faults = s.faults := rfl
@[simp] theorem addPend_rgetQ (ws : List RegWrite) (n : Nat) (d : List Deferred) (s : State) (f : List (Word × Nat × Nat)) (a : Bool) : (addPend ws n d s f a).rgetQ = s.rgetQ := rfl
@[simp] theorem addPend_poolQ (ws : List RegWrite) (n : Nat) (d : List Deferred) (s : State) (f : List (Word × Nat × Nat)) (a : Bool) : (addPend ws n d s f a).poolQ = s.poolQ := rfl
@[simp] theorem addPend_units (ws : List RegWrite) (n : Nat) (d : List Deferred) (s : State) (f : List (Word × Nat × Nat)) (a : Bool) : (addPend ws n d s f a).units = s.units := rfl
@[simp] theorem addPend_slots (ws : List RegWrite) (n : Nat) (d : List Deferred) (s : State) (f : List (Word × Nat × Nat)) (a : Bool) : (addPend ws n d s f a).slots = s.slots := rfl
@[simp] theorem addPend_qwaits (ws : List RegWrite) (n : Nat) (d : List Deferred) (s : State) (f : List (Word × Nat × Nat)) (a : Bool) : (addPend ws n d s f a).qwaits = s.qwaits := rfl
@[simp] theorem addPend_launches (ws : List RegWrite) (n : Nat) (d : List Deferred) (s : State) (f : List (Word × Nat × Nat)) (a : Bool) : (addPend ws n d s f a).launches = s.launches := rfl
@[simp] theorem addPend_scratch (ws : List RegWrite) (n : Nat) (d : List Deferred) (s : State) (f : List (Word × Nat × Nat)) (a : Bool) : (addPend ws n d s f a).scratch = s.scratch := rfl
@[simp] theorem addPend_timelines (ws : List RegWrite) (n : Nat) (d : List Deferred) (s : State) (f : List (Word × Nat × Nat)) (a : Bool) : (addPend ws n d s f a).timelines = s.timelines := rfl
@[simp] theorem addPend_carts (ws : List RegWrite) (n : Nat) (d : List Deferred) (s : State) (f : List (Word × Nat × Nat)) (a : Bool) : (addPend ws n d s f a).carts = s.carts := rfl
@[simp] theorem addPend_kiln (ws : List RegWrite) (n : Nat) (d : List Deferred) (s : State) (f : List (Word × Nat × Nat)) (a : Bool) : (addPend ws n d s f a).kiln = s.kiln := rfl
@[simp] theorem addPend_mldws (ws : List RegWrite) (n : Nat) (d : List Deferred) (s : State) (f : List (Word × Nat × Nat)) (a : Bool) : (addPend ws n d s f a).mldws = s.mldws := rfl
@[simp] theorem addPend_latches (ws : List RegWrite) (n : Nat) (d : List Deferred) (s : State) (f : List (Word × Nat × Nat)) (a : Bool) : (addPend ws n d s f a).latches = s.latches := rfl
@[simp] theorem addPend_acc (ws : List RegWrite) (n : Nat) (d : List Deferred) (s : State) (f : List (Word × Nat × Nat)) (a : Bool) : (addPend ws n d s f a).acc = s.acc := rfl
@[simp] theorem addPend_tiles (ws : List RegWrite) (n : Nat) (d : List Deferred) (s : State) (f : List (Word × Nat × Nat)) (a : Bool) : (addPend ws n d s f a).tiles = s.tiles := rfl
@[simp] theorem addPend_tickets (ws : List RegWrite) (n : Nat) (d : List Deferred) (s : State) (f : List (Word × Nat × Nat)) (a : Bool) : (addPend ws n d s f a).tickets = s.tickets := rfl
@[simp] theorem addPend_granary (ws : List RegWrite) (n : Nat) (d : List Deferred) (s : State) (f : List (Word × Nat × Nat)) (a : Bool) : (addPend ws n d s f a).granary = s.granary := rfl
@[simp] theorem addPend_keySlots (ws : List RegWrite) (n : Nat) (d : List Deferred) (s : State) (f : List (Word × Nat × Nat)) (a : Bool) : (addPend ws n d s f a).keySlots = s.keySlots := rfl
@[simp] theorem addPend_xts (ws : List RegWrite) (n : Nat) (d : List Deferred) (s : State) (f : List (Word × Nat × Nat)) (a : Bool) : (addPend ws n d s f a).xts = s.xts := rfl
@[simp] theorem addPend_jobs (ws : List RegWrite) (n : Nat) (d : List Deferred) (s : State) (f : List (Word × Nat × Nat)) (a : Bool) : (addPend ws n d s f a).jobs = s.jobs := rfl
@[simp] theorem addPend_queues (ws : List RegWrite) (n : Nat) (d : List Deferred) (s : State) (f : List (Word × Nat × Nat)) (a : Bool) : (addPend ws n d s f a).queues = s.queues := rfl
@[simp] theorem addPend_sessions (ws : List RegWrite) (n : Nat) (d : List Deferred) (s : State) (f : List (Word × Nat × Nat)) (a : Bool) : (addPend ws n d s f a).sessions = s.sessions := rfl
@[simp] theorem addPend_out (ws : List RegWrite) (n : Nat) (d : List Deferred) (s : State) (f : List (Word × Nat × Nat)) (a : Bool) : (addPend ws n d s f a).out = s.out := rfl
@[simp] theorem addPend_images (ws : List RegWrite) (n : Nat) (d : List Deferred) (s : State) (f : List (Word × Nat × Nat)) (a : Bool) : (addPend ws n d s f a).images = s.images := rfl
@[simp] theorem addPend_ports (ws : List RegWrite) (n : Nat) (d : List Deferred) (s : State) (f : List (Word × Nat × Nat)) (a : Bool) : (addPend ws n d s f a).ports = s.ports := rfl
@[simp] theorem addPend_bonds (ws : List RegWrite) (n : Nat) (d : List Deferred) (s : State) (f : List (Word × Nat × Nat)) (a : Bool) : (addPend ws n d s f a).bonds = s.bonds := rfl
@[simp] theorem addPend_links (ws : List RegWrite) (n : Nat) (d : List Deferred) (s : State) (f : List (Word × Nat × Nat)) (a : Bool) : (addPend ws n d s f a).links = s.links := rfl
@[simp] theorem addPend_routes (ws : List RegWrite) (n : Nat) (d : List Deferred) (s : State) (f : List (Word × Nat × Nat)) (a : Bool) : (addPend ws n d s f a).routes = s.routes := rfl
@[simp] theorem addPend_pkgs (ws : List RegWrite) (n : Nat) (d : List Deferred) (s : State) (f : List (Word × Nat × Nat)) (a : Bool) : (addPend ws n d s f a).pkgs = s.pkgs := rfl
@[simp] theorem addPend_code (ws : List RegWrite) (n : Nat) (d : List Deferred) (s : State) (f : List (Word × Nat × Nat)) (a : Bool) : (addPend ws n d s f a).code = s.code := rfl
@[simp] theorem addPend_finalised (ws : List RegWrite) (n : Nat) (d : List Deferred) (s : State) (f : List (Word × Nat × Nat)) (a : Bool) : (addPend ws n d s f a).finalised = s.finalised := rfl
@[simp] theorem addPend_fresh (ws : List RegWrite) (n : Nat) (d : List Deferred) (s : State) (f : List (Word × Nat × Nat)) (a : Bool) : (addPend ws n d s f a).fresh = s.fresh := rfl
@[simp] theorem addPend_agenda (ws : List RegWrite) (n : Nat) (d : List Deferred) (s : State) (f : List (Word × Nat × Nat)) (a : Bool) : (addPend ws n d s f a).agenda = s.agenda := rfl
@[simp] theorem addPend_turn (ws : List RegWrite) (n : Nat) (d : List Deferred) (s : State) (f : List (Word × Nat × Nat)) (a : Bool) : (addPend ws n d s f a).turn = s.turn := rfl
@[simp] theorem addPend_picks (ws : List RegWrite) (n : Nat) (d : List Deferred) (s : State) (f : List (Word × Nat × Nat)) (a : Bool) : (addPend ws n d s f a).picks = s.picks := rfl
@[simp] theorem addPend_early (ws : List RegWrite) (n : Nat) (d : List Deferred) (s : State) (f : List (Word × Nat × Nat)) (a : Bool) : (addPend ws n d s f a).early = s.early := rfl
@[simp] theorem addPend_cut (ws : List RegWrite) (n : Nat) (d : List Deferred) (s : State) (f : List (Word × Nat × Nat)) (a : Bool) : (addPend ws n d s f a).cut = s.cut := rfl
@[simp] theorem addPend_g_at_ (ws : List RegWrite) (n : Nat) (d : List Deferred) (s : State) (f : List (Word × Nat × Nat)) (a : Bool) : (addPend ws n d s f a).g.at_ = s.g.at_ := rfl
@[simp] theorem addPend_g_uid (ws : List RegWrite) (n : Nat) (d : List Deferred) (s : State) (f : List (Word × Nat × Nat)) (a : Bool) : (addPend ws n d s f a).g.uid = s.g.uid := rfl
@[simp] theorem addPend_g_phase (ws : List RegWrite) (n : Nat) (d : List Deferred) (s : State) (f : List (Word × Nat × Nat)) (a : Bool) : (addPend ws n d s f a).g.phase = s.g.phase := rfl
@[simp] theorem addPend_g_job (ws : List RegWrite) (n : Nat) (d : List Deferred) (s : State) (f : List (Word × Nat × Nat)) (a : Bool) : (addPend ws n d s f a).g.job = s.g.job := rfl
@[simp] theorem addPend_g_level (ws : List RegWrite) (n : Nat) (d : List Deferred) (s : State) (f : List (Word × Nat × Nat)) (a : Bool) : (addPend ws n d s f a).g.level = s.g.level := rfl
@[simp] theorem addPend_g_root (ws : List RegWrite) (n : Nat) (d : List Deferred) (s : State) (f : List (Word × Nat × Nat)) (a : Bool) : (addPend ws n d s f a).g.root = s.g.root := rfl
@[simp] theorem addPend_g_depth (ws : List RegWrite) (n : Nat) (d : List Deferred) (s : State) (f : List (Word × Nat × Nat)) (a : Bool) : (addPend ws n d s f a).g.depth = s.g.depth := rfl
@[simp] theorem addPend_g_inRoot (ws : List RegWrite) (n : Nat) (d : List Deferred) (s : State) (f : List (Word × Nat × Nat)) (a : Bool) : (addPend ws n d s f a).g.inRoot = s.g.inRoot := rfl
@[simp] theorem addPend_g_launch (ws : List RegWrite) (n : Nat) (d : List Deferred) (s : State) (f : List (Word × Nat × Nat)) (a : Bool) : (addPend ws n d s f a).g.launch = s.g.launch := rfl
@[simp] theorem addPend_g_child (ws : List RegWrite) (n : Nat) (d : List Deferred) (s : State) (f : List (Word × Nat × Nat)) (a : Bool) : (addPend ws n d s f a).g.child = s.g.child := rfl
@[simp] theorem addPend_g_prio (ws : List RegWrite) (n : Nat) (d : List Deferred) (s : State) (f : List (Word × Nat × Nat)) (a : Bool) : (addPend ws n d s f a).g.prio = s.g.prio := rfl
@[simp] theorem addPend_g_paths (ws : List RegWrite) (n : Nat) (d : List Deferred) (s : State) (f : List (Word × Nat × Nat)) (a : Bool) : (addPend ws n d s f a).g.paths = s.g.paths := rfl
@[simp] theorem addPend_g_act (ws : List RegWrite) (n : Nat) (d : List Deferred) (s : State) (f : List (Word × Nat × Nat)) (a : Bool) : (addPend ws n d s f a).g.act = s.g.act := rfl
@[simp] theorem addPend_g_s (ws : List RegWrite) (n : Nat) (d : List Deferred) (s : State) (f : List (Word × Nat × Nat)) (a : Bool) : (addPend ws n d s f a).g.s = s.g.s := rfl
@[simp] theorem addPend_g_v (ws : List RegWrite) (n : Nat) (d : List Deferred) (s : State) (f : List (Word × Nat × Nat)) (a : Bool) : (addPend ws n d s f a).g.v = s.g.v := rfl
@[simp] theorem addPend_g_k (ws : List RegWrite) (n : Nat) (d : List Deferred) (s : State) (f : List (Word × Nat × Nat)) (a : Bool) : (addPend ws n d s f a).g.k = s.g.k := rfl
@[simp] theorem addPend_g_sh (ws : List RegWrite) (n : Nat) (d : List Deferred) (s : State) (f : List (Word × Nat × Nat)) (a : Bool) : (addPend ws n d s f a).g.sh = s.g.sh := rfl
@[simp] theorem addPend_g_tl (ws : List RegWrite) (n : Nat) (d : List Deferred) (s : State) (f : List (Word × Nat × Nat)) (a : Bool) : (addPend ws n d s f a).g.tl = s.g.tl := rfl
@[simp] theorem addPend_g_fpcsr (ws : List RegWrite) (n : Nat) (d : List Deferred) (s : State) (f : List (Word × Nat × Nat)) (a : Bool) : (addPend ws n d s f a).g.fpcsr = s.g.fpcsr := rfl
@[simp] theorem addPend_g_orNow (ws : List RegWrite) (n : Nat) (d : List Deferred) (s : State) (f : List (Word × Nat × Nat)) (a : Bool) : (addPend ws n d s f a).g.orNow = s.g.orNow := rfl
@[simp] theorem addPend_g_lscale (ws : List RegWrite) (n : Nat) (d : List Deferred) (s : State) (f : List (Word × Nat × Nat)) (a : Bool) : (addPend ws n d s f a).g.lscale = s.g.lscale := rfl
@[simp] theorem addPend_g_ovf (ws : List RegWrite) (n : Nat) (d : List Deferred) (s : State) (f : List (Word × Nat × Nat)) (a : Bool) : (addPend ws n d s f a).g.ovf = s.g.ovf := rfl
@[simp] theorem addPend_g_rkseed (ws : List RegWrite) (n : Nat) (d : List Deferred) (s : State) (f : List (Word × Nat × Nat)) (a : Bool) : (addPend ws n d s f a).g.rkseed = s.g.rkseed := rfl
@[simp] theorem addPend_g_rkid (ws : List RegWrite) (n : Nat) (d : List Deferred) (s : State) (f : List (Word × Nat × Nat)) (a : Bool) : (addPend ws n d s f a).g.rkid = s.g.rkid := rfl
@[simp] theorem addPend_g_rkstep (ws : List RegWrite) (n : Nat) (d : List Deferred) (s : State) (f : List (Word × Nat × Nat)) (a : Bool) : (addPend ws n d s f a).g.rkstep = s.g.rkstep := rfl
@[simp] theorem addPend_g_rkbase (ws : List RegWrite) (n : Nat) (d : List Deferred) (s : State) (f : List (Word × Nat × Nat)) (a : Bool) : (addPend ws n d s f a).g.rkbase = s.g.rkbase := rfl
@[simp] theorem addPend_g_xpc (ws : List RegWrite) (n : Nat) (d : List Deferred) (s : State) (f : List (Word × Nat × Nat)) (a : Bool) : (addPend ws n d s f a).g.xpc = s.g.xpc := rfl
@[simp] theorem addPend_g_xcause (ws : List RegWrite) (n : Nat) (d : List Deferred) (s : State) (f : List (Word × Nat × Nat)) (a : Bool) : (addPend ws n d s f a).g.xcause = s.g.xcause := rfl
@[simp] theorem addPend_g_xaddr (ws : List RegWrite) (n : Nat) (d : List Deferred) (s : State) (f : List (Word × Nat × Nat)) (a : Bool) : (addPend ws n d s f a).g.xaddr = s.g.xaddr := rfl
@[simp] theorem addPend_g_xmask (ws : List RegWrite) (n : Nat) (d : List Deferred) (s : State) (f : List (Word × Nat × Nat)) (a : Bool) : (addPend ws n d s f a).g.xmask = s.g.xmask := rfl
@[simp] theorem addPend_g_xinfo (ws : List RegWrite) (n : Nat) (d : List Deferred) (s : State) (f : List (Word × Nat × Nat)) (a : Bool) : (addPend ws n d s f a).g.xinfo = s.g.xinfo := rfl
@[simp] theorem addPend_g_xvec (ws : List RegWrite) (n : Nat) (d : List Deferred) (s : State) (f : List (Word × Nat × Nat)) (a : Bool) : (addPend ws n d s f a).g.xvec = s.g.xvec := rfl
@[simp] theorem addPend_g_inh (ws : List RegWrite) (n : Nat) (d : List Deferred) (s : State) (f : List (Word × Nat × Nat)) (a : Bool) : (addPend ws n d s f a).g.inh = s.g.inh := rfl
@[simp] theorem addPend_g_prec (ws : List RegWrite) (n : Nat) (d : List Deferred) (s : State) (f : List (Word × Nat × Nat)) (a : Bool) : (addPend ws n d s f a).g.prec = s.g.prec := rfl
@[simp] theorem addPend_g_pair (ws : List RegWrite) (n : Nat) (d : List Deferred) (s : State) (f : List (Word × Nat × Nat)) (a : Bool) : (addPend ws n d s f a).g.pair = s.g.pair := rfl
@[simp] theorem addPend_g_pme (ws : List RegWrite) (n : Nat) (d : List Deferred) (s : State) (f : List (Word × Nat × Nat)) (a : Bool) : (addPend ws n d s f a).g.pme = s.g.pme := rfl
@[simp] theorem addPend_g_window (ws : List RegWrite) (n : Nat) (d : List Deferred) (s : State) (f : List (Word × Nat × Nat)) (a : Bool) : (addPend ws n d s f a).g.window = s.g.window := rfl
@[simp] theorem addPend_g_blocks (ws : List RegWrite) (n : Nat) (d : List Deferred) (s : State) (f : List (Word × Nat × Nat)) (a : Bool) : (addPend ws n d s f a).g.blocks = s.g.blocks := rfl
@[simp] theorem addPend_g_rstack (ws : List RegWrite) (n : Nat) (d : List Deferred) (s : State) (f : List (Word × Nat × Nat)) (a : Bool) : (addPend ws n d s f a).g.rstack = s.g.rstack := rfl
@[simp] theorem addPend_g_inflight (ws : List RegWrite) (n : Nat) (d : List Deferred) (s : State) (f : List (Word × Nat × Nat)) (a : Bool) : (addPend ws n d s f a).g.inflight = s.g.inflight := rfl
@[simp] theorem addPend_g_deferred (ws : List RegWrite) (n : Nat) (d : List Deferred) (s : State) (f : List (Word × Nat × Nat)) (a : Bool) : (addPend ws n d s f a).g.deferred = s.g.deferred := rfl
@[simp] theorem addPend_g_hold (ws : List RegWrite) (n : Nat) (d : List Deferred) (s : State) (f : List (Word × Nat × Nat)) (a : Bool) : (addPend ws n d s f a).g.hold = s.g.hold := rfl
@[simp] theorem addPend_g_barOpen (ws : List RegWrite) (n : Nat) (d : List Deferred) (s : State) (f : List (Word × Nat × Nat)) (a : Bool) : (addPend ws n d s f a).g.barOpen = s.g.barOpen := rfl
@[simp] theorem addPend_g_blocked (ws : List RegWrite) (n : Nat) (d : List Deferred) (s : State) (f : List (Word × Nat × Nat)) (a : Bool) : (addPend ws n d s f a).g.blocked = s.g.blocked := rfl
@[simp] theorem addPend_g_drainFlags (ws : List RegWrite) (n : Nat) (d : List Deferred) (s : State) (f : List (Word × Nat × Nat)) (a : Bool) : (addPend ws n d s f a).g.drainFlags = s.g.drainFlags := rfl
@[simp] theorem addPend_g_tried (ws : List RegWrite) (n : Nat) (d : List Deferred) (s : State) (f : List (Word × Nat × Nat)) (a : Bool) : (addPend ws n d s f a).g.tried = s.g.tried := rfl
@[simp] theorem addPend_g_tookOver (ws : List RegWrite) (n : Nat) (d : List Deferred) (s : State) (f : List (Word × Nat × Nat)) (a : Bool) : (addPend ws n d s f a).g.tookOver = s.g.tookOver := rfl
@[simp] theorem addPend_g_eligFrom (ws : List RegWrite) (n : Nat) (d : List Deferred) (s : State) (f : List (Word × Nat × Nat)) (a : Bool) : (addPend ws n d s f a).g.eligFrom = s.g.eligFrom := rfl
@[simp] theorem addPend_g_memHold (ws : List RegWrite) (n : Nat) (d : List Deferred) (s : State) (f : List (Word × Nat × Nat)) (a : Bool) : (addPend ws n d s f a).g.memHold = s.g.memHold := rfl
@[simp] theorem addPend_g_seen (ws : List RegWrite) (n : Nat) (d : List Deferred) (s : State) (f : List (Word × Nat × Nat)) (a : Bool) : (addPend ws n d s f a).g.seen = s.g.seen := rfl
@[simp] theorem addPend_g_notBefore (ws : List RegWrite) (n : Nat) (d : List Deferred) (s : State) (f : List (Word × Nat × Nat)) (a : Bool) : (addPend ws n d s f a).g.notBefore = s.g.notBefore := rfl
@[simp] theorem addPend_g_lastIssue (ws : List RegWrite) (n : Nat) (d : List Deferred) (s : State) (f : List (Word × Nat × Nat)) (a : Bool) : (addPend ws n d s f a).g.lastIssue = s.g.lastIssue := rfl
@[simp] theorem addPend_g_resident (ws : List RegWrite) (n : Nat) (d : List Deferred) (s : State) (f : List (Word × Nat × Nat)) (a : Bool) : (addPend ws n d s f a).g.resident = s.g.resident := rfl
@[simp] theorem addPend_g_icount (ws : List RegWrite) (n : Nat) (d : List Deferred) (s : State) (f : List (Word × Nat × Nat)) (a : Bool) : (addPend ws n d s f a).g.icount = s.g.icount := rfl
@[simp] theorem addPend_g_startLevel (ws : List RegWrite) (n : Nat) (d : List Deferred) (s : State) (f : List (Word × Nat × Nat)) (a : Bool) : (addPend ws n d s f a).g.startLevel = s.g.startLevel := rfl
@[simp] theorem addPend_g_view (ws : List RegWrite) (n : Nat) (d : List Deferred) (s : State) (f : List (Word × Nat × Nat)) (a : Bool) : (addPend ws n d s f a).g.view = s.g.view := rfl
@[simp] theorem addPend_g_own (ws : List RegWrite) (n : Nat) (d : List Deferred) (s : State) (f : List (Word × Nat × Nat)) (a : Bool) : (addPend ws n d s f a).g.own = s.g.own := rfl
@[simp] theorem addPend_g_fenced (ws : List RegWrite) (n : Nat) (d : List Deferred) (s : State) (f : List (Word × Nat × Nat)) (a : Bool) : (addPend ws n d s f a).g.fenced = s.g.fenced := rfl
@[simp] theorem addPend_g_fail (ws : List RegWrite) (n : Nat) (d : List Deferred) (s : State) (f : List (Word × Nat × Nat)) (a : Bool) : (addPend ws n d s f a).g.fail = s.g.fail := rfl
@[simp] theorem addPend_g_cancelled (ws : List RegWrite) (n : Nat) (d : List Deferred) (s : State) (f : List (Word × Nat × Nat)) (a : Bool) : (addPend ws n d s f a).g.cancelled = s.g.cancelled := rfl
@[simp] theorem addPend_g_stopping (ws : List RegWrite) (n : Nat) (d : List Deferred) (s : State) (f : List (Word × Nat × Nat)) (a : Bool) : (addPend ws n d s f a).g.stopping = s.g.stopping := rfl

end Sys2Proof.Laws
end

