-- ==== Sys2Proof/Laws/Ops.lean ====
section
/-! SUPPORT. What the shared operations do: paths, traps, register groups, changes of one gang. -/

namespace Sys2Proof.Laws

open Sys2Proof.Machine

@[simp] theorem path_setPath (g : Gang) (p : PathEntry) : path (setPath g p) = p := by simp [path, setPath]
@[simp] theorem setPath_paths (g : Gang) (p : PathEntry) : (setPath g p).paths = g.paths.set g.act p := rfl
theorem pcOf_setPc (a : Word) (s : State) : pcOf (setPc a s) = a := by simp [pcOf, setPc]
theorem pcOf_next (s : State) : pcOf (next s) = pcOf s + 4 := pcOf_setPc _ s
@[simp] theorem orTrap_none (k : State → State) (s : State) : orTrap none k s = k s := rfl
@[simp] theorem orTrap_some (t : Trap) (k : State → State) (s : State) : orTrap (some t) k s = raise t s := rfl

/-- A delivered trap, in full (10 R317, 18 R474, R477). -/
theorem enterTrap_delivers (t : Trap) (xpc : Word) {s : State} (hi : s.g.inh = false) (hv : s.g.xvec ≠ 0)
    (hc : codeMark s s.g s.g.xvec = 1) :
    enterTrap t xpc s = { dropWaits s.g.uid s with
      g := { s.g with
        xcause := BitVec.ofNat 8 t.cause, xaddr := t.addr, xinfo := t.info, xpc := xpc, xmask := (path s.g).lanes, inh := true
        drainFlags := true, notBefore := max (lastDue s.g) (max s.g.notBefore (s.cycle + 4))
        paths := s.g.paths.set s.g.act { path s.g with pc := s.g.xvec } } } := by
  have hc' : codeMark (dropWaits s.g.uid s) s.g s.g.xvec = 1 := hc
  simp only [enterTrap, show (dropWaits s.g.uid s).g = s.g from rfl, hi, hc']
  have hv' : decide (s.g.xvec = 0) = false := by simpa using hv
  simp only [Bool.false_or, hv', Bool.false_eq_true, if_false, ne_eq, not_true, trapRegs, setPath, path]
  rfl
/-- A trap that the handler cannot take (18 R478). -/
theorem enterTrap_escalates (t : Trap) (xpc : Word) {s : State} (h : s.g.inh = true ∨ s.g.xvec = 0) :
    enterTrap t xpc s = escalate t xpc (dropWaits s.g.uid s) := by
  simp only [enterTrap, show (dropWaits s.g.uid s).g = s.g from rfl]
  rcases h with h | h <;> simp [h]

/-- A target's 18-bit offset counts words (09 R271). -/
theorem offset_words (o : BitVec 18) : o.signExtend 64 * 4#64 = BitVec.ofInt 64 (4 * o.toInt) := by
  apply BitVec.eq_of_toInt_eq
  rw [BitVec.toInt_mul, BitVec.toInt_signExtend_of_le (by omega), BitVec.toInt_ofInt]
  congr 1
  rw [Int.mul_comm]
  rfl
theorem relTarget_eq (s : State) (o : BitVec 18) : relTarget s o = s.iss.hdr + BitVec.ofInt 64 (4 * o.toInt) := by
  rw [relTarget, ← offset_words]; rfl
theorem regTarget_eq (s : State) (a : Reg) (o : BitVec 18) : regTarget s a o = sreg s.g a + BitVec.ofInt 64 (4 * o.toInt) := by
  rw [regTarget, ← offset_words]; rfl

/-- The registers that a list of groups names and that the gang does not hold. -/
theorem mem_missing (g : Gang) (rs : List (Reg × Nat)) (n : Nat) :
    n ∈ missing g rs ↔ (∃ r ∈ rs, ∃ i < r.2, vnum g r.1 i = n) ∧ held g n = false := by
  simp [missing, List.mem_filter, List.mem_flatMap]
/-- An instruction whose register groups the gang holds has no register-block trap (03 R115). -/
theorem blockTrap_none (g : Gang) (rs : List (Reg × Nat)) (h : ∀ r ∈ rs, ∀ i < r.2, held g (vnum g r.1 i) = true) :
    blockTrap g rs = none := by
  have : missing g rs = [] := by
    rw [List.eq_nil_iff_forall_not_mem]
    intro n hn
    obtain ⟨⟨r, hr, i, hi, rfl⟩, hf⟩ := (mem_missing g rs n).1 hn
    simp [h r hr i hi] at hf
  rw [blockTrap, this]
  rfl
/-- The trap for registers that are not held names one of them (03 R115). -/
theorem blockTrapOf_some (ns : List Nat) (h : ns ≠ []) : ∃ n ∈ ns, blockTrapOf ns = some ⟨cRegBlock, 0, wd (n % 256)⟩ := by
  have hm : ∀ n, n ∈ ns.eraseDups ↔ n ∈ ns := fun n => List.mem_eraseDups
  unfold blockTrapOf
  split
  · next e =>
    obtain ⟨x, r, rfl⟩ := List.exists_cons_of_ne_nil h
    have := (hm x).2 (by simp)
    simp [e] at this
  · next n e => exact ⟨n, (hm n).1 (by simp [e]), rfl⟩
  · next n r _ e =>
    have hl : Config.freePick (n :: r) % (n :: r).length < (n :: r).length := Nat.mod_lt _ (by simp)
    refine ⟨(n :: r)[Config.freePick (n :: r) % (n :: r).length], (hm _).1 (by rw [e]; exact List.getElem_mem _), ?_⟩
    rw [List.getElem?_eq_getElem hl]
    rfl

/-- Lane values read back. -/
theorem lane_mkLanes (f : Nat → W32) {l : Nat} (h : l < 32) : lane (mkLanes f) l = f l := by
  simp [lane, mkLanes, h]
theorem lane_mergeLanes (m : W32) (a b : Lanes) {l : Nat} (h : l < 32) :
    lane (mergeLanes m a b) l = if inMask m l then lane b l else lane a l := lane_mkLanes _ h

@[simp] theorem pathCount_endGang (f : Option (Nat × Nat)) (g : Gang) : pathCount (endGang f g) = 0 := by
  show ((List.range 16).filter (fun i => (((Vector.replicate 16 ({} : PathEntry))[i]?).getD {}).state ≠ .free)).length = 0
  decide

/-- The gang in a slot after a change of one gang that keeps its slot and phase. -/
theorem gangAt_onGang (c : Coords) (u : Nat) (f : Gang → Gang) (s : State) (h : ∀ g, (f g).at_ = g.at_ ∧ (f g).phase = g.phase) :
    gangAt (onGang u f s) c = (gangAt s c).map (fun g => if g.uid = u && g.phase ≠ .free then f g else g) := by
  have key : ∀ l : List Gang, (l.map (fun g => if g.uid = u && g.phase ≠ .free then f g else g)).find? (fun g => g.at_ = c && inSlot g) =
      (l.find? (fun g => g.at_ = c && inSlot g)).map (fun g => if g.uid = u && g.phase ≠ .free then f g else g) := by
    intro l
    rw [List.find?_map]
    congr 2
    funext g
    simp only [Function.comp, inSlot]
    split <;> simp [h g]
  simpa [gangAt, onGang, upd] using key (s.g :: s.others)
/-- The gang with a number after a change of it that keeps its number and phase. -/
theorem gangOf_onGang (u : Nat) (f : Gang → Gang) (s : State) (h : ∀ g, (f g).uid = g.uid ∧ (f g).phase = g.phase) :
    gangOf (onGang u f s) u = (gangOf s u).map f := by
  have hp : ∀ g : Gang, ((if g.uid = u && g.phase ≠ .free then f g else g).uid = u &&
      (if g.uid = u && g.phase ≠ .free then f g else g).phase ≠ .free) = (g.uid = u && g.phase ≠ .free) := by
    intro g
    split <;> simp [h g]
  show ((s.g :: s.others).map (fun g => if g.uid = u && g.phase ≠ .free then f g else g)).find? _ = _
  rw [List.find?_map, show ((fun g : Gang => (g.uid = u && g.phase ≠ .free : Bool)) ∘ fun g =>
    if (g.uid = u && g.phase ≠ .free) = true then f g else g) = fun g => (g.uid = u && g.phase ≠ .free : Bool) from funext hp]
  unfold gangOf
  cases hf : (s.g :: s.others).find? (fun g => g.uid = u && g.phase ≠ .free) with
  | none => rfl
  | some g =>
    have hg : (g.uid = u && g.phase ≠ .free : Bool) = true := by
      have := List.find?_some hf
      exact this
    show some (if (g.uid = u && g.phase ≠ .free : Bool) = true then f g else g) = some (f g)
    rw [if_pos hg]

end Sys2Proof.Laws
end

