-- ==== Sys2Proof/Laws/PerInstr.lean ====
section
/-! SUPPORT. Statements about every instruction as syntax, one lemma for each constructor. -/

namespace Sys2Proof.Laws.WordCount

/-- A word of the code stream is one word, but for `brd`, which has its J word behind it (10 R308); an event has none. -/
def Statement (i : Instr) : Prop :=
  (encode i).length = match i with
    | .brd _ _ _ => 2
    | i => if i.isWord then 1 else 0

theorem nop : Statement (.nop) := rfl
theorem bra (x0 : BitVec 18) : Statement (.bra x0) := rfl
theorem braIndirect (x0 : Reg) (x1 : BitVec 18) : Statement (.braIndirect x0 x1) := rfl
theorem brcNz (x0 : BitVec 6) (x1 : BitVec 18) : Statement (.brcNz x0 x1) := rfl
theorem brcZ (x0 : BitVec 6) (x1 : BitVec 18) : Statement (.brcZ x0 x1) := rfl
theorem brd (x0 : BitVec 3) (x1 x2 : BitVec 18) : Statement (.brd x0 x1 x2) := rfl
theorem join : Statement (.join) := rfl
theorem call (x0 : BitVec 18) : Statement (.call x0) := rfl
theorem callIndirect (x0 : Reg) (x1 : BitVec 18) : Statement (.callIndirect x0 x1) := rfl
theorem ret : Statement (.ret) := rfl
theorem exit : Statement (.exit) := rfl
theorem yield : Statement (.yield) := rfl
theorem yieldPath : Statement (.yieldPath) := rfl
theorem trap (x0 : BitVec 11) : Statement (.trap x0) := rfl
theorem bkpt : Statement (.bkpt) := rfl
theorem tret : Statement (.tret) := rfl
theorem term : Statement (.term) := rfl
theorem rget (x0 : BitVec 11) : Statement (.rget x0) := rfl
theorem rgetGrant (x0 : Coords) : Statement (.rgetGrant x0) := rfl
theorem rput : Statement (.rput) := rfl
theorem winb (x0 : BitVec 11) : Statement (.winb x0) := rfl
theorem sadd (x0 x1 x2 : Reg) (x3 : SAddOp) : Statement (.sadd x0 x1 x2 x3) := rfl
theorem ssub (x0 x1 x2 : Reg) (x3 : SAddOp) : Statement (.ssub x0 x1 x2 x3) := rfl
theorem smul (x0 x1 x2 : Reg) (x3 : SMulOp) : Statement (.smul x0 x1 x2 x3) := rfl
theorem sand (x0 x1 x2 : Reg) (x3 : SLogOp) : Statement (.sand x0 x1 x2 x3) := rfl
theorem sor (x0 x1 x2 : Reg) (x3 : SLogOp) : Statement (.sor x0 x1 x2 x3) := rfl
theorem sxor (x0 x1 x2 : Reg) (x3 : SLogOp) : Statement (.sxor x0 x1 x2 x3) := rfl
theorem sshl (x0 x1 x2 : Reg) (x3 : SShlOp) : Statement (.sshl x0 x1 x2 x3) := rfl
theorem sshr (x0 x1 x2 : Reg) (x3 : ShrOp) : Statement (.sshr x0 x1 x2 x3) := rfl
theorem sminmax (x0 x1 x2 : Reg) (x3 : MinMaxOp) : Statement (.sminmax x0 x1 x2 x3) := rfl
theorem scmp (x0 x1 x2 : Reg) (x3 : CmpOp) : Statement (.scmp x0 x1 x2 x3) := rfl
theorem ssel (x0 x1 x2 : Reg) (x3 : SSelOp) : Statement (.ssel x0 x1 x2 x3) := rfl
theorem saddi (x0 x1 : Reg) (x2 : BitVec 11) : Statement (.saddi x0 x1 x2) := rfl
theorem slogi (x0 x1 : Reg) (x2 : SLogiOp) (x3 : BitVec 8) : Statement (.slogi x0 x1 x2 x3) := rfl
theorem sli (x0 : Reg) (x1 : BitVec 18) : Statement (.sli x0 x1) := rfl
theorem sbit (x0 x1 x2 : Reg) (x3 : SBitOp) : Statement (.sbit x0 x1 x2 x3) := rfl
theorem ssprRd (x0 : Reg) (x1 : BitVec 8) : Statement (.ssprRd x0 x1) := rfl
theorem ssprWr (x0 : Reg) (x1 : BitVec 8) : Statement (.ssprWr x0 x1) := rfl
theorem ssprOr (x0 : Reg) (x1 : BitVec 8) : Statement (.ssprOr x0 x1) := rfl
theorem ssprAndn (x0 : Reg) (x1 : BitVec 8) : Statement (.ssprAndn x0 x1) := rfl
theorem vadd (x0 x1 x2 : Reg) (x3 : Route) : Statement (.vadd x0 x1 x2 x3) := rfl
theorem vsub (x0 x1 x2 : Reg) (x3 : Route) : Statement (.vsub x0 x1 x2 x3) := rfl
theorem vmul (x0 x1 x2 : Reg) (x3 : Route) : Statement (.vmul x0 x1 x2 x3) := rfl
theorem vand (x0 x1 x2 : Reg) (x3 : Route) : Statement (.vand x0 x1 x2 x3) := rfl
theorem vor (x0 x1 x2 : Reg) (x3 : Route) : Statement (.vor x0 x1 x2 x3) := rfl
theorem vxor (x0 x1 x2 : Reg) (x3 : Route) : Statement (.vxor x0 x1 x2 x3) := rfl
theorem vshl (x0 x1 x2 : Reg) (x3 : Bool) (x4 : SShlOp) : Statement (.vshl x0 x1 x2 x3 x4) := rfl
theorem vshr (x0 x1 x2 : Reg) (x3 : Bool) (x4 : ShrOp) : Statement (.vshr x0 x1 x2 x3 x4) := rfl
theorem vminmax (x0 x1 x2 : Reg) (x3 : Bool) (x4 : MinMaxOp) : Statement (.vminmax x0 x1 x2 x3 x4) := rfl
theorem vcmp (x0 : BitVec 3) (x1 x2 : Reg) (x3 : Bool) (x4 : CmpOp) : Statement (.vcmp x0 x1 x2 x3 x4) := rfl
theorem vsel (x0 x1 x2 : Reg) (x3 : Bool) (x4 : BitVec 3) : Statement (.vsel x0 x1 x2 x3 x4) := rfl
theorem vmov (x0 : VMovForm) : Statement (.vmov x0) := rfl
theorem vperm (x0 x1 x2 : Reg) (x3 : Bool) : Statement (.vperm x0 x1 x2 x3) := rfl
theorem vvote (x0 x1 : Reg) (x2 : VVoteOp) : Statement (.vvote x0 x1 x2) := rfl
theorem vscan (x0 x1 : Reg) (x2 : Bool) (x3 : VScanOp) : Statement (.vscan x0 x1 x2 x3) := rfl
theorem vredl (x0 x1 : Reg) (x2 : VRedlOp) : Statement (.vredl x0 x1 x2) := rfl
theorem fadd (x0 x1 x2 : Reg) (x3 : Route) : Statement (.fadd x0 x1 x2 x3) := rfl
theorem fsub (x0 x1 x2 : Reg) (x3 : Route) : Statement (.fsub x0 x1 x2 x3) := rfl
theorem fmul (x0 x1 x2 : Reg) (x3 : Route) : Statement (.fmul x0 x1 x2 x3) := rfl
theorem ffma (x0 x1 x2 : Reg) (x3 : Route) : Statement (.ffma x0 x1 x2 x3) := rfl
theorem fminmax (x0 x1 x2 : Reg) (x3 : Bool) (x4 : FMinMaxOp) : Statement (.fminmax x0 x1 x2 x3 x4) := rfl
theorem fcmp (x0 : BitVec 3) (x1 x2 : Reg) (x3 : Bool) (x4 : FCmpOp) : Statement (.fcmp x0 x1 x2 x3 x4) := rfl
theorem ffun (x0 x1 : Reg) (x2 : FFunOp) : Statement (.ffun x0 x1 x2) := rfl
theorem fcvt (x0 x1 : Reg) (x2 : RndSel) (x3 : CvtFmt) (x4 : Bool) : Statement (.fcvt x0 x1 x2 x3 x4) := rfl
theorem fpack (x0 x1 : Reg) (x2 : Bool) (x3 : PackW) : Statement (.fpack x0 x1 x2 x3) := rfl
theorem hadd2 (x0 x1 x2 : Reg) (x3 : Route) : Statement (.hadd2 x0 x1 x2 x3) := rfl
theorem hmul2 (x0 x1 x2 : Reg) (x3 : Route) : Statement (.hmul2 x0 x1 x2 x3) := rfl
theorem hfma2 (x0 x1 x2 : Reg) (x3 : Route) : Statement (.hfma2 x0 x1 x2 x3) := rfl
theorem fclass (x0 x1 : Reg) (x2 : ClassFmt) : Statement (.fclass x0 x1 x2) := rfl
theorem frng (x0 : Reg) (x1 : Bool) : Statement (.frng x0 x1) := rfl
theorem fscale (x0 x1 x2 : Reg) (x3 : Bool) (x4 : Bool) : Statement (.fscale x0 x1 x2 x3 x4) := rfl
theorem fdot2 (x0 x1 x2 : Reg) (x3 : Route) : Statement (.fdot2 x0 x1 x2 x3) := rfl
theorem ld (x0 x1 : Reg) (x2 : AddrForm) (x3 : Size) : Statement (.ld x0 x1 x2 x3) := rfl
theorem st (x0 x1 : Reg) (x2 : AddrForm) (x3 : Size) : Statement (.st x0 x1 x2 x3) := rfl
theorem lds (x0 x1 : Reg) (x2 : BitVec 9) (x3 : Size) : Statement (.lds x0 x1 x2 x3) := rfl
theorem sts (x0 x1 : Reg) (x2 : BitVec 9) (x3 : Size) : Statement (.sts x0 x1 x2 x3) := rfl
theorem ldc (x0 x1 : Reg) (x2 : BitVec 9) (x3 : Size) : Statement (.ldc x0 x1 x2 x3) := rfl
theorem ldsp (x0 x1 x2 : Reg) (x3 x4 : Bool) : Statement (.ldsp x0 x1 x2 x3 x4) := rfl
theorem stsp (x0 x1 x2 : Reg) (x3 x4 : Bool) : Statement (.stsp x0 x1 x2 x3 x4) := rfl
theorem ldb (x0 x1 x2 : Reg) (x3 : BitVec 4) : Statement (.ldb x0 x1 x2 x3) := rfl
theorem stb (x0 x1 x2 : Reg) (x3 : BitVec 4) : Statement (.stb x0 x1 x2 x3) := rfl
theorem pref (x0 : Reg) (x1 : AddrForm) : Statement (.pref x0 x1) := rfl
theorem pfence (x0 : BitVec 4) : Statement (.pfence x0) := rfl
theorem drain : Statement (.drain) := rfl
theorem cpy (x0 : BitVec 3) (x1 x2 : Reg) (x3 : Level) : Statement (.cpy x0 x1 x2 x3) := rfl
theorem tlwait (x0 : BitVec 3) : Statement (.tlwait x0) := rfl
theorem tlwaitN (x0 : BitVec 3) (x1 : Reg) : Statement (.tlwaitN x0 x1) := rfl
theorem tlreadCnt (x0 : Reg) (x1 : BitVec 3) : Statement (.tlreadCnt x0 x1) := rfl
theorem tlreadLast (x0 : Reg) (x1 : BitVec 3) : Statement (.tlreadLast x0 x1) := rfl
theorem tlreadSkip (x0 : Reg) (x1 : BitVec 3) : Statement (.tlreadSkip x0 x1) := rfl
theorem sleept (x0 : Reg) : Statement (.sleept x0) := rfl
theorem sleepEnd (x0 : Coords) : Statement (.sleepEnd x0) := rfl
theorem promiseExpiry (x0 : OpId) : Statement (.promiseExpiry x0) := rfl
theorem atom (x0 x1 x2 : Reg) (x3 : AtomOp) : Statement (.atom x0 x1 x2 x3) := rfl
theorem atom64 (x0 x1 x2 : Reg) (x3 : Atom64Op) : Statement (.atom64 x0 x1 x2 x3) := rfl
theorem casW (x0 x1 x2 : Reg) : Statement (.casW x0 x1 x2) := rfl
theorem casD (x0 x1 x2 : Reg) : Statement (.casD x0 x1 x2) := rfl
theorem red (x0 x1 x2 : Reg) (x3 : RedOp) : Statement (.red x0 x1 x2 x3) := rfl
theorem chunk (x0 x1 x2 : Reg) : Statement (.chunk x0 x1 x2) := rfl
theorem qpush (x0 x1 : Reg) : Statement (.qpush x0 x1) := rfl
theorem qpop (x0 x1 : Reg) (x2 : BitVec 3) : Statement (.qpop x0 x1 x2) := rfl
theorem qpops (x0 x1 : Reg) : Statement (.qpops x0 x1) := rfl
theorem qclose (x0 : Reg) : Statement (.qclose x0) := rfl
theorem lnch (x0 : Reg) (x1 : BitVec 6) (x2 : Reg) (x3 : Level) : Statement (.lnch x0 x1 x2 x3) := rfl
theorem lnchTry (x0 : Reg) (x1 : BitVec 6) (x2 : Reg) (x3 : Level) : Statement (.lnchTry x0 x1 x2 x3) := rfl
theorem joinw (x0 x1 : Reg) : Statement (.joinw x0 x1) := rfl
theorem bar (x0 : Level) : Statement (.bar x0) := rfl
theorem mcopy (x0 : BitVec 3) (x1 x2 : Reg) (x3 : Level) : Statement (.mcopy x0 x1 x2 x3) := rfl
theorem reduce (x0 : BitVec 3) (x1 x2 : Reg) (x3 : Level) : Statement (.reduce x0 x1 x2 x3) := rfl
theorem fencePub (x0 : Level) : Statement (.fencePub x0) := rfl
theorem fenceAcq (x0 : Level) : Statement (.fenceAcq x0) := rfl
theorem fenceAr (x0 : Level) : Statement (.fenceAr x0) := rfl
theorem cancelL (x0 : Reg) : Statement (.cancelL x0) := rfl
theorem cancelG : Statement (.cancelG) := rfl
theorem cancelJ : Statement (.cancelJ) := rfl
theorem mma (x0 : BitVec 4) (x1 x2 : Reg) (x3 : BitVec 3) : Statement (.mma x0 x1 x2 x3) := rfl
theorem mldw (x0 : BitVec 3) (x1 : Reg) : Statement (.mldw x0 x1) := rfl
theorem accz (x0 : BitVec 4) : Statement (.accz x0) := rfl
theorem accrd (x0 : Reg) (x1 : BitVec 4) (x2 : Reg) (x3 : BitVec 3) : Statement (.accrd x0 x1 x2 x3) := rfl
theorem accwr (x0 : BitVec 4) (x1 : Reg) (x2 : BitVec 3) : Statement (.accwr x0 x1 x2) := rfl
theorem acccvt (x0 : Reg) (x1 : BitVec 4) (x2 : RndSel) (x3 : BitVec 3) : Statement (.acccvt x0 x1 x2 x3) := rfl
theorem accadd (x0 x1 : BitVec 4) (x2 : BitVec 3) : Statement (.accadd x0 x1 x2) := rfl
theorem acccp (x0 x1 : BitVec 4) (x2 : BitVec 3) : Statement (.acccp x0 x1 x2) := rfl
theorem shset (x0 : BitVec 3) (x1 : Reg) : Statement (.shset x0 x1) := rfl
theorem shget (x0 : Reg) (x1 : BitVec 3) : Statement (.shget x0 x1) := rfl
theorem pkld (x0 : BitVec 3) (x1 : Reg) : Statement (.pkld x0 x1) := rfl
theorem pkq (x0 : BitVec 3) (x1 : Reg) : Statement (.pkq x0 x1) := rfl
theorem pkb (x0 : BitVec 3) (x1 : Reg) : Statement (.pkb x0 x1) := rfl
theorem ovfq (x0 : Reg) : Statement (.ovfq x0) := rfl
theorem lsapp (x0 x1 : Reg) : Statement (.lsapp x0 x1) := rfl
theorem accmx (x0 : Reg) (x1 : BitVec 4) (x2 : BitVec 3) : Statement (.accmx x0 x1 x2) := rfl
theorem tileHoldEnd (x0 : Coords) : Statement (.tileHoldEnd x0) := rfl
theorem loadReply (x0 : Coords) (x1 : Nat) : Statement (.loadReply x0 x1) := rfl
theorem replyToImage (x0 x1 : Nat) (x2 : Coords) (x3 : Nat) : Statement (.replyToImage x0 x1 x2 x3) := rfl
theorem atomicErrorReply (x0 : Nat) : Statement (.atomicErrorReply x0) := rfl
theorem postedPermissionTest (x0 : Nat) : Statement (.postedPermissionTest x0) := rfl
theorem storeAtHome (x0 : Nat) : Statement (.storeAtHome x0) := rfl
theorem storeFaultDelivery (x0 : Coords) : Statement (.storeFaultDelivery x0) := rfl
theorem updateOnlyEviction (x0 : Nat) : Statement (.updateOnlyEviction x0) := rfl
theorem combineMerge (x0 x1 : Nat) : Statement (.combineMerge x0 x1) := rfl
theorem replySplit (x0 : Nat) : Statement (.replySplit x0) := rfl
theorem atomicAtHome (x0 : Nat) : Statement (.atomicAtHome x0) := rfl
theorem chunkGroup (x0 : Nat) : Statement (.chunkGroup x0) := rfl
theorem queueOpArrival (x0 : Coords) : Statement (.queueOpArrival x0) := rfl
theorem queueOpAccept (x0 : Coords) : Statement (.queueOpAccept x0) := rfl
theorem poolRecordGrant (x0 : Level) (x1 : Coords) : Statement (.poolRecordGrant x0 x1) := rfl
theorem reeveChildStart (x0 x1 : Nat) : Statement (.reeveChildStart x0 x1) := rfl
theorem gangEnd (x0 : Coords) : Statement (.gangEnd x0) := rfl
theorem launchComplete (x0 : Nat) : Statement (.launchComplete x0) := rfl
theorem barrierOpen (x0 : Nat) : Statement (.barrierOpen x0) := rfl
theorem pathAgeingTakeover (x0 : Coords) : Statement (.pathAgeingTakeover x0) := rfl
theorem rootLaunchStart (x0 x1 : Nat) : Statement (.rootLaunchStart x0 x1) := rfl
theorem mmaStart (x0 : Nat) : Statement (.mmaStart x0) := rfl
theorem mmaStepComplete (x0 : Nat) : Statement (.mmaStepComplete x0) := rfl
theorem mmaRestart (x0 : Nat) : Statement (.mmaRestart x0) := rfl
theorem operandFetchFailure (x0 : Nat) (x1 : Nat) (x2 : Word) : Statement (.operandFetchFailure x0 x1 x2) := rfl
theorem weightLatchLoaded (x0 : Coords) (x1 : Nat) (x2 : Bool) : Statement (.weightLatchLoaded x0 x1 x2) := rfl
theorem granaryOpStart (x0 : Coords) : Statement (.granaryOpStart x0) := rfl
theorem granaryOpComplete (x0 : Coords) : Statement (.granaryOpComplete x0) := rfl
theorem cartOpComplete (x0 : OpId) : Statement (.cartOpComplete x0) := rfl
theorem fabricTimeout (x0 : TimedOut) : Statement (.fabricTimeout x0) := rfl
theorem laneLoss (x0 x1 x2 : Nat) : Statement (.laneLoss x0 x1 x2) := rfl
theorem retrainComplete (x0 x1 : Nat) : Statement (.retrainComplete x0 x1) := rfl
theorem portRejoin (x0 x1 : Nat) : Statement (.portRejoin x0 x1) := rfl
theorem capabilityWord (x0 x1 : Nat) (x2 : Word) : Statement (.capabilityWord x0 x1 x2) := rfl
theorem capabilityTimeout (x0 x1 : Nat) : Statement (.capabilityTimeout x0 x1) := rfl
theorem linkDown (x0 x1 : Nat) : Statement (.linkDown x0 x1) := rfl
theorem podBringUp (x0 x1 : Nat) (x2 : List Link) : Statement (.podBringUp x0 x1 x2) := rfl
theorem memberFailure (x0 : Nat) : Statement (.memberFailure x0) := rfl
theorem hello (x0 : Nat) (x1 x2 x3 x4 : Nat) (x5 : List Byte) : Statement (.hello x0 x1 x2 x3 x4 x5) := rfl
theorem confirm (x0 x1 : Nat) : Statement (.confirm x0 x1) := rfl
theorem messageAuthFailure (x0 x1 : Nat) : Statement (.messageAuthFailure x0 x1) := rfl
theorem sessionClose (x0 x1 : Nat) : Statement (.sessionClose x0 x1) := rfl
theorem sessionLinkLoss (x0 x1 : Nat) : Statement (.sessionLinkLoss x0 x1) := rfl
theorem jobCreate (x0 : Cmd) (x1 : List Word) : Statement (.jobCreate x0 x1) := rfl
theorem jobEnd (x0 : Cmd) (x1 : Nat) : Statement (.jobEnd x0 x1) := rfl
theorem keyInstall (x0 : Cmd) (x1 x2 : Nat) (x3 : List Byte) : Statement (.keyInstall x0 x1 x2 x3) := rfl
theorem load (x0 : Cmd) (x1 : Nat) (x2 : List Byte) (x3 x4 x5 : Word) : Statement (.load x0 x1 x2 x3 x4 x5) := rfl
theorem memWrite (x0 : Cmd) (x1 : Nat) (x2 : Word) (x3 : List Byte) : Statement (.memWrite x0 x1 x2 x3) := rfl
theorem memRead (x0 : Cmd) (x1 : Nat) (x2 : Word) (x3 : Nat) : Statement (.memRead x0 x1 x2 x3) := rfl
theorem graphCreate (x0 : Cmd) (x1 : Nat) : Statement (.graphCreate x0 x1) := rfl
theorem queueBindCmd (x0 : Cmd) (x1 x2 : Nat) : Statement (.queueBindCmd x0 x1 x2) := rfl
theorem submit (x0 : Cmd) (x1 : Nat) (x2 : List (List Word)) : Statement (.submit x0 x1 x2) := rfl
theorem cancelLaunch (x0 : Cmd) (x1 x2 : Nat) : Statement (.cancelLaunch x0 x1 x2) := rfl
theorem cancelGraph (x0 : Cmd) (x1 x2 : Nat) : Statement (.cancelGraph x0 x1 x2) := rfl
theorem cancelJob (x0 : Cmd) (x1 : Nat) : Statement (.cancelJob x0 x1) := rfl
theorem counterRead (x0 : Cmd) (x1 : Nat) (x2 : Option Nat) : Statement (.counterRead x0 x1 x2) := rfl
theorem save (x0 : Cmd) (x1 : List Word) : Statement (.save x0 x1) := rfl
theorem saveComplete (x0 x1 : Nat) : Statement (.saveComplete x0 x1) := rfl
theorem saveDeadlineExpiry (x0 x1 : Nat) : Statement (.saveDeadlineExpiry x0 x1) := rfl
theorem resume (x0 : Cmd) (x1 : List Word) : Statement (.resume x0 x1) := rfl
theorem resumeRestore (x0 x1 : Nat) : Statement (.resumeRestore x0 x1) := rfl
theorem packageReset (x0 : Nat) : Statement (.packageReset x0) := rfl
theorem functionReady (x0 : Nat) (x1 : Func) : Statement (.functionReady x0 x1) := rfl
theorem commandReadyTimeout (x0 : Cmd) : Statement (.commandReadyTimeout x0) := rfl
theorem functionFailure (x0 : Nat) (x1 : Func) : Statement (.functionFailure x0 x1) := rfl
theorem uncorrectableStateError (x0 : Coords) : Statement (.uncorrectableStateError x0) := rfl
theorem scrubPass (x0 : Nat) : Statement (.scrubPass x0) := rfl
theorem telemetryUpdate (x0 : Nat) (x1 : Sensors) : Statement (.telemetryUpdate x0 x1) := rfl
theorem powerLimit (x0 : Nat) (x1 : Sensors) : Statement (.powerLimit x0 x1) := rfl
theorem thermalShutdown (x0 : Nat) (x1 : Nat) : Statement (.thermalShutdown x0 x1) := rfl
theorem checkpoint (x0 : Cmd) (x1 : List Word) : Statement (.checkpoint x0 x1) := rfl
theorem checkpointRestore (x0 : Cmd) (x1 : List Word) : Statement (.checkpointRestore x0 x1) := rfl
theorem checkpointComplete (x0 : Nat) (x1 : Option Nat) : Statement (.checkpointComplete x0 x1) := rfl
theorem illegalInstruction (x0 : W32) : Statement (.illegalInstruction x0) := rfl
theorem granarySegmentWrite (x0 : Coords) : Statement (.granarySegmentWrite x0) := rfl
theorem granaryQueryBoundary (x0 : Coords) : Statement (.granaryQueryBoundary x0) := rfl
theorem linkUp (x0 x1 : Nat) (x2 : Word) : Statement (.linkUp x0 x1 x2) := rfl
theorem flitCrcFailure (x0 x1 : Nat) : Statement (.flitCrcFailure x0 x1) := rfl
theorem jobClaim (x0 x1 x2 : Nat) (x3 : Word) : Statement (.jobClaim x0 x1 x2 x3) := rfl

end Sys2Proof.Laws.WordCount
end

