-- ==== Sys2Proof/Safety.lean ====
section
/-! DEFINITION. What counts as a safe run: the machine goes on for ever, as every fault of the manual is a trap, an error reply or a
failure that the machine goes on from (18 R474). -/

namespace Sys2Proof

/-- A state from which a number of steps all answer a next state. -/
def goesOn (n : Nat) (s : Machine.State) : Prop := ∃ t, Host.Core.run core n s = .next t
/-- A safe state: no number of steps stops the machine. -/
def Safe (s : Machine.State) : Prop := ∀ n, goesOn n s

end Sys2Proof
end

