-- ==== Sys2Proof/Tests/Slice0.lean ====
section
/-! SUPPORT. Tests: ill-formed terms, a word of every instruction, single steps against the worked examples of spec/, and for every
statement that has hypotheses a state that meets them. -/

namespace Sys2Proof.Tests

set_option Elab.async false

open Sys2Proof.Machine Sys2Proof.Claims

/-! Ill-formed terms, one for each check of `Instr.wf` (09 R274 to R276). -/

theorem test_wf_indirect_names_a_register : (Instr.braIndirect 0 1).wf = false ∧ (Instr.callIndirect 0 1).wf = false := by decide
theorem test_wf_rget_and_winb : (Instr.rget 0).wf = false ∧ (Instr.rget 4).wf = false ∧ (Instr.winb 32).wf = false := by decide
theorem test_wf_shift_amount : (Instr.slogi 1 1 .shl 64).wf = false ∧ (Instr.slogi 1 1 .shl 63).wf = true := by decide
theorem test_wf_sbit : (Instr.sbit 1 1 1 .popc).wf = false ∧ (Instr.sbit 8 1 0 .tok).wf = false ∧
    (Instr.sbit 1 8 0 .fromk).wf = false ∧ (Instr.sbit 1 1 1 .ext).wf = true := by decide
theorem test_wf_special_registers : (Instr.ssprRd 1 0x02).wf = false ∧ (Instr.ssprWr 1 0x0A).wf = false ∧
    (Instr.ssprOr 1 0x21).wf = false ∧ (Instr.ssprAndn 1 0x13).wf = false := by decide
theorem test_wf_lane_mask : (Instr.vvote 8 1 .ballot).wf = false ∧ (Instr.vvote 8 1 .any).wf = true := by decide
theorem test_wf_fscale : (Instr.fscale 1 1 1 false true).wf = false ∧ (Instr.fscale 1 1 0 true true).wf = false := by decide
theorem test_wf_pfence : (Instr.pfence 0).wf = false := by decide
theorem test_wf_descriptors : (Instr.cpy 0 125 0 .cl).wf = false ∧ (Instr.cpy 0 124 0 .c).wf = false ∧ (Instr.mcopy 0 125 0 .c).wf = false ∧
    (Instr.mcopy 0 4 0 .g).wf = false ∧ (Instr.reduce 0 125 0 .c).wf = false ∧ (Instr.reduce 0 4 0 .g).wf = false := by decide
theorem test_wf_groups : (Instr.qpops 121 1).wf = false ∧ (Instr.lnch 1 0 121 .c).wf = false ∧ (Instr.lnch 1 0 8 .g).wf = false ∧
    (Instr.lnchTry 1 0 121 .c).wf = false ∧ (Instr.lnchTry 1 0 8 .g).wf = false ∧ (Instr.mma 0 127 2 0).wf = false ∧
    (Instr.mma 0 2 127 0).wf = false ∧ (Instr.mldw 0 127).wf = false ∧ (Instr.pkq 0 123).wf = false ∧ (Instr.pkb 0 123).wf = false := by decide
/-- The words of such terms, and words with a reserved bit, do not decode (09 R274). -/
theorem test_reserved_words_are_refused :
    ([0x00000001, 0x1A000004, 0x1E000020, 0x38840340, 0x20000004, 0x94000000, 0x3E040002, 0x9817E802, 0xE0000000, 0xFFFFFFFF] : List W32).all
      (fun w => match decode w 0 with
        | .ok _ => false
        | .error _ => true) = true := by decide +kernel

/-! One word of every instruction. -/

/-- One word of every instruction of group 0, its fields laid out by hand from the encodings of spec/. -/
theorem test_decode_control :
    ([(0x00000000, 0, .nop), (0x02020005, 0, .bra 0x20005), (0x02895555, 0, .braIndirect 34 0x15555),
      (0x0497FFFF, 0, .brcNz 37 0x3FFFF), (0x05940009, 0, .brcZ 37 9), (0x06040007, 9, .brd 1 7 9),
      (0x08000000, 0, .join), (0x0A030001, 0, .call 0x30001), (0x0B940002, 0, .callIndirect 101 2),
      (0x0C000000, 0, .ret), (0x0E000000, 0, .exit), (0x10000000, 0, .yield),
      (0x10000001, 0, .yieldPath), (0x120005A3, 0, .trap 0x5A3), (0x14000000, 0, .bkpt),
      (0x16000000, 0, .tret), (0x18000000, 0, .term), (0x1A000003, 0, .rget 3),
      (0x1C000000, 0, .rput), (0x1E000080, 0, .winb 128)] : List (W32 × W32 × Instr)).all
      (fun p => decode p.1 p.2.1 = .ok p.2.2) = true := by decide +kernel

/-- One word of every instruction of group 1, its fields laid out by hand from the encodings of spec/. -/
theorem test_decode_scalar :
    ([(0x20311552, 0, .sadd 12 34 85 .ss), (0x22311553, 0, .ssub 12 34 85 .us), (0x24311551, 0, .smul 12 34 85 .hs),
      (0x26311551, 0, .sand 12 34 85 .inv), (0x28311550, 0, .sor 12 34 85 .plain), (0x2A311551, 0, .sxor 12 34 85 .inv),
      (0x2C311551, 0, .sshl 12 34 85 .rol), (0x2E311552, 0, .sshr 12 34 85 .ror), (0x30311552, 0, .sminmax 12 34 85 .minu),
      (0x32311555, 0, .scmp 12 34 85 .geu), (0x34311551, 0, .ssel 12 34 85 .neg), (0x363117FE, 0, .saddi 12 34 0x7FE),
      (0x38311521, 0, .slogi 12 34 .sra 33), (0x3A32ABCD, 0, .sli 12 0x2ABCD), (0x3C311556, 0, .sbit 12 34 85 .exts),
      (0x3E300026, 0, .ssprRd 12 0x26), (0x3E011212, 0, .ssprWr 34 0x12), (0x3E011412, 0, .ssprOr 34 0x12),
      (0x3E011612, 0, .ssprAndn 34 0x12)] : List (W32 × W32 × Instr)).all
      (fun p => decode p.1 p.2.1 = .ok p.2.2) = true := by decide +kernel

/-- One word of every instruction of group 2, its fields laid out by hand from the encodings of spec/. -/
theorem test_decode_vector_integer :
    ([(0x40311551, 0, .vadd 12 34 85 .rot1), (0x42311555, 0, .vsub 12 34 85 .rot16), (0x4431155E, 0, .vmul 12 34 85 .scalar),
      (0x46311556, 0, .vand 12 34 85 .xor1), (0x4831155B, 0, .vor 12 34 85 .mir), (0x4A31155C, 0, .vxor 12 34 85 .b0),
      (0x4C311559, 0, .vshl 12 34 85 true .rol), (0x4E311551, 0, .vshr 12 34 85 false .sra), (0x5031155B, 0, .vminmax 12 34 85 true .maxu),
      (0x5215155A, 0, .vcmp 5 34 85 true .lt), (0x5431155E, 0, .vsel 12 34 85 true 6), (0x56311155, 0, .vmov (.ins 12 34 21)),
      (0x58311551, 0, .vperm 12 34 85 true), (0x5A311005, 0, .vvote 12 34 .first), (0x5C31100D, 0, .vscan 12 34 true .maxu),
      (0x5E31100A, 0, .vredl 12 34 .xor)] : List (W32 × W32 × Instr)).all
      (fun p => decode p.1 p.2.1 = .ok p.2.2) = true := by decide +kernel

/-- One word of every instruction of group 3, its fields laid out by hand from the encodings of spec/. -/
theorem test_decode_vector_float :
    ([(0x6031155D, 0, .fadd 12 34 85 .b31), (0x62311550, 0, .fsub 12 34 85 .none), (0x6431155A, 0, .fmul 12 34 85 .xor16),
      (0x66311552, 0, .ffma 12 34 85 .rot2), (0x72311553, 0, .hadd2 12 34 85 .rot4), (0x74311554, 0, .hmul2 12 34 85 .rot8),
      (0x76311557, 0, .hfma2 12 34 85 .xor2), (0x7E311558, 0, .fdot2 12 34 85 .xor4), (0x68311552, 0, .fminmax 12 34 85 false .minp),
      (0x6A151556, 0, .fcmp 5 34 85 false .un), (0x6C311007, 0, .ffun 12 34 .tanh), (0x6E31146B, 0, .fcvt 12 34 .sr (.f4 .hyb) true),
      (0x7031100B, 0, .fpack 12 34 true .s6), (0x78311002, 0, .fclass 12 34 .fp16), (0x7A300001, 0, .frng 12 true),
      (0x7C311558, 0, .fscale 12 34 85 true false)] : List (W32 × W32 × Instr)).all
      (fun p => decode p.1 p.2.1 = .ok p.2.2) = true := by decide +kernel

/-- One word of every instruction of group 4, its fields laid out by hand from the encodings of spec/. -/
theorem test_decode_memory :
    ([(0x80311555, 0, .ld 12 34 (.vs 85) .h), (0x82311553, 0, .st 12 34 (.vz 85) .d), (0x84311556, 0, .lds 12 34 0x155 .w),
      (0x863112A8, 0, .sts 12 34 0x0AA .b), (0x88311403, 0, .ldc 12 34 0x100 .d), (0x8A311552, 0, .ldsp 12 34 85 true false),
      (0x8C311551, 0, .stsp 12 34 85 false true), (0x8E31155F, 0, .ldb 12 34 85 15), (0x90311556, 0, .stb 12 34 85 6),
      (0x92011554, 0, .pref 34 (.vs 85)), (0x9400000A, 0, .pfence 10), (0x96000000, 0, .drain),
      (0x98151554, 0, .cpy 5 34 85 .p), (0x9A003000, 0, .tlwait 6), (0x9A003551, 0, .tlwaitN 6 85),
      (0x9C303000, 0, .tlreadCnt 12 6), (0x9C303001, 0, .tlreadLast 12 6), (0x9C303002, 0, .tlreadSkip 12 6),
      (0x9E011000, 0, .sleept 34)] : List (W32 × W32 × Instr)).all
      (fun p => decode p.1 p.2.1 = .ok p.2.2) = true := by decide +kernel

/-- One word of every instruction of group 5, its fields laid out by hand from the encodings of spec/. -/
theorem test_decode_atomics_and_levels :
    ([(0xA031155A, 0, .atom 12 34 85 .faddOf), (0xA2311558, 0, .atom64 12 34 85 .swap), (0xA4311550, 0, .casW 12 34 85),
      (0xA4311551, 0, .casD 12 34 85), (0xA631155E, 0, .red 12 34 85 .minuD), (0xA8311550, 0, .chunk 12 34 85),
      (0xAA311000, 0, .qpush 12 34), (0xAC311030, 0, .qpop 12 34 3), (0xAE311000, 0, .qpops 12 34),
      (0xB0011000, 0, .qclose 34), (0xB2315553, 0, .lnch 12 42 85 .d), (0xB2335555, 0, .lnchTry 12 42 85 .pod),
      (0xB4311000, 0, .joinw 12 34), (0xB6000002, 0, .bar .cl), (0xB8151551, 0, .mcopy 5 34 85 .c),
      (0xBA151553, 0, .reduce 5 34 85 .d), (0xBC040004, 0, .fencePub .p), (0xBC080000, 0, .fenceAcq .g),
      (0xBC0C0005, 0, .fenceAr .pod), (0xBE011000, 0, .cancelL 34), (0xBE000001, 0, .cancelG),
      (0xBE000002, 0, .cancelJ)] : List (W32 × W32 × Instr)).all
      (fun p => decode p.1 p.2.1 = .ok p.2.2) = true := by decide +kernel

/-- One word of every instruction of group 6, its fields laid out by hand from the encodings of spec/. -/
theorem test_decode_matrix_and_lookup :
    ([(0xC0351556, 0, .mma 13 34 85 6), (0xC2180550, 0, .mldw 6 85), (0xC4340000, 0, .accz 13),
      (0xC6306D55, 0, .accrd 12 13 85 5), (0xC8351005, 0, .accwr 13 34 5), (0xCA306835, 0, .acccvt 12 13 .rup 5),
      (0xCC344805, 0, .accadd 13 9 5), (0xCE344805, 0, .acccp 13 9 5), (0xD0151000, 0, .shset 5 34),
      (0xD2302800, 0, .shget 12 5), (0xD4151000, 0, .pkld 5 34), (0xD6151000, 0, .pkq 5 34),
      (0xD8151000, 0, .pkb 5 34), (0xDA300000, 0, .ovfq 12), (0xDC311000, 0, .lsapp 12 34),
      (0xDE306805, 0, .accmx 12 13 5)] : List (W32 × W32 × Instr)).all
      (fun p => decode p.1 p.2.1 = .ok p.2.2) = true := by decide +kernel

/-! Small states. -/

/-- A pod with job 1 and its gang in slot 0, whose active path stands at the body word at 0x1004 of the clause at 0x1000; the trap
handler is that clause. -/
def b0 : State :=
  let s := State.reset.withFetchWord 32 0
  { s with agenda := [], iss := { hdr := 0x1000, flag := 0 }, g := { s.g with xvec := 0x1000, paths := s.g.paths.set 0 { lanes := 0xFFFFFFFF, exec := 0xFFFFFFFF, state := .ready, pc := 0x1004 } } }
/-- `b0` with a change of its gang. -/
def on (f : Gang → Gang) : State := { b0 with g := f b0.g }
/-- A gang with a value in a scalar register, and with one active lane. -/
def setS (n : Fin 128) (x : Word) (g : Gang) : Gang := { g with s := g.s.set n x }
def setV (n : Fin 256) (f : Nat → W32) (g : Gang) : Gang := { g with v := g.v.set n (mkLanes f) }
def active (m : W32) (g : Gang) : Gang := { g with paths := g.paths.set 0 { g.paths[0] with exec := m } }
def inHandler (g : Gang) : Gang := { g with inh := true }
/-- Two paths: lanes 0 to 15 active in entry 0, lanes 16 to 31 ready in entry 1. -/
def twoPaths (g : Gang) : Gang :=
  { g with paths := (g.paths.set 0 { lanes := 0xFFFF, exec := 0xFFFF, state := .ready, pc := 0x1004 }).set 1 { lanes := 0xFFFF0000, exec := 0xFFFF0000, state := .ready, pc := 0x1004 } }
/-- A state with a clause at 0x2000 that begins with `join`. -/
def withJoin (s : State) : State :=
  let t := poke (hbmLoc 0 0x2000) ([(0x04 : Byte), 0, 0, 0, 0, 0, 0, 0x08]) s
  { t with code := cset 0 t.code (codeKey 0 1 0x2000) 1 }
/-- An instruction answers a next state that passes a check. -/
def runs (i : Instr) (s : State) (p : State → Bool) : Bool :=
  match exec i s with
  | .next t => p t
  | _ => false
/-- A step answers a next state that passes a check. -/
def steps (s : State) (p : State → Bool) : Bool :=
  match step s with
  | .next t => p t
  | _ => false

theorem test_w_Delivers : Delivers b0 := by unfold Delivers; decide +kernel

/-! Control: what the statements assume, each clause in a state (10 R302 to R321). -/

theorem test_w_targets : targetFault b0 b0.g 0x1000 = none ∧ (targetFault b0 b0.g 0x1004).isSome = true ∧ Delivers b0 ∧
    targetFault (on (setS 5 0x1000)) (on (setS 5 0x1000)).g (sreg (on (setS 5 0x1000)).g 5 + BitVec.ofInt 64 (4 * (0#18).toInt)) = none := by
  unfold Delivers; decide +kernel
theorem test_w_calls : pathCount b0.g = 1 ∧ b0.g.rstack.length < 16 ∧ targetFault b0 b0.g 0x1000 = none ∧
    (on (fun g => { g with rstack := [0x1000] })).g.rstack = [0x1000] := by decide +kernel
theorem test_w_call_traps : Delivers b0 ∧ pathCount (on twoPaths).g ≠ 1 ∧ Delivers (on twoPaths) ∧ pathCount b0.g = 1 ∧ b0.g.rstack = [] ∧
    targetFault b0 b0.g (b0.iss.hdr + BitVec.ofInt 64 (4 * (1#18).toInt)) ≠ none ∧
    targetFault b0 b0.g (sreg b0.g 5 + BitVec.ofInt 64 (4 * (1#18).toInt)) ≠ none ∧
    (let s := on (fun g => { setS 5 0x1000 g with rstack := List.replicate 16 0x1000 });
      Delivers s ∧ pathCount s.g = 1 ∧ 16 ≤ s.g.rstack.length ∧ targetFault s s.g 0x1000 = none ∧ sreg s.g 5 = 0x1000) ∧
    (let s := on (fun g => { g with rstack := [0x1004] }); Delivers s ∧ pathCount s.g = 1 ∧ targetFault s s.g 0x1004 ≠ none) := by
  unfold Delivers; decide +kernel
/-- State with a join clause and lane mask k1. -/
def brdAt (m : W32) : State := withJoin (on (fun g => { g with k := g.k.set 1 m }))
theorem test_w_brd : targetFault (brdAt 1) (brdAt 1).g 0x1000 = none ∧ targetFault (brdAt 1) (brdAt 1).g 0x2000 = none ∧
    joinAt (brdAt 1) 0x2000 = true ∧ freeEntry (brdAt 1).g = some 1 ∧ (1 : Fin 16) ≠ (brdAt 1).g.act ∧
    (brdAt 1).iss.hdr + BitVec.ofInt 64 (4 * (0x400#18).toInt) = 0x2000 := by decide +kernel
theorem test_w_brd_all_and_none : (path (brdAt 0xFFFFFFFF).g).lanes &&& ~~~(mreg (brdAt 0xFFFFFFFF).g 1) = 0 ∧
    mreg (brdAt 0).g 1 &&& (path (brdAt 0).g).lanes = 0 ∧ (path (brdAt 0).g).lanes &&& ~~~(mreg (brdAt 0).g 1) ≠ 0 := by decide +kernel
/-- Every entry of the path table is in use. -/
def fullTable (g : Gang) : Gang :=
  { g with k := g.k.set 1 1, paths := (Vector.replicate 16 { lanes := 0x10000, exec := 0, state := .ready, pc := 0x1004 }).set 0 { lanes := 0x3, exec := 0x3, state := .ready, pc := 0x1004 } }
theorem test_w_brd_traps : Delivers b0 ∧ joinAt b0 0x1000 = false ∧ Delivers (withJoin (on fullTable)) ∧
    joinAt (withJoin (on fullTable)) 0x2000 = true ∧ freeEntry (withJoin (on fullTable)).g = none ∧
    mreg (withJoin (on fullTable)).g 1 &&& (path (withJoin (on fullTable)).g).lanes ≠ 0 := by unfold Delivers; decide +kernel
/-- The issuing path belongs to frame 2, whose join address is the clause at 0x1000; `m` are the frame's members. -/
def inFrame (m : W32) (g : Gang) : Gang :=
  { g with paths := (g.paths.set 0 { lanes := 0xFF, exec := 0xFF, state := .ready, pc := 0x1004, frameV := true, frame := 2 }).set 2 { joinV := true, members := m, join := 0x1000 } }
theorem test_w_join : (path b0.g).frameV = false ∧ (path (on (inFrame 0xFFFF)).g).frameV = true ∧
    (on (inFrame 0xFFFF)).g.paths[(path (on (inFrame 0xFFFF)).g).frame].join = (on (inFrame 0xFFFF)).iss.hdr ∧
    (let s := on (inFrame 0xFFFF); s.g.paths[(2 : Fin 16)].members &&& ~~~(parkedLanes 2 (setPath s.g { path s.g with state := .parked, pc := pcOf s + 4 })) ≠ 0) ∧
    (let s := on (inFrame 0xFF); s.g.paths[(2 : Fin 16)].members &&& ~~~(parkedLanes 2 (setPath s.g { path s.g with state := .parked, pc := pcOf s + 4 })) = 0) := by
  decide +kernel
/-- A third path is ready, and older than the merged one would be. -/
theorem test_w_join_gives_way : let s := on (fun g => let h := inFrame 0xFF g; { h with paths := h.paths.set 5 { lanes := 0x100, exec := 0x100, state := .ready, pc := 0x1004, age := 3 } })
    readyBest (on (inFrame 0xFF)).g = none ∧ s.g.inh = false ∧ (5 : Fin 16) ≠ s.g.act ∧ s.g.paths[(5 : Fin 16)].state = .ready ∧ 0 < s.g.paths[(5 : Fin 16)].age ∧
    s.g.paths[(2 : Fin 16)].members &&& ~~~(parkedLanes 2 (setPath s.g { path s.g with state := .parked, pc := pcOf s + 4 })) = 0 := by decide +kernel
/-- Lanes 8 to 15, in entry 5, still run in frame 2, or wait in entry 3 at its join; frame 2 may stand inside frame 7. -/
def running (g : Gang) : Gang :=
  let h := inFrame 0xFFFF g
  { h with paths := h.paths.set 5 { lanes := 0xFF00, exec := 0xFF00, state := .ready, pc := 0x1004, frameV := true, frame := 2 } }
def nested (g : Gang) : Gang :=
  let h := running g
  { h with paths := (h.paths.set 2 { h.paths[2] with parentV := true, parent := 7 }).set 7 { joinV := true, members := 0x1FFFF, join := 0x1000 } }
def parkedAt (g : Gang) : Gang :=
  let h := inFrame 0xFFFF g
  { h with paths := h.paths.set 3 { lanes := 0xFF00, exec := 0x0F00, state := .parked, pc := 0x1004, frameV := true, frame := 2 } }
/-- The issuing path's entry after its exit. -/
def leaves (g : Gang) : Gang := setPath g { path g with lanes := 0, exec := 0, state := .free, frameV := false, frame := 0, pc := 0, age := 0 }
theorem test_w_exit_in_a_frame : (∀ s ∈ [on running, on nested], s.g.inh = false ∧ (path s.g).frameV = true ∧ (path s.g).frame = 2 ∧ readyBest s.g = some 5 ∧
      (s.g.paths[(2 : Fin 16)].members &&& ~~~(path s.g).lanes) &&& ~~~(parkedLanes 2 (leaves s.g)) ≠ 0) ∧
    (on running).g.paths[(2 : Fin 16)].parentV = false ∧ (on nested).g.paths[(2 : Fin 16)].parentV = true ∧
    (on nested).g.paths[(2 : Fin 16)].parent = 7 ∧ (on nested).g.paths[(7 : Fin 16)].parentV = false ∧
    (on nested).g.paths[(7 : Fin 16)].members &&& ~~~(path (on nested).g).lanes &&& ~~~(parkedLanes 7 (leaves (on nested).g)) ≠ 0 := by decide +kernel
theorem test_w_exit_completes_a_frame : (let s := on parkedAt
      s.g.inh = false ∧ (path s.g).frameV = true ∧ s.g.paths[(2 : Fin 16)].members &&& ~~~(path s.g).lanes ≠ 0 ∧ s.g.paths[(2 : Fin 16)].parentV = false ∧
        (s.g.paths[(2 : Fin 16)].members &&& ~~~(path s.g).lanes) &&& ~~~(parkedLanes 2 (leaves s.g)) = 0 ∧ readyBest s.g = none) ∧
    (let s := on (fun g => let h := inFrame 0xFF g; { h with paths := h.paths.set 5 { lanes := 0x100, exec := 0x100, state := .ready, pc := 0x1004 } });
      s.g.inh = false ∧ (path s.g).frameV = true ∧ readyBest s.g = some 5 ∧ s.g.paths[(2 : Fin 16)].members &&& ~~~(path s.g).lanes = 0 ∧
        s.g.paths[(2 : Fin 16)].parentV = false) := by decide +kernel
/-- 03 R95: the last `join` of a frame makes one path of lanes 0 to 15, with the masks of both, in the lower entry. -/
theorem test_join_merges : runs .join (on parkedAt) (fun t => t.g.act = 0 && (path t.g).lanes = 0xFFFF && (path t.g).exec = 0x0FFF &&
    t.g.paths[(3 : Fin 16)].state = .free && pcOf t = 0x1008 && (path t.g).frameV = false) = true := by decide +kernel
theorem test_w_ends : b0.g.inh = false ∧ (path b0.g).state ≠ .free ∧ (on twoPaths).g.inh = false ∧ pathCount b0.g = 1 ∧ readyBest (on twoPaths).g = some 1 ∧
    (path (on twoPaths).g).frameV = false ∧ readyBest b0.g = none ∧ (on inHandler).g.inh = true := by decide +kernel
/-- The ready path has waited for its turn. -/
def aged (g : Gang) : Gang := let h := twoPaths g; { h with paths := h.paths.set 1 { h.paths[1] with age := 4096 } }
theorem test_w_aged : agedPath b0.g = none ∧ gangAt (on aged) (on aged).g.at_ = some (on aged).g ∧ (on aged).g.phase = .running ∧ (on aged).g.inh = false ∧
    (on aged).g.tookOver = false ∧ gangAt (on inHandler) (on inHandler).g.at_ = some (on inHandler).g ∧ (on aged).g.hold = .none ∧ agedPath (on aged).g = some 1 := by decide +kernel
/-- `b0` without a handler, its job owned by session 3. -/
def noHandler : State := { on (fun g => { g with xvec := 0 }) with jobs := b0.jobs.map (fun j => { j with sess := some (0, 3) }) }
theorem test_w_escalation : noHandler.g.xvec = 0 ∧ ((jobOn noHandler noHandler.g.at_.pkg noHandler.g.job).bind (·.sess)) = some (0, 3) := by
  decide +kernel
theorem test_w_tret : (on (fun g => { g with inh := true, xpc := 0x1004 })).g.inh = true ∧
    execFault (on (fun g => { g with inh := true, xpc := 0x1004 })) (on (fun g => { g with inh := true, xpc := 0x1004 })).g 0x1004 = none ∧
    codeMark b0 b0.g 0x1004 = 2 ∧ codeMark b0 b0.g 0x1000 = 1 ∧ (let s := on (fun g => { g with inh := true, xpc := 0x1008 });
      s.g.inh = true ∧ execFault s s.g s.g.xpc = none ∧ codeMark s s.g s.g.xpc ≠ 1 ∧ codeMark s s.g s.g.xpc ≠ 2) := by decide +kernel
/-- The clause at 0x1000 has a second body word. -/
def twoWords : State := { b0 with code := cset 0 b0.code (codeKey 0 1 0x1008) 2 }
theorem test_w_trap_tret : Delivers twoWords ∧ execFault twoWords twoWords.g (pcOf twoWords + 4) = none ∧
    codeMark twoWords twoWords.g (pcOf twoWords + 4) = 2 := by unfold Delivers; decide +kernel
theorem test_w_register_blocks : pathCount b0.g = 1 ∧ b0.g.blocks = 0 ∧ (3#11).toNat ≤ freeBlocks b0 b0.g.at_ ∧ b0.rgetQ = [] := by decide +kernel
/-- Another gang of the core holds 47 register blocks. -/
def crowded : State := { b0 with others := [{ b0.g with at_ := ⟨0, 0, 0, 0, 1⟩, uid := 99, blocks := 47 }] }
theorem test_w_register_blocks_wait : (path crowded.g).state ≠ .free ∧ reservedFor crowded crowded.g < (3#11).toNat ∧ freeBlocks crowded crowded.g.at_ < (3#11).toNat ∧
    Delivers (on twoPaths) ∧ pathCount (on twoPaths).g ≠ 1 ∧ (on (fun g => { g with blocks := 2 })).g.blocks ≠ 0 := by
  unfold Delivers; decide +kernel
theorem test_w_rget_grant : ∀ y, let s := { b0 with rgetQ := [⟨b0.g.uid, b0.g.at_, 3, false, 0, y⟩] }
    s.rgetQ.find? (fun t => unitOf 1 t.at_ = unitOf 1 b0.g.at_) = some ⟨b0.g.uid, b0.g.at_, 3, false, 0, y⟩ ∧ 3 ≤ freeBlocks s b0.g.at_ ∧
    gangOf s b0.g.uid = some b0.g ∧ (path b0.g).state ≠ .free := by decide +kernel
/-- An instruction word and its header are placed, and the agenda names the gang (the step's statement, every premise). -/
def placed (w : Nat) : State := State.reset.withFetchWord 32 w
theorem test_w_step_at_a_header : fetchWord (placed 0) (placed 0).g (path (placed 0).g).pc = .ok (plainHeader 1) ∧
    fetchWords (placed 0) (placed 0).g (hCount (plainHeader 1)) ((path (placed 0).g).pc + 4) = .ok [0] ∧ headerOk (plainHeader 1) [0] = true ∧
    waitMet (placed 0).g (plainHeader 1) = true ∧ headerOk 1 [0] = false ∧
    waitMet { (placed 0).g with flags := (placed 0).g.flags.set 0 1 } (plainHeader 1 ||| 0x100000) = false := by decide +kernel
/-- The gang of `b0` stands at its body word, with the agenda naming it. -/
def atBody : State := { b0 with agenda := [.issue b0.g.at_], g := { b0.g with notBefore := 0 } }
theorem test_w_step_runs_the_word :
    let s := atBody; let g := s.g; let r : List Move := []
    let s1 := { s with agenda := r }
    s.agenda = .issue g.at_ :: r ∧ mayGo s1 g = true ∧ g.hold = .none ∧ g.cancelled = false ∧
    dueDeferred s1 g = none ∧ dueFault s1 g = none ∧ isSaving s1 g = false ∧ ageDue g = false ∧ g.drainFlags = false ∧
    skidFull s1 g = false ∧ codeMark s1 g (path g).pc = 2 ∧ hdrBack s1 g 5 (path g).pc = some 0x1000 ∧
    fetchWords s1 g 2 0x1000 = .ok [plainHeader 1, 0] ∧ flagCount g (flagFor (plainHeader 1) 0 []) ≠ 15 ∧ decode 0 0 = .ok .nop ∧
    isGated s g.at_.pkg = false ∧ issueCycle s1 g (plainHeader 1) 0 ≤ s.cycle ∧ pipeFree s1 (coreIx g.at_) (pipeOf 0) = true := by decide +kernel
theorem test_w_agenda : ({ b0 with agenda := [.event (.scrubPass 0), .wait 3] } : State).agenda = .event (.scrubPass 0) :: [.wait 3] ∧
    isEvent (.scrubPass 0) = true := by decide +kernel
theorem linesOld_of {s : State} (h : s.lineKeys = []) : LinesOld s := fun l => by simp [lineOf, h, cget]
/-- The maps of `b0` are canonical, and its next step answers a state. -/
theorem test_w_step_keeps : LinesOld b0 ∧ steps b0 (fun _ => true) = true ∧ Memory.wf b0.mem ∧ CellsWf none b0.keys ∧ CellsWf (0, none) b0.lineKeys ∧ CellsWf 0 b0.tags ∧
    CellsWf 0 b0.top ∧ CellsWf 0 b0.acc ∧ CellsWf {} b0.tiles ∧ CellsWf none b0.xts ∧ CellsWf 0 b0.code ∧
    (∀ g ∈ b0.g :: b0.others, g.inflight = []) ∧ b0.images ++ b0.pkgs.flatMap (fun p => p.kept.2) = [] := ⟨linesOld_of rfl, by decide +kernel⟩
theorem test_w_home_write : Memory.wf b0.mem ∧ (([(hbmLoc 0 5, 7), (hbmLoc 0 6, 0)] : List (Nat × Byte)).map (·.1)).Nodup := by decide +kernel

/-! Scalar and vector instructions: what the statements assume, and the spec's worked examples. -/

theorem test_w_special_registers : (sreg b0.g 0).toNat / 256 % 8 < 5 ∧ (b0.g.fpcsr.setWidth 64 ||| sreg b0.g 0).toNat / 256 % 8 < 5 ∧
    (b0.g.fpcsr.setWidth 64 &&& ~~~sreg b0.g 0).toNat / 256 % 8 < 5 := by decide +kernel
theorem test_w_reserved_rounding : (let s := on (setS 5 0x500)
      Delivers s ∧ 5 ≤ (sreg s.g 5).toNat / 256 % 8 ∧ 5 ≤ ((s.g.fpcsr.setWidth 64 : Word) ||| sreg s.g 5).toNat / 256 % 8) ∧
    (let s := on (fun g => { setS 5 0x200 g with fpcsr := 0x700 }); Delivers s ∧ 5 ≤ ((s.g.fpcsr.setWidth 64 : Word) &&& ~~~sreg s.g 5).toNat / 256 % 8) := by
  unfold Delivers; decide +kernel
/-- Two results on their way. -/
def twoDue (g : Gang) : Gang := { g with inflight := [⟨3, .s 4 7⟩, ⟨3, .s 4 8⟩, ⟨5, .k 1 9⟩] }
theorem test_w_in_order : (on twoDue).g.inflight.Pairwise (fun a b => a.due ≤ b.due) := by decide +kernel
theorem test_w_holds : Holds b0.g ([(1, 1), (2, 1)] ++ routedRegs 3 .rot1) ∧ Holds b0.g ([(1, 1), (2, 1)] ++ sRegs 3 false) ∧
    Holds b0.g [(16, 16), (32, 16)] ∧ Holds b0.g [(63, 1)] := by unfold Holds; decide +kernel
theorem test_w_ftz : ftzOf (on (fun g => { g with fpcsr := 0x1000 })).g.fpcsr = true ∧ ftzOf b0.g.fpcsr = false := by decide +kernel
theorem test_w_operands : fpIn b0.g 0x40400000 = .fin false (3 * 2 ^ 22) (2 ^ 22) ∧ fpIn b0.g 0x7F800001 = .nan true ∧ fpIn b0.g 0xFF800000 = .inf true ∧
    fpIn b0.g 0x80000000 = .fin true 0 (2 ^ 149) ∧ rndSel b0.g.fpcsr .sr = .sr ∧ cvtFrom .fp16 0x3C00 = .fin false 1024 1024 := by decide +kernel
theorem test_w_not_held : Delivers b0 ∧ held b0.g (vnum b0.g 100) = false ∧ held b0.g (vnum b0.g 1) = true := by unfold Delivers; decide +kernel
theorem test_w_rounding : (roundMag fFP32 .rtz false 0 1 1).1 = 0x3F800000 ∧ magVal fFP32 0x3F800000 = (2 ^ 23, 2 ^ 23) ∧
    (roundMag fFP32 .rtz false 0 1 3) = (0x3EAAAAAA, true) := by decide +kernel

/-- The scalar register that an instruction's first result sets. -/
def resS (t : State) : Option Word :=
  match t.g.inflight.map Inflight.w with
  | RegWrite.s _ x :: _ => some x
  | _ => none
/-- Lane `l` of the vector register that an instruction's first result sets. -/
def resV (l : Nat) (t : State) : Option W32 :=
  match t.g.inflight.map Inflight.w with
  | RegWrite.v _ _ x :: _ => some (lane x l)
  | _ => none
/-- The flags that an instruction's results add to `%fpcsr`. -/
def resF (t : State) : BitVec 6 := t.g.inflight.foldl (fun f i => match i.w with
  | .fp x => f ||| x
  | _ => f) 0

/-- 10, after R325: `sli s4, 5` and `slogi.shl s4, s4, 60` give the tag 5. -/
theorem test_slogi_shl : runs (.slogi 4 4 .shl 60) (on (setS 4 5)) (fun t => resS t = some 0x5000000000000000) = true := by decide +kernel
/-- R323: `ssub.w` wraps at 32 bits and zero-extends. -/
theorem test_ssub_w : runs (.ssub 1 0 4 .w) (on (setS 4 1)) (fun t => resS t = some 0xFFFFFFFF) = true := by decide +kernel
/-- R324: `sbit.exts` sign-extends the field that rb describes, here bits [7:4] of 0x80. -/
theorem test_sbit_exts : runs (.sbit 1 4 5 .exts) (on (fun g => setS 4 0x80 (setS 5 0x404 g))) (fun t => resS t = some 0xFFFFFFFFFFFFFFF8) = true := by
  decide +kernel
/-- 00 R12 and 05, "one vector, two orders": 2^24 in lane 0 and 1.0 in lanes 1 to 31. -/
def twoOrders (g : Gang) : Gang := setV 1 (fun l => if l = 0 then 0x4B800000 else 0x3F800000) g
theorem test_vscan_fadd : runs (.vscan 2 1 false .fadd) (on twoOrders) (fun t => resV 31 t = some 0x4B800000 ∧ (resF t &&& fNX) ≠ 0) = true := by
  decide +kernel
theorem test_vredl_fadd : runs (.vredl 2 1 .fadd) (on twoOrders) (fun t => resS t = some 0x4B80000F ∧ (resF t &&& fNX) ≠ 0) = true := by decide +kernel
/-- 09, "a lane butterfly": the first `fadd` of lanes l and l xor 1. -/
theorem test_fadd_xor1 : runs (.fadd 1 4 4 .xor1) (on (setV 4 (fun l => if l = 0 then 0x40A00000 else 0x3F800000)))
    (fun t => resV 0 t = some 0x40C00000 ∧ resV 1 t = some 0x40C00000 ∧ resV 2 t = some 0x40000000) = true := by decide +kernel
/-- 11, "four registers into one row of E4M3": 500.0 saturates, and the NaN of the masked lane 31 raises nothing. -/
def e4m3 (x : W32) (g : Gang) : Gang := active 0x7FFFFFFF (setV 8 (fun l => if l = 31 then 0x7F800001 else x) g)
theorem test_fcvt_e4m3_saturates : runs (.fcvt 12 8 .rne .e4m3 false) (on (e4m3 0x43FA0000)) (fun t => resV 30 t = some 0x7E ∧ resF t = 0x30) = true := by
  decide +kernel
theorem test_fcvt_e4m3_rounds : runs (.fcvt 12 8 .rne .e4m3 false) (on (e4m3 0x3DCCCCCD)) (fun t => resV 0 t = some 0x1D ∧ resF t = fNX) = true := by
  decide +kernel
theorem test_fpack_b4 : runs (.fpack 16 12 false .b4)
    (on (fun g => setV 12 (fun _ => 0x38) (setV 13 (fun _ => 0x7E) (setV 14 (fun _ => 0x1D) (setV 15 (fun _ => 0xC0) g)))))
    (fun t => resV 0 t = some 0xC01D7E38) = true := by decide +kernel
/-- 05, "one SR conversion to BF16". -/
theorem test_stochastic_rounding : roundMag fBF16 .sr false 0x5A3C 515 512 = (0x3F81, true) ∧ roundMag fBF16 .sr false 0x2F00 515 512 = (0x3F80, true) := by
  decide +kernel

/-! Memory: what the statements assume (12 R357 to R373, 04 R127 to R150). -/

def mapsB (s : State) (need : BitVec 4) (n : Nat) (as : List (Nat × Word)) : Bool :=
  as.all (fun p => (List.range n).all (fun i => match gangByte s s.g (p.2 + BitVec.ofNat 64 i) with
    | .ok h => decide (h.perm &&& need = need) && decide (windowOf (p.2 + BitVec.ofNat 64 i) = windowOf p.2)
    | .error _ => false))
theorem maps_of_mapsB {s need n as} (h : mapsB s need n as = true) : Maps s need n as := by
  intro p hp i hi
  have := List.all_eq_true.mp (List.all_eq_true.mp h p hp) i (List.mem_range.mpr hi)
  split at this
  · obtain ⟨h1, h2⟩ := Bool.and_eq_true_iff.mp this
    exact ⟨⟨_, by assumption, of_decide_eq_true h1⟩, of_decide_eq_true h2⟩
  · cases this
def readableB (s : State) (n : Nat) (as : List (Nat × Word)) : Bool :=
  mapsB s permR n as && as.all (fun p => (List.range n).all (fun i => match gangByte s s.g (p.2 + BitVec.ofNat 64 i) with
    | .ok h => !poisoned s h.loc && s.lines.all (fun r => !lineCovers r h.loc)
    | .error _ => true))
theorem readable_of_readableB {s n as} (h : readableB s n as = true) : Readable s n as := by
  obtain ⟨h1, h2⟩ := Bool.and_eq_true_iff.mp h
  refine ⟨maps_of_mapsB h1, fun p hp i hi k hk => ?_⟩
  have := List.all_eq_true.mp (List.all_eq_true.mp h2 p hp) i (List.mem_range.mpr hi)
  rw [hk] at this
  simp only [Bool.and_eq_true, Bool.not_eq_true', List.all_eq_true] at this
  exact ⟨this.1, fun r hr => by simpa using this.2 r hr⟩

theorem clean_of_readableB {s n as} (h : readableB s n as = true) : Clean s n as := (readable_of_readableB h).2
/-- Byte `i` of an access is its first that fails. -/
def failB (s : State) (need : BitVec 4) (a : Word) (i c : Nat) : Bool :=
  mapsB s need i [(0, a)] && (decide (windowOf (a + BitVec.ofNat 64 i) ≠ windowOf a) && c == 0x11 ||
    decide (windowOf (a + BitVec.ofNat 64 i) = windowOf a) && (match gangByte s s.g (a + BitVec.ofNat 64 i) with
      | .error e => e == c
      | .ok h => decide (h.perm &&& need ≠ need) && c == 0x13))
theorem firstFails_of {s need n as l c} (pre : List (Nat × Word)) (a : Word) (post : List (Nat × Word)) (i : Nat)
    (h : as = pre ++ (l, a) :: post ∧ mapsB s need n pre = true ∧ i < n ∧ failB s need a i c = true) : FirstFails s need n as l (a + BitVec.ofNat 64 i) c := by
  obtain ⟨ha, hp, hi, hf⟩ := h
  obtain ⟨h1, h2⟩ := Bool.and_eq_true_iff.mp hf
  refine ⟨pre, a, post, i, ha, maps_of_mapsB hp, hi, rfl, fun j hj => maps_of_mapsB h1 (0, a) (by simp) j hj, ?_⟩
  rcases Bool.or_eq_true_iff.mp h2 with h | h
  · simp only [Bool.and_eq_true, decide_eq_true_eq, beq_iff_eq] at h
    exact .inl h
  · obtain ⟨h3, h4⟩ := Bool.and_eq_true_iff.mp h
    refine .inr ⟨of_decide_eq_true h3, ?_⟩
    split at h4
    · exact .inl (by simp_all)
    · exact .inr ⟨_, by assumption, by simpa using h4⟩
/-- Byte `i` of an access is its first with an uncorrectable error. -/
def errB (s : State) (b : Bool) (a : Word) : Bool :=
  match gangByte s s.g a with
  | .ok h => poisoned s h.loc == b
  | .error _ => false
theorem firstError_of {s n as l} (pre : List (Nat × Word)) (a : Word) (post : List (Nat × Word)) (i : Nat)
    (h : as = pre ++ (l, a) :: post ∧ (pre.all fun p => (List.range n).all fun j => errB s false (p.2 + BitVec.ofNat 64 j)) = true ∧ i < n ∧
      ((List.range i).all fun j => errB s false (a + BitVec.ofNat 64 j)) = true ∧ errB s true (a + BitVec.ofNat 64 i) = true) :
    FirstError s n as l (a + BitVec.ofNat 64 i) := by
  obtain ⟨ha, hp, hi, hf, he⟩ := h
  have e : ∀ {x b}, errB s b x = true → ∃ h, gangByte s s.g x = .ok h ∧ poisoned s h.loc = b := by
    intro x b h
    unfold errB at h
    split at h
    · exact ⟨_, by assumption, by simpa using h⟩
    · cases h
  exact ⟨pre, a, post, i, ha, fun p hq j hj => e (List.all_eq_true.mp (List.all_eq_true.mp hp p hq) j (List.mem_range.mpr hj)), hi,
    fun j hj => e (List.all_eq_true.mp hf j (List.mem_range.mpr hj)), rfl, e he⟩

/-- Lanes 0 and 31 active, s4 at the start of the die window, s5 a stride of 128. -/
def memGang (g : Gang) : Gang := active 0x80000001 (setS 4 0x3000000000000000 (setS 5 128 g))
/-- The same with a scratch window of 4 KiB, whose address s4 holds. -/
def scratchState : State :=
  { on (fun g => { setS 4 0x1000000000000000 (memGang g) with launch := 7 }) with
    scratch := [⟨unitOf 1 b0.g.at_, 7, 0, 0, 4096, 5⟩] }
theorem test_w_loads : Readable (on memGang) 8 (laneAddrs (on memGang).g (laneAddr (on memGang).g 4 .lin 8)) ∧
    Readable (on memGang) 8 [(0, offAddr (on memGang).g 4 511 8 + 8)] ∧
    (∀ b ∈ ([0, 5] : List Reg), MapsBlock (on memGang) permR 4 b 2 ∧ MapsBlock (on memGang) permW 4 b 2 ∧
      Clean (on memGang) 4 ((blockWords (on memGang).g 4 b 2).map (fun p => (p.1, p.2.2)))) ∧ Holds (on memGang).g ([(2, 2)] ++ addrRegs (.vz 6)) := by
  refine ⟨readable_of_readableB (by decide +kernel), readable_of_readableB (by decide +kernel), fun b hb => ?_, by unfold Holds; decide +kernel⟩
  have h : b = 0 ∨ b = 5 := by simpa using hb
  rcases h with rfl | rfl
  · exact ⟨by rw [MapsBlock, if_pos rfl]; exact maps_of_mapsB (by decide +kernel), by rw [MapsBlock, if_pos rfl]; exact maps_of_mapsB (by decide +kernel),
      clean_of_readableB (by decide +kernel)⟩
  · exact ⟨by rw [MapsBlock, if_neg (by decide)]; exact maps_of_mapsB (by decide +kernel),
      by rw [MapsBlock, if_neg (by decide)]; exact maps_of_mapsB (by decide +kernel), clean_of_readableB (by decide +kernel)⟩
theorem test_w_tile_access : tileTrap scratchState (sreg scratchState.g 4) = none ∧ Readable scratchState 4 (tileAddrs scratchState.g 4 5 true true) ∧
    Maps scratchState permW 4 (tileAddrs scratchState.g 4 5 false false) :=
  ⟨by decide +kernel, readable_of_readableB (by decide +kernel), maps_of_mapsB (by decide +kernel)⟩
theorem test_w_identification_page : idAddr (offAddr (on (setS 4 0xF000000000000000)).g 4 0 8) = true ∧
    offAddr (on (setS 4 0xF000000000000000)).g 4 0 8 = 0xF000000000000000 ∧
    (let g := (on (fun g => active 1 (setS 4 0xF000000000000000 g))).g; laneAddrs g (laneAddr g 4 .lin 8) = [(0, 0xF000000000000000)]) ∧
    idAddr 0xF000000000000000 = true ∧ idAddr 0x3000000000000000 = false := by decide +kernel
theorem test_w_stores : faultsFull (on memGang) (on memGang).g = false ∧
    Maps (on memGang) permW 4 (laneAddrs (on memGang).g (laneAddr (on memGang).g 4 .lin 4)) ∧ Maps (on memGang) permW 8 [(0, offAddr (on memGang).g 4 0 8)] :=
  ⟨by decide +kernel, maps_of_mapsB (by decide +kernel), maps_of_mapsB (by decide +kernel)⟩
/-- The first location of the die window. -/
def dieLoc (i : Nat) : Nat := match gangByte b0 b0.g (0x3000000000000000 + wd i) with
  | .ok h => h.loc
  | .error _ => 0
/-- Lane 31's access of 8 bytes crosses the end of the scratch window, behind lane 0's; with a stride of 124 bytes it does so in its second word. -/
def crossing (stride : Word) : State := { scratchState with g := setS 5 stride (setV 6 (fun l => if l = 0 then 0 else 4092) scratchState.g) }
theorem test_w_bad_accesses : Delivers (crossing 132) ∧ Holds (crossing 132).g ([(2, 2)] ++ addrRegs (.vz 6)) ∧ idAddr 0x1000000000000000 = false ∧
    (∀ need ∈ [permR, permW, 0], FirstFails (crossing 132) need 8 (laneAddrs (crossing 132).g (laneAddr (crossing 132).g 4 (.vz 6) 8)) 31 0x1000000000001000 0x11 ∧
      FirstFails { crossing 132 with g := setS 4 0x1000000000000FFC (crossing 132).g } need 8
        [(0, offAddr (setS 4 0x1000000000000FFC (crossing 132).g) 4 0 8)] 0 0x1000000000001000 0x11 ∧
      BlockFails (crossing 132) need 4 5 2 31 0x1000000000001000 0x11 ∧
      BlockFails { crossing 132 with g := setS 4 0x1000000000000F04 (crossing 132).g } need 4 0 2 31 0x1000000000001000 0x11) := by
  refine ⟨by unfold Delivers; decide +kernel, by unfold Holds; decide +kernel, by decide +kernel, fun need hn => ?_⟩
  have h : need = permR ∨ need = permW ∨ need = 0 := by simpa using hn
  rcases h with rfl | rfl | rfl <;>
  exact ⟨firstFails_of [(0, 0x1000000000000000)] 0x1000000000000FFC [] 4 (by decide +kernel),
    firstFails_of [] 0x1000000000000FFC [] 4 (by decide +kernel),
    by rw [BlockFails, if_neg (by decide)]
       exact firstFails_of [(0, 0x1000000000000000)] 0x1000000000000FFC [] 4 (by decide +kernel),
    by rw [BlockFails, if_pos rfl]
       exact firstFails_of [(0, 0x1000000000000F04), (0, 0x1000000000000F84), (31, 0x1000000000000F80)] 0x1000000000001000 [] 0 (by decide +kernel)⟩
/-- A tile whose base passes and whose last rows lie behind the address space of the scratch window (a window that is larger than that). -/
def bigWindow (base : Word) : State :=
  { scratchState with g := setS 4 base scratchState.g, scratch := scratchState.scratch.map (fun w => { w with size := 0x41000 }) }
theorem test_w_bad_tiles : tileTrap (bigWindow 0x100000000003FF80) (sreg (bigWindow 0x100000000003FF80).g 4) = none ∧ Delivers (bigWindow 0x100000000003FF80) ∧
    (∀ need ∈ [permR, permW, 0], FirstFails (bigWindow 0x100000000003FF80) need 4 (tileAddrs (bigWindow 0x100000000003FF80).g 4 5 true false) 31
      0x1000000000040F00 0x10) ∧ (scratchOf scratchState scratchState.g).2.1 < 0x80 + 4096 := by
  refine ⟨by decide +kernel, by unfold Delivers; decide +kernel, fun need hn => ?_, by decide +kernel⟩
  have h : need = permR ∨ need = permW ∨ need = 0 := by simpa using hn
  rcases h with rfl | rfl | rfl <;>
  exact firstFails_of [(0, 0x100000000003FF80)] 0x1000000000040F00 [] 0 (by decide +kernel)
/-- Lane 31's byte at 0x1000000000000102 has an uncorrectable error. -/
def errored : State := { crossing 128 with g := setV 6 (fun l => if l = 0 then 0 else 256) (crossing 128).g, poison := [(match gangByte scratchState scratchState.g 0x1000000000000102 with
  | .ok h => h.loc
  | .error _ => 0), (match gangByte scratchState scratchState.g 0x1000000000000F82 with
  | .ok h => h.loc
  | .error _ => 0)] }
theorem test_w_bad_loads : errored.lines = [] ∧ tileTrap errored (sreg errored.g 4) = none ∧
    Maps errored permR 8 (laneAddrs errored.g (laneAddr errored.g 4 (.vz 6) 8)) ∧
    FirstError errored 8 (laneAddrs errored.g (laneAddr errored.g 4 (.vz 6) 8)) 31 0x1000000000000102 ∧
    Maps errored permR 8 [(0, offAddr errored.g 4 32 8)] ∧ FirstError errored 8 [(0, offAddr errored.g 4 32 8)] 0 0x1000000000000102 ∧
    Maps errored permR 4 (tileAddrs errored.g 4 0 true false) ∧ FirstError errored 4 (tileAddrs errored.g 4 0 true false) 31 0x1000000000000F82 ∧
    MapsBlock errored permR 4 5 1 ∧ FirstError errored 4 ((blockWords errored.g 4 5 1).map (fun p => (p.1, p.2.2))) 31 0x1000000000000F82 :=
  ⟨by decide +kernel, by decide +kernel, maps_of_mapsB (by decide +kernel),
    firstError_of [(0, 0x1000000000000000)] 0x1000000000000100 [] 2 (by decide +kernel),
    maps_of_mapsB (by decide +kernel),
    firstError_of [] 0x1000000000000100 [] 2 (by decide +kernel),
    maps_of_mapsB (by decide +kernel),
    firstError_of [(0, 0x1000000000000000)] 0x1000000000000F80 [] 2 (by decide +kernel),
    by rw [MapsBlock, if_neg (by decide)]; exact maps_of_mapsB (by decide +kernel),
    firstError_of [(0, 0x1000000000000000)] 0x1000000000000F80 [] 2 (by decide +kernel)⟩
/-- 04 R159, 01 R27: `ld.d` of those lanes traps for lane 31 at the first byte behind the window. -/
theorem test_ld_traps : runs (.ld 2 4 (.vz 6) .d) (crossing 132) (fun t => t.g.xcause = 0x11 && t.g.xaddr = 0x1000000000001000 && t.g.xinfo = 31 &&
    t.g.pend.isEmpty) = true := by decide +kernel
/-- A pending result of flag 3. -/
def aPend : Pend := ⟨9, 3, 0, [.s 4 77, .k 2 5], [], 0, [], false, false⟩
theorem test_w_reply : let g := { b0.g with pend := [aPend], flags := b0.g.flags.set 3 1 }
    gangAt { b0 with g := g } g.at_ = some g ∧ g.pend.find? (fun q => q.id = aPend.id && q.left = 0 && q.far.all (fun f => flows b0 g.at_.pkg f.2.2)) = some aPend ∧
    flows b0 0 0 = true ∧ g.stopping = false := by decide +kernel
/-- A store of one byte that may be written and one that may not. -/
def aStore : StoreReq := { id := 9, uid := 1, at_ := ⟨0, 0, 0, 0, 0⟩, job := 1, global := false, tested := false, faulted := false, seq := 0, sent := 0, pc := 0x1004, bytes := [⟨0, 0x3000000000000000, dieLoc 0, 7, none, true, 0, 0x3000000000000000, true⟩, ⟨0, 0x3000000000000001, dieLoc 1, 8, none, false, 1, 0x3000000000000000, true⟩] }
def stored : State := { b0 with stores := [aStore] }
theorem test_w_store_at_home : stored.stores.find? (fun q => q.id = aStore.id) = some aStore ∧ Memory.wf stored.mem ∧ CellsWf none stored.keys ∧
    CellsWf 0 stored.top ∧ storeFirst stored aStore = true ∧ (Machine.pick stored).1 = 0 ∧ (aStore.bytes.filter (·.last)).Pairwise (fun a b => a.loc ≠ b.loc) ∧
    (Machine.pick { stored with picks := [2] }).1 = 1 + 1 ∧ storeFirst { stored with picks := [2] } aStore = true ∧ (aStore.bytes[1 % aStore.bytes.length]?).isSome = true ∧
    (∀ b ∈ aStore.bytes, poisoned stored b.loc = false) ∧ aStore.err = none ∧ storeFlows stored aStore aStore.bytes = true ∧ aStore.tested = false ∧ (∃ b ∈ aStore.bytes, b.w = false) := by decide +kernel
/-- The first byte of a tested store has an uncorrectable error at its home. -/
theorem test_w_store_error : let r := { aStore with tested := true }; let s := { b0 with stores := [r], poison := [dieLoc 0] }
    s.stores.find? (fun q => q.id = r.id) = some r ∧ storeFirst s r = true ∧ storeFlows s r r.bytes = true ∧ (Machine.pick s).1 = 0 ∧ r.faulted = false ∧ r.err = none ∧
    (∃ b ∈ r.bytes, poisoned s b.loc = true ∧ b.w = true) ∧ Memory.wf s.mem ∧ CellsWf none s.keys ∧ CellsWf 0 s.top := by decide +kernel
/-- A record of the gang, which stands at a clause boundary, in its core's store-fault queue. -/
def faulted : State := { on (fun g => setPath g { path g with pc := 0x1000 }) with faults := [⟨unitOf 1 b0.g.at_, b0.g.uid, 0x13, 0x30, 0, 0⟩] }
theorem test_w_store_fault : gangAt faulted faulted.g.at_ = some faulted.g ∧ faulted.g.phase = .running ∧ faulted.g.stopping = false ∧
    (dueFault faulted faulted.g).isSome = true := by decide +kernel
theorem test_w_store_fault_delivers : Delivers (focus faulted.g.at_ faulted) := by unfold Delivers; decide +kernel
theorem test_w_fences : Holds b0.g (addrRegs (.vz 3)) ∧ b0.faults = [] ∧ (0b1110#4).getLsbD 0 = false ∧
    (∀ r ∈ stored.stores, r.err = none ∧ ∀ b ∈ ({ r with bytes := r.bytes.take 1 } : StoreReq).bytes, b.w = true ∧ poisoned stored b.loc = false ∧
      hasPath stored r.at_.pkg (locPkg b.loc) = true) ∧
    (let u := drainOwn b0.g.uid b0; ∀ f ∈ u.faults, f.uid ≠ u.g.uid) ∧
    (let u := drainOwn faulted.g.uid faulted; ((faultQueueOf u (unitOf 1 u.g.at_)).find? (fun f => f.uid = u.g.uid)).isSome = true) ∧
    Delivers (drainOwn faulted.g.uid faulted) := by unfold Holds Delivers; decide +kernel
/-- A record of the gang behind 16 of another gang of its core. -/
def behindOthers : State := { b0 with faults := List.replicate 16 ⟨unitOf 1 b0.g.at_, 99, 0x13, 0x30, 0, 0⟩ ++ [⟨unitOf 1 b0.g.at_, b0.g.uid, 0x13, 0x30, 0, 0⟩] }
theorem test_w_full_fault_queue : let u := drainOwn b0.g.uid behindOthers
    (∃ f ∈ u.faults, f.uid = u.g.uid) ∧ u.g.inh = false ∧ ∀ k ∈ faultQueueOf u (unitOf 1 u.g.at_), k.uid ≠ u.g.uid := by decide +kernel
/-- R129: of two lanes that store to one word, the higher lane's value stands there. -/
theorem test_st_overlap : runs (.st 1 4 (.vz 2) .w) (on (fun g => setV 1 (fun l => BitVec.ofNat 32 (l + 1)) (memGang g)))
    (fun t => ((t.stores.flatMap (·.bytes)).filter (·.last)).map (·.val) = [32, 0, 0, 0]) = true := by decide +kernel
/-- 12 R364: `lds.d` at an offset of one element reads the next eight bytes, low byte first. -/
theorem test_lds_d : runs (.lds 1 4 1 .d) (poke (dieLoc 8) [0x88, 0x77, 0, 0, 0, 0, 0, 0x11] (on memGang))
    (fun t => (t.g.pend.flatMap (·.ws)) = [.s 1 0x1100000000007788]) = true := by decide +kernel
/-- 12 R363: `sts.b` sends one byte. -/
theorem test_sts_b : runs (.sts 5 4 0 .b) (on memGang) (fun t => (t.stores.flatMap (·.bytes)).map (fun b => (b.loc, b.val)) = [(dieLoc 0, 128)]) = true := by
  decide +kernel

/-! Atomics, queues, timelines and carts: what the statements assume (12 R374 to R390, 08 R241 to R262, 04 R152 to R157). -/

/-- s4 names a word of HBM, lanes 0 and 31 are active, and lane l's offset in v6 is 32 times l. -/
def atomGang (g : Gang) : Gang := active 0x80000001 (setS 4 0x100000 (setV 6 (fun l => BitVec.ofNat 32 (32 * l)) g))
theorem test_w_atomics : (∀ q ∈ (on atomGang).atoms, q.id < (on atomGang).nextId) ∧
    Maps (on atomGang) (permR ||| permW ||| permA) 32 (atomAddrs (on atomGang).g 4 6) ∧
    (∀ q ∈ atomAddrs (on atomGang).g 4 6, q.2.toNat % 32 = 0) ∧ Holds (on atomGang).g [(8, 4), (6, 1)] :=
  ⟨by decide +kernel, maps_of_mapsB (by decide +kernel), by decide +kernel, by unfold Holds; decide +kernel⟩
/-- Lane 31's address is one byte further, or in space 0xF, or in a space that does not exist. -/
def badAtom (a : Word) : State := on (fun g => setV 6 (fun l => if l = 0 then 0 else 33) (setS 4 a (atomGang g)))
theorem test_w_bad_atomics : Delivers (badAtom 0x100000) ∧ Holds (badAtom 0x100000).g [(8, 4), (6, 1)] ∧
    AtomFails (badAtom 0x100000) 32 32 (atomAddrs (badAtom 0x100000).g 4 6) 31 0x100021 0x15 ∧
    AtomFails (badAtom 0xF000000000000000) 4 4 (atomAddrs (badAtom 0xF000000000000000).g 4 6) 0 0xF000000000000000 0x14 ∧
    AtomFails (badAtom 0xF000000000000001) 4 4 (atomAddrs (badAtom 0xF000000000000001).g 4 6) 0 0xF000000000000001 0x15 ∧
    AtomFails (badAtom 0x6000000000000000) 8 8 (atomAddrs (badAtom 0x6000000000000000).g 4 6) 0 0x6000000000000000 0x10 := by
  refine ⟨by unfold Delivers; decide +kernel, by unfold Holds; decide +kernel, ?_, ?_, ?_, ?_⟩
  · exact ⟨[(0, 0x100000)], 0x100021, [], by decide +kernel, maps_of_mapsB (by decide +kernel), by decide,
      .inr (.inr ⟨maps_of_mapsB (by decide +kernel), by decide, rfl, rfl⟩)⟩
  · exact ⟨[], 0xF000000000000000, [(31, 0xF000000000000021)], by decide +kernel, maps_of_mapsB (by decide +kernel), by decide, .inl (by decide)⟩
  · exact ⟨[], 0xF000000000000001, [(31, 0xF000000000000022)], by decide +kernel, maps_of_mapsB (by decide +kernel), by decide, .inl (by decide)⟩
  · exact ⟨[], 0x6000000000000000, [(31, 0x6000000000000021)], by decide +kernel, maps_of_mapsB (by decide +kernel), by decide,
      .inr (.inl ⟨by decide, firstFails_of [] _ [] 0 ⟨rfl, by decide +kernel⟩⟩)⟩
/-- A request of the gang for a word of HBM. -/
def anAtom (op : HomeOp) (size : Nat) : AtomReq :=
  { id := 20, op := op, size := size, loc := hbmLoc 0 0x100000, x := 5, count := 1, uid := b0.g.uid, lane := 3, pend := 1, dst := 8, va := 0x100000, job := 1
    key := none, at_ := b0.g.at_, sent := 0, route := [], queued := none }
def withAtoms (rs : List AtomReq) : State := { b0 with atoms := rs }
theorem test_w_atomic_at_home : ∀ r ∈ [anAtom (.atom .add) 4, anAtom (.atom64 .max) 8, anAtom (.cas 0) 8], let s := withAtoms [r]
    s.atoms.find? (fun q => q.id = r.id) = some r ∧ r.uid ≠ 0 ∧ r.op ≠ .chunk ∧ (r.size = 4 ∨ r.size = 8) ∧ atHomeNow s r = true ∧
      atomPoisoned s r = false ∧ NoLines s r.loc r.size ∧ Memory.wf s.mem ∧ CellsWf none s.keys ∧ CellsWf (0, none) s.lineKeys ∧ CellsWf 0 s.top := by
  unfold NoLines; decide +kernel
theorem test_w_lines_old : ∀ rs, LinesOld (withAtoms rs) := fun _ => linesOld_of rfl
theorem test_w_combining : let a := { anAtom (.atom .add) 4 with route := [7] }; let b := { a with id := 21, lane := 4 }; let s := withAtoms [a, b]
    s.atoms.find? (fun r => r.id = a.id) = some a ∧ s.atoms.find? (fun r => r.id = b.id) = some b ∧ a.id < b.id ∧ a.uid ≠ 0 ∧ compatible s a b = true ∧
    (meetAt a b).find? (mayMerge s a b) = some 7 ∧
    (let rest := { s with atoms := s.atoms.filter (fun r => r.id ≠ a.id && r.id ≠ b.id) }; atomReady rest a = true ∧ atomReady rest b = true) := by
  decide +kernel
theorem test_w_reply_split : let a := anAtom (.atom .add) 4; let m : Merge := ⟨30, a, { a with uid := a.uid + 1 }, some 7, 0⟩
    let s := { b0 with merges := [m], areplies := [⟨30, some 7, 0, []⟩] }
    s.areplies.find? (fun r => r.id = m.id) = some ⟨m.id, some 7, 0, []⟩ ∧ s.merges.find? (fun x => x.id = m.id) = some m ∧ m.a.uid ≠ 0 ∧ m.b.uid ≠ 0 ∧
    m.a.uid ≠ m.b.uid ∧ m.a.op ≠ .chunk := by decide +kernel
/-- 08, "four cores share 100 items": the record. -/
def chunked (r : AtomReq) : State := poke (hbmLoc 0 0x100008) ([100, 4, 3].flatMap (leBytes 8)) (withAtoms [r])
theorem test_w_chunk : let r := anAtom .chunk 8; let s := chunked r
    s.atoms.find? (fun q => q.id = r.id) = some r ∧ r.count = 1 ∧ atHomeNow s r = true ∧ atomPoisoned s r = false ∧ NoLines s r.loc 32 ∧
    Memory.wf s.mem ∧ CellsWf none s.keys ∧ CellsWf (0, none) s.lineKeys ∧ CellsWf 0 s.top ∧ s.lineKeys = [] ∧ chunkWords s r = [100, 4, 3] := by unfold NoLines; decide +kernel
theorem test_w_atomic_error : let r := anAtom (.atom .add) 4; let s := { withAtoms [r] with poison := [r.loc] }
    s.atoms.find? (fun q => q.id = r.id) = some r ∧ r.uid ≠ 0 ∧ r.lane < 32 ∧ atHomeNow s r = true ∧ atomPoisoned s r = true := by decide +kernel
theorem test_w_lines : Maps (on atomGang) (permR ||| permW ||| permA) 8 (atomAddrs (on atomGang).g 4 6) ∧ Holds (on atomGang).g [(8, 2), (6, 1)] ∧
    (let s := { b0 with lines := [⟨unitOf 1 b0.g.at_, hbmLoc 0 0x100000, .add, 5, [b0.g.uid], none⟩] }; s.lines.all (fun r => flows s r.core.pkg (locPkg r.loc) &&
      r.uids.all (fun u => (behindLine s r u).isEmpty)) = true ∧ s.lines.length = 1 ∧ Memory.wf s.mem ∧ CellsWf none s.keys ∧ s.lineKeys = [] ∧ CellsWf 0 s.top) :=
  ⟨maps_of_mapsB (by decide +kernel), by unfold Holds; decide +kernel, by decide +kernel⟩
/-- The chunks of the worked example. -/
theorem test_chunk_sizes : [0, 25, 44, 58].map (chunkSize 100 4 3) = [25, 19, 14, 11] ∧ chunkAdv 100 4 3 0 2 = 44 ∧ chunkAdv 100 4 3 0 4 = 69 := by
  decide +kernel
theorem test_chunk_group : runs (.chunkGroup 20) { chunked (anAtom .chunk 8) with g := { b0.g with pend := [⟨1, 0, 1, [], [], 0, [], false, false⟩] } }
    (fun t => homeNatK t (hbmLoc 0 0x100000) 8 none = 25 ∧ (t.g.pend.map (·.left)) = [0]) = true := by decide +kernel
theorem test_atomic_max : runs (.atomicAtHome 20) (poke (hbmLoc 0 0x100000) [0xFF, 0xFF, 0xFF, 0xFF] (withAtoms [anAtom (.atom .max) 4]))
    (fun t => homeNatK t (hbmLoc 0 0x100000) 4 none = 5) = true := by decide +kernel

/-- 08, "two producers and one early close": the queue before step 2, of 40 records and 2 producers, reach 2. -/
def queueState (head tail : Nat) (f : Gang → Gang) : State :=
  poke (hbmLoc 0 0x200000) ([0x0002000200000001, 0x210000, 40, head, tail, 0, 0, 0].flatMap (leBytes 8)) (on (fun g => f (setS 4 0x200000 g)))
/-- The unit that a request binds. -/
def unitAt (s : State) : Option QUnit :=
  match spanHits (gangByte s s.g) (permR ||| permW ||| permA) 0 64 0x200000 with
  | .ok hs => (bindCheck s s.g 0x200000 hs).map (fun b => refill 32 b s)
  | .error _ => none
/-- The same queue, bound. -/
def boundState (head tail : Nat) (f : Gang → Gang) : State := let s := queueState head tail f; { s with units := (unitAt s).toList }
theorem test_w_queue_unbound : ∀ s ∈ [queueState 0 20 (active 0xFFFF), drainOwn b0.g.uid (queueState 0 20 (active 0xFFFF))],
    (publish 2 s).picks.headD 0 = 0 ∧ (∀ x ∈ s.qwaits, x.arrived = false) ∧
    (match spanHits (gangByte s s.g) (permR ||| permW ||| permA) 0 64 (sreg s.g 4) with
      | .ok hs => match bindCheck s s.g (sreg s.g 4) hs with
        | some b => s.units.find? (fun u => u.at_ = b.at_ && u.pile = b.pile) = none && sameUnit b.reach s.g.at_ b.at_ &&
            (refill 32 b s).tail = 20
        | none => false
      | .error _ => false) = true ∧
    s.g.phase = .running ∧ s.picks.headD 0 = 0 ∧ (∀ x ∈ s.qwaits, ¬ (x.uid = s.g.uid ∧ x.path = s.g.act.val)) ∧
    (∀ k m : Fin 4, flagFull s.g ⟨k, 0x200000, 0xFFFF, 8, 1, m, []⟩ = false) := by decide +kernel
theorem test_w_queue_bound : let s := boundState 0 20 (active 0xFFFF)
    (s.units.all (fun u => unitTrap s.g u ⟨1, 0x200000, 0xFFFF, 8, 1, 0, []⟩ = none && qCondition u ⟨1, 0x200000, 0xFFFF, 8, 1, 0, []⟩ &&
      unitTrap s.g u ⟨0, 0x200000, 0xFFFF, 0, 0, 15, []⟩ = none && qCondition u ⟨0, 0x200000, 0xFFFF, 0, 0, 15, []⟩ &&
      !qCondition u ⟨1, 0x200000, 0xFFFFFFFF, 8, 1, 0, []⟩)) = true ∧ s.units.length = 1 ∧ Holds s.g [(8, 8)] := by unfold Holds; decide +kernel
/-- A pop waits at the unit, or is on its way. -/
def popWaits (arrived : Bool) : State :=
  let s := boundState 0 20 (active 0xFFFF)
  { s with qwaits := (s.units.map (fun u => ⟨s.g.uid, 0, u.at_, u.pile, arrived, ⟨1, 0x200000, 0xFFFF, 8, 1, 0, []⟩, false⟩)) }
theorem test_w_queue_waits : ∀ arrived : Bool, let s := popWaits arrived
    gangAt s s.g.at_ = some s.g ∧ gangOf s s.g.uid = some s.g ∧ s.qwaits.length = 1 ∧
    (s.qwaits.all (fun w => w.path < 16 && !flagFull s.g w.op && (s.qwaits.find? (fun x => x.uid = s.g.uid && x.arrived = arrived)) = some w && !qBehind s w &&
      s.units.any (fun u => u.at_ = w.at_ && u.pile = w.pile && unitTrap s.g u w.op = none && qCondition u w.op))) = true := by decide +kernel
theorem test_w_pop_writes : (lanesOf (0x80000001#32))[1]? = some 31 := by decide +kernel
/-- Step 2 of the worked example: 16 records take numbers 20 to 35. -/
theorem test_qpush : runs (.qpush 8 4) (queueState 0 20 (active 0xFFFF)) (fun t => t.units.map (fun u => (u.head, u.tail, u.recs.length)) = [(0, 36, 32)]) = true := by
  decide +kernel
/-- Step 4: 8 lanes take the first 8 records, and records 32 to 35 come back into the woodpile. -/
theorem test_qpop : runs (.qpop 8 4 1) (boundState 0 36 (active 0xFF)) (fun t => t.units.map (fun u => (u.head, u.tail, u.recs.length)) = [(8, 36, 28)]) = true := by
  decide +kernel
/-- Steps 7 and 8: a `qpop` of an empty queue waits while closed is below P. -/
theorem test_qpop_waits : runs (.qpop 8 4 1) (queueState 40 40 (active 0xFF)) (fun t => t.g.blocked = true ∧ t.qwaits.length = 1) = true := by decide +kernel

/-- A timeline of the cluster's cart with three numbers given out and the first two completed, to which handle 1 is bound. -/
def cartEng : Engine := .cart .cl (unitOf 2 b0.g.at_)
def timed (last : Nat) : State :=
  { on (fun g => setS 5 2 { g with tl := g.tl.set 1 ⟨some cartEng, last, 0⟩ }) with
    timelines := [{ eng := cartEng, job := 1, last := 3, done := [2, 1], flags := [(2, b0.g.uid, 0x10)] }] }
theorem test_w_timelines : (tlh (timed 2).g 0).eng = none ∧ Delivers (timed 2) ∧ (tlh (timed 2).g 1).eng = some cartEng ∧
    (timelineOf (timed 4) cartEng 1).last < (tlh (timed 4).g 1).last ∧ (tlh (timed 3).g 1).last ≤ (timelineOf (timed 3) cartEng 1).last ∧
    tlCount (timelineOf (timed 3) cartEng 1) < (tlh (timed 3).g 1).last ∧ coveredSusp (timed 3) (timed 3).g cartEng 3 = none ∧
    (sreg (timed 2).g 5).toNat ≤ tlCount (timelineOf (timed 2) cartEng 1) ∧
    (∀ f ∈ (timelineOf (timed 2) cartEng 1).faults, 2 < f.1) ∧ (timed 2).g.phase ≠ .free := by unfold Delivers; decide +kernel
/-- A sleeping gang whose time has come. -/
def sleeper : State := { on (fun g => { setS 5 7 g with hold := .sleep 7 }) with cycle := 9 }
theorem test_w_sleep : (sreg sleeper.g 5).toNat ≤ cycleOf sleeper sleeper.g ∧ cycleOf b0 b0.g < (sreg (on (setS 5 7)).g 5).toNat ∧
    gangAt sleeper sleeper.g.at_ = some sleeper.g ∧ sleeper.g.hold = .sleep 7 ∧ sleeper.g.stopping = false := by decide +kernel
/-- A `cpy` at cluster level of one element, from the cluster window to the scratch window. -/
def cpyWords : List Word := [0x2000000000000100, 0x1000000000000000, 0x100000004, 0]
def aCart : CartOp :=
  { id := ⟨cartEng, 1, 3⟩, kind := 0, level := 2, words := cpyWords, uid := b0.g.uid, at_ := b0.g.at_, launch := 7, view := [], promise := 100, missed := false
    bytes := 4, tl := 1, win := (0, 4096, 5), errs := [] }
def carting : State := { timed 3 with carts := [aCart], cycle := 200 }
theorem test_w_promise : carting.carts.find? (fun c => c.id = aCart.id) = some aCart ∧ aCart.missed = false ∧
    aCart.promise ≤ carting.cycle - ((carting.pkgs.find? (fun p => p.pkg = aCart.at_.pkg)).map (·.resetAt)).getD 0 := by decide +kernel
/-- Descriptors in s8 to s11 (`cpy`), s12 to s15 (`mcopy`) and s16 to s19 (`reduce`, FP32). -/
def descs (g : Gang) : Gang :=
  (List.zip (List.range 12) (cpyWords ++ [0x2000000000000200, 0x100, 64, 0xF] ++ [0x2000000000000300, 0x100, 16, 0x5])).foldl
    (fun g p => { g with s := g.s.setIfInBounds (8 + p.1) p.2 }) g
theorem test_w_cart_instructions : cpyTrap (on descs).g 2 (descWords (on descs).g 8) = none ∧
    levelOpTrap (on descs) (on descs).g false 2 (descWords (on descs).g 12) = none ∧
    levelOpTrap (on descs) (on descs).g true 2 (descWords (on descs).g 16) = none ∧
    Delivers (on descs) ∧ cpyTrap (on descs).g 2 (descWords (on descs).g 0) ≠ none ∧ levelOpTrap (on descs) (on descs).g false 2 (descWords (on descs).g 0) ≠ none ∧
    levelOpTrap (on descs) (on descs).g true 2 (descWords (on descs).g 0) ≠ none := by unfold Delivers; decide +kernel
theorem mapByte_local {u s : State} {c : Coords} {j : Nat} {w : Win} {a : Word} (h : (jobOn u c.pkg j).map (·.words) = (jobOn s c.pkg j).map (·.words))
    (ht : a.toNat / 2 ^ 60 = 1 ∨ a.toNat / 2 ^ 60 = 2 ∨ a.toNat / 2 ^ 60 = 3) : mapByte u c j w a = mapByte s c j w a := by
  have e : ∀ o, clusterOff u c.pkg j o = clusterOff s c.pkg j o ∧ dieOff u c.pkg j o = dieOff s c.pkg j o := by
    intro o
    unfold clusterOff dieOff
    cases h1 : jobOn u c.pkg j <;> cases h2 : jobOn s c.pkg j <;> simp_all
  rcases ht with ht | ht | ht <;> · unfold mapByte; rw [ht]; simp only [e]
/-- The local tags, whose mappings do not change while an operation runs. -/
def localTag (a : Word) : Bool := a.toNat / 2 ^ 60 == 1 || a.toNat / 2 ^ 60 == 2 || a.toNat / 2 ^ 60 == 3
theorem sideByte_local {u s : State} {op : CartOp} {who : Option Nat} {a : Word} (h : ∀ p j, (jobOn u p j).map (·.words) = (jobOn s p j).map (·.words))
    (hl : op.level ≠ 2) (ht : localTag a = true) : sideByte u op who a = sideByte s op who a := by
  have h1 : a.toNat / 2 ^ 60 = 1 ∨ a.toNat / 2 ^ 60 = 2 ∨ a.toNat / 2 ^ 60 = 3 := by simpa [localTag, or_assoc] using ht
  cases who with
  | none => simp only [sideByte, parentByte, mapByte_local (h _ _) h1]
  | some j =>
    simp only [sideByte]
    split
    · simp only [childByte, if_neg hl, mapByte_local (h _ _) h1]
    · rfl
theorem sides_of {s : State} {op : CartOp} {rd wr : List (Option Nat × Word)} {H : Option Nat × Word → Hit}
    (h0 : s.carts.find? (fun c => c.id = op.id) = some op ∧ op.errs = [] ∧ op.done = [] ∧ op.held = [] ∧ op.slots = none ∧ s.picks = [] ∧ s.lines = [] ∧
      Memory.wf s.mem ∧ CellsWf none s.keys ∧ isStopped s (engPkg op.id.eng) = false ∧ op.level ≠ 2)
    (h1 : ((rd ++ wr).all fun q => decide (sideByte s op q.1 q.2 = .ok (H q)) && !poisoned s (H q).loc && decide ((H q).loc % 4 = q.2.toNat % 4) &&
      flows s op.at_.pkg (locPkg (H q).loc) && localTag q.2) = true ∧ (rd.all fun q => decide ((H q).perm &&& permR = permR)) = true ∧ (wr.all fun q => decide ((H q).perm &&& permW = permW)) = true ∧
      (rd.all fun p => wr.all fun q => decide ((H p).loc ≠ (H q).loc ∧ locKind (H q).loc ≠ 0)) = true)
    (h4 : ∀ p ∈ rd ++ wr, ∀ q ∈ rd ++ wr, p.1 = q.1 → p.2.toNat / 4 = q.2.toNat / 4 → (H p).loc / 4 = (H q).loc / 4 ∧ (H p).key = (H q).key)
    (h5 : (wr.map (fun q => (H q).loc)).Nodup) :
    Sides s op rd wr H := by
  obtain ⟨a1, a2, a3, a4, a5, a6, a7, a8, a9, a10, hl⟩ := h0
  obtain ⟨h1, h2, h3, h6⟩ := h1
  simp only [List.all_eq_true, Bool.and_eq_true, decide_eq_true_eq, Bool.not_eq_true'] at h1 h2 h3 h6
  refine ⟨a1, a2, a3, a4, a5, a6, a7, a8, a9, a10, fun q hq => ?_, h2, h3, h4, h5, fun p hp q hq => ⟨(h6 p hp q hq).1, fun _ hk => absurd hk (h6 p hp q hq).2⟩⟩
  obtain ⟨⟨⟨⟨b1, b2⟩, b3⟩, b4⟩, b5⟩ := h1 q hq
  exact ⟨b1, b2, b3, b4, fun u _ _ _ _ hj _ => sideByte_local hj hl b5⟩
/-- Where the bytes of an operation stand. -/
def hitsOf (s : State) (op : CartOp) (q : Option Nat × Word) : Hit :=
  match sideByte s op q.1 q.2 with
  | .ok h => h
  | .error _ => ⟨0, 0, none, 0⟩
/-- An operation with a level, a kind and a descriptor, and it alone on its cart. -/
def opOn (level kind : Nat) (ws : List Word) : CartOp :=
  { aCart with id := ⟨.cart (if level = 1 then .c else .d) (unitOf level b0.g.at_), 1, 3⟩, level := level, kind := kind, words := ws }
def cartOn (level kind : Nat) (ws : List Word) : State := { carting with carts := [opOn level kind ws] }
/-- The children's bytes of an operation at level 3. -/
def kids3 : List (Option Nat × Word) := run (some 0) 0x2000000000000100 4 ++ run (some 1) 0x2000000000000100 4
theorem test_w_copies : (let ws : List Word := [0x2000000000000100, 0x1000000000000000, 0x100000004, 0];
      Sides (cartOn 3 0 ws) (opOn 3 0 ws) (run none 0x2000000000000100 4) (run none 0x1000000000000000 4) (hitsOf (cartOn 3 0 ws) (opOn 3 0 ws))) ∧
    (let ws : List Word := [0x3000000000000000, 0x2000000000000100, 4, 3];
      (selected (opOn 3 1 ws)).length = 2 ∧ dUp (opOn 3 1 ws) = false ∧ (opOn 3 1 ws).kind = 1 ∧ (opOn 3 1 ws).level = 3 ∧ dCount (opOn 3 1 ws) = 4 ∧
        Sides (cartOn 3 1 ws) (opOn 3 1 ws) (run none 0x3000000000000000 4 ++ run none 0x3000000000000000 4) kids3 (hitsOf (cartOn 3 1 ws) (opOn 3 1 ws))) ∧
    (let ws : List Word := [0x3000000000000000, 0x2000000000000100, 0x100000004, 3];
      dUp (opOn 3 1 ws) = true ∧
        Sides (cartOn 3 1 ws) (opOn 3 1 ws) kids3 (run none 0x3000000000000000 4 ++ run none 0x3000000000000004 4) (hitsOf (cartOn 3 1 ws) (opOn 3 1 ws))) := by
  refine ⟨?_, ⟨by decide +kernel, by decide +kernel, rfl, rfl, by decide +kernel, ?_⟩, by decide +kernel, ?_⟩ <;>
  exact sides_of (by decide +kernel) (by decide +kernel) (by decide +kernel) (by decide +kernel)
/-- Where a byte of the scratch window stands. -/
def spadHit (q : Option Nat × Word) : Hit := ⟨locOf 3 0 (q.2.toNat % 2 ^ 60), 7, some 5, 0⟩
theorem spad_words (p q : Option Nat × Word) (h : p.2.toNat / 4 = q.2.toNat / 4) : (spadHit p).loc / 4 = (spadHit q).loc / 4 ∧ (spadHit p).key = (spadHit q).key := by
  refine ⟨?_, rfl⟩
  simp only [spadHit, locOf]
  omega
theorem spad_nodup : ((run none 0x1000000000000000 128).map (fun q => (spadHit q).loc)).Nodup := by
  have h : (run none 0x1000000000000000 128).map (fun q => (spadHit q).loc) = (List.range 128).map (fun i => 3 * 2 ^ 60 + i) := by decide +kernel
  rw [h]
  exact List.nodup_range.map (fun a b h => by simpa using h)
def regCopy (up : Bool) : List Word := [0x1000000000000000, 2, if up then 0x100000080 else 128, 3]
theorem test_w_register_copies : (∀ up : Bool, dUp (opOn 1 1 (regCopy up)) = up ∧ fld (dChild (opOn 1 1 (regCopy up))) 6 0 + dCount (opOn 1 1 (regCopy up)) / 128 ≤ 64 ∧
      dCount (opOn 1 1 (regCopy up)) % 128 = 0 ∧ ((selected (opOn 1 1 (regCopy up))).map (fun c => (slotGang (cartOn 1 1 (regCopy up)) (opOn 1 1 (regCopy up)) c).isSome)) = [true, false]) ∧
    carting.others = [] ∧ carting.g.inflight = [] ∧
    Sides (cartOn 1 1 (regCopy false)) (opOn 1 1 (regCopy false)) (run none 0x1000000000000000 128) [] spadHit ∧
    Sides (cartOn 1 1 (regCopy true)) (opOn 1 1 (regCopy true)) [] (run none 0x1000000000000000 128) spadHit := by
  refine ⟨by decide +kernel, by decide +kernel, by decide +kernel, ?_, ?_⟩
  · exact sides_of (by decide +kernel) (by decide +kernel) (fun p _ q _ _ => spad_words p q) List.nodup_nil
  · exact sides_of (by decide +kernel) (by decide +kernel) (fun p _ q _ _ => spad_words p q) spad_nodup
theorem test_w_reductions : (let ws : List Word := [0x3000000000000000, 0x2000000000000100, 0x2000000001, 3];
      ((ws[2]?).map (·.getLsbD 37)) = some true ∧ dCount (opOn 3 2 ws) = 1 ∧ redBytes (dKind (opOn 3 2 ws)) = 4 ∧ (selected (opOn 3 2 ws)).length = 2 ∧
        ((run none 0x3000000000000000 4).all fun q => decide ((hitsOf (cartOn 3 2 ws) (opOn 3 2 ws) q).perm &&& permR = permR) &&
          decide (locKind (hitsOf (cartOn 3 2 ws) (opOn 3 2 ws) q).loc ≠ 0)) = true ∧
        Sides (cartOn 3 2 ws) (opOn 3 2 ws) kids3 (run none 0x3000000000000000 4) (hitsOf (cartOn 3 2 ws) (opOn 3 2 ws))) ∧
    (let ws : List Word := [0x1000000000000000, 2, 1, 3];
      (cartOn 1 2 ws).g.inflight = [] ∧ (cartOn 1 2 ws).others = [] ∧ ((selected (opOn 1 2 ws)).any fun c => (slotGang (cartOn 1 2 ws) (opOn 1 2 ws) c).isSome) = true ∧
        Sides (cartOn 1 2 ws) (opOn 1 2 ws) [] (run none 0x1000000000000000 4) spadHit) := by
  refine ⟨⟨rfl, by decide, by decide, by decide +kernel, by decide +kernel, ?_⟩, rfl, rfl, by decide +kernel, ?_⟩ <;>
  exact sides_of (by decide +kernel) (by decide +kernel) (by decide +kernel) (by decide +kernel)
theorem test_w_stopped_engine : isStopped { carting with pkgs := carting.pkgs.map (fun p => { p with stopped := true }) } (engPkg aCart.id.eng) = true := by decide +kernel
theorem test_w_reduce_lists : ([5, 0, 2 ^ 32 - 1] : List Nat) ≠ [] ∧ ∀ x ∈ [5, 0, 2 ^ 32 - 1], x < 2 ^ 32 := by decide
/-- 04 R153: the copy moves the four bytes. -/
theorem test_cpy_completes : runs (.cartOpComplete aCart.id)
    (match mapByte carting aCart.at_ 1 aCart.win 0x2000000000000102 with
      | .ok h => poke h.loc [0x5A] carting
      | .error _ => carting)
    (fun t => match mapByte carting aCart.at_ 1 aCart.win 0x1000000000000002 with
      | .ok h => memByte t h.loc = 0x5A && t.carts.isEmpty
      | .error _ => false) = true := by decide +kernel
/-- 02, "one sum, two nestings": one `reduce` of six, and two of three and then of two. -/
theorem test_reduce_nesting : (redValue 0 0 [0x4B800000, 0x3F800000, 0x3F800000, 0x3F800000, 0x3F800000, 0] none).1 = 0x4B800002 ∧
    (redValue 0 0 [(redValue 0 0 [0x4B800000, 0x3F800000, 0x3F800000] none).1, (redValue 0 0 [0x3F800000, 0x3F800000, 0] none).1] none).1 = 0x4B800001 := by
  decide +kernel

/-! Launches, barriers, fences and cancels (02 R43 to R88). -/

/-- 02, "one record at two root levels": rank 1, extent 1000, granule 8, block mode. -/
def tile1000 : List Word := [0x300101, 0, 0, 0x1000003E8, 0x100000001, 0, 0, 0]
theorem test_split : (List.range 16).map (tPart tile1000 16) = [56, 64, 64, 64, 64, 56, 64, 64, 64, 64, 56, 64, 64, 64, 64, 64] ∧
    (List.range 4).map (fun k => tOrg (childTile tile1000 4 k) 0) = [0, 248, 496, 744] ∧
    (List.range 16).map (fun k => tStart (childTile tile1000 4 0) 16 (k + 1) - tStart (childTile tile1000 4 0) 16 k) =
      [1, 2, 2, 2, 2, 2, 2, 2, 2, 2, 2, 2, 2, 2, 2, 2] := by decide +kernel
theorem test_w_splits : tMode tile1000 ≠ 1 ∧ tile1000.length = 8 ∧ tOrg tile1000 (tDim tile1000) + tExt tile1000 (tDim tile1000) ≤ 2 ^ 32 ∧
    tMode (tile1000.set 0 0x340101) = 1 := by decide +kernel
/-- The tile in s16 to s23 and the function in s1. -/
def tiled (g : Gang) : Gang := (List.zip (List.range 8) tile1000).foldl (fun g p => { g with s := g.s.setIfInBounds (16 + p.1) p.2 }) (setS 1 0x1000 g)
/-- The job holds all the records of its share of the core's pool. -/
def poolFull : State := let s := on tiled; { s with jobs := s.jobs.map (fun j => { j with words := j.words.set 6 0x0010001000100000 }) }
theorem test_w_launches : (on tiled).launches.length < 2 ^ 32 ∧
    launchTrap (on tiled) 2 (sreg (on tiled).g 1) (launchTile (on tiled) 16) = none ∧ launchDepth (on tiled).g 2 ≤ 8 ∧ poolReady (on tiled) 2 = true ∧
    launchTrap poolFull 1 (sreg poolFull.g 1) (launchTile poolFull 16) = none ∧ poolReady poolFull 1 = false ∧
    8 < launchDepth (on (fun g => { tiled g with depth := 8 })).g 1 ∧ (on tiled).g.root < (Level.pod).code ∧ Delivers (on tiled) := by
  unfold Delivers; decide +kernel
/-- A launch at level 1 of two children by the gang of `b0`. -/
def aLaunch : Launch :=
  { id := 40, issuer := some (b0.g.uid, b0.g.at_), parent := some 7, parentChild := 0, sub := [], level := 1, inst := unitOf 1 b0.g.at_, func := 0x1000
    tile := tile1000.set 0 0x2000000300101, job := 1, root := 4, depth := 1, inRoot := false, prio := 1, xvec := 0, startLevel := 1, children := [.waiting, .done]
    record := true, joined := false, cancelled := false, completed := false, pkg := 0, graph := 1, number := 1, queue := 0, tag := 0, reserved := 0, arrived := []
    handle := 77 }
def launched (l : Launch) : State := { on (setS 5 77) with launches := [l] }
/-- A launch whose children have ended, of a gang and of the host. -/
def allDone (root : Bool) : Launch := { aLaunch with children := [.done, .done], issuer := if root then none else aLaunch.issuer }
def joinable (done : Bool) : Launch := { aLaunch with completed := done, children := [.done, .failed 0x38 1] }
theorem test_w_joins : (launched aLaunch).launches.find? (fun l => l.handle = sreg b0.g 6 && (l.issuer.map (·.1)) = some b0.g.uid && !l.joined) = none ∧
    (∀ c, (launched (joinable c)).launches.find? (fun l => l.handle = sreg (launched aLaunch).g 5 && (l.issuer.map (·.1)) = some b0.g.uid && !l.joined) =
      some (joinable c)) ∧ (joinable true).children[1]? = some (.failed 0x38 1) ∧ (joinable true).children[0]? = some .done ∧ (joinable true).completed = true ∧
    (∀ c ∈ (allDone false).children, c = .done) ∧ (allDone false).cancelled = false := by decide +kernel
/-- The gang of `b0` and a second one as the members of a costart group at level 1. -/
def group (arrived : List Nat) : State :=
  { on (fun g => { g with launch := 40, level := 0 }) with
    others := [{ b0.g with at_ := ⟨0, 0, 0, 0, 1⟩, uid := 99, launch := 40, child := 1 }]
    launches := [{ aLaunch with issuer := some (7, ⟨0, 0, 0, 0, 2⟩), tile := aLaunch.tile.set 7 4, children := [.running b0.g.uid, .running 99], arrived := arrived }] }
theorem test_w_barriers : barTrap b0 (Level.c).code ≠ none ∧ Delivers b0 ∧ pathCount (on twoPaths).g ≠ 1 ∧ barTrap b0 (Level.g).code = none ∧
    barTrap (group []) (Level.c).code = none ∧ (group []).g.barOpen = false ∧ (launchOf (group []) 40).isSome = true ∧
    (let s := group []; ∀ x ∈ s.launches, s.g.uid ∉ x.arrived ∧ ∃ u ∈ x.children, u = .running 99 ∧ 99 ≠ s.g.uid ∧ 99 ∉ x.arrived ∧
      ((gangOf s 99).map (·.phase)) = some .running) ∧
    (let s := group [b0.g.uid, 99]; ∀ x ∈ s.launches, x.arrived ≠ [] ∧ ∀ c ∈ x.children, memberArrived s x c = true) ∧
    (let s := group [99]; s.g.phase = .running ∧ ∀ x ∈ s.launches, s.g.uid ∉ x.arrived ∧ ∀ c ∈ x.children, c = .running s.g.uid ∨ memberArrived s x c = true) ∧
    (on (fun g => { g with barOpen := true })).g.barOpen = true := by unfold Delivers; decide +kernel
theorem test_bar_opens : runs (.bar .c) (group [99]) (fun t => t.g.blocked = false && pcOf t = 0x1008 && t.others.all (fun g => g.barOpen)) = true := by decide +kernel
theorem test_w_publish : let s := group []
    let t := publishFor b0.g.uid 1 s
    (gangOf t b0.g.uid).isSome = true ∧ (match gangOf t b0.g.uid with
      | some g => t.others.all (fun q => decide (commonLevel t (some (b0.g.uid, g.at_)) q ≤ 1))
      | none => false) = true := by decide +kernel
theorem test_w_cancels : (launched aLaunch).launches.find? (fun l => l.handle = sreg b0.g 6 && (l.issuer.map (·.1)) = some b0.g.uid) = none ∧
    (launched aLaunch).launches.find? (fun l => l.handle = sreg (launched aLaunch).g 5 && (l.issuer.map (·.1)) = some (launched aLaunch).g.uid) = some aLaunch ∧
    (∀ r, launchOf (group []) (group []).g.launch = some r → r.job = (group []).g.job ∧ r.pkg = (group []).g.at_.pkg) ∧
    (launchOf (group []) (group []).g.launch).isSome = true ∧ (group []).g.phase = .running := by decide +kernel
/-- A launch issued beneath it. -/
theorem test_w_beneath : let s := { launched aLaunch with launches := [aLaunch, { aLaunch with id := 41, parent := some 40, handle := 78 }] }
    Relation.ReflTransGen (fun i j => ∃ y ∈ s.launches, y.id = j ∧ y.parent = some i) aLaunch.id 41 :=
  .single ⟨{ aLaunch with id := 41, parent := some 40, handle := 78 }, by simp, rfl, rfl⟩
theorem test_w_child_starts : launchOf (launched aLaunch) aLaunch.id = some aLaunch ∧ aLaunch.cancelled = false ∧ aLaunch.children[0]? = some .waiting ∧ aLaunch.issuer ≠ none ∧
    aLaunch.tile.length = 8 ∧ (rw aLaunch.tile 7).getLsbD 2 = false ∧ (waitingKids aLaunch).head? = some 0 ∧
    (∀ j ∈ waitingKids aLaunch, j < 0 → placeFor (launched aLaunch) aLaunch j = none) ∧ placeFor (launched aLaunch) aLaunch 0 = some (⟨0, 0, 0, 0, 1⟩, 0) := by decide +kernel
/-- A costart launch of two children on the core of `b0`, whose functions reserve `n` register blocks each. -/
def costarting (n : Nat) : Launch := { aLaunch with tile := aLaunch.tile.set 7 4, children := [.waiting, .waiting], reserved := n }
theorem test_w_costart : (∀ n ∈ [1, 40], launchOf (launched (costarting n)) 40 = some (costarting n) ∧ (costarting n).children[1]? = some .waiting ∧
      (rw (costarting n).tile 7).getLsbD 2 = true ∧ (costarting n).cancelled = false ∧ (costarting n).level = 1) ∧
    (startAll 40 (waitingKids (costarting 1)) (launched (costarting 1))).isSome = true ∧
    (costarting 1).reserved * (waitingKids (costarting 1)).length ≤ freeBlocks (launched (costarting 1)) (costarting 1).inst ∧
    freeBlocks (launched (costarting 40)) (costarting 40).inst < (costarting 40).reserved * (waitingKids (costarting 40)).length := by decide +kernel
/-- A launch record of 16 words for a root level of 1: function 0x1000, core 0, the tile. -/
def aRecord : List Word := [0x100000100, 0x1000, 0, 0, 0, 0, 0, 0] ++ tile1000
def queued : State := { b0 with queues := [⟨0, 5, 1, [⟨aRecord, 1, 1, false⟩]⟩] }
theorem test_w_root_launch : queued.queues.find? (fun x => x.pkg = 0 && x.q = 5) = some ⟨0, 5, 1, [⟨aRecord, 1, 1, false⟩]⟩ ∧ aRecord.length = 16 ∧
    fld (rw aRecord 3) 47 0 = 0 ∧ (∀ p ∈ [0, (recCore aRecord).pkg], ckptBusy queued p = false ∧ isOut queued p = false) ∧
    (placeFor queued (rootOf queued 0 5 1 ⟨aRecord, 1, 1, false⟩) 0).isSome = true := by decide +kernel
/-- The record waits for number 1 of graph 1, and skips where one failed; the graph has completed `d` and failed `f`. -/
def depends (d f : List Nat) : State :=
  { b0 with queues := [⟨0, 5, 1, [⟨(aRecord.set 0 0x100040100).set 3 0x0001000000000001, 1, 2, false⟩]⟩]
            jobs := b0.jobs.map (fun j => { j with graphs := [{ idx := 1, sealed := false, accepted := 2, done := d, failed := f, ready := [] }] }) }
theorem test_w_root_waits : (∀ s ∈ [depends [] [], depends [1] [1]], (s.queues.all fun q => q.recs.all fun r => fld (rw r.words 3) 47 0 == 1 && (rw r.words 0).getLsbD 18 &&
      fld (rw r.words 3) 63 48 == 1 && !r.cancelled) = true ∧ ckptBusy s 0 = false ∧ isOut s 0 = false) ∧
    ((depends [] []).jobs.all fun j => j.graphs.all fun x => decide (countFrom x.done x.accepted 0 < 1)) = true ∧
    ((depends [1] [1]).jobs.all fun j => j.graphs.all fun x => decide (¬ countFrom x.done x.accepted 0 < 1) && x.failed.contains 1) = true := by decide +kernel
/-- The gang of `b0` has ended as child 0 of a launch that another gang issued. -/
def ended : State :=
  { on (fun g => { g with phase := .draining, launch := 40 }) with launches := [{ aLaunch with issuer := some (98, ⟨0, 0, 0, 0, 2⟩), children := [.running b0.g.uid, .done] }] }
theorem test_w_gang_end : gangAt ended ended.g.at_ = some ended.g ∧ gangOf ended ended.g.uid = some ended.g ∧ ended.g.phase = .draining ∧
    drained ended ended.g = true ∧ (∀ l ∈ ended.launches, l.issuer.map (·.1) ≠ some ended.g.uid) ∧ ended.kiln = [] ∧ ended.faults = [] := by decide +kernel
theorem test_gang_end : runs (.gangEnd ended.g.at_) ended (fun t => t.launches.map (·.children) = [[.done, .done]]) = true := by decide +kernel
theorem test_w_launch_complete : (∀ r, launchOf (launched (allDone r)) (allDone r).id = some (allDone r) ∧ (allDone r).completed = false) ∧
    (∀ c ∈ (allDone true).children, c = .done) ∧ (allDone true).issuer = none ∧ (allDone false).issuer = some (b0.g.uid, b0.g.at_) ∧
    gangOf (launched (allDone false)) b0.g.uid = some (launched (allDone false)).g ∧ (jobOn (launched (allDone true)) 0 1).isSome = true := by decide +kernel
theorem test_w_pool_grant : let s := { b0 with poolQ := [⟨b0.g.uid, b0.g.at_, 1, false, 0, false⟩] }
    s.poolQ.find? (fun t => poolUnit t.n t.at_ = poolUnit (Level.c).code b0.g.at_ && !t.granted &&
      ((gangOf s t.uid).map (fun g => decide (poolHeld s g.job (poolUnit (Level.c).code b0.g.at_) < poolShare s g (Level.c).code))).getD false) =
    some ⟨b0.g.uid, b0.g.at_, 1, false, 0, false⟩ ∧ gangOf s b0.g.uid = some b0.g := by decide +kernel

/-! The kiln, its accumulators and the granary: what the statements assume (06 R193 to R218, 07 R219 to R240, 13 R395 to R418). -/

/-- s2 and s3 hold an FP16 A operand of one step in v0 to v15; s4 and s5 an FP16 weight tile of 32 stored rows in cluster memory. -/
def opA : Word × Word := (0, 0x0400000000000020)
def opB1 : Word × Word := (0x2000000000000000, 0x200020)
def blocks (g : Gang) : Gang := setS 2 opA.1 (setS 3 opA.2 (setS 4 opB1.1 (setS 5 opB1.2 g)))
theorem test_w_kiln_enters : (on blocks).g.phase ≠ .free ∧ mmaTrap (on blocks) (on blocks).g 0 (opBlock (on blocks).g 2) (opBlock (on blocks).g 4) = none ∧
    (tileStatus (on blocks) (on blocks).g.at_ (tileBase (on blocks) (on blocks).g)).susp = false ∧
    mmaCheck (on blocks) (on blocks).g (opBlock (on blocks).g 2) (opBlock (on blocks).g 4) 0 = none ∧
    blockBad (on blocks) (on blocks).g false (opBlock (on blocks).g 4) = false ∧ checkB (on blocks) (on blocks).g (opBlock (on blocks).g 4) = none ∧
    Delivers (on blocks) ∧ tileShare (on blocks) (on blocks).g ≤ (15#4).toNat ∧ blockBad (on blocks) (on blocks).g false (opBlock (on blocks).g 2) = true ∧
    mmaTrap (on blocks) (on blocks).g 0 (opBlock (on blocks).g 4) (opBlock (on blocks).g 2) ≠ none := by unfold Delivers; decide +kernel
/-- An entry of the gang. -/
def anEntry (state cause : Nat) : KilnEntry :=
  { id := 50, op := ⟨.kiln (unitOf 2 b0.g.at_), 1, 1⟩, slot := 0, at_ := b0.g.at_, uid := b0.g.uid, tile := 0, opA := opA, opB := opB1, act := 1
    aRegs := List.replicate 16 (Vector.replicate 32 0x3C003C00), sRegs := Vector.replicate 32 0, steps := 1, next := 0, state := state, cause := cause, addr := 0, ipc := 0x1000
    body := 0, since := 0, prio := 1, latch := 0, weights := if state = 1 then Array.replicate 16384 0 else #[], wscales := #[], view := [], flags := 0 }
def withEntry (e : KilnEntry) (st : TileStatus) : State := { on blocks with kiln := [e], tiles := cset {} [] (tileKey b0.g.at_ 0) st }
def suspended : State := withEntry (anEntry 2 0x17) { susp := true, cause := 0x17, steps := 1 }
theorem test_w_kiln_resumes : mmaTrap suspended suspended.g 0 (opBlock suspended.g 2) (opBlock suspended.g 4) = none ∧
    (tileStatus suspended suspended.g.at_ 0).susp = true ∧ (tileStatus suspended suspended.g.at_ 0).cause ≠ 0 ∧
    suspEntry suspended suspended.g.at_ 1 0 = some (anEntry 2 0x17) ∧
    mmaCheck suspended suspended.g (opBlock suspended.g 2) (opBlock suspended.g 4) 0 = none ∧
    32 ≤ ((List.replicate 32 (anEntry 0 0)).filter (fun k => clIx k.at_ = clIx suspended.g.at_)).length := by decide +kernel
def aLatch : Latch := ⟨unitOf 2 b0.g.at_, 0, true, 1, opB1, #[], #[], 0, [], 0, []⟩
def starting (state : Nat) : State := { withEntry (anEntry state 0) {} with latches := [aLatch] }
theorem test_w_kiln_runs : isStopped (starting 0) 0 = false ∧ (starting 0).kiln.find? (fun k => k.id = 50) = some (anEntry 0 0) ∧
    hitLatch (starting 0) (unitOf 2 b0.g.at_) 1 opB1 [] = some aLatch ∧ (chosen (starting 0) (unitOf 2 b0.g.at_)).map (·.id) = some 50 ∧
    isGated (starting 0) 0 = false ∧ CellsWf {} (starting 0).tiles ∧ CellsWf 0 (starting 0).acc ∧ (starting 0).picks = [] ∧ kKind (anEntry 1 0).opA = 1 ∧
    (anEntry 3 0).weights = #[] ∧ (anEntry 3 0).steps ≤ (anEntry 3 0).next + 1 ∧
    hitLatch (starting 3) (unitOf 2 b0.g.at_) (anEntry 3 0).op.job (anEntry 3 0).opB [] = some aLatch := by decide +kernel
/-- Its A operand in cluster memory, and weights that it has taken. -/
def fetching (state : Nat) : KilnEntry := { anEntry state 0 with opA := (0x2000000000001000, 0x0000000000200020), weights := #[0] }
theorem test_w_kiln_fails : (∀ st ∈ [1, 3], let s := withEntry (fetching st) {}; s.kiln.find? (fun k => k.id = 50) = some (fetching st) ∧ CellsWf {} s.tiles ∧
      ((fetching st).state = 1 ∨ (fetching st).state = 3)) ∧ fetchesA (fetching 1) 0 0x2000000000001000 = true ∧ readsB (fetching 3) 0 0x2000000000000000 = true ∧
    fetchesA (fetching 3) 0 0x2000000000000000 = false ∧ (fetching 3).weights.size ≠ (#[] : Array Byte).size ∧
    (let s := withEntry (fetching 3) {}; isStopped { s with pkgs := s.pkgs.map (fun p => { p with stopped := true }) } 0 = true) := by decide +kernel
theorem test_w_kiln_started : (starting 1).kiln.find? (fun k => k.id = 50 && k.state = 1) = some (anEntry 1 0) ∧ (anEntry 1 0).weights ≠ #[] := by
  refine ⟨rfl, fun h => ?_⟩
  have := congrArg Array.size h
  simp [anEntry] at this
def loading : State := { on blocks with mldws := [⟨⟨.kiln (unitOf 2 b0.g.at_), 1, 1⟩, b0.g.at_, b0.g.uid, opB1, []⟩] }
theorem test_w_latch_loads : loading.kiln = [] ∧ (loading.mldws.find? (fun m => unitOf 2 m.at_ = unitOf 2 b0.g.at_)).isSome = true ∧
    victim loading (unitOf 2 b0.g.at_) = some 0 ∧ hitLatch loading (unitOf 2 b0.g.at_) 1 opB1 [] = none ∧
    (hitLatch { loading with latches := [aLatch] } (unitOf 2 b0.g.at_) 1 opB1 []).isSome = true ∧ isStopped loading 0 = false := by decide +kernel
theorem no_map {s : State} {c : Coords} {j : Nat} {a : Word} {h : Hit} (hj : jobOn s c.pkg j = none) : mapByte s c j noWin a ≠ .ok h := by
  have e : ∀ o, clusterOff s c.pkg j o = none ∧ dieOff s c.pkg j o = none ∧ Machine.translate s c.pkg j o = none := fun o => by
    simp [clusterOff, dieOff, Machine.translate, hj]
  unfold mapByte
  simp only [e, Option.map_none, localHit, Nat.not_lt_zero, if_false]
  repeat' split
  all_goals simp
/-- A load that misses and whose bytes do not map, so that none waits for a path. -/
theorem test_w_latch_paths : let m : KilnLoad := ⟨⟨.kiln (unitOf 2 b0.g.at_), 77, 1⟩, b0.g.at_, b0.g.uid, opB1, []⟩; let s := { on blocks with mldws := [m] }
    hitLatch s (unitOf 2 b0.g.at_) m.op.job m.opB m.view = none ∧ ∀ a h, mapByte s m.at_ m.op.job noWin a = .ok h → flows s 0 (locPkg h.loc) = true :=
  ⟨by decide +kernel, fun a h e => absurd e (no_map (by decide +kernel))⟩
/-- 06, "a remote operand fails between steps": a step adds 32 products of 1.0 and 0.5. -/
theorem test_kiln_step : stepValue (List.replicate 32 (kDecode 2 127 0x38)) (List.replicate 32 (kDecode 2 127 0x30)) (kScale 2 127) (kScale 2 127) =
    (0x41800000, 0) := by decide +kernel
/-- Two columns from column 4 of tile 1, target FP32. -/
def shaped (g : Gang) : Gang := { g with sh := g.sh.set 2 0x0000040100000000 |>.set 3 0x00000401000000F0 }
def aTicket (o : TileOp) (es : List Nat) : TileTicket := ⟨60, b0.g.uid, unitOf 1 b0.g.at_, [1], es, o, (on shaped).g, false, 0⟩
def holding (t : TileTicket) : State := { on (fun g => { g with hold := .tile 60 }) with tickets := [t], kiln := (starting 0).kiln }
theorem test_w_accumulators : (on shaped).iss.enters = false ∧ ({ b0.iss with enters := true } : Issue).enters = true ∧ CellsWf 0 (on shaped).acc ∧ CellsWf {} (on shaped).tiles ∧ shCol0 (shape (on shaped).g 3) + shCols (shape (on shaped).g 3) ≤ 256 ∧
    (∀ o ∈ [TileOp.z 1, .wr 1 2 3, .add 1 2 3, .cp 1 2 3, .mx 8 1 3, .cvt 8 1 .rne 3], accTrap (on shaped) (on shaped).g o = none ∧
      tileWaits (on shaped) (on shaped).g.at_ (on shaped).g.job ((tileNames o).map (tileOf (on shaped) (on shaped).g)) = []) ∧
    suspTrap (on shaped) (on shaped).g [1, 2] = none ∧ (on shaped).tickets = [] ∧ shFmt (shape (on shaped).g 3) = 15 ∧ shDiv (shape (on shaped).g 3) = false ∧
    shBlk (shape (on shaped).g 3) = false ∧ Delivers (on shaped) ∧
    (∀ o ∈ [TileOp.z 15, .wr 15 2 3, .add 1 15 3, .cp 15 2 3, .mx 8 15 3, .cvt 8 15 .rne 3], accTrap (on shaped) (on shaped).g o ≠ none) ∧
    (∃ i ∈ tileWaits (starting 0) (starting 0).g.at_ 1 [0], letsGo (starting 0) i = false) ∧
    (∃ u ∈ (holding (aTicket (.z 1) [])).tickets, u.core = unitOf 1 b0.g.at_ ∧ ∃ k ∈ u.tiles, k ∈ [1].map (tileOf b0 b0.g)) := by unfold Delivers; decide +kernel
theorem test_w_tile_hold : ∀ p ∈ [(TileOp.z 1, []), (.wr 1 2 3, []), (.z 1, [50])], let k := aTicket p.1 p.2; let s := holding k; let g := s.g
    gangAt s g.at_ = some g ∧ g.phase = .running ∧ g.cancelled = false ∧ g.stopping = false ∧ g.hold = .tile k.ticket ∧
    s.tickets.find? (fun t => t.uid = g.uid && g.hold = .tile t.ticket && g.phase = .running && !g.cancelled && !g.stopping) = some k ∧
    ticketReady s k = p.2.isEmpty ∧ pipeFree s (coreIx g.at_) (some .matrix) = true ∧
    pipeFree { s with slots := [⟨coreIx g.at_, g.at_.slot, .matrix, s.cycle⟩] } (coreIx g.at_) (some .matrix) = false ∧ CellsWf 0 s.acc ∧ shCol0 (shape k.src 3) + shCols (shape k.src 3) ≤ 256 ∧
    (∀ h ∈ g :: s.others, inSlot h = true → h.at_ = g.at_ → h = g) := by decide +kernel
/-- 00 R11: the held `accwr` writes what its registers held when it issued. -/
theorem test_held_operands : (match holding { aTicket (.wr 1 2 3) [] with src := setV 3 (fun l => BitVec.ofNat 32 (7 + l)) (on shaped).g } with
    | s => runs (.tileHoldEnd s.g.at_) s (fun t => accAt t t.g.at_ (tileOf t t.g 1) 2 5 = 9 && t.g.hold = .none)) = true := by decide +kernel
theorem test_w_shapes : shapeBad (sreg (on (setS 4 0xF0)).g 4) = false ∧ shapeBad (sreg (on (setS 4 1)).g 4) = true ∧ Delivers (on (setS 4 1)) ∧
    shCols (shape (on shaped).g 2) ≤ 16 ∧ Holds (on shaped).g [(8, shCols (shape (on shaped).g 2))] ∧ (3#4).toNat < tileShare (on shaped) (on shaped).g ∧
    tileShare (on shaped) (on shaped).g ≤ (4#4).toNat := by unfold Delivers Holds; decide +kernel
/-- 13, "a guarded drain": 2,000 good steps between growths by one power of two, a backoff of 2 powers of two, and an overflow. -/
def lossGang (ovf : Word) (g : Gang) : Gang := { setS 4 (0x010100000000 + 2000) (setS 8 517 g) with lscale := 0x44800000, ovf := ovf }
theorem test_w_loss_scale : let p := sreg (on (lossGang 1)).g 4
    p.toNat < 2 ^ 48 ∧ p.toNat % 2 ^ 32 ≠ 0 ∧ p.toNat / 2 ^ 32 % 256 ≤ 15 ∧ p.toNat / 2 ^ 40 % 256 ≤ 15 ∧ 1 ≤ (on (lossGang 1)).g.lscale.toNat / 2 ^ 23 ∧
    (on (lossGang 1)).g.lscale.toNat / 2 ^ 23 ≤ 254 ∧ (on (lossGang 1)).g.ovf.toNat % 2 ^ 16 ≠ 0 ∧ (on (lossGang 0)).g.ovf.toNat % 2 ^ 16 = 0 ∧
    (sreg (on (lossGang 0)).g 8 + 1).toNat < p.toNat % 2 ^ 32 ∧ (sreg b0.g 4).toNat % 2 ^ 32 = 0 ∧ Delivers b0 := by unfold Delivers; decide +kernel
theorem test_lsapp_backs_off : runs (.lsapp 8 4) (on (lossGang 1)) (fun t => t.g.inflight.map Inflight.w = [.s 8 0, .lscale 0x44000000, .ovfSet 0]) = true := by
  decide +kernel
theorem test_accwr_and_accrd : runs (.accwr 1 2 3) (on (fun g => setV 3 (fun l => BitVec.ofNat 32 (7 + l)) (shaped g)))
    (fun t => accAt t t.g.at_ (tileOf t t.g 1) 2 5 = 9 && accAt t t.g.at_ (tileOf t t.g 1) 2 6 = 0) = true := by decide +kernel
theorem test_w_ranks : ([(0, 5), (1, 7), (2, 5)] : List (Nat × W32)).map (·.1) = [0, 1, 2] ∧ (val32 0x7FC00000).isNan = true ∧ (val32 0).isNan = false := by
  decide +kernel

/-- A record with dimension 4, n keys per half, k1 and k results, FP32 rows of `rb` bytes, SGD, temp 1.0, lr 0.25. -/
def tableWords (n k rb : Nat) : List Word :=
  [1, BitVec.ofNat 64 (4 + n * 2 ^ 16 + k * 2 ^ 40 + k * 2 ^ 48 + 2 * 2 ^ 56), BitVec.ofNat 64 (0x3F800000 * 2 ^ 32 + rb), 0x3E800000, 0x330000, 0x331000, 0, 0,
    0x340000, 0] ++ List.replicate 22 0
def granD : List Word := [0x320000, 0x3000000000000000, 0x3000000000000400, 0x3000000000000800, 1, 0]
/-- s8 to s13 hold the descriptor of a query, s8 alone names the record. -/
def granGang (g : Gang) : Gang := (List.zip (List.range 6) granD).foldl (fun g p => { g with s := g.s.setIfInBounds (8 + p.1) p.2 }) g
theorem test_w_granary_queues : (on granGang).g.phase ≠ .free ∧ tagOf (sreg (on granGang).g 8) = 0 ∧ (sreg (on granGang).g 8).toNat % 256 = 0 ∧
    granaryTrap ((granWords (on granGang).g 8).take 4) (granBad true (granWords (on granGang).g 8)) = none ∧
    granaryTrap ((granWords (on granGang).g 8).take 4) (granBad false (granWords (on granGang).g 8)) = none ∧ Delivers (on granGang) ∧
    granaryTrap ((granWords (on granGang).g 9).take 4) (granBad true (granWords (on granGang).g 9)) ≠ none ∧
    granaryTrap ((granWords (on granGang).g 9).take 4) (granBad false (granWords (on granGang).g 9)) ≠ none := by unfold Delivers; decide +kernel
def aGran (kind : Nat) (started : Bool) (table : List Word) : GranaryOp :=
  { id := ⟨.granary (unitOf 3 b0.g.at_), 1, 1⟩, kind := kind, at_ := b0.g.at_, uid := b0.g.uid, recA := 0x320000, words := granD, view := [], started := started
    table := table, nextQ := 0, cands := [], dys := [], rows := [], cur := none, segs := [], fault := none, flags := 0, wr := [], err := none }
theorem test_w_granary_full : 16 ≤ ((List.replicate 16 (aGran 0 false [])).filter (fun o => unitOf 3 o.at_ = unitOf 3 b0.g.at_)).length := by decide +kernel
def keySlotOf (o : GranaryOp) : KeySlot := ⟨unitOf 3 b0.g.at_, 0, some (keyTag o), #[], #[]⟩
def withGran (o : GranaryOp) : State := { b0 with granary := [o], keySlots := [keySlotOf { o with table := tableWords 1 1 64 }] }
/-- Whether the bytes of some ranges have a path. -/
def pathsB (s : State) (o : GranaryOp) (ps : List (Word × Nat)) : Bool :=
  ps.all fun p => (List.range p.2).all fun i => match mapByte s o.at_ o.id.job noWin (p.1 + wd i) with
    | .ok h => flows s o.at_.pkg (locPkg h.loc)
    | .error _ => true
theorem paths_of {s o ps} (h : pathsB s o ps = true) : Claims.Paths s o ps := by
  intro p hp i hi k hk
  have := List.all_eq_true.mp (List.all_eq_true.mp h p hp) i (List.mem_range.mpr hi)
  rwa [hk] at this
theorem test_w_granary_paths : (let o := aGran 1 false []; let s := withGran o; isStopped s 0 = false ∧ Claims.Paths s o [(o.recA, 256)]) ∧
    (let o := aGran 1 true (tableWords 1 1 64); let s := withGran o
      Claims.Paths s o ((opIn o, 2 * tD o) :: [(opCand o, 16 * tK o), (opOut o, tElems o * tOsz o)] ++ (List.range 1).map (fun r => (rowVa o r, tRow o)))) ∧
    (let o := aGran 0 true (tableWords 1 1 64); let s := withGran o
      Claims.Paths s o [(tw o 4, tN o * tKp o), (tw o 5, tN o * tKp o), (tw o 6, 0), (tw o 7, 0)]) :=
  ⟨⟨by decide +kernel, paths_of (by decide +kernel)⟩, paths_of (by decide +kernel), paths_of (by decide +kernel)⟩
theorem test_w_granary_starts : ∀ kind ∈ ([0, 1] : List Nat), let o := aGran kind false []; let s := withGran o
    granHead s s.g.at_ = some o ∧ granCancelled s o = false ∧ s.picks = [] ∧ s.lines = [] ∧ granLow s o permR [(o.recA, 256)] = none ∧
    recordBad { o with started := true, table := tableWords 1 1 64 } = false ∧ recordBad { o with table := List.replicate 32 0 } = true ∧
    (keySlot s { o with table := tableWords 1 1 64 }).isSome = true ∧
    granLow { s with poison := [hbmLoc 0 0x320008] } o permR [(o.recA, 256)] = some 0x320008 := by decide +kernel
theorem test_w_granary_queries : let o := aGran 1 true (tableWords 1 1 64); let s := withGran o
    granHead s s.g.at_ = some o ∧ o.nextQ < opB o ∧ granCancelled s o = false ∧ keySlot s o = some (keySlotOf o) ∧
    granLow s o permR [(opIn o, 2 * tD o)] = none ∧ granLow s o permW [(opCand o, 16 * tK o), (opOut o, tElems o * tOsz o)] = none ∧
    granLow s o permR [(rowVa o 0, tRow o)] = none ∧ tN o * tN o = 1 ∧ Memory.wf s.mem ∧
    (∀ p ∈ [(opCand o, 16 * tK o), (opOut o, tElems o * tOsz o)], ∀ i < p.2, sramTag (p.1 + wd i) = true) ∧
    (granLow { s with poison := [dieLoc 2] } o permR [(opIn o, 2 * tD o)]).isSome = true := by decide +kernel
theorem test_w_granary_keys : let o := { aGran 1 false [] with table := tableWords 1 1 64 }
    ((keySlot (withGran o) o).bind (·.tag)) = some (keyTag o) := rfl
def aSeg : SegWrite := ⟨[(hbmLoc 0 0x340000, 1, none), (hbmLoc 0 0x340001, 2, none)], [(hbmLoc 0 0x350000, 3, none)]⟩
theorem test_w_granary_segments : let o := { aGran 2 true (tableWords 1 1 64) with segs := [aSeg], cur := some 0 }; let s := withGran o
    granHead s s.g.at_ = some o ∧ o.segs = [aSeg] ∧ isStopped s 0 = false ∧ ((aSeg.bytes ++ aSeg.acc).all fun b => flows s 0 (locPkg b.1)) = true ∧ aSeg.bytes.length + aSeg.acc.length ≤ 68 ∧ ((aSeg.bytes ++ aSeg.acc).map (·.1)).Nodup ∧
    Memory.wf s.mem ∧ aSeg.bytes ++ aSeg.acc ≠ [] := by decide +kernel
theorem test_w_granary_completes : let o := aGran 0 true (tableWords 1 1 64); let s := withGran o; let f := { o with kind := 1, fault := some (1, 0x320000) }
    granHead s s.g.at_ = some o ∧ granDone s o = true ∧ granCancelled s o = false ∧ s.lines = [] ∧ granDone (withGran f) f = true ∧
    granLow s o permR [(tw o 4, tN o * tKp o), (tw o 5, tN o * tKp o), (tw o 6, 0), (tw o 7, 0)] = none ∧
    granLow { s with poison := [hbmLoc 0 0x330000] } o permR [(tw o 4, tN o * tKp o), (tw o 5, tN o * tKp o), (tw o 6, 0), (tw o 7, 0)] = some 0x330000 := by
  decide +kernel
/-- 07, "two queries, one update": the two halves' keys, and the query [1, 0, 0, 1]. -/
def exampleOp : GranaryOp := aGran 1 true (tableWords 3 2 128)
def exampleKeys : KeySlot :=
  let row (a b : Nat) : List Byte := leBytes 2 a ++ leBytes 2 b ++ List.replicate 60 0
  { keySlotOf exampleOp with keys := (row 0x3F80 0 ++ row 0x4000 0 ++ row 0x3FC0 0x40A0 ++ row 0 0x4040 ++ row 0 0x3F80 ++ row 0 0x4040).toArray }
def exampleQuery : Array Byte := #[0x80, 0x3F, 0, 0, 0, 0, 0x80, 0x3F]
theorem test_candidates : (candidates exampleOp exampleKeys exampleQuery).1 = [(3, 0x40A00000), (5, 0x40A00000)] ∧
    (softmax exampleOp [(3, 0x40A00000), (5, 0x40A00000)]).1 = [0x3F000000, 0x3F000000] := by decide +kernel

/-! The fabric, the package and the host: what the statements assume (17 R448 to R464, 18 R485 to R497, 19 R499 to R514, 21 R518 to R534). -/

/-- Three packages in a row. -/
def row3 : List Link := [⟨0, 0, 1, 0⟩, ⟨1, 1, 2, 0⟩]
theorem test_w_routes : (0, 2, [1, 2]) ∈ allRoutes { State.reset with links := row3 } true 3 := by decide +kernel
theorem test_w_pods : (allRoutes { State.reset with links := row3 } true 3).length = 3 * (3 - 1) ∧
    (allRoutes { State.reset with links := row3 } true 4).length ≠ 4 * (4 - 1) := by decide +kernel
/-- 19 R538: where two packages lead on equally far, the lower one is the next. -/
theorem test_route_tie : allRoutes { State.reset with links := [⟨0, 0, 1, 0⟩, ⟨0, 1, 2, 0⟩, ⟨1, 1, 3, 0⟩, ⟨2, 1, 3, 1⟩] } true 4 =
    [(0, 1, [1]), (0, 2, [2]), (0, 3, [1, 3]), (1, 0, [0]), (1, 2, [0, 2]), (1, 3, [3]), (2, 0, [0]), (2, 1, [0, 1]), (2, 3, [3]),
     (3, 0, [1, 0]), (3, 1, [1]), (3, 2, [2])] := by decide +kernel
/-- A port in a given state. -/
def portState (n : Nat) : State := { b0 with ports := [{ pkg := 0, port := 5, state := n }] }
theorem test_w_links : (portOf (portState 1) 0 5).state ≠ 2 ∧ (portOf (portState 2) 0 5).state = 2 ∧ (portOf (portState 2) 0 5).pword = 0 ∧
    (portOf (portState 2) 0 5).std = false ∧ (portOf (portState 3) 0 5).state = 3 ∧
    ¬ ((portOf (portState 2) 0 5).since + 17000 ≤ (portState 2).cycle) ∧ (portOf (portState 2) 0 5).since + 17000 ≤ ({ portState 2 with cycle := 17000 } : State).cycle ∧
    (portOf (portState 3) 0 5).clean = none ∧ (let s := { b0 with ports := [{ pkg := 0, port := 5, state := 3, clean := some 0 }], cycle := 1700000000 };
      (portOf s 0 5).clean = some 0 ∧ (portOf s 0 5).state = 3) ∧
    (∀ n ∈ [3, 4], let s := { b0 with ports := [{ pkg := 0, port := 5, state := 2, crc := List.replicate n 0 }], cycle := 9 };
      ((s.cycle :: (portOf s 0 5).crc.filter (fun c => s.cycle < c + 1700000)).length ≤ 4 ↔ n = 3)) ∧
    (bondOf { portState 3 with bonds := [{ pkg := 0, group := 1, retraining := true, sent := 9, acked := 4 }] } 0 1).retraining = true := by decide +kernel
/-- 19 R502, R505: the partner's ports of four links, the third of which reaches another package. -/
def bonding : State := { b0 with
  ports := [0, 1, 2, 3].map (fun n => { pkg := 0, port := n, state := 2, comb := true, bond := true, pword := if n = 2 then 0x5B4D00000090C001 else 0x5B4D00000050C001 + BitVec.ofNat 64 (n * 2 ^ 18) })
  links := [⟨0, 0, 1, 4⟩, ⟨0, 1, 1, 5⟩] }
/-- 19 R505 to R507: of three ports that agree two bond, and a lane lost at the other end leaves one of them in use. -/
theorem test_bond : bondMembers bonding 0 0 = [0, 1] ∧ bondActive bonding 0 0 = [0, 1] ∧
    bondActive { bonding with ports := { pkg := 1, port := 5, state := 3 } :: bonding.ports } 0 0 = [0] := by decide +kernel
/-- Two packages; the second holds the last granule of nothing yet. -/
def twoPkgs : State := { b0 with pkgs := [{ pkg := 0, count := 2 }, { pkg := 1, count := 2 }], links := [⟨0, 0, 1, 0⟩], routes := [(0, 1, [1]), (1, 0, [0])] }
theorem test_w_failures : podOf twoPkgs 0 = some { pkg := 0, count := 2 } ∧ funcOk (.die 3) = true ∧
    (let s := { twoPkgs with jobs := twoPkgs.jobs.map (fun j => { j with pkg := 1, words := j.words.set 0 0x0001000000000501 }) }
      ∀ j ∈ s.jobs, j.pkg ≠ 0 ∧ j.resident = true ∧ fld (rw j.words 0) 10 8 = 5 ∧ inPod s 0 j.pkg = true) := by decide +kernel
/-- A store to another package and a load from it, both sent long ago. -/
def farStore : StoreReq := { aStore with bytes := [⟨0, 0x100000, hbmLoc 1 0x100000, 7, none, true, 0, 0x100000, true⟩] }
def timedOut : State :=
  { b0 with stores := [farStore], cycle := 1700000, g := { b0.g with pend := [{ aPend with far := [(0x100000, 0, 1)] }], flags := b0.g.flags.set 3 1 } }
/-- The job's range entry maps its addresses to package 1 (mode 2). -/
def onOther : State := poke (hbmLoc 0 0xBC00000010) ([0x02000F0000000000, 1].flatMap (leBytes 8)) twoPkgs
theorem test_w_cart_timeout : let s := { onOther with carts := [aCart], cycle := 1700000 }
    aCart ∈ s.carts ∧ aCart.sent + 1700000 ≤ s.cycle ∧ (match sideByte s aCart none 0x100000 with
      | .ok h => decide (locPkg h.loc ≠ aCart.at_.pkg)
      | .error _ => false) = true := by decide +kernel
/-- 01, "a pod-striped address": range entry 7 of a job. -/
def striped : State :=
  poke (hbmLoc 0 (0xBC00000000 + 32 * 7)) ([0x8000010000000000, 0x14000000000, 0x2502530200000000, 0x10008].flatMap (leBytes 8)) b0
theorem test_striped_address : (mapRange striped 0 0xBC00000000 7 0x10012345678).map (fun m => (m.pkg, m.hbm, m.slot)) = some (25, 0x200545678, 37) := by
  decide +kernel
theorem test_w_timeouts : gangAt timedOut timedOut.g.at_ = some timedOut.g ∧ gangOf timedOut timedOut.g.uid = some timedOut.g ∧
    timedOut.g.pend.find? (fun x => x.id = 9) = some { aPend with far := [(0x100000, 0, 1)] } ∧ ([((0x100000 : Word), 0, 1)] : List (Word × Nat × Nat))[timedOut.picks.headD 0 % 1]? = some (0x100000, 0, 1) ∧
    timedOut.g.stopping = false ∧ 0 + 1700000 ≤ timedOut.cycle ∧
    timedOut.stores.find? (fun x => x.id = farStore.id) = some farStore ∧ farStore.faulted = false ∧
    (firstByte (fun b => locPkg b.loc ≠ farStore.at_.pkg) farStore.bytes).isSome = true := by decide +kernel
/-- 19 R504: a store on its way to a member that fails gets an error reply. -/
theorem test_member_failure : runs (.memberFailure 1) { twoPkgs with stores := [farStore] } (fun t => t.stores = [] ∧
    t.faults.map (fun f => (f.cause, f.addr)) = [(0x17, 0x100000)] ∧ inPod t 0 1 = false) = true := by decide +kernel
theorem test_w_ready_images : (∀ k ∈ [some 0, some 1, some 2, some 3, none], ∀ j, k = some j → ∃ i ∈ ({ pkg := 0 } : Package).images, i.kind = j) ∧ imageKind (.stack 11) = none := by decide
theorem test_w_package : podOf b0 0 = some { pkg := 0 } ∧ funcOk (.stack 11) = true ∧ (.stack 11) ∉ (([] : List Func)) ∧
    gangAt b0 b0.g.at_ = some b0.g ∧ b0.g.phase = .running := by decide +kernel

/-- A confirmed session whose next command is number 1, on a package with every function ready. -/
def aSess : Session := ⟨0, 3, (1, 2), true, 1, 0, 0, 0, 0, [], false⟩
def readyPkg : Package :=
  { pkg := 0, ready := (List.range 4).map Func.die ++ (List.range 12).map Func.stack ++ (List.range 4).map Func.granary ++ [.baseDie, .security, .morcy] }
def hosted (s : State) : State := { s with sessions := [aSess], pkgs := [readyPkg] }
def cmd : Cmd := ⟨0, 3, 1⟩
theorem next_of {h : Cmd} {s : State} (x : Session) (h1 : sessOf s h.pkg h.sess = some x) (h2 : x.confirmed = true ∧ x.serving = false ∧ x.waiting = [] ∧ h.seq = x.next ∧ sessBusy s h.pkg h.sess = false) :
    NextOf h s := ⟨x, h1, h2⟩
/-- The package holds no gang; job 1 is resident. -/
def idle : State := { hosted State.reset with jobs := [bootJob], queues := [⟨0, 5, 1, []⟩] }
theorem test_w_next_command : NextOf cmd (hosted b0) ∧ NextOf cmd idle ∧ allReady (hosted b0) 0 (some (.jobCreate cmd bootJob.words)) = true ∧
    NextOf cmd { hosted b0 with pkgs := b0.pkgs } ∧ allReady { hosted b0 with pkgs := b0.pkgs } 0 (some (.jobCreate cmd bootJob.words)) = false :=
  ⟨next_of aSess (by decide +kernel) (by decide +kernel), next_of aSess (by decide +kernel) (by decide +kernel), by decide +kernel,
    next_of aSess (by decide +kernel) (by decide +kernel), by decide +kernel⟩
theorem test_w_command_order : sessOf b0 0 3 = none ∧ (∀ f, sessOf { hosted b0 with sessions := [{ aSess with confirmed := f }] } 0 3 = some { aSess with confirmed := f }) ∧
    sessBusy { idle with jobs := [{ bootJob with ending := some ⟨0, 3, 0⟩ }] } 0 3 = true ∧ aSess.serving = false ∧ aSess.waiting = [] ∧
    cmd.seq = aSess.next + aSess.waiting.length ∧ cmd.seq ≠ { aSess with next := 2 }.next + aSess.waiting.length ∧
    (let s := { idle with pkgs := [{ readyPkg with failed := [.granary 0] }] }; (isOut s 0 && outRefuses (some (.jobCreate cmd bootJob.words))) = true ∧
      (isOut s 0 && outRefuses (some (.counterRead cmd 1 none))) = false) ∧ (loadsTo idle 0 1 [] 0 0).isSome = true ∧ (jobOn idle 0 1).bind (·.ending) ≠ some cmd := by decide +kernel
/-- A JobCreate that waits, and a command that waits behind it; the device turns to the first; a command outside the table arrives. -/
def queueing (i : Option Instr) : State := { idle with sessions := [{ aSess with waiting := [(cmd, i, 0), (⟨0, 3, 2⟩, none, 0)] }] }
theorem test_w_waiting_commands : let i := Instr.jobCreate cmd bootJob.words; let s := { queueing (some i) with pkgs := b0.pkgs, agenda := [.serve 0 3] }
    (sessOf s 0 3).bind (·.waiting.head?) = some (cmd, some i, 0) ∧ allReady s 0 (some i) = false ∧ s.cycle < 0 + 30 * 1700000000 ∧
    0 + 30 * 1700000000 ≤ ({ s with cycle := 30 * 1700000000 } : State).cycle ∧ (∀ j ∈ s.jobs, j.ending = none) ∧
    ((sessOf s 0 3).map (·.waiting)) ≠ some [] ∧ ({ idle with agenda := [.stray cmd] } : State).agenda = .stray cmd :: [] ∧
    (sessOf { s with sessions := s.sessions.map (fun x => { x with serving := true }) } 0 3).map (·.serving) = some true := by decide +kernel
theorem test_w_stray : NextOf cmd { idle with agenda := [] } := next_of aSess (by decide +kernel) (by decide +kernel)
/-- 17 R450: the first waiting command goes on and the second stays; one outside the table is answered with an error. -/
theorem test_serve : steps { queueing (some (.cancelJob cmd 1)) with agenda := [.serve 0 3] } (fun t => t.out = [.ok cmd []] &&
    t.sessions.map (fun x => (x.next, x.waiting.length, x.serving)) = [(2, 1, false)]) = true := by decide +kernel
theorem test_stray : steps { idle with agenda := [.stray cmd] } (fun t => t.out = [.error cmd] && t.sessions.map (·.next) = [2]) = true := by decide +kernel
theorem test_w_sessions : isReady (hosted b0) 0 .security = true ∧ isReady (hosted b0) 0 .morcy = true ∧ isReady b0 0 .security = false ∧
    commonProto (1, 0) (1, 1) = some (1, 1) ∧ commonProto (2, 0) (2, 1) = none ∧ ((hosted b0).sessions.filter (fun x => x.pkg = 0)).length < 8 ∧
    sessOf (hosted b0) 0 3 = some aSess ∧ aSess.fails < 15 ∧ 15 ≤ { aSess with fails := 15 }.fails := by decide +kernel
/-- A checkpoint record with one target, package 1. -/
def ckptWords (fn : Nat) : List Word := [BitVec.ofNat 64 (fn + 2 ^ 8), 0, 0, 0, 0x40000000000000] ++ List.replicate 27 0
theorem serves_of {s : State} {h : Cmd} {i : Instr} (h1 : (allReady s h.pkg (some i) && !(isOut s h.pkg && outRefuses (some i))) = true) : Serves s h i := by
  obtain ⟨a, b⟩ := Bool.and_eq_true_iff.mp h1
  rw [Bool.not_eq_true'] at b
  exact ⟨a, b⟩
theorem test_w_serves : Serves (hosted State.reset) cmd (.checkpoint cmd (ckptWords 1)) ∧ Serves (hosted State.reset) cmd (.checkpointRestore cmd (ckptWords 2)) :=
  ⟨serves_of (by decide +kernel), serves_of (by decide +kernel)⟩
theorem test_w_checkpoints_start : NextOf cmd (hosted State.reset) ∧ ckptBad (ckptWords 1) = false ∧ ckptBad (ckptWords 2) = false ∧ fld (rw (ckptWords 1) 0) 1 0 = 1 ∧ fld (rw (ckptWords 2) 0) 1 0 = 2 ∧
    (∀ g ∈ gangs idle, ¬ (g.at_.pkg = 0 ∧ inSlot g = true)) ∧ podOf idle 0 = some readyPkg ∧ readyPkg.run = none ∧
    (∀ j ∈ (hosted State.reset).jobs, ¬ (j.pkg = 0 ∧ j.resident = true)) :=
  ⟨next_of aSess (by decide +kernel) (by decide +kernel), by decide +kernel⟩
theorem test_w_checkpoint_runs : (ckptWords 1).length = 32 ∧ fld (rw (ckptWords 1) 0) 12 8 = 1 ∧ State.reset.poison = [] ∧ Memory.wf State.reset.mem ∧
    (∀ o o', o < Config.hbmBytes → o' < Config.hbmBytes →
      (o ≠ o' → ckptFar (ckptWords 1) o ≠ ckptFar (ckptWords 1) o') ∧ ckptFar (ckptWords 1) o ≠ hbmLoc 0 o') := by
  refine ⟨rfl, by decide, rfl, by decide, fun o o' h h' => ?_⟩
  have e : ∀ x < Config.hbmBytes, ckptFar (ckptWords 1) x = 2 ^ 40 + x := by
    intro x hx
    have hn : ckptShare (fld (rw (ckptWords 1) 0) 12 8) = Config.hbmBytes := by decide
    have hd : x / Config.hbmBytes = 0 := Nat.div_eq_of_lt hx
    have hw : fld (rw (ckptWords 1) (4 + 0)) 63 54 = 1 ∧ fld (rw (ckptWords 1) (4 + 0)) 39 0 = 0 := by decide
    simp only [ckptFar, hn, hd, hw.1, hw.2, hbmLoc, locOf, Nat.mod_eq_of_lt hx]
    omega
  rw [e o h, e o' h']
  simp only [hbmLoc, locOf, Config.hbmBytes] at *
  constructor <;> omega
theorem test_w_jobs : jobRefused (hosted State.reset) 0 bootJob.words = false ∧ jobRefused (hosted State.reset) 0 [] = true ∧
    jobOn (hosted State.reset) 0 (fld (rw bootJob.words 0) 63 48) = none ∧ (jobOn idle 0 (fld (rw bootJob.words 0) 63 48)).isSome = true ∧
    2 ≤ (([bootJob, bootJob] : List Job).filter (fun j => j.pkg = 0 && j.resident)).length ∧ jobOn idle 0 1 = some bootJob ∧ jobOn idle 0 2 = none ∧
    bootJob.ending = none ∧ idle.launches = [] ∧ (∀ g ∈ gangs idle, ¬ (g.job = 1 ∧ g.at_.pkg = 0)) ∧ (∀ q ∈ idle.queues, q.recs = []) ∧ imageOf idle 0 1 = none ∧
    idle.units = [] ∧ bootJob.sess = none ∧ rw bootJob.words 9 = 0 ∧ rw bootJob.words 9 ≠ 1 := by decide +kernel
/-- Job 1 with graph 1, a transfer key, its session, and the numbers 1 and 3 completed of 3. -/
def aGraph : Graph := ⟨1, false, 3, [3, 1], [], []⟩
def owned : Job := { bootJob with graphs := [aGraph], sess := some (0, 3), transfer := some 9 }
def working : State := { hosted b0 with jobs := [owned], queues := [⟨0, 5, 1, []⟩], xts := cset none [] 0 (some 5) }
theorem test_w_keys_and_graphs : NextOf cmd working ∧ jobOn working 0 1 = some owned ∧
    keyPending { working with stores := [{ aStore with bytes := aStore.bytes.map (fun b => { b with key := some 5 }) }] } (slotKey working 0 0) = true ∧
    keyPending working (slotKey working 0 0) = false ∧ fld (rw owned.words 3) 15 0 ≤ 0 ∧ 0 < fld (rw owned.words 3) 15 0 + fld (rw owned.words 3) 31 16 ∧
    ¬ (7 < fld (rw owned.words 3) 15 0 + fld (rw owned.words 3) 31 16) ∧ owned.graphs.length + 1 < 2 ^ 16 ∧
    (∀ x ∈ working.queues, ¬ (x.pkg = 0 ∧ x.q = 2047)) ∧ (∃ x ∈ working.queues, x.pkg = 0 ∧ x.q = 5) ∧ owned.graphs.find? (fun g => g.idx = 1) = some aGraph ∧
    jobOn working 0 2 = none :=
  ⟨next_of aSess (by decide +kernel) (by decide +kernel), by decide +kernel⟩
theorem test_w_host_serves : Serves working cmd (.memWrite cmd 1 0x400000 [7, 8]) ∧ Serves working cmd (.memRead cmd 1 0x400000 2) ∧
    Serves working cmd (.load cmd 1 [] 0x400000 0x4000 0x8000) ∧ isOut working 0 = false :=
  ⟨serves_of (by decide +kernel), serves_of (by decide +kernel), serves_of (by decide +kernel), by decide +kernel⟩
theorem test_counter : runs (.counterRead cmd 1 (some 1)) working (fun t => t.out = [.ok cmd [1]]) = true := by decide +kernel
theorem test_w_held_write : memHeld { working with pkgs := [{ readyPkg with run := some (1, ckptWords 1) }] } 0 1 0x400000 2 = true ∧
    NextOf cmd { working with pkgs := [{ readyPkg with run := some (1, ckptWords 1) }] } :=
  ⟨by decide +kernel, next_of aSess (by decide +kernel) (by decide +kernel)⟩
theorem test_w_host_accesses : memHeld working 0 1 0x400000 2 = false ∧ memHeld working 0 1 0xF000000000000040 2 = false ∧ Memory.wf working.mem ∧ transferOf working 0 1 ≠ none ∧ (codeIn working 0 1 0x400000 2).1 = false ∧
    ((hostHits working 0 1 permW false 0x400000 2).map (fun hs => decide ((hs.map (·.loc)).Nodup))) = some true ∧
    hostHits working 0 1 permR false 0x200000000 2 = none ∧ (hostHits working 0 1 permR false 0x400000 2).isSome = true ∧
    driverAddr 0xF000000000000040 2 = some (0, 64) ∧ (podOf working 0).isSome = true ∧ working.images = [] ∧ working.poison = [] ∧
    poisoned { working with poison := [driverLoc 0 64] } (driverLoc 0 (64 + 0)) = true := by decide +kernel
theorem test_mem_write : runs (.memWrite cmd 1 0x400000 [7, 8]) working (fun t => memByte t (hbmLoc 0 0x400001) = 8 ∧ t.out = [.ok cmd []]) = true := by decide +kernel
theorem test_w_load : CellsWf 0 working.code ∧ (match loadsTo working 0 1 [] 0x4000 0x8000 with
      | some (.error e) => (match hostHits working 0 1 permW false 0x400000 (wordBytes (loadResult (.error e))).length with
        | some hs => decide ((hs.map (·.loc)).Nodup)
        | none => false)
      | _ => false) = true ∧ hostHits working 0 1 permW false 0x200000000 8 = none ∧ meetsCode working 0 1 (.error { code := 0x03, value := 0 }) 0x400000 16 = false ∧
    meetsCode working 0 1 (.error { code := 0x03, value := 0 }) 0x1000 16 = true := by decide +kernel
/-- A launch record for graph 1 of job 1: root level 1, function 0x1000, the tile. -/
def goodRec : List Word := [0x0001000100000101, 0x1000, 0, 0, 0, 0, 0, 0] ++ tile1000
theorem test_w_submits : working.queues.find? (fun x => x.pkg = 0 && x.q = 5) = some ⟨0, 5, 1, []⟩ ∧ goodRec.length = 16 ∧ owned.sess = some (0, 3) ∧
    owned.graphs.find? (fun g => g.idx = fld (rw goodRec 0) 47 32) = some aGraph ∧ (∀ g ∈ owned.graphs, g.idx = aGraph.idx → g = aGraph) ∧ aGraph.sealed = false ∧
    recordFails working 0 owned goodRec = false ∧ recordFails working 0 owned (goodRec.set 6 1) = true ∧
    256 ≤ (List.replicate 256 (⟨goodRec, 1, 1, false⟩ : QRec)).length ∧ (∃ g ∈ owned.graphs, g.idx = 1) := by decide +kernel
theorem test_submit : runs (.submit cmd 5 [goodRec]) working (fun t => t.queues.flatMap (fun q => q.recs.map (·.number)) = [4] ∧ t.out = [.ok cmd []]) = true := by
  decide +kernel
/-- A Save request of job 1, to the driver region, deadline 200 microseconds. -/
def saveReq : List Word := [0x0001000000000001, 0xBC00200000, 0, 0]
def anImage (state : Nat) (gs : List Gang) (r : Option Cmd) : SaveImage :=
  { job := 1, pkg := 0, base := 0xBC00200000, mode := 0, state := state, cmd := cmd, deadline := 300, t0 := 0, t1 := 0, gangs := gs, saved := gs.length, fresh := 0, stopped := [], kiln := [], granary := []
    spad := [], faults := [], windows := [], acc := [], tiles := [], resuming := r }
def stopped : Gang := { b0.g with stopping := true }
def saving : State := { working with g := stopped, images := [anImage 0 [] none], cycle := 300 }
theorem test_w_saves : saveBad working 0 saveReq = false ∧ saveBad working 0 [] = true ∧ gangOf working working.g.uid = some working.g ∧
    working.g.phase = .running ∧ working.g.cancelled = false ∧ isHeld working working.g = false ∧ imageOf saving 0 1 = some (anImage 0 [] none) ∧ jobOn saving 0 1 = some owned ∧
    saveReady { saving with cycle := 299 } (anImage 0 [] none) = true ∧ gangOf saving saving.g.uid = some saving.g ∧ inSlot saving.g = true ∧ saving.g.stopping = true ∧
    saving.g.inflight = [] ∧ saving.g.pend = [] ∧ (anImage 0 [] none).deadline = 300 ∧ 300 ≤ saving.cycle ∧ ({ saving with cycle := 299 } : State).cycle < 300 := by decide +kernel
/-- A checkpoint beside a save image without gangs. -/
theorem test_w_checkpoint_live : liveBytes (hosted b0) 0 = [] ∧ (let l := (liveBytes saving 0).map (·.1); l.Nodup ∧ l ≠ [] ∧ (l.all fun o => decide (o < Config.hbmBytes)) = true) ∧
    ckptPlan (ckptWords 1) = ckptPlan (ckptWords 2) := by decide +kernel
/-- The saved gang, alone in the image. -/
def saved (gs : List Gang) (r : Option Cmd) : State := { working with g := {}, images := [anImage 1 gs r] }
def resumeReq : List Word := [0x0001000000000002, 0xBC00200000, 0, 0]
theorem test_w_resumes : NextOf cmd (saved [stopped] none) ∧ imageOf (saved [stopped] none) 0 (fld (rw resumeReq 0) 63 48) = some (anImage 1 [stopped] none) ∧
    jobOn (saved [stopped] none) 0 (fld (rw resumeReq 0) 63 48) = some owned ∧ owned.ending = none ∧ owned.resident = true ∧ reqBad 2 resumeReq = false ∧
    (anImage 1 [stopped] none).base = (rw resumeReq 1).toNat ∧
    imageOf (saved [stopped] (some cmd)) 0 1 = some (anImage 1 [stopped] (some cmd)) ∧ imagePending (anImage 1 [stopped] (some cmd)) = 0 ∧
    ckptBusy (saved [stopped] (some cmd)) 0 = false ∧
    canReturn (saved [stopped] (some cmd)) (anImage 1 [stopped] (some cmd)) stopped = true ∧ gangOf (saved [stopped] (some cmd)) stopped.uid = none :=
  ⟨next_of aSess (by decide +kernel) (by decide +kernel), by decide +kernel⟩
def pending : Gang := { stopped with pend := [aPend] }
theorem test_w_image_reply : imageOf (saved [pending] none) 0 1 = some (anImage 1 [pending] none) ∧
    (anImage 1 [pending] none).gangs.find? (fun g => g.at_ = b0.g.at_) = some pending ∧ pending.pend.find? (fun p => p.id = 9 && p.left = 0 && p.far.all (fun f => flows (saved [pending] none) b0.g.at_.pkg f.2.2)) = some aPend ∧ aPend.trap = [] := by
  decide +kernel

/-! What the agenda lets happen inside the table's steps. -/

/-- 18 R484: the two slots of a paired gang disagree on a store: nothing is sent, and the gang fails with paired-mismatch. -/
def twin (p : Bool) : State := let s := placed 0x86140006; { s with g := { s.g with pair := p }, agenda := [.mismatch b0.g.at_] }
theorem test_paired_mismatch : steps (twin true) (fun t => t.g.phase = .draining && t.g.xcause = 0x3A && t.g.xaddr = 4 && t.g.xpc = 0x1004 && t.stores = []) = true := by
  decide +kernel
theorem test_unpaired_has_no_mismatch : steps (twin false) (fun t => t.g.phase = .running && t.g.xpc = 0) = true := by decide +kernel
/-- 03 R107: the low half of a pending scalar shows; its completion leaves what was written there meanwhile. -/
def showing : State := { on (fun g => { g with pend := [{ aPend with ws := [.s 4 0x1111111122222222] }] }) with agenda := [.part b0.g.at_ 9 0 1] }
theorem test_part_shows : steps showing (fun t => t.g.s.toList[4]? = some 0x22222222 &&
    runs (.loadReply b0.g.at_ 9) { t with g := setS 4 7 t.g } (fun u => u.g.s.toList[4]? = some 0x1111111100000007)) = true := by decide +kernel
/-- 04 R155: an element that has moved before the completion does not move again. -/
def early : State := match step { carting with agenda := [.elements aCart.id [0]] } with
  | .next t => t
  | _ => carting
theorem test_elements_move_once : (early.carts.map (·.done), early.wseq) = ([[0]], carting.wseq + 1) ∧
    runs (.cartOpComplete aCart.id) early (fun t => t.wseq = early.wseq && t.carts = []) = true := by decide +kernel
/-- 21 R525: an uncorrectable error takes a unit of 32 bytes of HBM. -/
theorem test_error_takes_a_unit : steps { b0 with agenda := [.error (hbmLoc 0 0x47)] } (fun t => poisoned t (hbmLoc 0 0x5F) && !poisoned t (hbmLoc 0 0x60) &&
    !poisoned t (hbmLoc 0 0x3F)) = true := by decide +kernel

end Sys2Proof.Tests
end

section
/-! SUPPORT. Lanes, masks and the check of register groups, and what folds over a list of lane values give. -/

namespace Sys2Proof.Proofs

open Sys2Proof.Machine Sys2Proof.Claims Sys2Proof.Laws

/-! Masks and lanes -/

theorem mem_lanesOf (m : W32) (l : Nat) : l ∈ lanesOf m ↔ l < 32 ∧ inMask m l = true := by
  simp [lanesOf]
theorem lanesOf_sorted (m : W32) : (lanesOf m).Pairwise (· < ·) := List.pairwise_lt_range.filter _
theorem mem_activeLanes (s : State) (l : Nat) : l ∈ lanesOf (execMask s.g) ↔ Active s l := mem_lanesOf _ l
/-- A single lane's bit. -/
theorem getLsbD_one_shiftLeft (n l : Nat) (hl : l < 32) : (1#32 <<< n).getLsbD l = decide (l = n) := by
  rw [BitVec.getLsbD_shiftLeft, BitVec.getLsbD_one]
  by_cases h : l = n
  · simp [h, h ▸ hl]
  · by_cases h2 : l < n <;> simp [h, h2, hl]; omega
/-- Whether a mask that is built up lane by lane holds a lane. -/
theorem getLsbD_foldr_lanes (f : Nat → Bool) {l : Nat} (hl : l < 32) : ∀ L : List Nat,
    (L.foldr (fun l m => if f l then m ||| (1#32 <<< l) else m) 0#32).getLsbD l = (decide (l ∈ L) && f l)
  | [] => by simp
  | n :: L => by
    have ih := getLsbD_foldr_lanes f hl L
    have hbit := getLsbD_one_shiftLeft n l hl
    by_cases hn : f n = true <;> by_cases h : l = n <;> simp_all
@[simp] theorem inMask_maskOf (f : Nat → Bool) {l : Nat} (hl : l < 32) : inMask (maskOf f) l = f l := by
  simpa [inMask, maskOf, hl] using getLsbD_foldr_lanes f hl (List.range 32)
theorem inMask_maskActive {s : State} (f : Nat → Bool) {l : Nat} (hl : l < 32) :
    inMask (maskActive s.g f) l = true ↔ Active s l ∧ f l = true := by
  simp [maskActive, hl, Active]
/-- A vector instruction whose registers are held takes its effect and goes on (03 R115, 09 R279). -/
theorem vecOp_of_holds {s : State} {regs : List (Reg × Nat)} (h : Holds s.g regs) (k : State → State) :
    vecOp regs k s = .next (next (k s)) := by
  simp only [vecOp, blockTrap_none s.g regs h]
theorem holds_cons {g : Gang} {r : Reg × Nat} {rs : List (Reg × Nat)} : Holds g (r :: rs) ↔ Holds g [r] ∧ Holds g rs := by
  simp [Holds]

/-! Folds over lane values -/

section Folds

variable {α β : Type}

/-- A fold of choices of the lesser of two values gives the least one. -/
theorem foldl_choice_le {op : α → α → α} {le : α → α → Prop} (hr : ∀ a, le a a) (ht : ∀ a b c, le a b → le b c → le a c)
    (hop : ∀ a b, le (op a b) a ∧ le (op a b) b) : ∀ (xs : List α) (e : α),
    le (xs.foldl op e) e ∧ ∀ x ∈ xs, le (xs.foldl op e) x
  | [], e => ⟨hr e, by simp⟩
  | y :: xs, e => by
    obtain ⟨he, hx⟩ := foldl_choice_le hr ht hop xs (op e y)
    refine ⟨ht _ _ _ he (hop e y).1, fun x h => ?_⟩
    rcases List.mem_cons.1 h with rfl | h
    · exact ht _ _ _ he (hop e x).2
    · exact hx x h
/-- A fold of choices gives the start value or one of the list. -/
theorem foldl_choice_mem {op : α → α → α} (hop : ∀ a b, op a b = a ∨ op a b = b) : ∀ (xs : List α) (e : α),
    xs.foldl op e ∈ e :: xs
  | [], e => by simp
  | y :: xs, e => by
    have := foldl_choice_mem hop xs (op e y)
    rcases hop e y with h | h <;> simp_all [List.foldl_cons]; tauto
/-- From the identity, it gives one of the list. -/
theorem foldl_choice_mem_of_ne_nil {op : α → α → α} {e : α} (hop : ∀ a b, op a b = a ∨ op a b = b) (he : ∀ x, op e x = x) :
    ∀ {xs : List α}, xs ≠ [] → xs.foldl op e ∈ xs
  | [], h => absurd rfl h
  | y :: xs, _ => by
    rw [List.foldl_cons, he]
    exact foldl_choice_mem hop xs y
/-- A fold under a map that carries one operation into a commutative and associative other. -/
theorem foldl_key {op : α → α → α} {opb : β → β → β} {key : α → β} (hk : ∀ a b, key (op a b) = opb (key a) (key b))
    (hc : ∀ a b, opb a b = opb b a) (ha : ∀ a b c, opb (opb a b) c = opb a (opb b c)) (xs : List α) (e : α) :
    key (xs.foldl op e) = (xs.map key).foldr opb (key e) := by
  have : Std.Commutative opb := ⟨hc⟩
  have : Std.Associative opb := ⟨ha⟩
  rw [← List.foldl_eq_foldr, List.foldl_map]
  exact (List.foldl_hom key (fun a b => (hk a b).symm)).symm

end Folds

/-! The integer minima and maxima (10 R323, 11 R343) -/

section MinMax

variable {w : Nat} (a b : BitVec w)

theorem toInt_minMaxVal_min : (minMaxVal .min a b).toInt = min a.toInt b.toInt := by
  simp only [minMaxVal, BitVec.slt_iff_toInt_lt]
  split <;> omega
theorem toInt_minMaxVal_max : (minMaxVal .max a b).toInt = max a.toInt b.toInt := by
  simp only [minMaxVal, BitVec.slt_iff_toInt_lt]
  split <;> omega
theorem toNat_minMaxVal_minu : (minMaxVal .minu a b).toNat = min a.toNat b.toNat := by
  simp only [minMaxVal, BitVec.ult_iff_toNat_lt]
  split <;> omega
theorem toNat_minMaxVal_maxu : (minMaxVal .maxu a b).toNat = max a.toNat b.toNat := by
  simp only [minMaxVal, BitVec.ult_iff_toNat_lt]
  split <;> omega
theorem minMaxVal_mem (m : MinMaxOp) : minMaxVal m a b = a ∨ minMaxVal m a b = b := by
  cases m <;> simp only [minMaxVal] <;> split <;> simp

end MinMax

theorem foldl_add_toNat (xs : List W32) (e : W32) :
    (xs.foldl (· + ·) e).toNat = (e.toNat + (xs.map (·.toNat)).sum) % 2 ^ 32 := by
  induction xs generalizing e with
  | nil => simpa using (Nat.mod_eq_of_lt e.isLt).symm
  | cons x xs ih => simp [ih, Nat.add_assoc]
theorem foldl_and_getLsbD (xs : List W32) (e : W32) (i : Nat) :
    (xs.foldl (· &&& ·) e).getLsbD i = true ↔ e.getLsbD i = true ∧ ∀ x ∈ xs, x.getLsbD i = true := by
  induction xs generalizing e with
  | nil => simp
  | cons x xs ih => simp [ih, and_assoc]
theorem foldl_or_getLsbD (xs : List W32) (e : W32) (i : Nat) :
    (xs.foldl (· ||| ·) e).getLsbD i = true ↔ e.getLsbD i = true ∨ ∃ x ∈ xs, x.getLsbD i = true := by
  induction xs generalizing e with
  | nil => simp
  | cons x xs ih => simp [ih, or_assoc]
theorem foldl_xor_getLsbD (xs : List W32) (e : W32) (i : Nat) :
    (xs.foldl (· ^^^ ·) e).getLsbD i = (e.getLsbD i ^^ decide ((xs.filter (fun x => x.getLsbD i)).length % 2 = 1)) := by
  induction xs generalizing e with
  | nil => simp
  | cons x xs ih =>
    rw [List.foldl_cons, ih, BitVec.getLsbD_xor, List.filter_cons]
    cases hx : x.getLsbD i
    · simp
    · simp only [if_true, List.length_cons, Bool.xor_assoc, Bool.true_xor]
      congr 1
      rw [← decide_not, decide_eq_decide]
      omega

end Sys2Proof.Proofs
end

section
/-! SUPPORT. Moves, votes, reductions and scans over the lanes of a gang (11 R339 to R343). -/

namespace Sys2Proof.Proofs

open Sys2Proof.Machine Sys2Proof.Claims Sys2Proof.Laws

/-! Moves and permutes -/

theorem lo32_toNat (x : Word) : (lo32 x).toNat = x.toNat % 2 ^ 32 := by simp [lo32]

/-- A vector instruction whose effect is one result to the active lanes. -/
theorem vectorGives_vecOp {i : Instr} {lat : Nat} {d : Reg} {s : State} {regs : List (Reg × Nat)} {P : Nat → W32 → Prop}
    (val : State → Nat → W32) (hi : exec i s = vecOp regs (fun s => putV lat d (val s) s) s) (h : Holds s.g regs)
    (hP : ∀ l, Active s l → P l (val s l)) : VectorGives i lat d s P :=
  ⟨val s, hi.trans (vecOp_of_holds h _), hP⟩

/-- Every form of `vmov`, and `vperm`. -/
theorem vectorMovesAndPermutes : Claims.VectorMovesAndPermutes := by
  intro s d a b n k z hd
  have both {r : Reg} (hr : Holds s.g [(r, 1)]) : Holds s.g [(d, 1), (r, 1)] := holds_cons.2 ⟨hd, hr⟩
  refine ⟨fun ha => ⟨vectorGives_vecOp (fun s => srcA s.g a) rfl (both ha) fun l _ => rfl, ?_⟩,
    vectorGives_vecOp (fun s _ => lo32 (sreg s.g a)) rfl hd fun l _ => lo32_toNat _,
    vectorGives_vecOp (fun s _ => (sreg s.g a).extractLsb' 32 32) rfl hd fun l _ => ?_,
    vectorGives_vecOp (fun _ => w32) rfl hd fun l hl => ?_,
    vectorGives_vecOp (fun s l => if inMask (mreg s.g k) l then 1 else 0) rfl hd fun l _ => ?_,
    ⟨fun _ => lo32 (sreg s.g a), execMask s.g &&& (1#32 <<< n.toNat), ?_, fun l hl => ⟨?_, fun _ => lo32_toNat _⟩⟩,
    fun ha hb => vectorGives_vecOp (fun s l => let i := lane (vreg s.g b) l
      if z && i.toNat / 32 ≠ 0 then 0 else srcA s.g a (i.toNat % 32)) rfl (holds_cons.2 ⟨hd, holds_cons.2 ⟨ha, hb⟩⟩) fun l _ => ?_⟩
  case refine_1 =>
    show execVmov (.x d a n) s = _
    rw [execVmov, vecOp_of_holds ha]
    rfl
  case refine_2 =>
    have := (sreg s.g a).isLt
    simp only [BitVec.extractLsb'_toNat, Nat.shiftRight_eq_div_pow]
    omega
  case refine_3 =>
    have := hl.1
    simp only [w32, BitVec.toNat_ofNat]
    omega
  case refine_4 =>
    show (if inMask (mreg s.g k) l then (1 : W32) else 0).toNat = _
    unfold inMask
    split <;> rfl
  case refine_5 =>
    show execVmov (.ins d a n) s = _
    rw [execVmov, vecOp_of_holds hd]
    rfl
  case refine_6 =>
    simp only [inMask, BitVec.getLsbD_and, getLsbD_one_shiftLeft n.toNat l hl, Active, hl, true_and, Bool.and_eq_true, decide_eq_true_eq]
  case refine_7 =>
    simp only [Bool.and_eq_true, decide_eq_true_eq]
    congr 1
    have : (lane (vreg s.g b) l).toNat / 32 ≠ 0 ↔ 32 ≤ (lane (vreg s.g b) l).toNat := by omega
    rw [this]

/-! Votes and reductions -/

/-- A scalar that `vvote` gives. -/
theorem scalarGives_vvote {s : State} {a : Reg} (h : Holds s.g [(a, 1)]) (d : Reg) {m : VVoteOp} (hm : m ≠ .ballot) {P : Word → Prop}
    (hP : P (voteVal s.g a m)) : ScalarGives (.vvote d a m) 4 d s P :=
  ⟨_, by
    show execVvote d a m s = _
    rw [execVvote, vecOp_of_holds h]
    simp only [if_neg hm]
    rfl, hP⟩
/-- The lanes where a value differs from 0. -/
theorem mem_nonzero (s : State) (a : Reg) (l : Nat) :
    l ∈ (lanesOf (execMask s.g)).filter (fun l => srcA s.g a l ≠ 0) ↔ Active s l ∧ srcA s.g a l ≠ 0 := by
  simp [mem_activeLanes]
theorem headD_of_sorted {L : List Nat} (hs : L.Pairwise (· < ·)) (d : Nat) (hne : L ≠ []) :
    L.headD d ∈ L ∧ ∀ x ∈ L, L.headD d ≤ x := by
  cases L with
  | nil => exact absurd rfl hne
  | cons y L =>
    refine ⟨by simp, fun x hx => ?_⟩
    rcases List.mem_cons.1 hx with rfl | hx
    · exact Nat.le_refl _
    · exact Nat.le_of_lt ((List.pairwise_cons.1 hs).1 x hx)

theorem voteVal_any (s : State) (a : Reg) :
    voteVal s.g a .any = 0 ∧ (∀ l, ¬ (Active s l ∧ srcA s.g a l ≠ 0)) ∨ voteVal s.g a .any = 1 ∧ ∃ l, Active s l ∧ srcA s.g a l ≠ 0 := by
  simp only [voteVal, ← mem_nonzero]
  cases (lanesOf (execMask s.g)).filter (fun l => srcA s.g a l ≠ 0) with
  | nil => simp
  | cons x L => exact .inr ⟨rfl, x, by simp⟩
theorem voteVal_all (s : State) (a : Reg) :
    voteVal s.g a .all = 1 ∧ (∀ l, ¬ (Active s l ∧ srcA s.g a l = 0)) ∨ voteVal s.g a .all = 0 ∧ ∃ l, Active s l ∧ srcA s.g a l = 0 := by
  simp only [voteVal, ← mem_activeLanes, List.length_filter_eq_length_iff]
  by_cases h : ∀ l ∈ lanesOf (execMask s.g), decide (srcA s.g a l ≠ 0) = true
  · exact .inl ⟨if_pos h, by simpa using h⟩
  · exact .inr ⟨if_neg h, by simpa using h⟩
theorem voteVal_uni (s : State) (a : Reg) :
    voteVal s.g a .uni = 1 ∧ (∀ l m, Active s l → Active s m → srcA s.g a l = srcA s.g a m) ∨
      voteVal s.g a .uni = 0 ∧ ∃ l m, Active s l ∧ Active s m ∧ srcA s.g a l ≠ srcA s.g a m := by
  simp only [voteVal, ← mem_activeLanes]
  cases hL : lanesOf (execMask s.g) with
  | nil => simp
  | cons x L =>
    by_cases h : (x :: L).all (fun l => decide (srcA s.g a l = srcA s.g a ((x :: L).headD 0))) = true
    · refine .inl ⟨if_pos h, fun l m hl hm => ?_⟩
      have hx : ∀ l ∈ x :: L, srcA s.g a l = srcA s.g a x := by simpa using h
      rw [hx l hl, hx m hm]
    · obtain ⟨l, hl, hne⟩ : ∃ l ∈ x :: L, srcA s.g a l ≠ srcA s.g a x := by simpa using h
      exact .inr ⟨if_neg h, l, x, hl, by simp, hne⟩
theorem voteVal_popc (s : State) (a : Reg) :
    (voteVal s.g a .popc).toNat = ((lanesOf (execMask s.g)).filter (fun l => srcA s.g a l ≠ 0)).length := by
  have h1 := List.length_filter_le (fun l => decide (srcA s.g a l ≠ 0)) (lanesOf (execMask s.g))
  have h2 : (lanesOf (execMask s.g)).length ≤ 32 := by
    simpa [lanesOf] using List.length_filter_le (inMask (execMask s.g)) (List.range 32)
  simp only [voteVal, wd, BitVec.toNat_ofNat]
  omega
theorem voteVal_first (s : State) (a : Reg) :
    voteVal s.g a .first = 32 ∧ (∀ l, ¬ (Active s l ∧ srcA s.g a l ≠ 0)) ∨
      (Active s (voteVal s.g a .first).toNat ∧ srcA s.g a (voteVal s.g a .first).toNat ≠ 0) ∧
        ∀ l < (voteVal s.g a .first).toNat, ¬ (Active s l ∧ srcA s.g a l ≠ 0) := by
  have hs := (lanesOf_sorted (execMask s.g)).filter (fun l => decide (srcA s.g a l ≠ 0))
  simp only [← mem_nonzero, voteVal]
  by_cases hne : (lanesOf (execMask s.g)).filter (fun l => decide (srcA s.g a l ≠ 0)) = []
  · exact .inl ⟨by rw [hne]; rfl, by rw [hne]; exact fun _ => List.not_mem_nil⟩
  · obtain ⟨hm, hl⟩ := headD_of_sorted hs 32 hne
    have hlt : ((lanesOf (execMask s.g)).filter (fun l => decide (srcA s.g a l ≠ 0))).headD 32 < 32 :=
      ((mem_nonzero s a _).1 hm).1.1
    have hw : (wd (((lanesOf (execMask s.g)).filter (fun l => decide (srcA s.g a l ≠ 0))).headD 32)).toNat =
        ((lanesOf (execMask s.g)).filter (fun l => decide (srcA s.g a l ≠ 0))).headD 32 := by
      simp only [wd, BitVec.toNat_ofNat]
      omega
    rw [hw]
    exact .inr ⟨hm, fun l h hl' => absurd (hl l hl') (by omega)⟩

/-- What `vredl` does over the values of the active lanes. -/
theorem exec_vredl {s : State} {a : Reg} (h : Holds s.g [(a, 1)]) (d : Reg) (o : VRedlOp) :
    exec (.vredl d a o) s =
      .next (done [(8, .s d.toNat ((redlVal o ((lanesOf (execMask s.g)).map (srcA s.g a))).1.setWidth 64)),
        (8, .fp (redlVal o ((lanesOf (execMask s.g)).map (srcA s.g a))).2)] s) := by
  show execVredl d a o s = _
  rw [execVredl, vecOp_of_holds h]
  rfl
/-- The scalar of a form of `vredl` that raises no flag. -/
theorem vredl_gives {s : State} {a : Reg} (h : Holds s.g [(a, 1)]) (d : Reg) {o : VRedlOp} {f : List W32 → W32}
    (ho : ∀ xs, redlVal o xs = (f xs, 0)) {P : Word → Prop}
    (hP : P ((f ((lanesOf (execMask s.g)).map (srcA s.g a))).setWidth 64)) :
    ∃ z, exec (.vredl d a o) s = .next (done [(8, .s d.toNat z), (8, .fp 0)] s) ∧ P z :=
  ⟨_, by rw [exec_vredl h, ho], hP⟩

theorem minMaxVal_le_min (a b : W32) : (minMaxVal .min a b).toInt ≤ a.toInt ∧ (minMaxVal .min a b).toInt ≤ b.toInt := by
  rw [toInt_minMaxVal_min]; omega
theorem minMaxVal_ge_max (a b : W32) : a.toInt ≤ (minMaxVal .max a b).toInt ∧ b.toInt ≤ (minMaxVal .max a b).toInt := by
  rw [toInt_minMaxVal_max]; omega
theorem minMaxVal_le_minu (a b : W32) : (minMaxVal .minu a b).toNat ≤ a.toNat ∧ (minMaxVal .minu a b).toNat ≤ b.toNat := by
  rw [toNat_minMaxVal_minu]; omega
theorem minMaxVal_ge_maxu (a b : W32) : a.toNat ≤ (minMaxVal .maxu a b).toNat ∧ b.toNat ≤ (minMaxVal .maxu a b).toNat := by
  rw [toNat_minMaxVal_maxu]; omega
theorem minMaxVal_min_top (x : W32) : minMaxVal .min 0x7FFFFFFF x = x := by
  have := BitVec.toInt_lt (x := x)
  apply BitVec.eq_of_toInt_eq
  rw [toInt_minMaxVal_min, show (0x7FFFFFFF : W32).toInt = 2147483647 from rfl]
  omega
theorem minMaxVal_max_bot (x : W32) : minMaxVal .max 0x80000000 x = x := by
  have := BitVec.le_toInt (x := x)
  apply BitVec.eq_of_toInt_eq
  rw [toInt_minMaxVal_max, show (0x80000000 : W32).toInt = -2147483648 from rfl]
  omega
theorem minMaxVal_minu_top (x : W32) : minMaxVal .minu 0xFFFFFFFF x = x := by
  have := x.isLt
  apply BitVec.eq_of_toNat_eq
  rw [toNat_minMaxVal_minu, show (0xFFFFFFFF : W32).toNat = 4294967295 from rfl]
  omega
theorem minMaxVal_maxu_bot (x : W32) : minMaxVal .maxu 0 x = x := by
  apply BitVec.eq_of_toNat_eq
  rw [toNat_minMaxVal_maxu]
  simp

/-- A minimum over a list is none of its greater values, and one of them unless the list is empty. -/
theorem foldl_min (xs : List W32) : (∀ x ∈ xs, (xs.foldl (minMaxVal .min) 0x7FFFFFFF).toInt ≤ x.toInt) ∧
    (xs ≠ [] → xs.foldl (minMaxVal .min) 0x7FFFFFFF ∈ xs) :=
  ⟨(foldl_choice_le (le := fun a b : W32 => a.toInt ≤ b.toInt) (fun _ => Int.le_refl _) (fun _ _ _ => Int.le_trans)
    minMaxVal_le_min xs _).2, foldl_choice_mem_of_ne_nil (fun a b => minMaxVal_mem a b _) minMaxVal_min_top⟩
theorem foldl_max (xs : List W32) : (∀ x ∈ xs, x.toInt ≤ (xs.foldl (minMaxVal .max) 0x80000000).toInt) ∧
    (xs ≠ [] → xs.foldl (minMaxVal .max) 0x80000000 ∈ xs) :=
  ⟨(foldl_choice_le (le := fun a b : W32 => b.toInt ≤ a.toInt) (fun _ => Int.le_refl _) (fun _ _ _ h h' => Int.le_trans h' h)
    minMaxVal_ge_max xs _).2, foldl_choice_mem_of_ne_nil (fun a b => minMaxVal_mem a b _) minMaxVal_max_bot⟩
theorem foldl_minu (xs : List W32) : (∀ x ∈ xs, (xs.foldl (minMaxVal .minu) 0xFFFFFFFF).toNat ≤ x.toNat) ∧
    (xs ≠ [] → xs.foldl (minMaxVal .minu) 0xFFFFFFFF ∈ xs) :=
  ⟨(foldl_choice_le (le := fun a b : W32 => a.toNat ≤ b.toNat) (fun _ => Nat.le_refl _) (fun _ _ _ => Nat.le_trans)
    minMaxVal_le_minu xs _).2, foldl_choice_mem_of_ne_nil (fun a b => minMaxVal_mem a b _) minMaxVal_minu_top⟩
theorem foldl_maxu (xs : List W32) : (∀ x ∈ xs, x.toNat ≤ (xs.foldl (minMaxVal .maxu) 0).toNat) ∧
    (xs ≠ [] → xs.foldl (minMaxVal .maxu) 0 ∈ xs) :=
  ⟨(foldl_choice_le (le := fun a b : W32 => b.toNat ≤ a.toNat) (fun _ => Nat.le_refl _) (fun _ _ _ h h' => Nat.le_trans h' h)
    minMaxVal_ge_maxu xs _).2, foldl_choice_mem_of_ne_nil (fun a b => minMaxVal_mem a b _) minMaxVal_maxu_bot⟩

theorem setWidth32_setWidth64 (z : W32) : (z.setWidth 64).setWidth 32 = z := by simp
theorem toNat_setWidth64 (z : W32) : (z.setWidth 64).toNat = z.toNat := by
  have := z.isLt
  simp only [BitVec.toNat_setWidth]
  omega

theorem getLsbD_setWidth64 (z : W32) {i : Nat} (hi : i < 32) : (z.setWidth 64).getLsbD i = z.getLsbD i := by
  simp only [BitVec.getLsbD_setWidth, show i < 64 by omega, decide_true, Bool.true_and]

/-- `vredl` of a least or greatest value: a bound of the active lanes' keys, and one of their values unless no lane is active. -/
theorem bound_over_lanes (s : State) (a : Reg) (le : W32 → W32 → Prop) (f : List W32 → W32)
    (hf : ∀ xs, (∀ x ∈ xs, le (f xs) x) ∧ (xs ≠ [] → f xs ∈ xs)) :
    let z := f ((lanesOf (execMask s.g)).map (srcA s.g a))
    (∀ l, Active s l → le z (srcA s.g a l)) ∧
      if lanesOf (execMask s.g) = [] then z = f [] else ∃ l ∈ lanesOf (execMask s.g), z = srcA s.g a l := by
  obtain ⟨hle, hmem⟩ := hf ((lanesOf (execMask s.g)).map (srcA s.g a))
  refine ⟨fun l hl => hle _ (List.mem_map_of_mem ((mem_activeLanes s l).2 hl)), ?_⟩
  split
  · next h => rw [h, List.map_nil]
  · next h =>
    obtain ⟨l, hl, he⟩ := List.mem_map.1 (hmem (by simpa using h))
    exact ⟨l, hl, he.symm⟩

/-- `vvote` and the integer forms of `vredl`. -/
theorem votesAndReductionsOverLanes : Claims.VotesAndReductionsOverLanes := by
  intro s d a k ha
  have vote {m : VVoteOp} (hm : m ≠ .ballot) {P : Word → Prop} (hP : P (voteVal s.g a m)) := scalarGives_vvote ha d hm hP
  have redl {o : VRedlOp} {f : List W32 → W32} (ho : ∀ xs, redlVal o xs = (f xs, 0)) {P : Word → Prop}
      (hP : P ((f ((lanesOf (execMask s.g)).map (srcA s.g a))).setWidth 64)) := vredl_gives ha d ho hP
  refine ⟨vote (by decide) (voteVal_any s a), vote (by decide) (voteVal_all s a), vote (by decide) (voteVal_uni s a),
    vote (by decide) (voteVal_popc s a), vote (by decide) (voteVal_first s a), ⟨lo32 (voteVal s.g a .ballot), ?_, fun l hl => ?_⟩,
    redl (fun _ => rfl) ?_, redl (fun _ => rfl) fun i hi => ?_, redl (fun _ => rfl) fun i hi => ?_,
    redl (fun _ => rfl) fun i hi => ?_, redl (fun _ => rfl) ?_, redl (fun _ => rfl) ?_,
    redl (fun _ => rfl) ⟨?_, ?_⟩, redl (fun _ => rfl) ⟨?_, ?_⟩⟩
  case refine_1 =>
    show execVvote (k.setWidth 7) a .ballot s = _
    rw [execVvote, vecOp_of_holds ha, if_pos rfl, putK, BitVec.setWidth_setWidth_of_le k (by omega), BitVec.setWidth_eq]
    rfl
  case refine_2 =>
    have hw : lo32 (voteVal s.g a .ballot) = maskActive s.g (fun l => srcA s.g a l ≠ 0) := setWidth32_setWidth64 _
    rw [hw, inMask_maskActive _ hl]
    simp
  case refine_3 =>
    rw [toNat_setWidth64, foldl_add_toNat, List.map_map]
    simp [Function.comp_def]
  case refine_4 =>
    rw [getLsbD_setWidth64 _ hi, foldl_and_getLsbD]
    have h1 : (0xFFFFFFFF : W32).getLsbD i = true := by
      rw [show (0xFFFFFFFF : W32) = BitVec.allOnes 32 from rfl, BitVec.getLsbD_allOnes]
      exact decide_eq_true hi
    simp only [h1, true_and, List.forall_mem_map, mem_activeLanes]
  case refine_5 =>
    rw [getLsbD_setWidth64 _ hi, foldl_or_getLsbD]
    simp [mem_activeLanes]
  case refine_6 =>
    rw [getLsbD_setWidth64 _ hi, foldl_xor_getLsbD, List.filter_map, List.length_map]
    simp [Function.comp_def]
  case refine_7 =>
    obtain ⟨hle, hmem⟩ := bound_over_lanes s a (fun a b => a.toNat ≤ b.toNat) _ foldl_minu
    refine ⟨fun l hl => (toNat_setWidth64 _).trans_le (hle l hl), ?_⟩
    split_ifs at hmem ⊢
    · rw [hmem]; rfl
    · obtain ⟨l, hl, he⟩ := hmem
      exact ⟨l, hl, by rw [toNat_setWidth64, he]⟩
  case refine_8 =>
    obtain ⟨hle, hmem⟩ := bound_over_lanes s a (fun a b => b.toNat ≤ a.toNat) _ foldl_maxu
    refine ⟨fun l hl => (hle l hl).trans_eq (toNat_setWidth64 _).symm, ?_⟩
    split_ifs at hmem ⊢
    · rw [hmem]; rfl
    · obtain ⟨l, hl, he⟩ := hmem
      exact ⟨l, hl, by rw [toNat_setWidth64, he]⟩
  case refine_9 | refine_11 => exact (toNat_setWidth64 _).trans_lt (BitVec.isLt _)
  case refine_10 =>
    obtain ⟨hle, hmem⟩ := bound_over_lanes s a (fun a b => a.toInt ≤ b.toInt) _ foldl_min
    simp only [setWidth32_setWidth64]
    refine ⟨hle, ?_⟩
    split_ifs at hmem ⊢
    · rw [hmem]; rfl
    · exact hmem
  case refine_12 =>
    obtain ⟨hle, hmem⟩ := bound_over_lanes s a (fun a b => b.toInt ≤ a.toInt) _ foldl_max
    simp only [setWidth32_setWidth64]
    refine ⟨hle, ?_⟩
    split_ifs at hmem ⊢
    · rw [hmem]; rfl
    · exact hmem

/-! Scans -/

/-- What `vscan` has combined from the lanes of a list, the identity for none (11 R342). -/
def scanned (o : VScanOp) (v : Nat → W32) : List Nat → W32
  | [] => scanId o
  | l :: L => L.foldl (fun p m => (scanOp o p (v m)).1) (v l)
/-- The value that the outputs of `vscan` list for a lane. -/
def outputOf (t : List (Nat × W32)) (l : Nat) : W32 := ((t.find? (fun p => p.1 = l)).map (·.2)).getD 0

/-- The lanes of a list that a scan combines for lane `l`. -/
def lanesUpTo (ex : Bool) (l : Nat) (L : List Nat) : List Nat := L.filter (fun m => if ex then m < l else m ≤ l)

theorem scanned_concat (o : VScanOp) (v : Nat → W32) {L : List Nat} (hL : L ≠ []) (m : Nat) :
    scanned o v (L ++ [m]) = (scanOp o (scanned o v L) (v m)).1 := by
  cases L with
  | nil => exact absurd rfl hL
  | cons l L => simp [scanned]
theorem outputOf_cons_self (l : Nat) (x : W32) (t : List (Nat × W32)) : outputOf ((l, x) :: t) l = x := by simp [outputOf]
theorem outputOf_cons_ne {n l : Nat} (h : n ≠ l) (x : W32) (t : List (Nat × W32)) : outputOf ((n, x) :: t) l = outputOf t l := by
  simp [outputOf, h]
theorem lanesUpTo_of_le (ex : Bool) {l : Nat} {L : List Nat} (h : ∀ m ∈ L, l < m) : lanesUpTo ex l (l :: L) = if ex then [] else [l] := by
  have hL : L.filter (fun m => if ex then m < l else m ≤ l) = [] := by
    refine List.filter_eq_nil_iff.2 fun m hm => ?_
    have := h m hm
    cases ex <;> simp <;> omega
  cases ex <;> simp_all [lanesUpTo]
theorem lanesUpTo_cons_of_lt (ex : Bool) {n l : Nat} (h : n < l) (L : List Nat) : lanesUpTo ex l (n :: L) = n :: lanesUpTo ex l L := by
  cases ex
  · simp [lanesUpTo, h.le]
  · simp [lanesUpTo, h]

/-- Behind a value combined so far, a lane gets that value combined with those of the lanes up to it. -/
theorem outputOf_scanLanes_some (o : VScanOp) (ex : Bool) (v : Nat → W32) {l : Nat} : ∀ {L : List Nat} (p : W32),
    L.Pairwise (· < ·) → l ∈ L → outputOf (scanLanes o ex v L (some p)).1 l =
      (lanesUpTo ex l L).foldl (fun p m => (scanOp o p (v m)).1) p
  | n :: L, p, hs, hl => by
    obtain ⟨hn, hs⟩ := List.pairwise_cons.1 hs
    rcases List.mem_cons.1 hl with rfl | hl
    · rw [scanLanes, outputOf_cons_self, lanesUpTo_of_le ex hn]
      cases ex <;> rfl
    · rw [scanLanes, outputOf_cons_ne (hn l hl).ne, outputOf_scanLanes_some o ex v _ hs hl, lanesUpTo_cons_of_lt ex (hn l hl),
        List.foldl_cons]
/-- The outputs of `vscan`. -/
theorem outputOf_scanLanes (o : VScanOp) (ex : Bool) (v : Nat → W32) {l : Nat} {L : List Nat} (hs : L.Pairwise (· < ·)) (hl : l ∈ L) :
    outputOf (scanLanes o ex v L none).1 l = scanned o v (lanesUpTo ex l L) := by
  cases L with
  | nil => simp at hl
  | cons n L =>
    obtain ⟨hn, hs⟩ := List.pairwise_cons.1 hs
    rcases List.mem_cons.1 hl with rfl | hl
    · rw [scanLanes, outputOf_cons_self, lanesUpTo_of_le ex hn]
      cases ex <;> rfl
    · rw [scanLanes, outputOf_cons_ne (hn l hl).ne, outputOf_scanLanes_some o ex v _ hs hl, lanesUpTo_cons_of_lt ex (hn l hl)]
      rfl
/-- Only the floating-point scan raises flags. -/
theorem scanLanes_flags {o : VScanOp} (ho : o ≠ .fadd) (ex : Bool) (v : Nat → W32) : ∀ (L : List Nat) (p : Option W32),
    (scanLanes o ex v L p).2 = 0
  | [], none | [], some _ => rfl
  | l :: L, none => scanLanes_flags ho ex v L _
  | l :: L, some p => by
    have hop : (scanOp o p (v l)).2 = 0 := by
      cases o with
      | fadd => exact absurd rfl ho
      | _ => rfl
    rw [scanLanes, hop, scanLanes_flags ho ex v L]
    rfl
theorem scanOp_scanId {o : VScanOp} (ho : o ≠ .fadd) (x : W32) : (scanOp o (scanId o) x).1 = x := by
  cases o with
  | add => exact BitVec.zero_add x
  | fadd => exact absurd rfl ho
  | min => exact minMaxVal_min_top x
  | max => exact minMaxVal_max_bot x
  | minu => exact minMaxVal_minu_top x
  | maxu => exact minMaxVal_maxu_bot x
/-- An integer scan is a fold from the identity. -/
theorem scanned_eq_foldl {o : VScanOp} (ho : o ≠ .fadd) (v : Nat → W32) (L : List Nat) :
    scanned o v L = (L.map v).foldl (fun p x => (scanOp o p x).1) (scanId o) := by
  cases L with
  | nil => rfl
  | cons l L => simp [scanned, scanOp_scanId ho, List.foldl_map]

/-- What `vscan` sends on its way. -/
theorem exec_vscan {s : State} {d a : Reg} (h : Holds s.g [(d, 1), (a, 1)]) (ex : Bool) (o : VScanOp) :
    exec (.vscan d a ex o) s = .next (done [(8, .v (vnum s.g d) (execMask s.g)
        (mkLanes (outputOf (scanLanes o ex (srcA s.g a) (lanesOf (execMask s.g)) none).1))),
      (8, .fp (scanLanes o ex (srcA s.g a) (lanesOf (execMask s.g)) none).2)] s) := by
  show execVscan d a ex o s = _
  rw [execVscan, vecOp_of_holds h]
  rfl
theorem exec_vscan_flagless {s : State} {d a : Reg} (h : Holds s.g [(d, 1), (a, 1)]) (ex : Bool) {o : VScanOp} (ho : o ≠ .fadd) :
    exec (.vscan d a ex o) s = .next (done [(8, .v (vnum s.g d) (execMask s.g)
        (mkLanes (outputOf (scanLanes o ex (srcA s.g a) (lanesOf (execMask s.g)) none).1))), (8, .fp 0)] s) := by
  rw [exec_vscan h, scanLanes_flags ho]
/-- What a lane gets from an integer scan. -/
theorem outputOf_eq_foldl {s : State} {o : VScanOp} (ho : o ≠ .fadd) (a : Reg) (ex : Bool) {l : Nat}
    (hl : Active s l) : outputOf (scanLanes o ex (srcA s.g a) (lanesOf (execMask s.g)) none).1 l =
      ((lanesUpTo ex l (lanesOf (execMask s.g))).map (srcA s.g a)).foldl (fun p x => (scanOp o p x).1) (scanId o) := by
  rw [outputOf_scanLanes o ex _ (lanesOf_sorted _) ((mem_activeLanes s l).2 hl), scanned_eq_foldl ho]

/-- Between two neighbouring lanes of a rising list, what is combined grows by the second. -/
theorem lanesUpTo_succ {L : List Nat} (hs : L.Pairwise (· < ·)) {l m : Nat} (hm : m ∈ L) (hlm : l < m)
    (hb : ∀ n ∈ L, l < n → ¬ n < m) : lanesUpTo false m L = lanesUpTo false l L ++ [m] := by
  induction L with
  | nil => simp at hm
  | cons n L ih =>
    obtain ⟨hn, hs⟩ := List.pairwise_cons.1 hs
    rcases List.mem_cons.1 hm with rfl | hm'
    · have hnil : lanesUpTo false l (m :: L) = [] := by
        refine List.filter_eq_nil_iff.2 fun k hk => ?_
        have : m ≤ k := by
          rcases List.mem_cons.1 hk with rfl | hk
          · exact Nat.le_refl _
          · exact (hn k hk).le
        simp
        omega
      rw [lanesUpTo_of_le false hn, hnil]
      rfl
    · have hnm := hn m hm'
      have hnl : n ≤ l := by
        have := hb n (by simp)
        omega
      have ih := ih hs hm' (fun k hk => hb k (by simp [hk]))
      rw [lanesUpTo_cons_of_lt false hnm, ih]
      simp [lanesUpTo, hnl]
theorem lanesUpTo_first {L : List Nat} (hs : L.Pairwise (· < ·)) {l : Nat} (hl : l ∈ L) (hb : ∀ n ∈ L, ¬ n < l) :
    lanesUpTo false l L = [l] := by
  cases L with
  | nil => simp at hl
  | cons n L =>
    obtain ⟨hn, hs⟩ := List.pairwise_cons.1 hs
    rcases List.mem_cons.1 hl with rfl | hl
    · exact lanesUpTo_of_le false hn
    · exact absurd (hn l hl) (hb n (by simp))

/-- `vscan`, and the floating-point sum of `vredl`. -/
theorem scansOverLanes : Claims.ScansOverLanes := by
  intro s d a h
  have ha : Holds s.g [(a, 1)] := (holds_cons.1 h).2
  refine ⟨fun ex => ⟨_, exec_vscan_flagless h ex (by decide), fun l hl => ?_⟩,
    fun ex => ⟨_, exec_vscan_flagless h ex (by decide), fun l hl => ?_⟩,
    fun ex => ⟨_, exec_vscan_flagless h ex (by decide), fun l hl => ?_⟩,
    fun ex => ⟨_, exec_vscan_flagless h ex (by decide), fun l hl => ?_⟩,
    fun ex => ⟨_, exec_vscan_flagless h ex (by decide), fun l hl => ?_⟩,
    ⟨_, _, exec_vscan h false .fadd, fun l hl hb => ?_, fun l m hl hm hlm hb => ?_⟩,
    ⟨_, _, exec_vredl ha d .fadd, ?_, ?_⟩⟩
  case refine_1 =>
    rw [outputOf_eq_foldl (by decide) a ex hl]
    have := foldl_add_toNat ((lanesUpTo ex l (lanesOf (execMask s.g))).map (srcA s.g a)) 0
    rw [show (0 : W32).toNat = 0 from rfl, Nat.zero_add, List.map_map] at this
    exact this
  case refine_2 =>
    rw [outputOf_eq_foldl (by decide) a ex hl]
    have := foldl_key toNat_minMaxVal_minu Nat.min_comm Nat.min_assoc ((lanesUpTo ex l (lanesOf (execMask s.g))).map (srcA s.g a))
      (0xFFFFFFFF : W32)
    rw [List.map_map] at this
    exact this
  case refine_3 =>
    rw [outputOf_eq_foldl (by decide) a ex hl]
    have := foldl_key toNat_minMaxVal_maxu Nat.max_comm Nat.max_assoc ((lanesUpTo ex l (lanesOf (execMask s.g))).map (srcA s.g a))
      (0 : W32)
    rw [List.map_map] at this
    exact this
  case refine_4 =>
    rw [outputOf_eq_foldl (by decide) a ex hl]
    have := foldl_key toInt_minMaxVal_min (fun a b => Int.min_comm a b) (fun a b c => Int.min_assoc a b c)
      ((lanesUpTo ex l (lanesOf (execMask s.g))).map (srcA s.g a)) (0x7FFFFFFF : W32)
    rw [List.map_map] at this
    exact this
  case refine_5 =>
    rw [outputOf_eq_foldl (by decide) a ex hl]
    have := foldl_key toInt_minMaxVal_max (fun a b => Int.max_comm a b) (fun a b c => Int.max_assoc a b c)
      ((lanesUpTo ex l (lanesOf (execMask s.g))).map (srcA s.g a)) (0x80000000 : W32)
    rw [List.map_map] at this
    exact this
  case refine_6 =>
    have hmem := (mem_activeLanes s l).2 hl
    rw [outputOf_scanLanes .fadd false _ (lanesOf_sorted _) hmem,
      lanesUpTo_first (lanesOf_sorted _) hmem fun n hn hlt => hb n hlt ((mem_activeLanes s n).1 hn)]
    rfl
  case refine_7 =>
    have hmem := (mem_activeLanes s m).2 hm
    have hmem' := (mem_activeLanes s l).2 hl
    have hne : lanesUpTo false l (lanesOf (execMask s.g)) ≠ [] :=
      List.ne_nil_of_mem (List.mem_filter.2 ⟨hmem', by simp⟩)
    rw [outputOf_scanLanes .fadd false _ (lanesOf_sorted _) hmem, outputOf_scanLanes .fadd false _ (lanesOf_sorted _) hmem',
      lanesUpTo_succ (lanesOf_sorted _) hmem hlm fun n hn h1 h2 => hb n h1 h2 ((mem_activeLanes s n).1 hn), scanned_concat _ _ hne]
    rfl
  case refine_8 =>
    rw [toNat_setWidth64, ← Function.comp_def, ← List.map_map]
    exact BitVec.toNat_ofNat _ _
  case refine_9 =>
    rw [← Function.comp_def, ← List.map_map]
    rfl

/-- Settles O24: moves by their routes, votes and integer reductions by folds over the active lanes, scans by what each lane combines. -/
theorem lanesMoveAndCombine : Obligations.LanesMoveAndCombine :=
  ⟨vectorMovesAndPermutes, votesAndReductionsOverLanes, scansOverLanes⟩

end Sys2Proof.Proofs
end

section
/-! SUPPORT. Reasoning rules of the state that engine instructions share: sparse maps written entry by entry, timelines, traps, and gangs
whose results come due. -/

namespace Sys2Proof.Proofs

open Sys2Proof.Machine Sys2Proof.Claims Sys2Proof.Laws

/-! Sparse maps written entry by entry -/

section Cells

variable {α ι : Type} [DecidableEq α] {d : α} (key : ι → Nat) (v : ι → α)

theorem foldl_cset_wf : ∀ (L : List ι) {m : Cells α}, CellsWf d m → CellsWf d (L.foldl (fun m i => cset d m (key i) (v i)) m)
  | [], _, h => h
  | i :: L, _, h => foldl_cset_wf L (cset_wf (key i) (v i) h)
theorem cget_foldl_cset_other {k : Nat} : ∀ {L : List ι} (_ : ∀ i ∈ L, key i ≠ k) (m : Cells α),
    cget d (L.foldl (fun m i => cset d m (key i) (v i)) m) k = cget d m k
  | [], _, _ => rfl
  | i :: L, h, m => by
    rw [List.foldl_cons, cget_foldl_cset_other (fun j hj => h j (List.mem_cons_of_mem _ hj)),
      cget_cset_other _ (h i (by simp)).symm]
/-- A key that several entries write reads as any of them where they agree. -/
theorem cget_foldl_cset_of_mem {i : ι} : ∀ {L : List ι} (_ : i ∈ L) (_ : ∀ j ∈ L, key j = key i → v j = v i) {m : Cells α}
    (_ : CellsWf d m), cget d (L.foldl (fun m i => cset d m (key i) (v i)) m) (key i) = v i
  | n :: L, hi, ha, m, hm => by
    rw [List.foldl_cons]
    by_cases hL : ∃ j ∈ L, key j = key i
    · obtain ⟨j, hj, hk⟩ := hL
      have hv := ha j (List.mem_cons_of_mem _ hj) hk
      rw [← hk, ← hv]
      exact cget_foldl_cset_of_mem hj (fun x hx hxk => by rw [ha x (List.mem_cons_of_mem _ hx) (hxk.trans hk), hv]) (cset_wf _ _ hm)
    · have hn : key n = key i := by
        rcases List.mem_cons.1 hi with rfl | hi
        · rfl
        · exact absurd ⟨i, hi, rfl⟩ hL
      rw [cget_foldl_cset_other _ _ (fun j hj hk => hL ⟨j, hj, hk⟩), ← hn, cget_cset_same _ _ hm, ha n (by simp) hn]

end Cells

/-! Timelines -/

section Timelines

variable (e : Engine) (job : Nat) (f : Timeline → Timeline) (s : State)

/-- A change of a timeline changes nothing else. -/
theorem onTimeline_eq : onTimeline e job f s = { s with timelines := (onTimeline e job f s).timelines } := by
  unfold onTimeline
  split <;> rfl
theorem completeNum_eq (o : OpId) : completeNum o s = { s with timelines := (completeNum o s).timelines } := onTimeline_eq _ _ _ _
theorem noteFlags_eq (o : OpId) (u : Nat) (fl : Fl) : noteFlags o u fl s = { s with timelines := (noteFlags o u fl s).timelines } := by
  unfold noteFlags
  split
  · rfl
  · exact onTimeline_eq _ _ _ _
/-- A timeline after a change of it. -/
theorem timelineOf_onTimeline_same (hf : ∀ t, (f t).eng = t.eng ∧ (f t).job = t.job) :
    timelineOf (onTimeline e job f s) e job = f (timelineOf s e job) := by
  have hp : ((fun t : Timeline => (t.eng = e && t.job = job : Bool)) ∘ fun t : Timeline => if (t.eng = e && t.job = job : Bool) = true then f t else t)
      = fun t => (t.eng = e && t.job = job : Bool) := by
    funext t
    simp only [Function.comp]
    split <;> simp [hf t]
  unfold onTimeline timelineOf
  split
  · next h =>
    simp only [upd, List.find?_map, hp]
    obtain ⟨t, ht⟩ := Option.isSome_iff_exists.1 (List.find?_isSome.2 (List.any_eq_true.1 h))
    have := List.find?_some ht
    simp only [ht, Option.map_some, Option.getD_some]
    rw [if_pos this]
  · next h =>
    have hn : s.timelines.find? (fun t => (t.eng = e && t.job = job : Bool)) = none := by
      refine List.find?_eq_none.2 fun t ht hc => h (List.any_eq_true.2 ⟨t, ht, hc⟩)
    simp [List.find?_append, hn, hf]

end Timelines

/-- A number that completes is among its timeline's completed ones (04 R154). -/
theorem mem_done_completeNum (o : OpId) (s : State) : o.n ∈ (timelineOf (completeNum o s) o.eng o.job).done := by
  rw [completeNum, timelineOf_onTimeline_same _ _ (fun t => { t with done := o.n :: t.done }) s fun _ => ⟨rfl, rfl⟩]
  exact List.mem_cons_self

/-! Traps -/

/-- A trap at the issuing instruction that is delivered enters the handler. -/
theorem entered_raise {s : State} (h : Delivers s) (t : Trap) : Entered t.cause t.addr t.info (pcOf s) s (raise t s) := by
  obtain ⟨hi, hv, hc⟩ := h
  rw [raise, enterTrap_delivers t (pcOf s) hi hv hc]
  refine ⟨rfl, rfl, rfl, rfl, rfl, rfl, ?_, rfl, rfl, rfl, rfl, rfl, rfl, rfl⟩
  simp [path]

/-! Results that come due -/

theorem settleList_keeps {β : Type} (F : Gang → β) (hw : ∀ g w, F (applyW g w) = F g) (hi : ∀ g l, F { g with inflight := l } = F g)
    (now : Nat) : ∀ (l : List Inflight) (g : Gang), F (settleList now l g) = F g
  | [], g => hi g []
  | i :: r, g => by
    rw [settleList]
    split
    · rw [settleList_keeps F hw hi now r, hw]
    · exact hi g _
/-- What no register write changes stays as results come due (03 R106). -/
theorem settle_keeps {β : Type} (F : Gang → β) (hw : ∀ g w, F (applyW g w) = F g) (hi : ∀ g l, F { g with inflight := l } = F g)
    (now : Nat) (g : Gang) : F (settle now g) = F g := settleList_keeps F hw hi now _ g
@[simp] theorem settle_at_ (now : Nat) (g : Gang) : (settle now g).at_ = g.at_ :=
  settle_keeps (·.at_) (fun _ w => by cases w <;> rfl) (fun _ _ => rfl) now g
@[simp] theorem settle_phase (now : Nat) (g : Gang) : (settle now g).phase = g.phase :=
  settle_keeps (·.phase) (fun _ w => by cases w <;> rfl) (fun _ _ => rfl) now g
@[simp] theorem settle_job (now : Nat) (g : Gang) : (settle now g).job = g.job :=
  settle_keeps (·.job) (fun _ w => by cases w <;> rfl) (fun _ _ => rfl) now g
@[simp] theorem settle_paths (now : Nat) (g : Gang) : (settle now g).paths = g.paths :=
  settle_keeps (·.paths) (fun _ w => by cases w <;> rfl) (fun _ _ => rfl) now g
@[simp] theorem settle_act (now : Nat) (g : Gang) : (settle now g).act = g.act :=
  settle_keeps (·.act) (fun _ w => by cases w <;> rfl) (fun _ _ => rfl) now g
/-- Ageing changes the ages of paths alone. -/
theorem agePaths_eq (g : Gang) : agePaths g = { g with paths := (agePaths g).paths } := by
  unfold agePaths ageBut
  split <;> rfl
theorem pc_path_agePaths (g : Gang) : (path (agePaths g)).pc = (path g).pc := by
  have hact : (agePaths g).act = g.act := by rw [agePaths_eq]
  unfold path
  simp only [hact]
  unfold agePaths ageBut
  split
  · rfl
  · simp

end Sys2Proof.Proofs
end

section
/-! SUPPORT. Accumulator tiles and the order of their instructions (13 R396 to R413). -/

namespace Sys2Proof.Proofs

open Sys2Proof.Machine Sys2Proof.Claims Sys2Proof.Laws

/-! Elements of a tile -/

/-- Where an element of a tile stands. -/
def elemKey (c : Coords) (t : Nat) (e : Nat × Nat) : Nat := accKey c t e.1 e.2
theorem elemKey_inj (c : Coords) (t : Nat) {e e' : Nat × Nat} (h : e.2 < 256) (h' : e'.2 < 256) (hk : elemKey c t e = elemKey c t e') :
    e = e' := by
  simp only [elemKey, accKey] at hk
  exact Prod.ext (by omega) (by omega)
/-- The elements of a shape: the rows of the active lanes and its columns. -/
theorem mem_shapeElems (g : Gang) (x : Word) (l j : Nat) :
    (l, j) ∈ shapeElems g x ↔ (l < 32 ∧ inMask (execMask g) l = true) ∧ shCol0 x ≤ j ∧ j < shCol0 x + shCols x := by
  simp only [shapeElems, List.mem_flatMap, mem_lanesOf, List.mem_map, List.mem_range, Prod.mk.injEq]
  constructor
  · rintro ⟨m, hm, i, hi, rfl, rfl⟩
    exact ⟨hm, by omega, by omega⟩
  · rintro ⟨hl, h1, h2⟩
    exact ⟨l, hl, j - shCol0 x, by omega, rfl, by omega⟩
/-- Elements that lie in a tile. -/
def InTile (L : List (Nat × Nat)) : Prop := ∀ e ∈ L, e.1 < 32 ∧ e.2 < 256
theorem inTile_shapeElems {g : Gang} {x : Word} (h : shCol0 x + shCols x ≤ 256) : InTile (shapeElems g x) := by
  rintro ⟨l, j⟩ he
  obtain ⟨hl, h1, h2⟩ := (mem_shapeElems g x l j).1 he
  exact ⟨hl.1, by omega⟩

section PutAcc

variable (c : Coords) (t : Nat) (L : List (Nat × Nat)) (v : Nat × Nat → W32) (s : State)

@[simp] theorem onTile_acc (f : TileStatus → TileStatus) : (onTile c t f s).acc = s.acc := rfl
/-- A write of elements changes the elements and its tile's status alone. -/
theorem putAcc_eq (es : List ((Nat × Nat) × W32)) :
    putAcc c t es s = { s with acc := (putAcc c t es s).acc, tiles := (putAcc c t es s).tiles } := by
  unfold putAcc
  split <;> rfl
theorem putAcc_acc : (putAcc c t (L.map (fun e => (e, v e))) s).acc =
    L.foldl (fun m e => cset 0 m (elemKey c t e) (v e)) s.acc := by
  unfold putAcc
  split <;> exact List.foldl_map
variable {L} (hL : InTile L)
include hL
theorem cget_putAcc (hw : CellsWf 0 s.acc) {l j : Nat} (hj : j < 256) :
    ((l, j) ∈ L → cget 0 (putAcc c t (L.map (fun e => (e, v e))) s).acc (accKey c t l j) = v (l, j)) ∧
    ((l, j) ∉ L → cget 0 (putAcc c t (L.map (fun e => (e, v e))) s).acc (accKey c t l j) = cget 0 s.acc (accKey c t l j)) := by
  have hinj : ∀ e ∈ L, elemKey c t e = elemKey c t (l, j) → e = (l, j) := fun e he => elemKey_inj c t (hL e he).2 hj
  rw [putAcc_acc]
  exact ⟨fun h => cget_foldl_cset_of_mem (elemKey c t) v h (fun e he hk => by rw [hinj e he hk]) hw,
    fun h => cget_foldl_cset_other (elemKey c t) v (fun e he hk => h (hinj e he hk ▸ he)) _⟩
theorem cget_putAcc_other {k : Nat} (hk : ∀ l < 32, ∀ j < 256, k ≠ accKey c t l j) :
    cget 0 (putAcc c t (L.map (fun e => (e, v e))) s).acc k = cget 0 s.acc k := by
  rw [putAcc_acc]
  exact cget_foldl_cset_other (elemKey c t) v (fun e he => (hk e.1 (hL e he).1 e.2 (hL e he).2).symm) _

end PutAcc

/-- An abandoned operation leaves its timeline, its tile's status and its entry behind, and nothing else (06 R214). -/
theorem abandonTile_eq (c : Coords) (job t : Nat) (s : State) :
    abandonTile c job t s = { s with
      timelines := (abandonTile c job t s).timelines, tiles := (abandonTile c job t s).tiles
      kiln := (abandonTile c job t s).kiln, images := (abandonTile c job t s).images } := by
  unfold abandonTile
  split
  · rfl
  · rw [abandonMma, completeNum_eq, noteFlags_eq]
    rfl

/-- What an accumulator instruction that has changed elements of a tile leaves: the elements of a list changed, all others, the registers
and the memory as they were. -/
def TileWritten (c : Coords) (t : Nat) (L : List (Nat × Nat)) (v : Nat × Nat → W32) (s u : State) : Prop :=
  (∀ l < 32, ∀ j < 256, ((l, j) ∈ L → cget 0 u.acc (accKey c t l j) = v (l, j)) ∧
    ((l, j) ∉ L → cget 0 u.acc (accKey c t l j) = cget 0 s.acc (accKey c t l j))) ∧
  (∀ k, (∀ l < 32, ∀ j < 256, k ≠ accKey c t l j) → cget 0 u.acc k = cget 0 s.acc k) ∧
  u.mem = s.mem ∧ u.tickets = s.tickets ∧ u.others = s.others ∧
  u.g = { setPath s.g { path s.g with pc := pcOf s + 4 } with fpcsr := u.g.fpcsr }

theorem tileWritten_of_putAcc {c : Coords} {t : Nat} {L : List (Nat × Nat)} {v : Nat × Nat → W32} {s s' u : State} (hL : InTile L)
    (hw : CellsWf 0 s.acc) (hacc : s'.acc = s.acc) (hu : u.acc = (putAcc c t (L.map (fun e => (e, v e))) s').acc)
    (hrest : u.mem = s.mem ∧ u.tickets = s.tickets ∧ u.others = s.others ∧
      u.g = { setPath s.g { path s.g with pc := pcOf s + 4 } with fpcsr := u.g.fpcsr }) :
    TileWritten c t L v s u := by
  refine ⟨fun l _ j hj => ?_, fun k hk => ?_, hrest⟩
  · rw [hu, ← hacc]
    exact cget_putAcc c t v s' hL (hacc ▸ hw) hj
  · rw [hu, ← hacc]
    exact cget_putAcc_other c t v s' hL hk

theorem TileWritten.pcOf_eq {c : Coords} {t : Nat} {L : List (Nat × Nat)} {v : Nat × Nat → W32} {s u : State}
    (h : TileWritten c t L v s u) : pcOf u = pcOf s + 4 := by
  obtain ⟨-, -, -, -, -, hg⟩ := h
  rw [pcOf, hg]
  simp [path, setPath]

/-- All elements of a tile. -/
def allElems : List (Nat × Nat) := (List.range 32).flatMap (fun l => (List.range 256).map (fun j => (l, j)))
theorem mem_allElems (l j : Nat) : (l, j) ∈ allElems ↔ l < 32 ∧ j < 256 := by
  simp [allElems]
theorem actZ_eq (t : BitVec 4) (s : State) : actZ t s =
    next (onTile s.g.at_ (tileOf s s.g t) (fun x => { x with count := 0, nonfinite := false })
      (putAcc s.g.at_ (tileOf s s.g t) (allElems.map (fun e => (e, 0))) (abandonTile s.g.at_ s.g.job (tileOf s s.g t) s))) := by
  rw [actZ, allElems, List.map_flatMap]
  simp only [List.map_map, Function.comp_def]
theorem actZ_writes (t : BitVec 4) {s : State} (hw : CellsWf 0 s.acc) :
    TileWritten s.g.at_ (tileOf s s.g t) allElems (fun _ => 0) s (actZ t s) := by
  rw [actZ_eq]
  refine tileWritten_of_putAcc (s' := abandonTile s.g.at_ s.g.job (tileOf s s.g t) s) (fun e he => (mem_allElems e.1 e.2).1 he) hw
    (by rw [abandonTile_eq]) (by rw [next_acc, onTile_acc]) ?_
  rw [putAcc_eq, abandonTile_eq]
  exact ⟨rfl, rfl, rfl, rfl⟩
theorem actWr_writes (g : Gang) (t : BitVec 4) (r : Reg) (n : BitVec 3) {s : State} (hx : shCol0 (shape g n) + shCols (shape g n) ≤ 256)
    (hw : CellsWf 0 s.acc) :
    TileWritten s.g.at_ (tileOf s s.g t) (shapeElems g (shape g n)) (fun e => lane (vreg g r (e.2 - shCol0 (shape g n))) e.1) s
      (actWr g t r n s) := by
  refine tileWritten_of_putAcc (s' := onTile s.g.at_ (tileOf s s.g t) (fun k => { k with count := 0 })
    (abandonTile s.g.at_ s.g.job (tileOf s s.g t) s)) (inTile_shapeElems hx) hw ?_ rfl ?_
  · rw [abandonTile_eq]
    rfl
  · simp only [actWr]
    rw [putAcc_eq, abandonTile_eq]
    exact ⟨rfl, rfl, rfl, rfl⟩
theorem actAdd_writes (g : Gang) (d a : BitVec 4) (n : BitVec 3) {s : State} (hx : shCol0 (shape g n) + shCols (shape g n) ≤ 256)
    (hw : CellsWf 0 s.acc) :
    TileWritten s.g.at_ (tileOf s s.g d) (shapeElems g (shape g n))
      (fun e => (addRne (accAt s s.g.at_ (tileOf s s.g d) e.1 e.2) (accAt s s.g.at_ (tileOf s s.g a) e.1 e.2)).1) s (actAdd g d a n s) := by
  refine tileWritten_of_putAcc (s' := s) (inTile_shapeElems hx) hw rfl ?_ ?_
  · simp only [actAdd, List.map_map, next_acc]
    rfl
  · simp only [actAdd]
    rw [putAcc_eq]
    exact ⟨rfl, rfl, rfl, rfl⟩
theorem actCp_writes (g : Gang) (d a : BitVec 4) (n : BitVec 3) {s : State} (hx : shCol0 (shape g n) + shCols (shape g n) ≤ 256)
    (hw : CellsWf 0 s.acc) :
    TileWritten s.g.at_ (tileOf s s.g d) (shapeElems g (shape g n)) (fun e => accAt s s.g.at_ (tileOf s s.g a) e.1 e.2) s
      (actCp g d a n s) := by
  refine tileWritten_of_putAcc (s' := s) (inTile_shapeElems hx) hw rfl rfl ?_
  simp only [actCp]
  rw [putAcc_eq]
  exact ⟨rfl, rfl, rfl, rfl⟩

/-! The order of a tile's instructions -/

/-- The tiles that an instruction of the issuing gang names. -/
def namedTiles (s : State) (o : TileOp) : List Nat := (tileNames o).map (tileOf s s.g)
/-- Nothing stands before an instruction in the order of its tiles, and its core has a slot of the matrix port for it. -/
def Unheld (s : State) (o : TileOp) : Prop :=
  s.iss.enters = false ∧ tileWaits s s.g.at_ s.g.job (namedTiles s o) = [] ∧
    ∀ u ∈ s.tickets, u.core = unitOf 1 s.g.at_ → ∀ k ∈ u.tiles, k ∉ namedTiles s o
/-- Something does, or it has no slot. -/
def HeldBack (s : State) (o : TileOp) : Prop :=
  s.iss.enters = true ∨ (∃ i ∈ tileWaits s s.g.at_ s.g.job (namedTiles s o), letsGo s i = false) ∨
    ∃ u ∈ s.tickets, u.core = unitOf 1 s.g.at_ ∧ ∃ k ∈ u.tiles, k ∈ namedTiles s o

theorem tileOrdered_trap {s : State} {o : TileOp} {t : Trap} (h : accTrap s s.g o = some t) : tileOrdered o s = raise t s := by
  rw [tileOrdered, h]
theorem tileOrdered_acts {s : State} {o : TileOp} (ht : accTrap s s.g o = none) (h : Unheld s o) :
    tileOrdered o s = tileAct s.g o s := by
  obtain ⟨he, hw, hk⟩ := h
  have hno : s.tickets.any (fun u => u.core = unitOf 1 s.g.at_ && u.tiles.any (namedTiles s o).contains) = false := by
    simpa using hk
  simp only [namedTiles] at hw hno
  simp [tileOrdered, ht, he, hw, hno]
/-- An instruction that is held back enters the order of its tiles with the operands that it reads now (00 R11, 13 R397). -/
theorem tileOrdered_holds {s : State} {o : TileOp} (ht : accTrap s s.g o = none) (h : HeldBack s o) :
    tileOrdered o s = { unissue s with
      g := { (unissue s).g with hold := .tile s.nextId }
      tickets := s.tickets ++ [⟨s.nextId, s.g.uid, unitOf 1 s.g.at_, namedTiles s o, tileWaits s s.g.at_ s.g.job (namedTiles s o), o, s.g,
        s.iss.yield, s.cycle⟩]
      nextId := s.nextId + 1 } := by
  have hc : (!s.iss.enters && (tileWaits s s.g.at_ s.g.job (namedTiles s o)).all (letsGo s) &&
      !s.tickets.any (fun u => u.core = unitOf 1 s.g.at_ && u.tiles.any (namedTiles s o).contains)) = false := by
    rcases h with he | ⟨i, hi, hg⟩ | ⟨u, hu, hcore, k, hk, hkn⟩
    · simp [he]
    · have : (tileWaits s s.g.at_ s.g.job (namedTiles s o)).all (letsGo s) = false := List.all_eq_false.2 ⟨i, hi, by simp [hg]⟩
      simp [this]
    · have : s.tickets.any (fun u => u.core = unitOf 1 s.g.at_ && u.tiles.any (namedTiles s o).contains) = true :=
        List.any_eq_true.2 ⟨u, hu, by simpa [hcore] using ⟨k, hk, hkn⟩⟩
      simp [this]
  simp only [namedTiles] at hc
  simp only [tileOrdered, ht, hc, Bool.false_eq_true, if_false]
  rfl

end Sys2Proof.Proofs
end

section
/-! SUPPORT. FP32 values that are rounded to FP32 keep their code (05 R162, R176). -/

namespace Sys2Proof.Proofs

open Sys2Proof.Machine

theorem log2_mul_two_pow {u : Nat} (hu : u ≠ 0) : ∀ k, Nat.log2 (u * 2 ^ k) = Nat.log2 u + k
  | 0 => by simp
  | k + 1 => by
    have ih := log2_mul_two_pow hu k
    rw [Nat.log2_eq_log_two] at ih ⊢
    rw [pow_succ, ← Nat.mul_assoc, Nat.log_mul_base Nat.one_lt_two (by positivity), ih, Nat.add_assoc]
theorem scale2_ofNat (n d k : Nat) : scale2 n d (k : Int) = (n * 2 ^ k, d) := rfl
theorem scale2_neg_ofNat (n d k : Nat) : scale2 n d (-(k : Int)) = (n, d * 2 ^ k) := by
  cases k with
  | zero =>
    show (n * 2 ^ 0, d) = _
    simp
  | succ k => rfl
/-- The logarithm of a quotient of numbers whose difference of logarithms it meets. -/
theorem flog2_of_pow {n k : Nat} (hn : n ≠ 0) : flog2 n (2 ^ k) = Nat.log2 n - k := by
  have hk : Nat.log2 (2 ^ k) = k := by simp
  have hle : 2 ^ Nat.log2 n ≤ n := Nat.log2_self_le hn
  have hnot : ¬ n * (scale2 (2 ^ k) 1 (Nat.log2 n - k)).2 < (scale2 (2 ^ k) 1 (Nat.log2 n - k)).1 := by
    rcases Nat.le_total k (Nat.log2 n) with h | h
    · obtain ⟨m, hm⟩ := Nat.exists_eq_add_of_le h
      rw [hm, show ((k + m : Nat) : Int) - k = (m : Nat) by omega, scale2_ofNat, ← pow_add, ← hm]
      omega
    · obtain ⟨m, hm⟩ := Nat.exists_eq_add_of_le h
      rw [hm, show (Nat.log2 n : Int) - (Nat.log2 n + m : Nat) = -(m : Nat) by omega, scale2_neg_ofNat, pow_add, Nat.one_mul]
      exact Nat.not_lt.2 (Nat.mul_le_mul_right _ hle)
  simp only [flog2, hk, if_neg hnot]
/-- The logarithm of an integer times a power of two. -/
theorem flog2_scale2 {u : Nat} (hu : u ≠ 0) (q : Int) : flog2 (scale2 u 1 q).1 (scale2 u 1 q).2 = Nat.log2 u + q := by
  obtain ⟨k, rfl | rfl⟩ := q.eq_nat_or_neg
  · have := flog2_of_pow (n := u * 2 ^ k) (k := 0) (by positivity)
    rw [log2_mul_two_pow hu] at this
    rw [scale2_ofNat]
    simpa using this
  · rw [scale2_neg_ofNat, Nat.one_mul, flog2_of_pow hu]
    omega
/-- An integer times a power of two, divided by that power. -/
theorem scale2_neg (u : Nat) (q : Int) : ∃ m, 0 < m ∧ scale2 (scale2 u 1 q).1 (scale2 u 1 q).2 (-q) = (u * m, m) := by
  obtain ⟨k, rfl | rfl⟩ := q.eq_nat_or_neg
  · exact ⟨2 ^ k, by positivity, by rw [scale2_ofNat, scale2_neg_ofNat, Nat.one_mul]⟩
  · exact ⟨2 ^ k, by positivity, by rw [scale2_neg_ofNat, Int.neg_neg, scale2_ofNat, Nat.one_mul]⟩

/-- A magnitude code's significand. -/
def sigOf (c : Nat) : Nat := if c / 2 ^ 23 = 0 then c else c % 2 ^ 23 + 2 ^ 23
/-- The exponent of its last place. -/
def lastPlace (c : Nat) : Int := -126 + ((c / 2 ^ 23 - 1 : Nat) : Int) - 23
theorem magVal_fFP32 (c : Nat) : magVal fFP32 c = scale2 (sigOf c) 1 (lastPlace c) := rfl
theorem sigOf_ne_zero {c : Nat} (hc : c ≠ 0) : sigOf c ≠ 0 := by
  unfold sigOf
  split <;> omega
theorem log2_sigOf {c : Nat} (h : c / 2 ^ 23 ≠ 0) : Nat.log2 (sigOf c) = 23 := by
  rw [sigOf, if_neg h, Nat.log2_eq_iff (by omega)]
  omega
theorem log2_sigOf_lt {c : Nat} (hc : c ≠ 0) (h : c / 2 ^ 23 = 0) : Nat.log2 (sigOf c) < 23 := by
  rw [sigOf, if_pos h, Nat.log2_lt hc]
  omega
/-- The value of a magnitude code is rounded to that code, whatever the mode. -/
theorem roundMag_magVal (mode : Rnd) (neg : Bool) (g c : Nat) :
    roundMag fFP32 mode neg g (magVal fFP32 c).1 (magVal fFP32 c).2 = (c, false) := by
  rw [magVal_fFP32]
  by_cases hc : c = 0
  · subst hc
    rfl
  have hn : (scale2 (sigOf c) 1 (lastPlace c)).1 ≠ 0 := by
    have := sigOf_ne_zero hc
    obtain ⟨k, hk | hk⟩ := (lastPlace c).eq_nat_or_neg
    · rw [hk, scale2_ofNat]
      positivity
    · rwa [hk, scale2_neg_ofNat]
  -- the exponent at which the value is cut is that of its own last place
  have he : (if flog2 (scale2 (sigOf c) 1 (lastPlace c)).1 (scale2 (sigOf c) 1 (lastPlace c)).2 < fFP32.emin then fFP32.emin
      else flog2 (scale2 (sigOf c) 1 (lastPlace c)).1 (scale2 (sigOf c) 1 (lastPlace c)).2) = lastPlace c + 23 := by
    have hf := flog2_scale2 (sigOf_ne_zero hc) (lastPlace c)
    by_cases h : c / 2 ^ 23 = 0
    · have hlog := log2_sigOf_lt hc h
      have hlast : lastPlace c = -149 := by
        simp only [lastPlace, h]
        rfl
      have hlt : flog2 (scale2 (sigOf c) 1 (lastPlace c)).1 (scale2 (sigOf c) 1 (lastPlace c)).2 < -126 := by omega
      exact (if_pos hlt).trans (by rw [hlast]; rfl)
    · have hlog := log2_sigOf h
      have hge : ¬ flog2 (scale2 (sigOf c) 1 (lastPlace c)).1 (scale2 (sigOf c) 1 (lastPlace c)).2 < -126 := by
        simp only [lastPlace] at hf ⊢
        omega
      exact (if_neg hge).trans (by omega)
  obtain ⟨m, hm, hs⟩ := scale2_neg (sigOf c) (lastPlace c)
  have hcode : (lastPlace c + 23 - -126).toNat * 2 ^ 23 + sigOf c = c := by
    simp only [lastPlace, sigOf]
    split <;> omega
  simp only [roundMag, if_neg hn, he, show lastPlace c + 23 - ((fFP32.m : Nat) : Int) = lastPlace c by show lastPlace c + 23 - 23 = _; omega,
    hs, Nat.mul_mod_left, Nat.mul_div_cancel _ hm, roundUp, if_true, Bool.false_eq_true, if_false]
  exact Prod.ext hcode (by simp)

/-- An FP32 code that is no NaN, as a value, is rounded to the same code. -/
theorem roundTo_decode_fFP32 (mode : Rnd) (g : Nat) (conv sat : Bool) {x : W32} (h : x.toNat % 2 ^ 31 ≤ 0x7F800000) :
    w32 (roundTo fFP32 mode g conv sat (decodeF fFP32 x.toNat)).1 = x := by
  have hx := x.isLt
  have hsign (c : Nat) (hc : c = x.toNat % 2 ^ 31) : w32 (withSign fFP32 (decide (x.toNat / 2 ^ 31 % 2 = 1)) c) = x := by
    apply BitVec.eq_of_toNat_eq
    simp only [w32, withSign, show fFP32.negZero = true from rfl, Bool.true_or, Bool.and_true, decide_eq_true_eq,
      show fFP32.signBit = 31 from rfl, BitVec.toNat_ofNat]
    split <;> omega
  by_cases hfin : x.toNat % 2 ^ 31 ≤ 0x7F7FFFFF
  · have hd : decodeF fFP32 x.toNat = .fin (decide (x.toNat / 2 ^ 31 % 2 = 1)) (magVal fFP32 (x.toNat % 2 ^ 31)).1
        (magVal fFP32 (x.toNat % 2 ^ 31)).2 := if_pos hfin
    have hmax : x.toNat % 2 ^ 31 ≤ fFP32.maxCode := hfin
    simp only [hd, roundTo, roundMag_magVal, if_pos hmax]
    exact hsign _ rfl
  · have hinf : x.toNat % 2 ^ 31 = 0x7F800000 := by omega
    have hd : decodeF fFP32 x.toNat = .inf (decide (x.toNat / 2 ^ 31 % 2 = 1)) :=
      (if_neg hfin).trans (if_pos (congrArg some hinf.symm))
    rw [hd]
    exact hsign _ hinf.symm
/-- Scaling by 2^0 changes nothing. -/
theorem scaleVal_zero (x : FVal) : scaleVal x (-0) = x := by
  cases x with
  | fin neg n d => exact congrArg (fun m => FVal.fin neg m d) (Nat.mul_one n)
  | _ => rfl

end Sys2Proof.Proofs
end

section
/-! SUPPORT. What the accumulator instructions do where nothing stands before them, and when their holds end (13 R396 to R413). -/

namespace Sys2Proof.Proofs

open Sys2Proof.Machine Sys2Proof.Claims Sys2Proof.Laws

/-! Results that an instruction sends on their way -/

/-- A group of vector results is one result after another. -/
theorem putGroup_eq (lat : Nat) (d : Reg) (f : Nat → Nat → W32) (n : Nat) (s : State) : putGroup lat d f n s =
    ((List.range n).map (fun i => (lat, RegWrite.v (vnum s.g d i) (execMask s.g) (mkLanes (f i))))).foldl (fun s w => fixed w.1 w.2 s) s := by
  have key : ∀ (L : List Nat) (t : State), t.g.window = s.g.window → t.g.paths = s.g.paths → t.g.act = s.g.act →
      L.foldl (fun s i => fixed lat (.v (vnum s.g d i) (execMask s.g) (mkLanes (f i))) s) t =
        L.foldl (fun t i => fixed lat (.v (vnum s.g d i) (execMask s.g) (mkLanes (f i))) t) t := by
    intro L
    induction L with
    | nil => intros; rfl
    | cons i L ih =>
      intro t hw hp ha
      have hv : vnum t.g d i = vnum s.g d i := by simp [vnum, hw]
      have he : execMask t.g = execMask s.g := by simp [execMask, path, hp, ha]
      rw [List.foldl_cons, List.foldl_cons, hv, he]
      exact ih _ hw hp ha
  rw [List.foldl_map]
  exact key _ _ rfl rfl rfl

/-- The codes and flags of a row of `acccvt`, none for a lane that is not active. -/
def cvtRowOf (s : State) (t : BitVec 4) (m : RndSel) (n : BitVec 3) (l : Nat) : List Nat × List Nat × Fl × Bool :=
  if inMask (execMask s.g) l then
    cvtRow s.g (rndSel s.g.fpcsr m) (shape s.g n) (fun i => accAt s s.g.at_ (tileOf s s.g t) l (shCol0 (shape s.g n) + i)) l
  else ([], [], 0, false)
/-- Lane `l` of register `q` of an `acccvt` result. -/
def cvtLane (s : State) (t : BitVec 4) (m : RndSel) (n : BitVec 3) (q l : Nat) : W32 :=
  w32 (codeBits (shWidth (shFmt (shape s.g n))) ((((List.range 32).map (cvtRowOf s t m n))[l]?).getD ([], [], 0, false)).1 / 2 ^ (32 * q))
/-- The results of `acccvt` behind its group of registers: the scale register, the flags, and the tile's overflow. -/
def cvtTail (s : State) (d : Reg) (t : BitVec 4) (m : RndSel) (n : BitVec 3) : List (Nat × RegWrite) :=
  let rows := (List.range 32).map (cvtRowOf s t m n)
  (if shBlk (shape s.g n) then [(4, .v (vnum s.g d (cvtRegs (shape s.g n))) (execMask s.g)
      (mkLanes (fun l => w32 (codeBits 8 ((rows[l]?).getD ([], [], 0, false)).2.1))))] else []) ++
    [(4, .fp (rows.foldl (fun f r => f ||| r.2.2.1) 0))] ++
    (if rows.any (·.2.2.2) then [(4, .ovfOr (wd (2 ^ t.toNat)))] else [])
/-- The results of `acccvt`, in order. -/
def cvtWrites (s : State) (d : Reg) (t : BitVec 4) (m : RndSel) (n : BitVec 3) : List (Nat × RegWrite) :=
  (List.range (cvtRegs (shape s.g n))).map (fun q => (4, RegWrite.v (vnum s.g d q) (execMask s.g) (mkLanes (cvtLane s t m n q)))) ++
    cvtTail s d t m n
theorem actCvt_eq (s : State) (d : Reg) (t : BitVec 4) (m : RndSel) (n : BitVec 3) :
    actCvt s.g d t m n s = done (cvtWrites s d t m n) s := by
  rw [cvtWrites, done, List.foldl_append, cvtTail, List.foldl_append, List.foldl_append, actCvt, putGroup_eq]
  simp only [apply_ite (List.foldl _ _), List.foldl_cons, List.foldl_nil]
  rfl
theorem cvtWrites_latency {s : State} {d : Reg} {t : BitVec 4} {m : RndSel} {n : BitVec 3} :
    ∀ w ∈ cvtWrites s d t m n, w.1 = 4 := by
  intro w hw
  simp only [cvtWrites, cvtTail, List.mem_append, List.mem_map] at hw
  rcases hw with ⟨q, -, rfl⟩ | (hw | hw) | hw
  · rfl
  · split at hw <;> simp_all
  · simp_all
  · split at hw <;> simp_all
theorem cvtWrites_get {s : State} {d : Reg} {t : BitVec 4} {m : RndSel} {n : BitVec 3} {q : Nat} (hq : q < cvtRegs (shape s.g n)) :
    (cvtWrites s d t m n)[q]? = some (4, .v (vnum s.g d q) (execMask s.g) (mkLanes (cvtLane s t m n q))) := by
  rw [cvtWrites, List.getElem?_append_left (by simpa using hq)]
  simp [hq]

/-- A code of a stream of 32-bit codes reads back. -/
theorem w32_codeBits : ∀ (L : List Nat) (q : Nat), w32 (codeBits 32 L / 2 ^ (32 * q)) = w32 ((L[q]?).getD 0)
  | [], q => by simp [codeBits]
  | c :: L, 0 => by
    apply BitVec.eq_of_toNat_eq
    simp only [codeBits, w32, BitVec.toNat_ofNat, Nat.mul_zero, Nat.pow_zero, Nat.div_one, List.getElem?_cons_zero, Option.getD_some]
    omega
  | c :: L, q + 1 => by
    have h : codeBits 32 (c :: L) / 2 ^ (32 * (q + 1)) = codeBits 32 L / 2 ^ (32 * q) := by
      rw [codeBits, Nat.mul_add, Nat.mul_one, Nat.add_comm (32 * q), Nat.pow_add, ← Nat.div_div_eq_div_mul]
      congr 1
      omega
    rw [h, w32_codeBits L q, List.getElem?_cons_succ]
/-- An unchanged FP32 row (13 R411): each code is that of its element. -/
theorem cvtRow_fp32 {g : Gang} {m : Rnd} {x : Word} (row : Nat → W32) (l : Nat) (hf : shFmt x = 15) (hd : shDiv x = false)
    (hb : shBlk x = false) {q : Nat} (hq : q < shCols x) (hx : (row q).toNat % 2 ^ 31 ≤ 0x7F800000) :
    w32 (((cvtRow g m x row l).1[q]?).getD 0) = row q := by
  have hz : (((List.range (shCols x)).map (fun i => decodeF fFP32 (row i).toNat)).zip (List.range (shCols x)))[q]? =
      some (decodeF fFP32 (row q).toNat, q) := List.getElem?_zip_eq_some.2 ⟨by simp [hq], by simp [hq]⟩
  simp only [cvtRow, hd, hb, hf, Bool.false_eq_true, if_false, List.map_map, List.getElem?_map, hz,
    Option.map_some, Option.getD_some, List.getElem?_nil, Option.getD_none, Function.comp]
  rw [scaleVal_zero]
  exact roundTo_decode_fFP32 _ _ _ _ hx
theorem cvtLane_fp32 {s : State} {t : BitVec 4} {m : RndSel} {n : BitVec 3} (hf : shFmt (shape s.g n) = 15)
    (hd : shDiv (shape s.g n) = false) (hb : shBlk (shape s.g n) = false) {q : Nat} (hq : q < cvtRegs (shape s.g n)) {l : Nat}
    (hl : Active s l) (hx : (accAt s s.g.at_ (tileOf s s.g t) l (shCol0 (shape s.g n) + q)).toNat % 2 ^ 31 ≤ 0x7F800000) :
    cvtLane s t m n q l = accAt s s.g.at_ (tileOf s s.g t) l (shCol0 (shape s.g n) + q) := by
  have hq' : q < shCols (shape s.g n) := by
    simp only [cvtRegs, hf, shWidth, ceilDiv] at hq
    omega
  have hrow : (((List.range 32).map (cvtRowOf s t m n))[l]?).getD ([], [], 0, false) = cvtRowOf s t m n l := by
    simp [hl.1]
  rw [cvtLane, hf, hrow, cvtRowOf, if_pos hl.2]
  rw [show shWidth 15 = 32 from rfl, w32_codeBits]
  exact cvtRow_fp32 (fun i => accAt s s.g.at_ (tileOf s s.g t) l (shCol0 (shape s.g n) + i)) l hf hd hb hq' hx

/-- The magnitudes of a shape's elements (13 R413). -/
def magnitudes (s : State) (t : BitVec 4) (n : BitVec 3) : List Nat :=
  (shapeElems s.g (shape s.g n)).map (fun e => (accAt s s.g.at_ (tileOf s s.g t) e.1 e.2).toNat % 2 ^ 31)
theorem mem_magnitudes (s : State) (t : BitVec 4) (n : BitVec 3) (c : Nat) : c ∈ magnitudes s t n ↔
    ∃ l j, (Active s l ∧ shCol0 (shape s.g n) ≤ j ∧ j < shCol0 (shape s.g n) + shCols (shape s.g n)) ∧
      (accAt s s.g.at_ (tileOf s s.g t) l j).toNat % 2 ^ 31 = c := by
  simp only [magnitudes, List.mem_map, Prod.exists, mem_shapeElems, Active]

end Sys2Proof.Proofs
end

section
/-! The accumulator instructions, and TILE_HOLD_END (13 R396 to R413). -/

namespace Sys2Proof.Proofs

open Sys2Proof.Machine Sys2Proof.Claims Sys2Proof.Laws

/-- The elements, registers and memory after an instruction that has written elements of a tile of the issuing gang. -/
theorem runs_of_tileWritten {i : Instr} {s t : State} {T : Nat} {L : List (Nat × Nat)} {v : Nat × Nat → W32} {P : Nat → Nat → Prop}
    {V : Nat → Nat → W32} (hi : exec i s = .next t) (hw : TileWritten s.g.at_ T L v s t)
    (hP : ∀ l < 32, ∀ j < 256, P l j ↔ (l, j) ∈ L) (hV : ∀ l j, v (l, j) = V l j) : Runs i s (fun t =>
      (∀ l < 32, ∀ j < 256, (P l j → accAt t s.g.at_ T l j = V l j) ∧ (¬ P l j → accAt t s.g.at_ T l j = accAt s s.g.at_ T l j)) ∧
      (∀ k, (∀ l < 32, ∀ j < 256, k ≠ accKey s.g.at_ T l j) → cget 0 t.acc k = cget 0 s.acc k) ∧
      pcOf t = pcOf s + 4 ∧ t.mem = s.mem ∧ t.g.s = s.g.s ∧ t.g.v = s.g.v) := by
  have hpc := hw.pcOf_eq
  obtain ⟨hel, hother, hmem, -, -, hg⟩ := hw
  refine ⟨t, hi, fun l hl j hj => ?_, hother, hpc, hmem, by rw [hg]; rfl, by rw [hg]; rfl⟩
  rw [hP l hl j hj, ← hV l j]
  exact hel l hl j hj

theorem exec_tileOrdered {s : State} (d a : BitVec 4) (r : Reg) (n : BitVec 3) (m : RndSel) :
    ∀ p ∈ [(Instr.accz d, TileOp.z d), (.accwr d r n, .wr d r n), (.accadd d a n, .add d a n), (.acccp d a n, .cp d a n),
      (.acccvt r d m n, .cvt r d m n), (.accmx r d n, .mx r d n)], exec p.1 s = .next (tileOrdered p.2 s) := by
  simp only [List.forall_mem_cons]
  exact ⟨rfl, rfl, rfl, rfl, rfl, rfl, by simp⟩

/-- `accmx` over the elements of its shape: a NaN among them gives the canonical one, else the largest magnitude. -/
theorem actMx_value (s : State) (t : BitVec 4) (n : BitVec 3) (d : Reg) : ∃ z : Nat,
    actMx s.g d t n s = done [(4, .s d.toNat (BitVec.ofNat 64 z))] s ∧
    ((∃ c ∈ magnitudes s t n, 0x7F800000 < c) → z = 0x7FC00000) ∧
    ((∀ c ∈ magnitudes s t n, c ≤ 0x7F800000) → (∀ c ∈ magnitudes s t n, c ≤ z) ∧ (z = 0 ∨ z ∈ magnitudes s t n)) := by
  refine ⟨if (magnitudes s t n).any (fun c => 0x7F800000 < c) then 0x7FC00000 else (magnitudes s t n).foldl max 0, rfl, ?_, ?_⟩
  · rintro ⟨c, hc, hlt⟩
    exact if_pos (List.any_eq_true.2 ⟨c, hc, decide_eq_true hlt⟩)
  · intro h
    have hno : ¬ (magnitudes s t n).any (fun c => 0x7F800000 < c) = true := by
      simpa using h
    rw [if_neg hno]
    exact ⟨(foldl_choice_le (le := fun a b : Nat => b ≤ a) Nat.le_refl (fun _ _ _ h h' => Nat.le_trans h' h)
        (fun a b => ⟨Nat.le_max_left a b, Nat.le_max_right a b⟩) _ _).2,
      List.mem_cons.1 (foldl_choice_mem (fun a b => (Nat.le_total b a).imp Nat.max_eq_left Nat.max_eq_right) _ _)⟩

/-- The accumulator instructions. -/
theorem accumulatorInstructionsAct_inOrder : Claims.AccumulatorInstructionsAct := by
  intro s d a r n m hacc htiles g D x el src inShape changes goes held hx
  have unheld {o : TileOp} (h : goes o) : tileOrdered o s = tileAct s.g o s := tileOrdered_acts h.2.1 ⟨h.1, h.2.2⟩
  have ordered := exec_tileOrdered (s := s) d a r n m
  simp only [List.forall_mem_cons] at ordered
  obtain ⟨ez, ewr, eadd, ecp, ecvt, emx, -⟩ := ordered
  have shaped (l : Nat) (_ : l < 32) (j : Nat) (_ : j < 256) : inShape l j ↔ (l, j) ∈ shapeElems s.g (shape s.g n) :=
    (mem_shapeElems s.g (shape s.g n) l j).symm
  refine ⟨fun h => ?_, fun h => ?_, fun h hs => ?_, fun h hs => ?_, fun h hs => ?_, fun h hs => ?_, fun p hp => ⟨fun k hd hk => ?_, fun ht hh => ?_⟩⟩
  · exact runs_of_tileWritten (ez.trans (by rw [unheld h]; rfl)) (actZ_writes d hacc)
      (fun l hl j hj => by simp [mem_allElems, hl, hj]) fun _ _ => rfl
  · exact runs_of_tileWritten (ewr.trans (by rw [unheld h]; rfl)) (actWr_writes s.g d r n hx hacc) shaped fun _ _ => rfl
  · refine runs_of_tileWritten (eadd.trans ?_) (actAdd_writes s.g d a n hx hacc) shaped fun _ _ => rfl
    rw [unheld h, tileAct, hs, orTrap_none]
  · refine runs_of_tileWritten (ecp.trans ?_) (actCp_writes s.g d a n hx hacc) shaped fun _ _ => rfl
    rw [unheld h, tileAct, hs, orTrap_none]
  · obtain ⟨z, hz, hnan, hmax⟩ := actMx_value s d n r
    refine ⟨z, emx.trans ?_, fun ⟨l, j, hl, hlt⟩ => hnan ⟨_, (mem_magnitudes s d n _).2 ⟨l, j, hl, rfl⟩, hlt⟩, fun hle => ?_⟩
    · rw [unheld h, tileAct, hs, orTrap_none, hz]
    · obtain ⟨hb, hmem⟩ := hmax fun c hc => by
        obtain ⟨l, j, hl, rfl⟩ := (mem_magnitudes s d n c).1 hc
        exact hle l j hl
      exact ⟨fun l j hl => hb _ ((mem_magnitudes s d n _).2 ⟨l, j, hl, rfl⟩), hmem.imp_right (mem_magnitudes s d n z).1⟩
  · refine ⟨cvtWrites s r d m n, ecvt.trans ?_, cvtWrites_latency, fun q hq => ⟨_, cvtWrites_get hq, fun hf hdv hb l hl hle => ?_⟩⟩
    · rw [unheld h, tileAct, hs, orTrap_none, actCvt_eq]
    · exact cvtLane_fp32 hf hdv hb hq hl hle
  · refine ⟨_, exec_tileOrdered d a r n m p hp, ?_⟩
    rw [tileOrdered_trap hk]
    exact entered_raise hd k
  · refine ⟨_, exec_tileOrdered d a r n m p hp, ?_⟩
    rw [tileOrdered_holds ht hh]
    exact ⟨rfl, rfl, rfl, _, rfl, rfl, rfl, rfl, rfl, rfl, rfl⟩

/-! The end of a hold -/

theorem gangAt_at {s : State} {c : Coords} {g : Gang} (h : gangAt s c = some g) : g.at_ = c := by
  have := List.find?_some h
  simp only [Bool.and_eq_true, decide_eq_true_eq] at this
  exact this.1
/-- The gang in a slot, made the one that issues. -/
theorem focus_g {s : State} {c : Coords} {g : Gang} (h : gangAt s c = some g) : (focus c s).g = g := by
  unfold gangAt at h
  unfold focus
  rw [List.find?_cons] at h
  by_cases hs : (s.g.at_ = c && inSlot s.g : Bool) = true
  · rw [hs] at h
    rw [if_pos hs]
    exact Option.some.inj h
  · simp only [hs] at h
    rw [if_neg hs, h]
/-- Making a gang the one that issues changes the gangs' places alone. -/
theorem focus_eq (c : Coords) (s : State) : focus c s = { s with g := (focus c s).g, others := (focus c s).others } := by
  unfold focus
  split
  · rfl
  · split <;> rfl
/-- The state in which an instruction acts whose hold ends. -/
def actsAtHoldEnd (s : State) (c : Coords) (k : TileTicket) : State :=
  let u := focus c { s with tickets := s.tickets.filter (fun u => u.ticket ≠ k.ticket) }
  { u with g := endHold u.cycle k.yield u.g, slots := takeSlot u c (some .matrix) }
theorem actsAtHoldEnd_eq {s : State} {c : Coords} {g : Gang} (k : TileTicket) (h : gangAt s c = some g) : actsAtHoldEnd s c k =
    { s with
      g := endHold s.cycle k.yield g, others := (actsAtHoldEnd s c k).others, slots := (actsAtHoldEnd s c k).slots
      tickets := s.tickets.filter (fun u => u.ticket ≠ k.ticket) } := by
  have hg : (focus c { s with tickets := s.tickets.filter (fun u => u.ticket ≠ k.ticket) }).g = g := focus_g h
  unfold actsAtHoldEnd
  rw [focus_eq, hg]
theorem endHold_fields (now : Nat) (y : Bool) (g : Gang) : (endHold now y g).at_ = g.at_ ∧ (endHold now y g).phase = g.phase ∧
    (endHold now y g).job = g.job ∧ (path (endHold now y g)).pc = (path g).pc := by
  have hp : path (endHold now y g) = path (agePaths g) := by
    simp only [path, endHold, settle_act, settle_paths]
  refine ⟨?_, ?_, ?_, by rw [hp, pc_path_agePaths]⟩ <;> simp only [endHold, settle_at_, settle_phase, settle_job] <;> rw [agePaths_eq]

/-- What stands after an instruction whose hold has ended and that has written elements of its gang's tile. -/
theorem ends_of_tileWritten {s u : State} {c : Coords} {g : Gang} {k : TileTicket} {T : Nat} {L : List (Nat × Nat)} {v : Nat × Nat → W32}
    (hg : gangAt s c = some g) (hrun : g.phase = .running) (hw : TileWritten c T L v (actsAtHoldEnd s c k) u) :
    (∃ h, gangAt u c = some h ∧ h.hold = .none ∧ (path h).pc = (path g).pc + 4 ∧ h.lastIssue = s.cycle ∧ h.icount = g.icount + 1) ∧
      u.mem = s.mem ∧ ∀ x ∈ u.tickets, x.ticket ≠ k.ticket := by
  have hupc : (path u.g).pc = (path (actsAtHoldEnd s c k).g).pc + 4 := hw.pcOf_eq
  obtain ⟨-, -, hmem, htk, -, hug⟩ := hw
  obtain ⟨hat, hph, -, hpc⟩ := endHold_fields s.cycle k.yield g
  have hge : (actsAtHoldEnd s c k).g = endHold s.cycle k.yield g := by rw [actsAtHoldEnd_eq k hg]
  rw [hge] at hug hupc
  have hfind : gangAt u c = some u.g := by
    unfold gangAt
    rw [List.find?_cons]
    have : (u.g.at_ = c && inSlot u.g : Bool) = true := by
      rw [hug]
      simp [inSlot, hat, hph, gangAt_at hg, hrun]
    rw [this]
  refine ⟨⟨u.g, hfind, by rw [hug]; rfl, hupc.trans (by rw [hpc]), by rw [hug]; rfl, by rw [hug]; exact congrArg (· + 1) rfl⟩,
    by rw [hmem, actsAtHoldEnd_eq k hg], ?_⟩
  rw [htk, actsAtHoldEnd_eq k hg]
  exact fun x hx => by simpa using (List.mem_filter.1 hx).2

/-- TILE_HOLD_END. -/
theorem tileHoldsEnd : Claims.TileHoldsEnd := by
  intro s c g t k hg hrun hcan hstop hhold hk hacc huniq T ends free
  have hbind : (gangAt s c).bind (fun g => s.tickets.find? (fun t => t.uid = g.uid && g.hold = .tile t.ticket && g.phase = .running &&
      !g.cancelled && !g.stopping)) = some k := by
    rw [hg]
    exact hk
  have acts (hr : ticketReady s k = true) (hf : free) :
      exec (.tileHoldEnd c) s = .next (tileAct k.src k.op (actsAtHoldEnd s c k)) := by
    show execTileHoldEnd c s = _
    simp only [execTileHoldEnd, hbind, hr, show pipeFree s (coreIx c) (some .matrix) = true from hf, Bool.not_true, Bool.or_false,
      Bool.false_eq_true, if_false]
    rfl
  have he := actsAtHoldEnd_eq k hg
  obtain ⟨hat', -, hjob, -⟩ := endHold_fields s.cycle k.yield g
  have hat : (actsAtHoldEnd s c k).g.at_ = c := by
    rw [he]
    exact hat'.trans (gangAt_at hg)
  have htile : tileOf (actsAtHoldEnd s c k) (actsAtHoldEnd s c k).g t = T := by
    rw [he]
    show fld (jobWord _ (endHold s.cycle k.yield g) 7) 3 0 + t.toNat = _
    simp only [jobWord, jobOn, hat', hjob]
    rfl
  refine ⟨fun h => ?_, fun hr hf ho => ?_, fun r n hr hf ho hx => ?_⟩
  · show execTileHoldEnd c s = _
    have : (!ticketReady s k || !pipeFree s (coreIx c) (some .matrix)) = true := by
      rcases h with h | h
      · simp [h]
      · simp [show pipeFree s (coreIx c) (some .matrix) = false from Bool.eq_false_iff.2 h]
    simp only [execTileHoldEnd, hbind, this, if_true]
  · have hw := actZ_writes t (s := actsAtHoldEnd s c k) (by rw [he]; exact hacc)
    rw [hat, htile] at hw
    refine ⟨_, acts hr hf, ?_, ?_⟩
    · rw [ho]
      exact fun l hl j hj => (hw.1 l hl j hj).1 ((mem_allElems l j).2 ⟨hl, hj⟩)
    · rw [ho]
      exact ends_of_tileWritten hg hrun hw
  · have hw := actWr_writes k.src t r n (s := actsAtHoldEnd s c k) hx (by rw [he]; exact hacc)
    rw [hat, htile] at hw
    refine ⟨_, acts hr hf, ?_, ?_⟩
    · rw [ho]
      intro l hl j hj
      obtain ⟨hin, hout⟩ := hw.1 l hl j hj
      rw [mem_shapeElems] at hin hout
      by_cases h : inMask (execMask k.src) l = true ∧ shCol0 (shape k.src n) ≤ j ∧ j < shCol0 (shape k.src n) + shCols (shape k.src n)
      · rw [if_pos h]
        exact hin ⟨⟨hl, h.1⟩, h.2⟩
      · rw [if_neg h]
        refine (hout fun hm => h ⟨hm.1.2, hm.2⟩).trans ?_
        rw [he]
        rfl
    · rw [ho]
      exact ends_of_tileWritten hg hrun hw

/-- Settles O50: an instruction that nothing holds back acts at once, one that is held back enters the order of its tiles, and acts there
when its hold ends. -/
theorem accumulatorInstructionsAct : Obligations.AccumulatorInstructionsAct := ⟨accumulatorInstructionsAct_inOrder, tileHoldsEnd⟩

end Sys2Proof.Proofs
end

section
/-! SUPPORT. PUBLISH and the requests that it serves leave the carts, the timelines, the cycle and the issuing gang's registers, paths and
handles alone (04 R133, R134). -/

namespace Sys2Proof.Proofs

open Sys2Proof.Machine Sys2Proof.Claims Sys2Proof.Laws

/-- What of a gang no store, atomic request or line at its home changes. -/
def gangPart (g : Gang) := (g.uid, g.job, g.s, g.tl, g.paths, g.act, g.inflight)
/-- What of the machine none of them changes. -/
def bystanders (s : State) := (s.carts, s.timelines, s.cycle, gangPart s.g)

/-- A fold of steps that each keep a part of the state keeps it. -/
theorem foldl_keeps {σ ι β : Type} (F : σ → β) {f : σ → ι → σ} (hf : ∀ s i, F (f s i) = F s) : ∀ (l : List ι) (s : σ),
    F (l.foldl f s) = F s
  | [], _ => rfl
  | i :: l, s => (foldl_keeps F hf l (f s i)).trans (hf s i)

section Gangs

variable (u : Nat) {f : Gang → Gang} (hf : ∀ g, gangPart (f g) = gangPart g) (s : State)

include hf
theorem onGang_bystanders : bystanders (onGang u f s) = bystanders s := by
  unfold onGang bystanders
  split <;> simp [hf]
theorem onGangAny_bystanders : bystanders (onGangAny u f s) = bystanders s := onGang_bystanders u hf s

end Gangs

theorem addTraps_gangPart (ds : List Deferred) (g : Gang) : gangPart (addTraps ds g) = gangPart g := by
  unfold addTraps
  split <;> rfl
theorem pick_bystanders (s : State) : bystanders (Machine.pick s).2 = bystanders s := by
  unfold Machine.pick
  split <;> rfl
theorem homeWrite_bystanders (bs : List (Nat × Byte)) (k : Key) (s : State) : bystanders (homeWrite bs k s) = bystanders s := by
  unfold homeWrite
  exact (foldl_keeps bystanders (by intros; rfl) _ _).trans rfl

/-! Atomic requests and update-only lines -/

theorem laneReply_bystanders (r : AtomReq) (ws : List RegWrite) (s : State) : bystanders (laneReply r ws s) = bystanders s :=
  onGangAny_bystanders _ (by intros; rfl) s
theorem answer_bystanders (r : AtomReq) (v : Word) (fl : Fl) (ws : List Word) (s : State) :
    bystanders (answer r v fl ws s) = bystanders s := by
  unfold answer
  split
  · exact laneReply_bystanders _ _ _
  · rfl
theorem memberWrite_bystanders (r : AtomReq) (p q : Nat) (v : Word) (s : State) : bystanders (memberWrite r p q v s) = bystanders s := by
  unfold memberWrite
  refine foldl_keeps bystanders (fun t b => ?_) _ _
  exact (onGangAny_bystanders _ (by intros; rfl) _).trans rfl
theorem memberWrites_bystanders (op : HomeOp) (q : Nat) : ∀ (p : Nat) (vs : List (AtomReq × Word)) (s : State),
    bystanders (memberWrites op q p vs s) = bystanders s
  | _, [], _ => rfl
  | p, (r, v) :: t, s => by rw [memberWrites, memberWrites_bystanders op q (p + 1) t, memberWrite_bystanders]
theorem ownHome_bystanders (u l z : Nat) (v : Word) (k : Key) (s : State) : bystanders (ownHome u l z v k s) = bystanders s := by
  unfold ownHome
  refine (foldl_keeps bystanders (fun t b => ?_) _ _).trans (homeWrite_bystanders _ _ s)
  exact onGangAny_bystanders _ (by intros; rfl) t
theorem lineHome_bystanders (r : RedLine) (s : State) : bystanders (lineHome r s) = bystanders s := by
  unfold lineHome
  split
  · rfl
  · refine (foldl_keeps bystanders (fun t u => ?_) _ _).trans (homeWrite_bystanders _ _ _)
    exact onGangAny_bystanders _ (by intros; rfl) t
theorem combineLines_bystanders (p : RedLine → Bool) (s : State) : bystanders (combineLines p s) = bystanders s := by
  unfold combineLines
  exact foldl_keeps bystanders (fun s r => lineHome_bystanders r s) _ _
theorem recallLines_bystanders (l n : Nat) (s : State) : bystanders (recallLines l n s) = bystanders s := combineLines_bystanders _ _
theorem execRequest_bystanders (r : AtomReq) (s : State) : bystanders (execRequest r s) = bystanders s := by
  have hr : bystanders (recallLines r.loc (if r.op = .chunk then 32 else r.size) { s with atoms := s.atoms.filter (fun x => x.id ≠ r.id) })
      = bystanders s := recallLines_bystanders _ _ _
  unfold execRequest
  simp only
  split
  · split
    · rw [answer_bystanders, hr]
    · rw [answer_bystanders, ownHome_bystanders]
      refine Eq.trans ?_ hr
      refine (foldl_keeps bystanders (fun t e => ?_) _ _)
      exact memberWrite_bystanders _ _ _ _ t
  · split
    · rw [answer_bystanders, ownHome_bystanders]
      exact (memberWrites_bystanders _ _ _ _ _).trans hr
    · rw [answer_bystanders, hr]
theorem failRequest_bystanders (r : AtomReq) (s : State) : bystanders (failRequest r s) = bystanders s := by
  unfold failRequest
  simp only
  refine (foldl_keeps bystanders (fun t u => ?_) _ _).trans ?_
  · exact onGangAny_bystanders u (fun g => addTraps_gangPart _ g) t
  · exact (foldl_keeps bystanders (fun t x => laneReply_bystanders x [] t) _ _).trans rfl
theorem serveRequest_bystanders (r : AtomReq) (s : State) : bystanders (serveRequest r s) = bystanders s := by
  unfold serveRequest
  split
  · exact failRequest_bystanders r s
  · exact execRequest_bystanders r s
theorem atomTimeout_bystanders (r : AtomReq) (s : State) : bystanders (atomTimeout r s) = bystanders s := by
  unfold atomTimeout
  simp only
  split
  · refine (foldl_keeps bystanders (fun t x => ?_) _ _).trans ?_
    · split
      · exact onGang_bystanders _ (by intros; rfl) t
      · rfl
    · have := failRequest_bystanders r (recallLines r.loc (if r.op = .chunk then 32 else r.size) (Machine.pick s).2)
      rw [recallLines_bystanders, pick_bystanders] at this
      exact this
  · rw [failRequest_bystanders, pick_bystanders]

/-! Stores -/

theorem testStore_bystanders (r : StoreReq) (s : State) : bystanders (testStore r s).2 = bystanders s := by
  unfold testStore
  split
  · rfl
  · split
    · rfl
    · simp only
      split <;> rfl
theorem storeBytes_bystanders (r : StoreReq) (s : State) : bystanders (storeBytes r s) = bystanders s := by
  unfold storeBytes
  refine (foldl_keeps bystanders (fun t b => ?_) _ _).trans rfl
  exact (onGang_bystanders _ (by intros; rfl) _).trans rfl
theorem storeHome_bystanders (r : StoreReq) (s : State) : bystanders (storeHome r s) = bystanders s := by
  unfold storeHome
  split
  · split
    · exact storeBytes_bystanders r s
    · exact storeBytes_bystanders r s
  · exact storeBytes_bystanders r s
theorem deliverStore_bystanders (r : StoreReq) (s : State) : bystanders (deliverStore r s) = bystanders s := by
  unfold deliverStore
  exact (storeHome_bystanders _ _).trans (testStore_bystanders r s)
theorem storeTimeout_bystanders (gone : ByteWrite → Bool) (r : StoreReq) (s : State) :
    bystanders (storeTimeout gone r s) = bystanders s := by
  unfold storeTimeout
  split
  · rfl
  · next b _ =>
    have hf : bystanders (if r.faulted then (Machine.pick s).2 else storeFault r cMemory b.va (postedInfo b false) (Machine.pick s).2)
        = bystanders s := by
      rw [← pick_bystanders s]
      split <;> rfl
    have hh (c : Bool) (q : StoreReq) (t : State) : bystanders (if c then storeHome q t else t) = bystanders t := by
      split
      · exact storeHome_bystanders q t
      · rfl
    exact (hh _ _ _).trans hf
theorem serveId_bystanders (i : Nat) (s : State) : bystanders (serveId i s) = bystanders s := by
  unfold serveId
  split
  · simp only
    split
    · rw [deliverStore_bystanders, storeTimeout_bystanders]
    · rw [storeTimeout_bystanders]
  · split
    · split
      · exact serveRequest_bystanders _ s
      · exact atomTimeout_bystanders _ s
    · rfl
theorem drainOwn_bystanders (u : Nat) (s : State) : bystanders (drainOwn u s) = bystanders s :=
  foldl_keeps bystanders (fun s i => serveId_bystanders i s) _ _
theorem sendLine_bystanders (r : RedLine) (s : State) : bystanders (sendLine r s) = bystanders s :=
  (lineHome_bystanders r _).trans
    (foldl_keeps bystanders (fun _ _ => foldl_keeps bystanders (fun s i => serveId_bystanders i s) _ _) _ _)
/-- A publish changes none of the bystanders (04 R133, R134). -/
theorem publish_bystanders (m : Nat) (s : State) : bystanders (publish m s) = bystanders s := by
  have hlines (u : Nat) : bystanders (((drainOwn u s).lines.filter (fun r => r.uids.contains u)).foldl (fun s r => sendLine r s) (drainOwn u s))
      = bystanders s :=
    (foldl_keeps bystanders (fun s r => sendLine_bystanders r s) _ _).trans (drainOwn_bystanders u s)
  unfold publish publishFor
  simp only
  split
  · exact hlines _
  · exact hlines _

end Sys2Proof.Proofs
end

section
/-! SUPPORT. The issue of a cart operation (12 R374 to R379, 02 R71). -/

namespace Sys2Proof.Proofs

open Sys2Proof.Machine Sys2Proof.Claims Sys2Proof.Laws

/-- The promise of an operation of `n` bytes issued now (12 R379). -/
theorem promiseOf_eq (s : State) (l : Level) (n : Nat) : promiseOf s l n = cycleOf s s.g + (cartFigures l.code).1 +
    (((s.carts.filter (fun c => c.id.eng = cartOf s.g l)).map (·.bytes)).sum + n + (cartFigures l.code).2 - 1) / (cartFigures l.code).2 := by
  simp only [promiseOf, ceilDiv, List.sum_eq_foldl, List.foldl_map]

/-- What an accepted cart instruction leaves: its operation, its number in the engine's timeline, the bound handle, and the promise on its
way (12 R374, R379). -/
def CartIssued (s : State) (tl : BitVec 3) (d p : Reg) (l : Level) (kind bytes : Nat) (t : State) : Prop :=
  let e := cartOf s.g l
  let n := (timelineOf s e s.g.job).last + 1
  let w := ((s.carts.filter (fun c => c.id.eng = e)).map (·.bytes)).sum + bytes
  let fw := cartFigures l.code
  let promise := cycleOf s s.g + fw.1 + (w + fw.2 - 1) / fw.2
  (∃ op, t.carts = s.carts ++ [op] ∧ op.id = ⟨e, s.g.job, n⟩ ∧ op.kind = kind ∧ op.level = l.code ∧ op.words = descWords s.g d ∧
    op.uid = s.g.uid ∧ op.promise = promise ∧ op.missed = false ∧ op.bytes = bytes) ∧
  tlh t.g tl = ⟨some e, n, 0⟩ ∧ (timelineOf t e s.g.job).last = n ∧ pcOf t = pcOf s + 4 ∧ t.mem = (publish l.code s).mem ∧ t.g.s = s.g.s ∧
  t.g.inflight = if p = 0 then s.g.inflight else (fixed 1 (.s p.toNat (BitVec.ofNat 64 promise)) s).g.inflight

theorem issueCart_issued (s : State) (tl : BitVec 3) (d p : Reg) (l : Level) (kind bytes : Nat) :
    CartIssued s tl d p l kind bytes (issueCart kind tl d p l bytes s) := by
  have hb : bystanders (publish l.code s) = bystanders s := publish_bystanders l.code s
  simp only [bystanders, gangPart, Prod.mk.injEq] at hb
  obtain ⟨hcarts, htimes, hcycle, huid, hjob, hs, htl, hpaths, hact, hfly⟩ := hb
  have hx (e : Engine) (j : Nat) : timelineOf (publish l.code s) e j = timelineOf s e j := by rw [timelineOf, htimes]; rfl
  have hlast := timelineOf_onTimeline_same (cartOf s.g l) s.g.job
    (fun x => { x with last := (timelineOf s (cartOf s.g l) s.g.job).last + 1 }) (publish l.code s) fun _ => ⟨rfl, rfl⟩
  have hu := onTimeline_eq (cartOf s.g l) s.g.job
    (fun x => { x with last := (timelineOf s (cartOf s.g l) s.g.job).last + 1 }) (publish l.code s)
  unfold issueCart tlIssue
  simp only [show engLevel (cartOf s.g l) = l.code from rfl, hjob, hx, promiseOf_eq]
  rw [hu] at hlast ⊢
  have hput (x : State) (w : Word) : (if p = 0 then x else putS 1 p w x) = { x with g := { x.g with
      inflight := if p = 0 then x.g.inflight else insertDue ⟨x.cycle + 1, .s p.toNat w⟩ x.g.inflight } } := by
    split <;> rfl
  rw [hput]
  have hpath : path (publish l.code s).g = path s.g := by simp only [path, hpaths, hact]
  refine ⟨⟨_, congrArg (· ++ [_]) hcarts, by rw [hjob], rfl, rfl, rfl, huid, rfl, rfl, rfl⟩, ?_, congrArg Timeline.last hlast, ?_, rfl, hs, ?_⟩
  · simp [tlh, setPath, next, setPc]
  · simp [next, setPc, setPath, pcOf, path, hpaths, hact]
  · simp [fixed, hcycle, hfly, wd]

/-- The three cart instructions issue their operations, or trap (12 R374 to R379, 02 R71). -/
theorem cartInstructionsTakeNumbers : Claims.CartInstructionsTakeNumbers := by
  intro s tl d p l _
  have hissue (i : Instr) (f : State → State) (tr : Option Trap) (kind bytes : Nat) (hi : exec i s = .next (orTrap tr f s))
      (hf : f s = issueCart kind tl d p l bytes s) (ht : tr = none) : Runs i s (CartIssued s tl d p l kind bytes) :=
    ⟨_, by rw [hi, ht, ← hf]; rfl, issueCart_issued s tl d p l kind bytes⟩
  have htrap (i : Instr) (f : State → State) (tr : Option Trap) (k : Trap) (hd : Delivers s)
      (hi : exec i s = .next (orTrap tr f s)) (ht : tr = some k) : Runs i s (Entered k.cause k.addr k.info (pcOf s) s) :=
    ⟨_, by rw [hi, ht]; rfl, entered_raise hd k⟩
  exact ⟨hissue (.cpy tl d p l) _ _ 0 _ rfl rfl, hissue (.mcopy tl d p l) _ _ 1 _ rfl rfl, hissue (.reduce tl d p l) _ _ 2 _ rfl rfl,
    fun k hd => ⟨htrap (.cpy tl d p l) _ _ k hd rfl, htrap (.mcopy tl d p l) _ _ k hd rfl, htrap (.reduce tl d p l) _ _ k hd rfl⟩⟩

end Sys2Proof.Proofs
end

section
/-! SUPPORT. What the moves of a cart operation leave alone, and its completion in every state (04 R153, R154, 12 R378). -/

namespace Sys2Proof.Proofs

open Sys2Proof.Machine Sys2Proof.Claims Sys2Proof.Laws

/-- What of the machine no move of an element changes. -/
def machinery (s : State) := (s.carts, s.stores, s.cycle, s.pkgs, s.xts, s.scratch, s.launches, s.jobs, s.ports, s.bonds, s.links,
  s.routes, s.poison)

theorem homeWrite_machinery (bs : List (Nat × Byte)) (k : Key) (s : State) : machinery (homeWrite bs k s) = machinery s := by
  unfold homeWrite
  exact (foldl_keeps machinery (by intros; rfl) _ _).trans rfl
theorem combineLines_machinery (p : RedLine → Bool) (s : State) : machinery (combineLines p s) = machinery s := by
  unfold combineLines
  refine foldl_keeps machinery (fun t r => ?_) _ _
  unfold lineHome
  split
  · rfl
  · exact (foldl_keeps machinery (by intros; rfl) _ _).trans (homeWrite_machinery _ _ _)
theorem reach_machinery (p : Nat) (ls : List Nat) (s : State) : machinery (reach p ls s) = machinery s := by
  unfold reach
  split <;> rfl
theorem pick_machinery (s : State) : machinery (Machine.pick s).2 = machinery s := by
  unfold Machine.pick
  split <;> rfl
theorem pathRead_machinery (cl : Coords) (p : Nat) (fl : Cells Nat) (hs : List (Nat × Key)) (s : State) :
    machinery (pathRead cl p fl hs s).2 = machinery s := by
  unfold pathRead
  exact (foldl_keeps machinery (by intros; rfl) _ _).trans (pick_machinery s)
theorem regWrite_machinery (u m b : Nat) (bs : List (Option Byte)) (s : State) : machinery (regWrite u m b bs s) = machinery s := by
  unfold regWrite
  simp only
  split <;> rfl

/-! The engine's reads and writes -/

section Moves

variable (op : CartOp) (late : Bool) (who : Option Nat) (m : Moved)

/-- Naming a fault moves nothing. -/
theorem faultIf_st (b : Bool) (a : Word) (m : Moved) : (if b then m.fault a else m).st = m.st := by
  split <;> rfl
theorem engWord_machinery (as : List Word) : machinery (engWord op late who as m).2.st = machinery m.st := by
  unfold engWord
  simp only
  split
  · rfl
  · split
    · rfl
    · split
      · rfl
      · split
        · exact congrArg machinery (faultIf_st _ _ m)
        · simp only [pathRead_machinery, reach_machinery, combineLines_machinery, faultIf_st]
theorem engRead_machinery (as : List Word) : machinery (engRead op late who as m).2.st = machinery m.st := by
  unfold engRead
  refine foldl_keeps (fun a : List (Word × Option (List Byte)) × Moved => machinery a.2.st) (fun a w => ?_) _ _
  exact engWord_machinery op late who a.2 _
theorem engWrite_machinery (bs : List (Word × Byte)) : machinery (engWrite op late who bs m).st = machinery m.st := by
  unfold engWrite
  split
  · rfl
  · split
    · rfl
    · simp only
      split
      · rfl
      · split
        · exact congrArg machinery (faultIf_st _ _ m)
        · simp only [reach_machinery, homeWrite_machinery, faultIf_st]
theorem movePiece_machinery (p : (Nat × Nat) × Nat) : machinery (movePiece op late p m).st = machinery m.st := by
  unfold movePiece
  split
  · rfl
  · rw [engWrite_machinery, engRead_machinery]
theorem spreadPiece_machinery (p : (Nat × Nat) × Nat) : machinery (spreadPiece op late p m).st = machinery m.st := by
  unfold spreadPiece
  split
  · rfl
  · simp only
    split
    · split
      · rfl
      · split
        · exact engWrite_machinery _ _ _ _ _
        · simp only [regWrite_machinery, engRead_machinery]
    · split
      · rw [engWrite_machinery, engRead_machinery]
      · rw [engWrite_machinery, engRead_machinery]
theorem redList_machinery (z e : Nat) : ∀ (js : List Nat) (m : Moved), machinery (redList op z e js m).2.st = machinery m.st
  | [], _ => rfl
  | j :: r, m => by
    unfold redList
    simp only
    rw [redList_machinery z e r]
    split
    · rfl
    · exact engRead_machinery _ _ _ _ _
theorem redElem_machinery (e : Nat) : machinery (redElem op e m).2.st = machinery m.st := by
  have hl := redList_machinery op (redBytes (dKind op)) e (List.range (selected op).length) m
  unfold redElem
  simp only
  split
  · next h => rw [← hl, h]
  · next l n h =>
    rw [h] at hl
    split
    · exact hl
    · split
      · split <;> exact (engRead_machinery _ _ _ _ _).trans hl
      · exact hl
theorem reducePiece_machinery (p : (Nat × Nat) × Nat) : machinery (reducePiece op late p m).st = machinery m.st := by
  unfold reducePiece
  simp only
  refine (foldl_keeps (fun m : Moved => machinery m.st) (fun m w => engWrite_machinery op late none m _) _ _).trans ?_
  refine foldl_keeps (fun a : List (Word × Byte) × Moved => machinery a.2.st) (fun a i => ?_) _ _
  exact redElem_machinery op a.2 _
theorem movedFaults_machinery (p : (Nat × Nat) × Nat) : machinery (movedFaults op p m).st = machinery m.st := by
  unfold movedFaults
  refine foldl_keeps (fun m : Moved => machinery m.st) (fun m b => ?_) _ _
  split <;> rfl
/-- No element's move changes the machinery. -/
theorem runCart_machinery (keep : Nat → Bool) : machinery (runCart op late keep m).st = machinery m.st := by
  unfold runCart
  refine foldl_keeps (fun m : Moved => machinery m.st) (fun m p => ?_) _ _
  split
  · rfl
  · split
    · exact movedFaults_machinery op m p.1
    · split
      · exact movePiece_machinery op late m p.1
      · exact spreadPiece_machinery op late m p.1
      · exact reducePiece_machinery op late m p.1

end Moves

/-! The completion (04 R153, R154) -/

/-- The machine as the completion's moves find it: its promise has been looked at (04 R157). -/
def cartStart (o : OpId) (s : State) : State := expirePromise o { s with cut := false }
/-- The issuer when its operation has completed: the writes count as its own, and its handle shows the skipped slots (04 R153, 02 R74). -/
def issuerAfter (op : CartOp) (o : OpId) (ch : Nat) (wr : Cells Nat) (g : Gang) : Gang := { g with
  own := vjoin g.own wr
  view := if ch / 2 % 2 = 1 then vjoin g.view wr else g.view
  tl := match g.tl[op.tl]? with
    | some h => if h.eng = some o.eng && h.last = o.n then g.tl.setIfInBounds op.tl { h with skip := skipMask op } else g.tl
    | none => g.tl }
/-- What the completion does when its elements have moved: its number completes, and its slots, flags and fault are recorded. -/
def finishCart (op : CartOp) (o : OpId) (ch : Nat) (m : Moved) : State :=
  let t := { m.st with
    carts := m.st.carts.filter (fun c => c.id ≠ o)
    pubs := if m.wr.isEmpty then m.st.pubs else addPub ⟨some (op.uid, op.at_), op.level, m.wr⟩ m.st.pubs }
  let t := onGangAny op.uid (issuerAfter op o ch m.wr) t
  let t := noteFlags o op.uid m.fl t
  let t := match m.low with
    | some a => noteFault o cCopy a (wd o.n) t
    | none => t
  completeNum o t
/-- The completion moves the elements and finishes, where neither its package nor a path holds it up (21 R531, 19 R507). -/
theorem exec_cartOpComplete {s : State} {op : CartOp} (hf : s.carts.find? (fun c => c.id = op.id) = some op) :
    exec (.cartOpComplete op.id) s =
      let p := Machine.pick (cartStart op.id s)
      let r := reachSlots p.2 op
      let t := finishCart r op.id p.1 (runCart r (p.1 % 2 = 1) (fun _ => true) ⟨r.wr, r.low, r.fl, r.held, p.2⟩)
      .next (if isStopped s (engPkg op.id.eng) || t.cut then s else t) := by
  show execCartOpComplete op.id s = _
  unfold execCartOpComplete uncut
  simp only [hf]
  rfl
/-- Beside the timelines and the published views it changes the issuer and the list of operations alone. -/
theorem finishCart_eq (op : CartOp) (o : OpId) (ch : Nat) (m : Moved) : ∃ ts ps,
    finishCart op o ch m = { onGangAny op.uid (issuerAfter op o ch m.wr) m.st with
      carts := m.st.carts.filter (fun c => c.id ≠ o), pubs := ps, timelines := ts } := by
  unfold finishCart
  simp only
  rw [completeNum_eq]
  split
  · rw [noteFault, onTimeline_eq, noteFlags_eq]
    exact ⟨_, if m.wr.isEmpty then m.st.pubs else addPub ⟨some (op.uid, op.at_), op.level, m.wr⟩ m.st.pubs, rfl⟩
  · rw [noteFlags_eq]
    exact ⟨_, if m.wr.isEmpty then m.st.pubs else addPub ⟨some (op.uid, op.at_), op.level, m.wr⟩ m.st.pubs, rfl⟩
theorem finishCart_done (op : CartOp) (o : OpId) (ch : Nat) (m : Moved) :
    o.n ∈ (timelineOf (finishCart op o ch m) o.eng o.job).done := mem_done_completeNum o _

/-- A gang that asked for it is told that a promise of its own has run out (04 R157). -/
def promiseNotice (o : OpId) (g : Gang) : Gang :=
  if g.pme then { g with deferred := g.deferred ++ [⟨cPromise, 0, wd o.n, true, g.inh⟩] } else g
/-- A promise that runs out marks its operation, is counted, and concerns its issuer (04 R157). -/
theorem expirePromise_cases (o : OpId) (s : State) : expirePromise o s = s ∨ ∃ u p, expirePromise o s =
    onGangAny u (promiseNotice o) { s with
      carts := upd (fun x => x.id = o) (fun x => { x with missed := true }) s.carts
      jobs := upd (fun j => j.id = o.job && j.pkg = p) (fun j => { j with missed := j.missed + 1 }) s.jobs } := by
  unfold expirePromise
  split
  · exact .inl rfl
  · next c _ => exact (ite_eq_or_eq _ _ _).imp_right fun h => ⟨c.uid, c.at_.pkg, h⟩
theorem filter_upd {α : Type} (p : α → Bool) (f : α → α) (hf : ∀ x, p (f x) = p x) : ∀ l : List α,
    (upd p f l).filter (fun x => !p x) = l.filter (fun x => !p x)
  | [] => rfl
  | x :: l => by
    have ih := filter_upd p f hf l
    unfold upd at ih ⊢
    cases h : p x <;> simp [h, hf, ih]
/-- An operation whose promise has run out is marked, and no other operation. -/
theorem cartStart_carts (o : OpId) (s : State) :
    (cartStart o s).carts.filter (fun c => c.id ≠ o) = s.carts.filter (fun c => c.id ≠ o) := by
  have hne : (fun c : CartOp => decide (c.id ≠ o)) = fun c => !decide (c.id = o) := by
    funext c
    exact decide_not
  unfold cartStart
  rcases expirePromise_cases o { s with cut := false } with h | ⟨u, p, h⟩
  · rw [h]
  · rw [h, hne]
    exact filter_upd (fun x : CartOp => decide (x.id = o)) (fun x => { x with missed := true }) (fun _ => rfl) s.carts
theorem cartStart_stores (o : OpId) (s : State) : (cartStart o s).stores = s.stores := by
  unfold cartStart
  rcases expirePromise_cases o { s with cut := false } with h | ⟨u, p, h⟩
  · rw [h]
  · rw [h]
    rfl
/-- The completion takes its operation off the list, and no store moves. -/
theorem finishCart_carts {s : State} {op : CartOp} {o : OpId} {ch : Nat} {m : Moved} (hm : machinery m.st = machinery (cartStart o s)) :
    (finishCart op o ch m).carts = s.carts.filter (fun c => c.id ≠ o) ∧ (finishCart op o ch m).stores = s.stores := by
  simp only [machinery, Prod.mk.injEq] at hm
  obtain ⟨hcarts, hstores, -⟩ := hm
  obtain ⟨ts, ps, he⟩ := finishCart_eq op o ch m
  rw [he]
  constructor
  · show m.st.carts.filter _ = _
    rw [hcarts, cartStart_carts]
  · show m.st.stores = _
    rw [hstores, cartStart_stores]
/-- In every state the completion happens as a whole or not at all (04 R153, R154, 21 R531, 19 R507). -/
theorem completion_wholly (s : State) (op : CartOp) (hf : s.carts.find? (fun c => c.id = op.id) = some op) :
    Runs (.cartOpComplete op.id) s (fun t => t = s ∨ t.carts = s.carts.filter (fun c => c.id ≠ op.id) ∧
      op.id.n ∈ (timelineOf t op.id.eng op.id.job).done ∧ t.stores = s.stores) := by
  refine ⟨_, exec_cartOpComplete hf, ?_⟩
  split
  · exact .inl rfl
  · have hm (r : CartOp) (late : Bool) := (runCart_machinery r late ⟨r.wr, r.low, r.fl, r.held, (Machine.pick (cartStart op.id s)).2⟩
      (fun _ => true)).trans (pick_machinery _)
    exact .inr ⟨(finishCart_carts (hm _ _)).1, finishCart_done _ _ _ _, (finishCart_carts (hm _ _)).2⟩
theorem completion_stopped (s : State) (op : CartOp) (hf : s.carts.find? (fun c => c.id = op.id) = some op)
    (hs : isStopped s (engPkg op.id.eng) = true) : exec (.cartOpComplete op.id) s = .next s := by
  rw [exec_cartOpComplete hf]
  simp [hs]

end Sys2Proof.Proofs
end

section
/-! SUPPORT. The homes as the moves of a cart operation see them: what its writes have changed of memory, and what a read through the tile path
finds where no pick takes an older fetch (04 R127, R128, R149, R153). -/

namespace Sys2Proof.Proofs

open Sys2Proof.Machine Sys2Proof.Claims Sys2Proof.Laws

/-- A byte address of a side of an operation. -/
abbrev Side := Option Nat × Word

/-! Paths between packages -/

/-- What of the machine decides where a byte lies and whether it can be reached, beside memory and the jobs' words. -/
def surroundings (s : State) := (s.pkgs, s.xts, s.scratch, s.launches, s.ports, s.bonds, s.links, s.routes, s.poison)

theorem flows_of_surroundings {s t : State} (h : surroundings t = surroundings s) (p q : Nat) : flows t p q = flows s p q := by
  simp only [surroundings, Prod.mk.injEq] at h
  obtain ⟨hpkgs, -, -, -, hports, hbonds, hlinks, hroutes, -⟩ := h
  have hport : portOf t = portOf s := by unfold portOf; rw [hports]
  have hpod : podOf t = podOf s := by unfold podOf; rw [hpkgs]
  have hforeign : isForeign t = isForeign s := by unfold isForeign; rw [hport, hpod]
  have husable : linkUsable t = linkUsable s := by unfold linkUsable; rw [hport, hforeign]
  have hpaused : linkPaused t = linkPaused s := by unfold linkPaused bondOf; rw [hbonds]
  have hlinked (ok : Link → Bool) : linked ok t = linked ok s := by unfold linked; rw [husable, hlinks]
  unfold flows hops
  rw [hpaused, hlinked, hroutes]
theorem poisoned_of_surroundings {s t : State} (h : surroundings t = surroundings s) (l : Nat) : poisoned t l = poisoned s l := by
  simp only [surroundings, Prod.mk.injEq] at h
  simp only [poisoned, h]
theorem locPkg_of_word {l m : Nat} (h : l / 4 = m / 4) : locPkg l = locPkg m := by
  have hk : locKind l = locKind m := by
    unfold locKind
    omega
  have hu : locUnit l = locUnit m := by
    unfold locUnit
    omega
  simp only [locPkg, hk, hu]
/-- Requests that all have their paths do not wait (19 R507). -/
theorem reach_of_flows {p : Nat} {ls : List Nat} {s : State} (h : ∀ l ∈ ls, flows s p (locPkg l) = true) : reach p ls s = s := by
  unfold reach
  rw [if_pos (List.all_eq_true.2 h)]

/-! What the writes of an operation change -/

/-- Memory of `t` as the writes of the bytes `D` at their places `H` leave that of `s`, each with its value `val`; nothing else that a move
looks at has changed. -/
structure Wrote (s : State) (H : Side → Hit) (val : Side → Byte) (D : Side → Prop) (t : State) : Prop where
  around : surroundings t = surroundings s
  jobWords : ∀ p j, (jobOn t p j).map (·.words) = (jobOn s p j).map (·.words)
  noPick : t.picks = []
  noLine : t.lines = []
  noCut : t.cut = false
  memWf : Memory.wf t.mem
  keysWf : CellsWf none t.keys
  written : ∀ q, D q → memByte t (H q).loc = val q ∧ memKey t (H q).loc = (H q).key
  kept : ∀ l, (∀ q, D q → (H q).loc ≠ l) →
    memByte t l = memByte s l ∧ memKey t l = memKey s l ∧ cget 0 t.tags l = cget 0 s.tags l ∧ topOf t l = topOf s l
  lineKept : ∀ l, (∀ q, D q → (H q).loc / 64 = l / 64 → locKind (H q).loc = 0 → (lineOf s (H q).loc).2 = (H q).key) →
    lineOf t l = lineOf s l

/-- No byte of `D` lies at the place of `q`, or has given its line another key (21 R523). -/
def Untouched (s : State) (H : Side → Hit) (D : Side → Prop) (q : Side) : Prop :=
  ∀ d, D d → (H d).loc ≠ (H q).loc ∧ ((H d).loc / 64 = (H q).loc / 64 → locKind (H d).loc = 0 → (lineOf s (H d).loc).2 = (H d).key)

section Wrote

variable {s t : State} {H : Side → Hit} {val : Side → Byte} {D : Side → Prop}

/-- A byte that the writes have not touched reads as before. -/
theorem Wrote.homeByte_eq (h : Wrote s H val D t) {q : Side} (hq : Untouched s H D q) :
    homeByte t (H q).loc (H q).key = sideVal s H q := by
  obtain ⟨hm, hk, htag, htop⟩ := h.kept (H q).loc fun d hd => (hq d hd).1
  have hl := h.lineKept (H q).loc fun d hd => (hq d hd).2
  simp only [sideVal, homeByte, lastWrite, isSpoilt, hm, hk, htag, htop, hl]
/-- The invariant speaks of the bytes that have been written, not of their order. -/
theorem Wrote.congr (h : Wrote s H val D t) {E : Side → Prop} (he : ∀ q, E q ↔ D q) : Wrote s H val E t := by
  obtain rfl : E = D := funext fun q => propext (he q)
  exact h

/-- A byte of the operation enters its home. -/
theorem Wrote.putByte (h : Wrote s H val D t) (p : Nat) {q : Side} (hinj : ∀ d, D d → (H d).loc = (H q).loc → d = q) :
    Wrote s H val (fun d => D d ∨ d = q) (putByte p (H q).loc (val q) (H q).key t) where
  around := h.around
  jobWords := h.jobWords
  noPick := h.noPick
  noLine := h.noLine
  noCut := h.noCut
  memWf := putByte_wf _ _ _ _ h.memWf
  keysWf := cset_wf _ _ h.keysWf
  written d hd := by
    by_cases hl : (H d).loc = (H q).loc
    · obtain rfl : d = q := hd.elim (fun hd => hinj d hd hl) id
      exact ⟨cget_cset_same _ _ h.memWf, cget_cset_same _ _ h.keysWf⟩
    · obtain ⟨hb, hk⟩ := h.written d (hd.resolve_right fun hq => hl (by rw [hq]))
      exact ⟨(cget_cset_other _ hl _).trans hb, (cget_cset_other _ hl _).trans hk⟩
  kept l hl := by
    have hq : l ≠ (H q).loc := (hl q (.inr rfl)).symm
    obtain ⟨hb, hk, ht, hp⟩ := h.kept l fun d hd => hl d (.inl hd)
    exact ⟨(cget_cset_other _ hq _).trans hb, (cget_cset_other _ hq _).trans hk, (cget_cset_other _ hq _).trans ht,
      (cget_cset_other _ hq _).trans hp⟩
  lineKept l hl := by
    have hold := h.lineKept l fun d hd => hl d (.inl hd)
    rw [← hold]
    show cget (0, none) (if locKind (H q).loc = 0 && (lineOf t (H q).loc).2 ≠ (H q).key then
      cset (0, none) t.lineKeys ((H q).loc / 64) (p, (H q).key) else t.lineKeys) (l / 64) = _
    split
    · next hc =>
      have hline : l / 64 ≠ (H q).loc / 64 := by
        intro hl64
        simp only [Bool.and_eq_true, decide_eq_true_eq] at hc
        have hsame : lineOf t (H q).loc = lineOf s (H q).loc := by
          have hs (u : State) : lineOf u (H q).loc = lineOf u l := by simp only [lineOf, hl64]
          rw [hs, hs, hold]
        exact hc.2 (hsame ▸ hl q (.inr rfl) hl64.symm hc.1)
      exact cget_cset_other _ hline _
    · rfl
/-- Bytes of the operation that one request writes enter their homes. -/
theorem Wrote.homeWrite (h : Wrote s H val D t) {k : Key} {qs : List Side} (hk : ∀ q ∈ qs, (H q).key = k)
    (hinj : ∀ d, D d ∨ d ∈ qs → ∀ q ∈ qs, (H d).loc = (H q).loc → d = q) :
    Wrote s H val (fun d => D d ∨ d ∈ qs) (homeWrite (qs.map fun q => ((H q).loc, val q)) k t) := by
  have hfold (p : Nat) : ∀ (qs : List Side) (D : Side → Prop) (t : State), Wrote s H val D t → (∀ q ∈ qs, (H q).key = k) →
      (∀ d, D d ∨ d ∈ qs → ∀ q ∈ qs, (H d).loc = (H q).loc → d = q) →
      Wrote s H val (fun d => D d ∨ d ∈ qs)
        ((qs.map fun q => ((H q).loc, val q)).foldl (fun t b => Machine.putByte p b.1 b.2 k t) t) := by
    intro qs
    induction qs with
    | nil => exact fun D t h _ _ => h.congr (by simp)
    | cons q qs ih =>
      intro D t h hk hinj
      have hq := h.putByte p (q := q) fun d hd => hinj d (.inl hd) q (by simp)
      rw [hk q (by simp)] at hq
      refine (ih _ _ hq (fun x hx => hk x (by simp [hx])) fun d hd x hx => hinj d ?_ x (by simp [hx])).congr fun d => ?_
      · rcases hd with (hd | rfl) | hd
        · exact .inl hd
        · exact .inr (by simp)
        · exact .inr (by simp [hd])
      · simp [or_assoc]
  exact hfold _ qs D { t with wseq := t.wseq + 1 } { h with } hk hinj

end Wrote

/-! Reads through the tile path -/

/-- Where no pick takes an older fetch, a path reads what the homes hold (04 R149). -/
theorem pathRead_of_noPick {s : State} (h : s.picks = []) (cl : Coords) (p : Nat) (fl : Cells Nat) (hs : List (Nat × Key)) :
    ∃ fs, pathRead cl p fl hs s = (hs.map (fun h => homeByte s h.1 h.2), { s with fetched := fs }) := by
  have hp : Machine.pick s = (0, s) := by
    unfold Machine.pick
    rw [h]
  have hread (l d : Nat) (k : Key) (hd : d = 0) :
      decrypt l k (writeAt s l (lastUpTo s l (pathCut s cl p fl d l))) = homeByte s l k := by
    have htop : topOf s l ≤ pathCut s cl p fl d l := by
      have hmem : topOf s l ∈ (elemLocs l).map (topOf s) :=
        List.mem_map_of_mem (List.mem_map.2 ⟨l % 4, by simp [Nat.mod_lt], by omega⟩)
      simp only [pathCut, hd, if_true, ← List.foldl_map (f := topOf s) (g := max)]
      exact (foldl_choice_le (le := fun a b => b ≤ a) (fun _ => le_refl _) (fun _ _ _ h1 h2 => h2.trans h1)
        (fun a b => ⟨le_max_left a b, le_max_right a b⟩) _ 0).2 _ hmem
    simp only [lastUpTo, if_pos htop, writeAt, le_refl, if_true, homeByte]
  have hfetch (qs : List ((Nat × Key) × Nat)) : ∀ t : State, ∃ fs,
      qs.foldl (fun s q => setFetched cl p q.1.1 q.2 s) t = { t with fetched := fs } := by
    induction qs with
    | nil => exact fun t => ⟨t.fetched, rfl⟩
    | cons q qs ih => exact fun t => ih (setFetched cl p q.1.1 q.2 t)
  unfold pathRead
  simp only [hp, List.map_map]
  obtain ⟨fs, hfs⟩ := hfetch _ s
  refine ⟨fs, Prod.ext ?_ hfs⟩
  refine List.map_congr_left fun x _ => hread _ _ _ ?_
  simp

end Sys2Proof.Proofs
end

section
/-! SUPPORT. The engine's reads and writes of an operation whose bytes can all move (`Sides`): a read gives what the homes held at first, a
write enters the homes, and none of them faults or waits (04 R128, R153). -/

namespace Sys2Proof.Proofs

open Sys2Proof.Machine Sys2Proof.Claims Sys2Proof.Laws

/-! Words of four bytes -/

theorem wordOf_eq_iff (a b : Word) : wordOf a = wordOf b ↔ a.toNat / 4 = b.toNat / 4 := by
  have h (c : Word) : (wordOf c).toNat = c.toNat / 4 * 4 := by
    have hc := c.isLt
    rw [wordOf, wd, BitVec.toNat_sub, BitVec.toNat_ofNat]
    omega
  rw [← BitVec.toNat_inj, h, h]
  omega
theorem add_wd_wd (a : Word) (i j : Nat) : a + wd i + wd j = a + wd (i + j) := by
  rw [BitVec.add_assoc]
  exact congrArg (a + ·) (BitVec.ofNat_add i j).symm

/-- The word of a byte of a run, counted from the run's first word. -/
theorem word_add (a : Word) (x : Nat) : (a + wd x).toNat / 4 = (a.toNat / 4 + (a.toNat % 4 + x) / 4) % 2 ^ 62 := by
  rw [wd, BitVec.toNat_add, BitVec.toNat_ofNat]
  omega
theorem wordOf_add_congr {a : Word} {x y : Nat} (h : (a.toNat % 4 + x) / 4 = (a.toNat % 4 + y) / 4) : wordOf (a + wd x) = wordOf (a + wd y) := by
  rw [wordOf_eq_iff, word_add, word_add, h]
theorem wordOf_add_ne {a : Word} {x y : Nat} (hx : x < 2 ^ 35) (hy : y < 2 ^ 35) (h : (a.toNat % 4 + x) / 4 ≠ (a.toNat % 4 + y) / 4) :
    wordOf (a + wd x) ≠ wordOf (a + wd y) := by
  rw [Ne, wordOf_eq_iff, word_add, word_add]
  omega

/-- The sides of an operation (`Claims.Sides`) as its moves use them, whichever slots it has reached. -/
structure SidesOf (s : State) (op : CartOp) (rd wr : List Side) (H : Side → Hit) : Prop where
  noErr : op.errs = []
  maps : ∀ q ∈ rd ++ wr, sideByte s op q.1 q.2 = .ok (H q)
  sound : ∀ q ∈ rd ++ wr, poisoned s (H q).loc = false
  aligned : ∀ q ∈ rd ++ wr, (H q).loc % 4 = q.2.toNat % 4
  opened : ∀ q ∈ rd ++ wr, flows s op.at_.pkg (locPkg (H q).loc) = true
  stable : ∀ q ∈ rd ++ wr, ∀ u : State, u.pkgs = s.pkgs → u.xts = s.xts → u.scratch = s.scratch → u.launches = s.launches →
    (∀ p j, (jobOn u p j).map (·.words) = (jobOn s p j).map (·.words)) → (∀ l, (∀ w ∈ wr, (H w).loc ≠ l) → memByte u l = memByte s l) →
    sideByte u op q.1 q.2 = sideByte s op q.1 q.2
  readable : ∀ q ∈ rd, (H q).perm &&& permR = permR
  writable : ∀ q ∈ wr, (H q).perm &&& permW = permW
  word : ∀ p ∈ rd ++ wr, ∀ q ∈ rd ++ wr, p.1 = q.1 → wordOf p.2 = wordOf q.2 → (H p).loc / 4 = (H q).loc / 4 ∧ (H p).key = (H q).key
  inj : ∀ p ∈ wr, ∀ q ∈ wr, (H p).loc = (H q).loc → p = q
  apart : ∀ q ∈ rd, Untouched s H (· ∈ wr) q

theorem sidesOf {s : State} {op : CartOp} {rd wr : List Side} {H : Side → Hit} (h : Sides s op rd wr H)
    (sl : Option (List (Option (Nat × List Byte)))) : SidesOf s { op with slots := sl } rd wr H := by
  obtain ⟨-, herr, -, -, -, -, -, -, -, -, hall, hr, hw, hword, hnd, hap⟩ := h
  exact {
    noErr := herr
    maps := fun q hq => (hall q hq).1
    sound := fun q hq => (hall q hq).2.1
    aligned := fun q hq => (hall q hq).2.2.1
    opened := fun q hq => (hall q hq).2.2.2.1
    stable := fun q hq => (hall q hq).2.2.2.2
    readable := hr
    writable := hw
    word := fun p hp q hq h1 h2 => hword p hp q hq h1 ((wordOf_eq_iff _ _).1 h2)
    inj := fun p hp q hq => List.inj_on_of_nodup_map hnd hp hq
    apart := fun q hq d hd => ⟨(hap q hq d hd).1.symm, fun h => (hap q hq d hd).2 h.symm⟩ }

theorem sides_slots {s : State} {op : CartOp} {rd wr : List Side} {H : Side → Hit} (h : Sides s op rd wr H) : op.slots = none := by
  obtain ⟨-, -, -, -, hslots, -⟩ := h
  exact hslots
theorem sides_nodup {s : State} {op : CartOp} {rd wr : List Side} {H : Side → Hit} (h : Sides s op rd wr H) : wr.Nodup := by
  obtain ⟨-, -, -, -, -, -, -, -, -, -, -, -, -, -, hnd, -⟩ := h
  exact hnd.of_map _

/-- The work of an operation of which the bytes `D` have been written: what it holds of words already read are their first bytes, as far as
those may be read (`R`). -/
structure Moving (s : State) (H : Side → Hit) (val : Side → Byte) (R D : Side → Prop) (m : Moved) : Prop where
  wrote : Wrote s H val D m.st
  held : ∀ h ∈ m.held, ∀ q, R q → h.1 = q.1 → h.2.1 = wordOf q.2 → h.2.2[q.2.toNat % 4]? = some (sideVal s H q)

section Moves

variable {s : State} {op : CartOp} {rd wr : List Side} {H : Side → Hit} {val : Side → Byte} {R D : Side → Prop} {m : Moved}
  (hS : SidesOf s op rd wr H) (hD : ∀ q, D q → q ∈ wr) (late : Bool)

include hS hD in
/-- The operation's own writes move none of its bytes elsewhere. -/
theorem sideByte_of_wrote {t : State} (h : Wrote s H val D t) {q : Side} (hq : q ∈ rd ++ wr) : sideByte t op q.1 q.2 = .ok (H q) := by
  have ha := h.around
  simp only [surroundings, Prod.mk.injEq] at ha
  obtain ⟨hpkgs, hxts, hscr, hlau, -⟩ := ha
  refine (hS.stable q hq t hpkgs hxts hscr hlau h.jobWords fun l hl => ?_).trans (hS.maps q hq)
  exact (h.kept l fun d hd => hl d (hD d hd)).1
include hS in
/-- A byte of a word lies at its place in the word of any other of its bytes. -/
theorem loc_of_word {p q : Side} (hp : p ∈ rd ++ wr) (hq : q ∈ rd ++ wr) (h1 : p.1 = q.1) (h2 : wordOf p.2 = wordOf q.2) :
    (H q).loc = (H p).loc - p.2.toNat % 4 + q.2.toNat % 4 ∧ (H q).loc = (H p).loc + q.2.toNat - p.2.toNat := by
  have hw := (hS.word p hp q hq h1 h2).1
  have hap := hS.aligned p hp
  have haq := hS.aligned q hq
  have := (wordOf_eq_iff _ _).1 h2
  omega
theorem inFailed_of_noErr (h : op.errs = []) (who : Option Nat) (wr : Bool) (a : Word) : inFailed op who wr a = false := by
  rw [inFailed, h]
  rfl
theorem combineLines_of_noLine {t : State} (h : t.lines = []) (p : RedLine → Bool) : combineLines p t = t := by
  rw [combineLines, h]
  rfl

variable (hR : ∀ q, R q → q ∈ rd ++ wr ∧ (H q).perm &&& permR = permR)

include hS hD hR in
/-- A word that is read gives its first bytes. -/
theorem engWord_reads (hm : Moving s H val R D m) {who : Option Nat} {a : Word} (as : List Word) (ha : R (who, a))
    (hfresh : ∀ q, R q → q.1 = who → wordOf q.2 = wordOf a → Untouched s H D q) :
    ∃ bs, (engWord op late who (a :: as) m).1 = some bs ∧ Moving s H val R D (engWord op late who (a :: as) m).2 ∧
      ∀ q, R q → q.1 = who → wordOf q.2 = wordOf a → bs[q.2.toNat % 4]? = some (sideVal s H q) := by
  unfold engWord
  simp only [List.headD_cons]
  split
  · next h hh =>
    have hk := List.find?_some hh
    simp only [Bool.and_eq_true, decide_eq_true_eq] at hk
    refine ⟨h.2.2, rfl, hm, fun q hq h1 h2 => hm.held h (List.mem_of_find?_eq_some hh) q hq ?_ ?_⟩
    · rw [hk.1, h1]
    · rw [of_decide_eq_true hk.2, h2]
  · obtain ⟨hmem, hperm⟩ := hR _ ha
    have hside := sideByte_of_wrote hS hD hm.wrote hmem
    have hsound : poisoned m.st (H (who, a)).loc = false := by
      rw [poisoned_of_surroundings hm.wrote.around, hS.sound _ hmem]
    simp only [hside]
    rw [if_neg (by rw [hperm, hsound]; simp)]
    simp only [inFailed_of_noErr hS.noErr, Bool.false_and, Bool.false_eq_true, if_false, combineLines_of_noLine hm.wrote.noLine]
    have hal : (H (who, a)).loc % 4 = a.toNat % 4 := hS.aligned _ hmem
    rw [reach_of_flows fun l hl => ?_]
    · obtain ⟨fs, hfs⟩ := pathRead_of_noPick hm.wrote.noPick (unitOf 2 op.at_) 2 op.view
        (((List.range 4).map fun i => (H (who, a)).loc - a.toNat % 4 + i).map fun l => (l, (H (who, a)).key))
      have hval (q : Side) (hq : R q) (h1 : q.1 = who) (h2 : wordOf q.2 = wordOf a) :
          ((((List.range 4).map fun i => (H (who, a)).loc - a.toNat % 4 + i).map fun l => (l, (H (who, a)).key)).map
            fun h => homeByte m.st h.1 h.2)[q.2.toNat % 4]? = some (sideVal s H q) := by
        have hloc := (loc_of_word hS hmem (hR q hq).1 h1.symm h2.symm).1
        have hkey := (hS.word _ hmem q (hR q hq).1 h1.symm h2.symm).2
        rw [← hm.wrote.homeByte_eq (hfresh q hq h1 h2), hloc, ← hkey]
        simp [List.getElem?_range (Nat.mod_lt q.2.toNat (by decide : 4 > 0))]
      rw [hfs]
      refine ⟨_, rfl, ⟨{ hm.wrote with }, fun h hh q hq h1 h2 => ?_⟩, hval⟩
      simp only at hh
      split at hh
      · rcases List.mem_cons.1 hh with rfl | hh
        · exact hval q hq h1.symm h2.symm
        · exact hm.held h hh q hq h1 h2
      · exact hm.held h hh q hq h1 h2
    · obtain ⟨i, hi, rfl⟩ := List.mem_map.1 hl
      have hi4 := List.mem_range.1 hi
      rw [flows_of_surroundings hm.wrote.around, locPkg_of_word (m := (H (who, a)).loc) (by omega)]
      exact hS.opened _ hmem

/-- What an entry of a list of words that have been read holds: the word's first bytes, as far as they may be read. -/
def WordRead (s : State) (H : Side → Hit) (R : Side → Prop) (who : Option Nat) (x : Word × Option (List Byte)) : Prop :=
  ∃ bs, x.2 = some bs ∧ ∀ q, R q → q.1 = who → wordOf q.2 = x.1 → bs[q.2.toNat % 4]? = some (sideVal s H q)

include hS hD hR in
/-- Words that are read one after another give their first bytes. -/
theorem engWords_read {who : Option Nat} {as : List Word} (has : ∀ a ∈ as, R (who, a))
    (hfresh : ∀ q, R q → q.1 = who → (∃ a ∈ as, wordOf q.2 = wordOf a) → Untouched s H D q) : ∀ (ws : List Word)
    (acc : List (Word × Option (List Byte)) × Moved), (∀ w ∈ ws, ∃ a ∈ as, wordOf a = w) → Moving s H val R D acc.2 →
    (∀ x ∈ acc.1, WordRead s H R who x) →
    let r := ws.foldl (fun acc w =>
      let r := engWord op late who (as.filter (fun a => wordOf a = w)) acc.2
      (acc.1 ++ [(w, r.1)], r.2)) acc
    Moving s H val R D r.2 ∧ (∀ x ∈ r.1, WordRead s H R who x) ∧ (∀ x ∈ acc.1, x ∈ r.1) ∧ ∀ w ∈ ws, ∃ x ∈ r.1, x.1 = w
  | [], _, _, hacc, hx => ⟨hacc, hx, fun _ h => h, by simp⟩
  | w :: ws, acc, hw, hacc, hx => by
    obtain ⟨a, ha, rfl⟩ := hw w (by simp)
    obtain ⟨b, bs, hb⟩ : ∃ b bs, as.filter (fun c => wordOf c = wordOf a) = b :: bs :=
      List.exists_cons_of_ne_nil (List.ne_nil_of_mem (List.mem_filter.2 ⟨ha, by simp⟩))
    have hmem := List.mem_filter.1 (hb ▸ List.mem_cons_self : b ∈ as.filter (fun c => wordOf c = wordOf a))
    have hba : wordOf b = wordOf a := of_decide_eq_true hmem.2
    obtain ⟨v, hv, hmv, hq⟩ := engWord_reads hS hD late hR hacc bs (has b hmem.1)
      fun q hq h1 h2 => hfresh q hq h1 ⟨b, hmem.1, h2⟩
    have hx' : ∀ x ∈ acc.1 ++ [(wordOf a, (engWord op late who (b :: bs) acc.2).1)], WordRead s H R who x := by
      intro x h
      rcases List.mem_append.1 h with h | h
      · exact hx x h
      · obtain rfl := List.mem_singleton.1 h
        exact ⟨v, hv, fun q h h1 h2 => hq q h h1 (h2.trans hba.symm)⟩
    obtain ⟨h1, h2, h3, h4⟩ := engWords_read has hfresh ws (_, (engWord op late who (b :: bs) acc.2).2)
      (fun w h => hw w (by simp [h])) hmv hx'
    simp only [List.foldl_cons, hb]
    refine ⟨h1, h2, fun x h => h3 x (List.mem_append_left _ h), fun w h => ?_⟩
    rcases List.mem_cons.1 h with rfl | h
    · exact ⟨_, h3 _ (List.mem_append_right _ (List.mem_singleton.2 rfl)), rfl⟩
    · exact h4 w h

include hS hD hR in
/-- Bytes that are read are their first ones. -/
theorem engRead_reads (hm : Moving s H val R D m) {who : Option Nat} {as : List Word} (has : ∀ a ∈ as, R (who, a))
    (hfresh : ∀ q, R q → q.1 = who → (∃ a ∈ as, wordOf q.2 = wordOf a) → Untouched s H D q) :
    (engRead op late who as m).1 = as.map (fun a => some (sideVal s H (who, a))) ∧ Moving s H val R D (engRead op late who as m).2 := by
  obtain ⟨hm', hread, -, hall⟩ := engWords_read hS hD late hR has hfresh ((as.map wordOf).eraseDups) ([], m) (by simp) hm (by simp)
  unfold engRead
  refine ⟨List.map_congr_left fun a ha => ?_, hm'⟩
  obtain ⟨x, hx, hxw⟩ := hall (wordOf a) (List.mem_eraseDups.2 (List.mem_map_of_mem ha))
  generalize List.foldl _ _ _ = r at hread hx ⊢
  cases hy : r.1.find? (fun x => x.1 = wordOf a) with
  | none => exact absurd (decide_eq_true hxw) (List.find?_eq_none.1 hy x hx)
  | some y =>
    obtain ⟨bs, hbs, hval⟩ := hread y (List.mem_of_find?_eq_some hy)
    simp only [Option.bind_some, hbs]
    exact hval (who, a) (has a ha) rfl (of_decide_eq_true (List.find?_some hy :)).symm

include hS hD in
/-- Bytes of one word that are written enter their homes. -/
theorem engWrite_writes (hm : Moving s H val R D m) {who : Option Nat} {bs : List (Word × Byte)}
    (hw : ∀ b ∈ bs, (who, b.1) ∈ wr ∧ val (who, b.1) = b.2) (hone : ∀ b ∈ bs, ∀ c ∈ bs, wordOf b.1 = wordOf c.1) :
    Moving s H val R (fun q => D q ∨ ∃ b ∈ bs, q = (who, b.1)) (engWrite op late who bs m) := by
  match bs, hw, hone with
  | [], _, _ => exact ⟨hm.wrote.congr (by simp), hm.held⟩
  | (a, x) :: bs, hw, hone =>
    have hmem (b) (hb : b ∈ (a, x) :: bs) : (who, b.1) ∈ rd ++ wr := List.mem_append_right _ (hw b hb).1
    have ha : (who, a) ∈ rd ++ wr := hmem (a, x) (by simp)
    have hside := sideByte_of_wrote hS hD hm.wrote ha
    have hls : ((a, x) :: bs).map (fun b => ((H (who, a)).loc + b.1.toNat - a.toNat, b.2)) =
        (((a, x) :: bs).map fun b => (who, b.1)).map fun q => ((H q).loc, val q) := by
      rw [List.map_map]
      refine List.map_congr_left fun b hb => Prod.ext ?_ (hw b hb).2.symm
      exact (loc_of_word hS ha (hmem b hb) rfl (hone (a, x) (by simp) b hb)).2.symm
    have hq (q : Side) (hq : q ∈ ((a, x) :: bs).map fun b => (who, b.1)) : q ∈ wr ∧ (H q).key = (H (who, a)).key := by
      obtain ⟨b, hb, rfl⟩ := List.mem_map.1 hq
      exact ⟨(hw b hb).1, ((hS.word _ ha _ (hmem b hb) rfl (hone (a, x) (by simp) b hb)).2).symm⟩
    have hsound : ((((a, x) :: bs).map fun b => (who, b.1)).map fun q => ((H q).loc, val q)).any (fun b => poisoned m.st b.1) = false := by
      rw [List.any_map, List.any_eq_false]
      intro q hqs
      simp [poisoned_of_surroundings hm.wrote.around, hS.sound q (List.mem_append_right _ (hq q hqs).1)]
    unfold engWrite
    simp only [hside, hls]
    rw [if_neg (by rw [hS.writable _ (hw (a, x) (by simp)).1, hsound]; simp)]
    simp only [inFailed_of_noErr hS.noErr, Bool.false_and, Bool.false_eq_true, if_false]
    have hwrote := hm.wrote.homeWrite (fun q h => (hq q h).2) fun d hd q hqs h =>
      hS.inj d (hd.elim (hD d) fun h => (hq d h).1) q (hq q hqs).1 h
    rw [reach_of_flows fun l hl => ?_]
    · exact ⟨hwrote.congr fun q => by simp [eq_comm], hm.held⟩
    · obtain ⟨p, hp, rfl⟩ := List.mem_map.1 hl
      obtain ⟨q, hqs, rfl⟩ := List.mem_map.1 hp
      rw [flows_of_surroundings hwrote.around]
      exact hS.opened q (List.mem_append_right _ (hq q hqs).1)

end Moves

end Sys2Proof.Proofs
end

section
/-! SUPPORT. The completion of an operation whose bytes can all move: where it starts, what its pieces are, and that it writes what they write
(04 R128, R153 to R155, 12 R378). -/

namespace Sys2Proof.Proofs

open Sys2Proof.Machine Sys2Proof.Claims Sys2Proof.Laws

/-! From the start of the moves to the completion -/

section Completion

variable {s : State} {op : CartOp} {rd wr : List Side} {H : Side → Hit} {val : Side → Byte}

theorem jobWords_upd (js : List Job) (p : Job → Bool) (k j : Nat) :
    ((upd p (fun j => { j with missed := j.missed + 1 }) js).find? (fun x => x.pkg = k && x.id = j)).map (·.words) =
      (js.find? (fun x => x.pkg = k && x.id = j)).map (·.words) := by
  have hp : ((fun x : Job => (x.pkg = k && x.id = j : Bool)) ∘ fun x : Job => if p x then { x with missed := x.missed + 1 } else x) =
      fun x => (x.pkg = k && x.id = j : Bool) := by
    funext x
    simp only [Function.comp]
    split <;> rfl
  rw [upd, List.find?_map, hp, Option.map_map]
  congr 1
  funext x
  simp only [Function.comp]
  split <;> rfl
/-- The moves start with memory as it stands. -/
theorem cartStart_wrote (h : Sides s op rd wr H) : Wrote s H val (fun _ => False) (cartStart op.id s) := by
  obtain ⟨-, -, -, -, -, hpick, hline, hmem, hkeys, -⟩ := h
  unfold cartStart
  rcases expirePromise_cases op.id { s with cut := false } with h | ⟨u, p, h⟩
  · rw [h]
    exact ⟨rfl, fun _ _ => rfl, hpick, hline, rfl, hmem, hkeys, fun _ h => h.elim, fun _ _ => ⟨rfl, rfl, rfl, rfl⟩, fun _ _ => rfl⟩
  · rw [h]
    exact ⟨rfl, fun k j => jobWords_upd _ _ k j, hpick, hline, rfl, hmem, hkeys, fun _ h => h.elim, fun _ _ => ⟨rfl, rfl, rfl, rfl⟩,
      fun _ _ => rfl⟩
/-- An operation that reaches its slots is the same but for what it knows of them (02 R74). -/
theorem reachSlots_eq (t : State) (op : CartOp) : reachSlots t op = { op with slots := (reachSlots t op).slots } := by
  unfold reachSlots
  split <;> rfl
/-- The moves of all elements of an operation that starts at its completion. -/
def cartMoves (s : State) (op : CartOp) : Moved :=
  let r := reachSlots (cartStart op.id s) op
  runCart r false (fun _ => true) ⟨r.wr, r.low, r.fl, r.held, cartStart op.id s⟩
theorem cartMoves_machinery (s : State) (op : CartOp) : machinery (cartMoves s op).st = machinery (cartStart op.id s) :=
  runCart_machinery _ _ _ _
/-- The completion writes what its moves write (04 R153, R154). -/
theorem cartWrites_of_moves {P : State → Prop} (h : Sides s op rd wr H) {out : List (Side × Byte)} (hv : ∀ b ∈ out, val b.1 = b.2)
    (hw : Wrote s H val (fun q => ∃ b ∈ out, b.1 = q) (cartMoves s op).st)
    (hP : P (finishCart (reachSlots (cartStart op.id s) op) op.id 0 (cartMoves s op))) : CartWrites s op H out P := by
  have hpick : Machine.pick (cartStart op.id s) = (0, cartStart op.id s) := by
    unfold Machine.pick
    rw [(cartStart_wrote (val := val) h).noPick]
  obtain ⟨hfind, -, -, -, -, -, -, -, -, hrun, -⟩ := h
  obtain ⟨hcarts, hstores⟩ := finishCart_carts (op := reachSlots (cartStart op.id s) op) (ch := 0) (cartMoves_machinery s op)
  have hdone := finishCart_done (reachSlots (cartStart op.id s) op) op.id 0 (cartMoves s op)
  obtain ⟨ts, ps, he⟩ := finishCart_eq (reachSlots (cartStart op.id s) op) op.id 0 (cartMoves s op)
  refine ⟨finishCart (reachSlots (cartStart op.id s) op) op.id 0 (cartMoves s op), ?_, hcarts, hdone, hstores, ?_, ?_, hP⟩
  · have hcut : (finishCart (reachSlots (cartStart op.id s) op) op.id 0 (cartMoves s op)).cut = false := by
      rw [he]
      exact hw.noCut
    rw [exec_cartOpComplete hfind, hpick]
    show Host.Outcome.next (if isStopped s _ || (finishCart _ _ _ (cartMoves s op)).cut then s else _) = _
    rw [hrun, hcut]
    rfl
  · rw [he]
    intro b hb
    rw [← hv b hb]
    exact hw.written b.1 ⟨b, hb, rfl⟩
  · rw [he]
    intro l hl
    refine (hw.kept l ?_).1
    rintro q ⟨b, hb, rfl⟩
    exact hl b hb

end Completion

end Sys2Proof.Proofs
end

section
/-! SUPPORT. The pieces of an operation: how a run is cut at the words of its destination, and how a copy moves piece by piece (04 R128, R155,
12 R378, 02 R75). -/

namespace Sys2Proof.Proofs

open Sys2Proof.Machine Sys2Proof.Claims Sys2Proof.Laws

/-! Runs cut at words -/

theorem mem_cuts {a : Word} {n : Nat} {c : Nat × Nat} : c ∈ cuts a n ↔ ∃ k < ceilDiv (a.toNat % 4 + n) 4,
    c = (4 * k - a.toNat % 4, min n (4 * k + 4 - a.toNat % 4) - (4 * k - a.toNat % 4)) := by
  simp [cuts, eq_comm]
theorem cuts_le {a : Word} {n : Nat} {c : Nat × Nat} (h : c ∈ cuts a n) : c.1 + c.2 ≤ n := by
  obtain ⟨k, hk, rfl⟩ := mem_cuts.1 h
  unfold ceilDiv at hk
  simp only
  omega
/-- Every byte of a run lies in a piece. -/
theorem exists_mem_cuts (a : Word) {n j : Nat} (h : j < n) : ∃ c ∈ cuts a n, c.1 ≤ j ∧ j < c.1 + c.2 := by
  refine ⟨_, mem_cuts.2 ⟨(a.toNat % 4 + j) / 4, ?_, rfl⟩, ?_, ?_⟩
  · unfold ceilDiv
    omega
  · simp only
    omega
  · simp only
    omega
/-- The word of a byte of a piece, from the piece's first byte. -/
theorem wordOf_of_mem_cuts {a : Word} {n : Nat} {c : Nat × Nat} (h : c ∈ cuts a n) {i : Nat} (hi : i < c.2) :
    wordOf (a + wd c.1 + wd i) = wordOf (a + wd c.1) := by
  obtain ⟨k, hk, rfl⟩ := mem_cuts.1 h
  rw [add_wd_wd]
  refine wordOf_add_congr ?_
  simp only at hi ⊢
  omega

/-! Elements in the order of their numbers -/

theorem mem_numbered {α : Type} (l : List (List α)) (p : α × Nat) :
    p ∈ (l.zip (List.range l.length)).flatMap (fun x => x.1.map (fun c => (c, x.2))) ↔ ∃ cs, l[p.2]? = some cs ∧ p.1 ∈ cs := by
  rw [List.range_eq_range', ← List.zipIdx_eq_zip_range']
  simp only [List.mem_flatMap, List.mem_map, List.mem_zipIdx_iff_getElem?]
  constructor
  · rintro ⟨x, hx, c, hc, rfl⟩
    exact ⟨x.1, hx, hc⟩
  · rintro ⟨cs, hcs, hp⟩
    exact ⟨(cs, p.2), hcs, p.1, hp, rfl⟩
/-- Two runs of runs of equal lengths side by side. -/
theorem zip_flatMap_range {α β γ : Type} (n : Nat) (f : α → Nat → β) (g : α → Nat → γ) : ∀ l : List α,
    (l.flatMap fun r => (List.range n).map (f r)).zip (l.flatMap fun r => (List.range n).map (g r)) =
      l.flatMap fun r => (List.range n).map fun i => (f r i, g r i)
  | [] => rfl
  | r :: l => by
    simp only [List.flatMap_cons]
    rw [List.zip_append (by simp), zip_flatMap_range n f g l, List.zip_map']
/-- The value that a list of written bytes gives a byte. -/
def outVal (out : List (Side × Byte)) (q : Side) : Byte := ((out.find? (fun b => b.1 = q)).map (·.2)).getD 0
theorem outVal_of_mem {out : List (Side × Byte)} (hnd : (out.map (·.1)).Nodup) {b : Side × Byte} (hb : b ∈ out) : outVal out b.1 = b.2 := by
  cases hf : out.find? (fun x => x.1 = b.1) with
  | none => exact absurd (decide_eq_true rfl) (List.find?_eq_none.1 hf b hb)
  | some x =>
    have hx : x = b := List.inj_on_of_nodup_map hnd (List.mem_of_find?_eq_some hf) hb (of_decide_eq_true (List.find?_some hf :))
    simp [outVal, hf, hx]

/-! Pieces that move -/

/-- A fold whose steps each extend what holds of the elements before. -/
theorem foldl_extends {σ ι : Type} {f : σ → ι → σ} {ps : List ι} (P : List ι → σ → Prop)
    (hstep : ∀ l p r, ps = l ++ p :: r → ∀ m, P l m → P (l ++ [p]) (f m p)) {m : σ} (hm : P [] m) : P ps (ps.foldl f m) := by
  have hgen : ∀ (r l : List ι), ps = l ++ r → ∀ m, P l m → P ps (r.foldl f m) := by
    intro r
    induction r with
    | nil =>
      intro l hl m hm
      rwa [hl, List.append_nil]
    | cons p r ih => exact fun l hl m hm => ih (l ++ [p]) (by simpa using hl) _ (hstep l p r hl m hm)
  exact hgen ps [] rfl m hm

/-- One element of an operation moves. -/
def pieceMoves (op : CartOp) (late : Bool) (p : (Nat × Nat) × Nat) (m : Moved) : Moved :=
  match op.kind with
  | 0 => movePiece op late p m
  | 1 => spreadPiece op late p m
  | _ => reducePiece op late p m
/-- All elements of an operation of which none has moved early. -/
theorem runCart_all {op : CartOp} (h : op.done = []) (late : Bool) (m : Moved) :
    runCart op late (fun _ => true) m = (cartPieces op).foldl (fun m p => pieceMoves op late p m) m := by
  have hz : ((cartPieces op).zip (List.range (cartPieces op).length)).map Prod.fst = cartPieces op := List.map_fst_zip (by simp)
  conv_rhs => rw [← hz, List.foldl_map]
  unfold runCart
  simp only [h]
  rfl

section Moving

variable {s : State} {op : CartOp} {rd wr : List Side} {H : Side → Hit} {val : Side → Byte} {R : Side → Prop}

/-- Where each piece, moved behind those before it, writes its bytes, all of them write theirs. -/
theorem moving_foldl {ι : Type} {W : ι → Side → Prop} {f : Moved → ι → Moved} {ps : List ι}
    (hstep : ∀ l p r, ps = l ++ p :: r → ∀ m, Moving s H val R (fun q => ∃ x ∈ l, W x q) m →
      Moving s H val R (fun q => (∃ x ∈ l, W x q) ∨ W p q) (f m p)) {m : Moved} (hm : Moving s H val R (fun _ => False) m) :
    Moving s H val R (fun q => ∃ x ∈ ps, W x q) (ps.foldl f m) := by
  refine foldl_extends (fun l m => Moving s H val R (fun q => ∃ x ∈ l, W x q) m) (fun l p r hl m hm => ?_)
    ⟨hm.wrote.congr fun q => by simp, hm.held⟩
  have hp := hstep l p r hl m hm
  exact ⟨hp.wrote.congr fun q => by simp [or_and_right, exists_or], hp.held⟩

theorem presentBytes_map_some (a : Word) (n : Nat) (f : Nat → Byte) :
    presentBytes a ((List.range n).map fun i => some (f i)) = (List.range n).map fun i => (a + wd i, f i) := by
  have hz : ((List.range n).map fun i => some (f i)).zip (List.range n) = (List.range n).map fun i => (some (f i), i) := by
    simpa using List.zip_map' (f := fun i => some (f i)) (g := id) (l := List.range n)
  rw [presentBytes, List.length_map, List.length_range, hz, List.filterMap_map]
  exact congrFun (List.filterMap_eq_map' (f := fun i => (a + wd i, f i))) _

variable (hS : SidesOf s op rd wr H) {D : Side → Prop} (hD : ∀ q, D q → q ∈ wr) (late : Bool)

include hS hD in
/-- A copy of up to a word moves its bytes. -/
theorem copy_moves {m : Moved} (hm : Moving s H val (· ∈ rd) D m) {who who' : Option Nat} {a : Nat → Word} {b : Word} {n : Nat}
    (hrd : ∀ i < n, (who, a i) ∈ rd) (hwr : ∀ i < n, (who', b + wd i) ∈ wr ∧ val (who', b + wd i) = sideVal s H (who, a i))
    (hone : ∀ i < n, wordOf (b + wd i) = wordOf b) :
    let r := engRead op late who ((List.range n).map a) m
    Moving s H val (· ∈ rd) (fun q => D q ∨ ∃ i < n, q = (who', b + wd i)) (engWrite op late who' (presentBytes b r.1) r.2) := by
  have hR (q : Side) (hq : q ∈ rd) : q ∈ rd ++ wr ∧ (H q).perm &&& permR = permR := ⟨List.mem_append_left _ hq, hS.readable q hq⟩
  obtain ⟨hbs, hm'⟩ := engRead_reads hS hD late hR hm (who := who) (as := (List.range n).map a)
    (by simpa using hrd) fun q hq _ _ d hd => hS.apart q hq d (hD d hd)
  simp only
  rw [hbs, List.map_map]
  simp only [Function.comp_def, presentBytes_map_some]
  have hw := engWrite_writes hS hD late hm' (who := who') (bs := (List.range n).map fun i => (b + wd i, sideVal s H (who, a i)))
    (by simpa using hwr) (by simp only [List.mem_map, List.mem_range]; rintro _ ⟨i, hi, rfl⟩ _ ⟨j, hj, rfl⟩; rw [hone i hi, hone j hj])
  exact ⟨hw.wrote.congr fun q => by simp, hw.held⟩

end Moving

end Sys2Proof.Proofs
end

section
/-! SUPPORT. Copies between memories: every row of a `cpy`, and the blocks of a `mcopy` above level 1 (12 R378, 02 R75). -/

namespace Sys2Proof.Proofs

open Sys2Proof.Machine Sys2Proof.Claims Sys2Proof.Laws

theorem mem_run {who : Option Nat} {a : Word} {n : Nat} {q : Side} : q ∈ Claims.run who a n ↔ ∃ i < n, q = (who, a + wd i) := by
  simp [Claims.run, wd, eq_comm]
theorem length_flatMap_run {α : Type} (n : Nat) (who : α → Option Nat) (a : α → Word) (l : List α) :
    (l.flatMap fun r => Claims.run (who r) (a r) n).length = l.length * n := by
  simp [Claims.run, List.length_flatMap]

section Copies

variable {s : State} {op : CartOp} {H : Side → Hit}

/-- The moves of an operation none of whose elements has moved start with nothing written and nothing held. -/
theorem cartMoves_eq {rd wr : List Side} (h : Sides s op rd wr H) : cartMoves s op =
    (cartPieces op).foldl (fun m p => pieceMoves { op with slots := (reachSlots (cartStart op.id s) op).slots } false p m)
      ⟨op.wr, op.low, op.fl, [], cartStart op.id s⟩ := by
  obtain ⟨-, -, hdone, hheld, -⟩ := h
  unfold cartMoves
  simp only
  rw [runCart_all (by rw [reachSlots_eq]; exact hdone), reachSlots_eq]
  simp only [hheld]
  rfl
theorem moving_start {rd wr : List Side} (h : Sides s op rd wr H) (val : Side → Byte) (R : Side → Prop) :
    Moving s H val R (fun _ => False) ⟨op.wr, op.low, op.fl, [], cartStart op.id s⟩ := ⟨cartStart_wrote h, by simp⟩

/-- Runs of bytes from one side to another, cut at the words of their destinations, move as a whole. -/
theorem copyRuns_write {runs : List (Side × Side)} {n : Nat}
    (h : Sides s op (runs.flatMap fun r => Claims.run r.1.1 r.1.2 n) (runs.flatMap fun r => Claims.run r.2.1 r.2.2 n) H)
    (hp : ∀ p, p ∈ cartPieces op ↔ ∃ r, runs[p.2]? = some r ∧ p.1 ∈ cuts r.2.2 n)
    (hmove : ∀ sl p r m, runs[p.2]? = some r → pieceMoves { op with slots := sl } false p m =
      let q := engRead { op with slots := sl } false r.1.1 ((List.range p.1.2).map fun i => r.1.2 + wd (p.1.1 + i)) m
      engWrite { op with slots := sl } false r.2.1 (presentBytes (r.2.2 + wd p.1.1) q.1) q.2) :
    CartWrites s op H ((runs.flatMap fun r => Claims.run r.2.1 r.2.2 n).zip
      ((runs.flatMap fun r => Claims.run r.1.1 r.1.2 n).map (sideVal s H))) (fun _ => True) := by
  have hout : (runs.flatMap fun r => Claims.run r.2.1 r.2.2 n).zip ((runs.flatMap fun r => Claims.run r.1.1 r.1.2 n).map (sideVal s H)) =
      runs.flatMap fun r => (List.range n).map fun i => ((r.2.1, r.2.2 + wd i), sideVal s H (r.1.1, r.1.2 + wd i)) := by
    rw [List.map_flatMap, ← zip_flatMap_range]
    simp only [Claims.run, List.map_map, Function.comp_def, wd]
  have hfst : ((runs.flatMap fun r => Claims.run r.2.1 r.2.2 n).zip
      ((runs.flatMap fun r => Claims.run r.1.1 r.1.2 n).map (sideVal s H))).map Prod.fst = runs.flatMap fun r => Claims.run r.2.1 r.2.2 n :=
    List.map_fst_zip (by simp only [List.length_map, length_flatMap_run, le_refl])
  have hnd := sides_nodup h
  generalize hzip : (runs.flatMap fun r => Claims.run r.2.1 r.2.2 n).zip
      ((runs.flatMap fun r => Claims.run r.1.1 r.1.2 n).map (sideVal s H)) = out at *
  have hval := fun b hb => outVal_of_mem (out := out) (hfst ▸ hnd) (b := b) hb
  refine cartWrites_of_moves h hval ?_ trivial
  rw [cartMoves_eq h]
  generalize (reachSlots (cartStart op.id s) op).slots = sl
  have hmem (r) (hr : r ∈ runs) (i) (hi : i < n) : (r.1.1, r.1.2 + wd i) ∈ (runs.flatMap fun r => Claims.run r.1.1 r.1.2 n) ∧
      (r.2.1, r.2.2 + wd i) ∈ (runs.flatMap fun r => Claims.run r.2.1 r.2.2 n) ∧
      outVal out (r.2.1, r.2.2 + wd i) = sideVal s H (r.1.1, r.1.2 + wd i) := by
    refine ⟨List.mem_flatMap.2 ⟨r, hr, mem_run.2 ⟨i, hi, rfl⟩⟩, List.mem_flatMap.2 ⟨r, hr, mem_run.2 ⟨i, hi, rfl⟩⟩, ?_⟩
    refine hval ((r.2.1, r.2.2 + wd i), sideVal s H (r.1.1, r.1.2 + wd i)) ?_
    rw [hout]
    exact List.mem_flatMap.2 ⟨r, hr, List.mem_map.2 ⟨i, List.mem_range.2 hi, rfl⟩⟩
  refine (moving_foldl (R := (· ∈ runs.flatMap fun r => Claims.run r.1.1 r.1.2 n)) (f := fun m p => pieceMoves { op with slots := sl } false p m)
    (W := fun p q => ∃ r, runs[p.2]? = some r ∧ ∃ i < p.1.2, q = (r.2.1, r.2.2 + wd (p.1.1 + i))) (ps := cartPieces op)
    (fun l p rest hl m hm => ?_) (moving_start h _ _)).wrote.congr fun q => ?_
  · obtain ⟨r, hr, hc⟩ := (hp p).1 (hl ▸ by simp)
    have hrm := List.mem_of_getElem? hr
    have hin (i) (hi : i < p.1.2) := hmem r hrm (p.1.1 + i) (by have := cuts_le hc; omega)
    have hD (q) (hq : ∃ x ∈ l, ∃ r, runs[x.2]? = some r ∧ ∃ i < x.1.2, q = (r.2.1, r.2.2 + wd (x.1.1 + i))) :
        q ∈ runs.flatMap fun r => Claims.run r.2.1 r.2.2 n := by
      obtain ⟨x, hx, y, hy, i, hi, rfl⟩ := hq
      obtain ⟨z, hz, hcx⟩ := (hp x).1 (hl ▸ by simp [hx])
      obtain rfl : z = y := Option.some.inj (hz.symm.trans hy)
      exact (hmem z (List.mem_of_getElem? hz) (x.1.1 + i) (by have := cuts_le hcx; omega)).2.1
    have hcopy := copy_moves (sidesOf h sl) hD false hm (who := r.1.1) (who' := r.2.1) (a := fun i => r.1.2 + wd (p.1.1 + i))
      (b := r.2.2 + wd p.1.1) (n := p.1.2) (fun i hi => (hin i hi).1) (fun i hi => by rw [add_wd_wd]; exact (hin i hi).2)
      fun i hi => wordOf_of_mem_cuts hc hi
    rw [hmove sl p r m hr]
    exact ⟨hcopy.wrote.congr fun q => by simp [hr, add_wd_wd], hcopy.held⟩
  · rw [hout]
    constructor
    · rintro ⟨b, hb, rfl⟩
      obtain ⟨r, hr, hb⟩ := List.mem_flatMap.1 hb
      obtain ⟨i, hi, rfl⟩ := List.mem_map.1 hb
      obtain ⟨k, hk⟩ := List.mem_iff_getElem?.1 hr
      obtain ⟨c, hc, hle, hlt⟩ := exists_mem_cuts r.2.2 (List.mem_range.1 hi)
      exact ⟨(c, k), (hp _).2 ⟨r, hk, hc⟩, r, hk, i - c.1, by simp only; omega, by rw [Nat.add_sub_cancel' hle]⟩
    · rintro ⟨p, hpp, r, hr, i, hi, rfl⟩
      obtain ⟨z, hz, hc⟩ := (hp p).1 hpp
      obtain rfl : z = r := Option.some.inj (hz.symm.trans hr)
      exact ⟨_, List.mem_flatMap.2 ⟨z, List.mem_of_getElem? hr, List.mem_map.2 ⟨p.1.1 + i,
        List.mem_range.2 (by have := cuts_le hc; omega), rfl⟩⟩, rfl⟩

theorem mem_cartPieces_cpy (hk : op.kind = 0) (p : (Nat × Nat) × Nat) :
    p ∈ cartPieces op ↔ ∃ r, (cpyRuns op)[p.2]? = some r ∧ p.1 ∈ cuts r.2.1 r.2.2 := by
  simp only [cartPieces, hk, mem_numbered, List.getElem?_map, Option.map_eq_some_iff, exists_exists_and_eq_and]
theorem mem_cartPieces_mcopy (hk : op.kind = 1) (p : (Nat × Nat) × Nat) :
    p ∈ cartPieces op ↔ ∃ r, (mcopyRuns op)[p.2]? = some r ∧ p.1 ∈ cuts (mcopyTo op r) (dCount op) := by
  simp only [cartPieces, hk, mem_numbered, List.getElem?_map, Option.map_eq_some_iff, exists_exists_and_eq_and]
theorem pieceMoves_cpy {late : Bool} {p : (Nat × Nat) × Nat} {m : Moved} {src dst : Word} {n : Nat} (hk : op.kind = 0)
    (hr : (cpyRuns op)[p.2]? = some (src, dst, n)) : pieceMoves op late p m =
      let q := engRead op late none ((List.range p.1.2).map fun i => src + wd (p.1.1 + i)) m
      engWrite op late none (presentBytes (dst + wd p.1.1) q.1) q.2 := by
  unfold pieceMoves
  rw [hk]
  simp only [movePiece, hr]
theorem pieceMoves_down {late : Bool} {p : (Nat × Nat) × Nat} {m : Moved} {j : Nat} {pa : Word} (hk : op.kind = 1) (hl : op.level ≠ 1)
    (hup : dUp op = false) (hr : (mcopyRuns op)[p.2]? = some (j, pa)) : pieceMoves op late p m =
      let q := engRead op late none ((List.range p.1.2).map fun i => pa + wd (p.1.1 + i)) m
      engWrite op late (some j) (presentBytes (dChild op + wd p.1.1) q.1) q.2 := by
  unfold pieceMoves
  rw [hk]
  simp only [spreadPiece, hr, hup, if_neg hl]
  rfl
theorem pieceMoves_up {late : Bool} {p : (Nat × Nat) × Nat} {m : Moved} {j : Nat} {pa : Word} (hk : op.kind = 1) (hl : op.level ≠ 1)
    (hup : dUp op = true) (hr : (mcopyRuns op)[p.2]? = some (j, pa)) : pieceMoves op late p m =
      let q := engRead op late (some j) ((List.range p.1.2).map fun i => dChild op + wd (p.1.1 + i)) m
      engWrite op late none (presentBytes (pa + wd p.1.1) q.1) q.2 := by
  unfold pieceMoves
  rw [hk]
  simp only [spreadPiece, hr, hup, if_neg hl, if_true, add_wd_wd]

theorem mcopyRuns_eq_some {p : Nat} {r : Nat × Word} : (mcopyRuns op)[p]? = some r ↔
    p < (selected op).length ∧ r = (p, dParent op + wd (if dUp op then p * dCount op else 0)) := by
  simp only [mcopyRuns, List.getElem?_map, Option.map_eq_some_iff, List.getElem?_eq_some_iff, List.length_range, List.getElem_range]
  constructor
  · rintro ⟨j, ⟨hp, rfl⟩, rfl⟩
    exact ⟨hp, rfl⟩
  · rintro ⟨hp, rfl⟩
    exact ⟨p, ⟨hp, rfl⟩, rfl⟩

/-- A `cpy` writes every row of its rectangle (12 R378). -/
theorem cpy_writes {w0 w1 w2 w3 : Word} (hk : op.kind = 0) (hw : op.words = [w0, w1, w2, w3]) :
    let rows := (List.range (fld w2 55 32)).map (fun i => (w0 + BitVec.ofNat 64 (i * fld w3 31 0), w1 + BitVec.ofNat 64 (i * fld w3 63 32)))
    let src := rows.flatMap (fun r => Claims.run none r.1 (fld w2 31 0))
    let dst := rows.flatMap (fun r => Claims.run none r.2 (fld w2 31 0))
    Sides s op src dst H → CartWrites s op H (dst.zip (src.map (sideVal s H))) (fun _ => True) := by
  intro rows src dst h
  have hruns : cpyRuns op = rows.map fun r => (r.1, r.2, fld w2 31 0) := by
    simp [cpyRuns, hw, rows, wd]
  have hc := copyRuns_write (s := s) (op := op) (H := H) (runs := rows.map fun r => ((none, r.1), (none, r.2))) (n := fld w2 31 0)
    (by simpa only [List.flatMap_map] using h) (fun p => ?_) (fun sl p r m hr => ?_)
  · simpa only [List.flatMap_map] using hc
  · simp only [mem_cartPieces_cpy hk, hruns, List.getElem?_map, Option.map_eq_some_iff, exists_exists_and_eq_and]
  · simp only [List.getElem?_map, Option.map_eq_some_iff] at hr
    obtain ⟨x, hx, rfl⟩ := hr
    refine pieceMoves_cpy (op := { op with slots := sl }) (n := fld w2 31 0) hk ?_
    show (cpyRuns op)[p.2]? = _
    rw [hruns, List.getElem?_map, hx]
    rfl
/-- A `mcopy` above level 1 writes the parent's block to every selected child, or the children's blocks one after another (02 R75). -/
theorem mcopy_writes (hk : op.kind = 1) (hl : 2 ≤ op.level) :
    let ranks := List.range (selected op).length
    let child := ranks.flatMap (fun j => Claims.run (some j) (dChild op) (dCount op))
    let parent := ranks.flatMap (fun j => Claims.run none (dParent op + BitVec.ofNat 64 (if dUp op then j * dCount op else 0)) (dCount op))
    (dUp op = false → Sides s op parent child H → CartWrites s op H (child.zip (parent.map (sideVal s H))) (fun _ => True)) ∧
    (dUp op = true → Sides s op child parent H → CartWrites s op H (parent.zip (child.map (sideVal s H))) (fun _ => True)) := by
  intro ranks child parent
  have hl1 : op.level ≠ 1 := by omega
  have hget (p j : Nat) (hj : ranks[p]? = some j) :
      (mcopyRuns op)[p]? = some (j, dParent op + wd (if dUp op then j * dCount op else 0)) := by
    obtain ⟨hp, rfl⟩ := List.getElem?_eq_some_iff.1 hj
    exact mcopyRuns_eq_some.2 ⟨by simpa [ranks] using hp, by simp [ranks]⟩
  constructor <;> intro hup h
  · have hc := copyRuns_write (s := s) (op := op) (H := H) (n := dCount op)
      (runs := ranks.map fun j => ((none, dParent op + BitVec.ofNat 64 (if dUp op then j * dCount op else 0)), (some j, dChild op)))
      (by simpa only [List.flatMap_map] using h) (fun p => ?_) (fun sl p r m hr => ?_)
    · simpa only [List.flatMap_map] using hc
    · simp only [mem_cartPieces_mcopy hk, mcopyRuns, mcopyTo, hup, hl1, List.getElem?_map, Option.map_eq_some_iff, exists_exists_and_eq_and]
      rfl
    · simp only [List.getElem?_map, Option.map_eq_some_iff] at hr
      obtain ⟨j, hj, rfl⟩ := hr
      exact pieceMoves_down (op := { op with slots := sl }) hk hl1 hup (hget p.2 j hj)
  · have hc := copyRuns_write (s := s) (op := op) (H := H) (n := dCount op)
      (runs := ranks.map fun j => ((some j, dChild op), (none, dParent op + BitVec.ofNat 64 (if dUp op then j * dCount op else 0))))
      (by simpa only [List.flatMap_map] using h) (fun p => ?_) (fun sl p r m hr => ?_)
    · simpa only [List.flatMap_map] using hc
    · simp only [mem_cartPieces_mcopy hk, mcopyRuns, mcopyTo, hup, List.getElem?_map, Option.map_eq_some_iff, exists_exists_and_eq_and]
      rfl
    · simp only [List.getElem?_map, Option.map_eq_some_iff] at hr
      obtain ⟨j, hj, rfl⟩ := hr
      exact pieceMoves_up (op := { op with slots := sl }) hk hl1 hup (hget p.2 j hj)

end Copies

end Sys2Proof.Proofs
end

section
/-! SUPPORT. The slots that a level-1 operation reaches, and the blocks of registers that it copies to and from memory (02 R74, R75). -/

namespace Sys2Proof.Proofs

open Sys2Proof.Machine Sys2Proof.Claims Sys2Proof.Laws

/-! Gangs at the start of the moves -/

/-- Looking at the promise changes of a gang the traps that wait for it alone (04 R157). -/
theorem cartStart_gangs (o : OpId) (s : State) : ∃ F : Gang → Gang, (∀ g, ∃ d, F g = { g with deferred := d }) ∧
    (cartStart o s).g :: (cartStart o s).others = (s.g :: s.others).map F := by
  unfold cartStart
  rcases expirePromise_cases o { s with cut := false } with h | ⟨u, p, h⟩
  · exact ⟨id, fun g => ⟨g.deferred, rfl⟩, by rw [h, List.map_id]⟩
  · refine ⟨fun g => if g.uid = u && g.phase ≠ .free then promiseNotice o g else g, fun g => ?_, by rw [h]; rfl⟩
    simp only [promiseNotice]
    split
    · split
      · exact ⟨_, rfl⟩
      · exact ⟨_, rfl⟩
    · exact ⟨_, rfl⟩
/-- The gang in a slot, when every gang has changed in nothing but the traps that wait for it. -/
theorem slotGang_map {s t : State} {F : Gang → Gang} (hF : ∀ g, ∃ d, F g = { g with deferred := d })
    (ht : t.g :: t.others = (s.g :: s.others).map F) (op : CartOp) (c : Coords) : slotGang t op c = (slotGang s op c).map F := by
  have hf (g : Gang) : (F g).at_ = g.at_ ∧ (F g).phase = g.phase ∧ (F g).job = g.job := by
    obtain ⟨d, hd⟩ := hF g
    simp [hd]
  have hat : gangAt t c = (gangAt s c).map F := by
    unfold gangAt
    rw [ht, List.find?_map]
    congr 2
    funext g
    simp [inSlot, hf g]
  unfold slotGang
  rw [hat]
  cases gangAt s c with
  | none => rfl
  | some g =>
    simp only [Option.map_some, hf g]
    split <;> rfl
/-- A gang without results on its way has its registers as they stand. -/
theorem regByte_settle {g h : Gang} (hv : h.v = g.v) (hi : h.inflight = []) (now m b : Nat) : regByte (settle now h) m b = regByte g m b := by
  rw [settle, hi]
  simp only [settleList, regByte, vabs, hv]

/-! Slots -/

/-- The gang of the issuer's job in the slot of rank `j` (02 R74). -/
def slotOf (s : State) (op : CartOp) (j : Nat) : Option Gang := (selected op)[j]?.bind (slotGang s op)
/-- A slot that holds a gang, with `n` bytes of its block. -/
def slotBlock (op : CartOp) (n : Nat) (g : Gang) : Nat × List Byte := (g.uid, (List.range n).map (regByte g (fld (dChild op) 6 0)))

theorem slotGang_mem {s : State} {op : CartOp} {c : Coords} {g : Gang} (h : slotGang s op c = some g) :
    g ∈ s.g :: s.others ∧ g.phase ≠ .free := by
  unfold slotGang at h
  split at h
  · next x hx =>
    split at h
    · next hc =>
      obtain rfl := Option.some.inj h
      refine ⟨List.mem_of_find?_eq_some hx, fun hf => ?_⟩
      simp [hf] at hc
    · exact absurd h (by simp)
  · exact absurd h (by simp)
theorem slotOf_mem {s : State} {op : CartOp} {j : Nat} {g : Gang} (h : slotOf s op j = some g) :
    g ∈ s.g :: s.others ∧ g.phase ≠ .free := by
  obtain ⟨c, -, hc⟩ := Option.bind_eq_some_iff.1 h
  exact slotGang_mem hc
/-- The gangs that a level-1 operation finds, each with its rank. -/
theorem mem_held {s : State} {op : CartOp} {e : Gang × Nat} :
    e ∈ ((selected op).zip (List.range (selected op).length)).filterMap (fun c => (slotGang s op c.1).map (fun g => (g, c.2))) ↔
      slotOf s op e.2 = some e.1 := by
  rw [List.range_eq_range', ← List.zipIdx_eq_zip_range']
  simp only [List.mem_filterMap, List.mem_zipIdx_iff_getElem?, Option.map_eq_some_iff, slotOf, Option.bind_eq_some_iff]
  constructor
  · rintro ⟨c, hc, g, hg, rfl⟩
    exact ⟨c.1, hc, hg⟩
  · rintro ⟨c, hc, hg⟩
    exact ⟨(c, e.2), hc, e.1, hg, rfl⟩
/-- What a level-1 operation knows of the slot of rank `j` when it has reached it: the gang, and its block as it stands (02 R74). -/
theorem slotAt_reached {s : State} {op : CartOp} (hl : op.level = 1) (hs : op.slots = none) (hfly : ∀ g ∈ s.g :: s.others, g.inflight = [])
    (j : Nat) : slotAt { op with slots := (reachSlots (cartStart op.id s) op).slots } j =
      (slotOf s op j).map (slotBlock op (dCount op * (if op.kind = 2 then redBytes (dKind op) else 1))) := by
  obtain ⟨F, hF, hg⟩ := cartStart_gangs op.id s
  have hsl (n : Nat) (c : Coords) : (slotGang (cartStart op.id s) op c).map (fun g => (g.uid, regRead (cartStart op.id s) g (fld (dChild op) 6 0) 0 n)) =
      (slotGang s op c).map (slotBlock op n) := by
    rw [slotGang_map hF hg, Option.map_map]
    cases hc : slotGang s op c with
    | none => rfl
    | some g =>
      obtain ⟨d, hd⟩ := hF g
      have hb := regByte_settle (g := g) (h := F g) (by rw [hd]) (by rw [hd]; exact hfly g (slotGang_mem hc).1) (cartStart op.id s).cycle
      have hu : (F g).uid = g.uid := by rw [hd]
      simp only [Option.map_some, Function.comp, slotBlock, regRead, hu, hb, Nat.zero_add]
  have hr : (reachSlots (cartStart op.id s) op).slots = some ((selected op).map fun c => (slotGang s op c).map
      (slotBlock op (dCount op * (if op.kind = 2 then redBytes (dKind op) else 1)))) := by
    unfold reachSlots
    simp only [hl, hs, hsl]
    rfl
  rw [hr, slotAt, slotOf]
  simp only [Option.getD_some, List.getElem?_map]
  cases (selected op)[j]? with
  | none => rfl
  | some c => rfl

/-! Blocks of registers that go up to memory -/

/-- Part of a list of values over a range. -/
theorem take_drop_map_range {α : Type} (f : Nat → α) {n i k : Nat} (h : i + k ≤ n) :
    (((List.range n).map f).drop i).take k = (List.range k).map fun x => f (i + x) := by
  refine List.ext_getElem (by simp; omega) fun x h1 h2 => ?_
  simp

section Up

variable {s : State} {op : CartOp} {H : Side → Hit}

theorem pieceMoves_fromSlot {late : Bool} {p : (Nat × Nat) × Nat} {m : Moved} {j : Nat} {pa : Word} (hk : op.kind = 1) (hl : op.level = 1)
    (hup : dUp op = true) (hr : (mcopyRuns op)[p.2]? = some (j, pa)) : pieceMoves op late p m = match slotAt op j with
      | none => m
      | some (_, blk) => engWrite op late none (((List.range p.1.2).map fun i => pa + wd (p.1.1 + i)).zip ((blk.drop p.1.1).take p.1.2)) m := by
  unfold pieceMoves
  rw [hk]
  simp only [spreadPiece, hr, hup, if_pos hl]
  rfl
/-- The blocks of the selected slots' registers go to memory one after another, without those of skipped slots (02 R74, R75). -/
theorem mcopy_fromSlots (hk : op.kind = 1) (hl : op.level = 1) (hfly : ∀ g ∈ s.g :: s.others, g.inflight = []) (hup : dUp op = true) :
    let held := ((selected op).zip (List.range (selected op).length)).filterMap (fun c => (slotGang s op c.1).map (fun g => (g, c.2)))
    let dst := held.flatMap (fun e => Claims.run none (dParent op + BitVec.ofNat 64 (e.2 * dCount op)) (dCount op))
    Sides s op [] dst H → CartWrites s op H (dst.zip (held.flatMap (fun e => (List.range (dCount op)).map (regByte e.1 (fld (dChild op) 6 0)))))
      (fun _ => True) := by
  intro held dst h
  have hslot := slotAt_reached hl (sides_slots h) hfly
  have hout : dst.zip (held.flatMap (fun e => (List.range (dCount op)).map (regByte e.1 (fld (dChild op) 6 0)))) =
      held.flatMap fun e => (List.range (dCount op)).map fun i =>
        ((none, dParent op + wd (e.2 * dCount op) + wd i), regByte e.1 (fld (dChild op) 6 0) i) := by
    rw [← zip_flatMap_range]
    rfl
  have hfst : (dst.zip (held.flatMap (fun e => (List.range (dCount op)).map (regByte e.1 (fld (dChild op) 6 0))))).map Prod.fst = dst :=
    List.map_fst_zip (by simp [dst, Claims.run, List.length_flatMap])
  have hnd := sides_nodup h
  generalize dst.zip (held.flatMap (fun e => (List.range (dCount op)).map (regByte e.1 (fld (dChild op) 6 0)))) = out at *
  have hval := fun b hb => outVal_of_mem (out := out) (hfst ▸ hnd) (b := b) hb
  refine cartWrites_of_moves h hval ?_ trivial
  rw [cartMoves_eq h]
  generalize (reachSlots (cartStart op.id s) op).slots = sl at *
  have hmem (e) (he : e ∈ held) (i) (hi : i < dCount op) : (none, dParent op + wd (e.2 * dCount op) + wd i) ∈ dst ∧
      outVal out (none, dParent op + wd (e.2 * dCount op) + wd i) = regByte e.1 (fld (dChild op) 6 0) i := by
    refine ⟨List.mem_flatMap.2 ⟨e, he, mem_run.2 ⟨i, hi, rfl⟩⟩, ?_⟩
    refine hval ((none, dParent op + wd (e.2 * dCount op) + wd i), regByte e.1 (fld (dChild op) 6 0) i) ?_
    rw [hout]
    exact List.mem_flatMap.2 ⟨e, he, List.mem_map.2 ⟨i, List.mem_range.2 hi, rfl⟩⟩
  refine (moving_foldl (R := (· ∈ [])) (f := fun m p => pieceMoves { op with slots := sl } false p m)
    (W := fun p q => ∃ g, slotOf s op p.2 = some g ∧ ∃ i < p.1.2, q = (none, dParent op + wd (p.2 * dCount op) + wd (p.1.1 + i))) (ps := cartPieces op)
    (fun l p rest hps m hm => ?_) (moving_start h _ _)).wrote.congr fun q => ?_
  · obtain ⟨r, hr, hc⟩ := (mem_cartPieces_mcopy hk p).1 (hps ▸ by simp)
    obtain ⟨-, rfl⟩ := mcopyRuns_eq_some.1 hr
    have hn : dCount op * (if op.kind = 2 then redBytes (dKind op) else 1) = dCount op := by simp [hk]
    rw [pieceMoves_fromSlot (op := { op with slots := sl }) hk hl hup hr, hslot, hn]
    simp only [mcopyTo, hup, if_true] at hc ⊢
    cases hg : slotOf s op p.2 with
    | none => exact ⟨hm.wrote.congr fun q => by simp, hm.held⟩
    | some g =>
      have hD (q) (hq : ∃ x ∈ l, ∃ g, slotOf s op x.2 = some g ∧ ∃ i < x.1.2, q = (none, dParent op + wd (x.2 * dCount op) + wd (x.1.1 + i))) :
          q ∈ dst := by
        obtain ⟨x, hx, y, hy, i, hi, rfl⟩ := hq
        obtain ⟨z, -, hcx⟩ := (mem_cartPieces_mcopy hk x).1 (hps ▸ by simp [hx])
        exact (hmem (y, x.2) (mem_held.2 hy) (x.1.1 + i) (by have := cuts_le hcx; omega)).1
      have hw := engWrite_writes (sidesOf h sl) hD false hm (who := none)
        (bs := (List.range p.1.2).map fun i => (dParent op + wd (p.2 * dCount op) + wd (p.1.1 + i), regByte g (fld (dChild op) 6 0) (p.1.1 + i)))
        (by
          simp only [List.mem_map, List.mem_range]
          rintro _ ⟨i, hi, rfl⟩
          exact hmem (g, p.2) (mem_held.2 hg) (p.1.1 + i) (by have := cuts_le hc; omega))
        (by
          simp only [List.mem_map, List.mem_range]
          rintro _ ⟨i, hi, rfl⟩ _ ⟨j, hj, rfl⟩
          simp only [← add_wd_wd, wordOf_of_mem_cuts hc hi, wordOf_of_mem_cuts hc hj])
      simp only [Option.map_some, slotBlock, take_drop_map_range _ (cuts_le hc), List.zip_map']
      exact ⟨hw.wrote.congr fun q => by simp, hw.held⟩
  · rw [hout]
    constructor
    · rintro ⟨b, hb, rfl⟩
      obtain ⟨e, he, hb⟩ := List.mem_flatMap.1 hb
      obtain ⟨i, hi, rfl⟩ := List.mem_map.1 hb
      obtain ⟨c, hc, hle, hlt⟩ := exists_mem_cuts (dParent op + wd (e.2 * dCount op)) (List.mem_range.1 hi)
      obtain ⟨x, hx, -⟩ := Option.bind_eq_some_iff.1 (mem_held.1 he)
      have hr : (mcopyRuns op)[e.2]? = some (e.2, dParent op + wd (if dUp op then e.2 * dCount op else 0)) :=
        mcopyRuns_eq_some.2 ⟨(List.getElem?_eq_some_iff.1 hx).1, rfl⟩
      refine ⟨(c, e.2), (mem_cartPieces_mcopy hk _).2 ⟨_, hr, by simpa [mcopyTo, hup] using hc⟩, e.1, mem_held.1 he, i - c.1, by simp only; omega, ?_⟩
      rw [Nat.add_sub_cancel' hle]
    · rintro ⟨p, hpp, g, hg, i, hi, rfl⟩
      obtain ⟨z, -, hc⟩ := (mem_cartPieces_mcopy hk p).1 hpp
      exact ⟨_, List.mem_flatMap.2 ⟨(g, p.2), mem_held.2 hg, List.mem_map.2 ⟨p.1.1 + i,
        List.mem_range.2 (by have := cuts_le hc; omega), rfl⟩⟩, rfl⟩

end Up

end Sys2Proof.Proofs
end

section
/-! SUPPORT. Blocks that a level-1 `mcopy` writes to the registers of its slots (02 R74, R75). -/

namespace Sys2Proof.Proofs

open Sys2Proof.Machine Sys2Proof.Claims Sys2Proof.Laws

/-! Bytes of registers -/

/-- A gang with four bytes of a block written, in the element that holds byte `b`. -/
def putBytes (now m b : Nat) (v : Nat → Byte) (g : Gang) : Gang :=
  applyW (settle now g) (.v (m + b / 128) (1#32 <<< (b % 128 / 4)) (mkLanes fun _ => w32 (leNat ((List.range 4).map v))))

theorem regWrite_some (u m b : Nat) (v : Nat → Byte) (s : State) :
    regWrite u m b ((List.range 4).map fun i => some (v i)) s = onGangAny u (putBytes s.cycle m b v) s := rfl
theorem putBytes_keeps (now m b : Nat) (v : Nat → Byte) (g : Gang) :
    (putBytes now m b v g).uid = g.uid ∧ (putBytes now m b v g).phase = g.phase ∧ (g.inflight = [] → (putBytes now m b v g).inflight = []) :=
  ⟨settle_keeps (·.uid) (fun _ w => by cases w <;> rfl) (fun _ _ => rfl) now g, settle_phase now g, fun h => by
    show (settle now g).inflight = []
    rw [settle, h]
    rfl⟩

section Bytes

variable {now m b : Nat} {v : Nat → Byte} {g : Gang} (hi : g.inflight = []) (hb : m + b / 128 < 256)

include hi hb in
theorem vabs_putBytes (r : Nat) : vabs (putBytes now m b v g) r = if r = m + b / 128 then
    mergeLanes (1#32 <<< (b % 128 / 4)) (vabs g r) (mkLanes fun _ => w32 (leNat ((List.range 4).map v))) else vabs g r := by
  have hs : (settle now g).v = g.v := by
    rw [settle, hi]
    rfl
  simp only [putBytes, applyW, vabs, hs]
  by_cases hr : r = m + b / 128
  · simp [hr, hb]
  · simp [hr, Ne.symm hr]
/-- Four bytes of a 32-bit word. -/
theorem byte_of_word (v : Nat → Byte) {i : Nat} (h : i < 4) :
    (((w32 (leNat ((List.range 4).map v))).toNat / 2 ^ (8 * i) : Nat) : Byte) = v i := by
  have h0 := (v 0).isLt
  have h1 := (v 1).isLt
  have h2 := (v 2).isLt
  have h3 := (v 3).isLt
  have hx : (w32 (leNat ((List.range 4).map v))).toNat = (v 0).toNat + 256 * ((v 1).toNat + 256 * ((v 2).toNat + 256 * (v 3).toNat)) := by
    simp only [List.range, List.range.loop, List.map_cons, List.map_nil, leNat, w32, BitVec.toNat_ofNat]
    omega
  rw [hx]
  refine BitVec.eq_of_toNat_eq ?_
  rw [BitVec.natCast_eq_ofNat, BitVec.toNat_ofNat]
  interval_cases i <;> omega
include hi hb in
theorem regByte_putBytes (h4 : b % 4 = 0) (c : Nat) :
    regByte (putBytes now m b v g) m c = if b ≤ c ∧ c < b + 4 then v (c - b) else regByte g m c := by
  have hl : c % 128 / 4 < 32 := by omega
  rw [regByte, vabs_putBytes hi hb]
  by_cases hc : b ≤ c ∧ c < b + 4
  · rw [if_pos hc, if_pos (by omega), lane_mergeLanes _ _ _ hl, lane_mkLanes _ hl, inMask, getLsbD_one_shiftLeft _ _ hl]
    rw [if_pos (by simp; omega), byte_of_word v (by omega)]
    congr 1
    omega
  · rw [if_neg hc]
    split
    · rw [lane_mergeLanes _ _ _ hl, inMask, getLsbD_one_shiftLeft _ _ hl, if_neg (by simp; omega)]
      rfl
    · rfl

end Bytes

/-! Gangs as the engine reads, and after one of them has changed -/

/-- The gangs, beside the update-only lines that reads may recall. -/
def crew (s : State) := (s.g, s.others, s.lines)

theorem engWord_crew (op : CartOp) (late : Bool) (who : Option Nat) (as : List Word) {m : Moved} (h : m.st.lines = []) :
    crew (engWord op late who as m).2.st = crew m.st := by
  have hreach (p : Nat) (ls : List Nat) (s : State) : crew (reach p ls s) = crew s := by
    unfold reach
    split <;> rfl
  have hpick (s : State) : crew (Machine.pick s).2 = crew s := by
    unfold Machine.pick
    split <;> rfl
  have hread (cl : Coords) (p : Nat) (fl : Cells Nat) (hs : List (Nat × Key)) (s : State) : crew (pathRead cl p fl hs s).2 = crew s := by
    unfold pathRead
    exact (foldl_keeps crew (by intros; rfl) _ _).trans (hpick s)
  unfold engWord
  simp only
  split
  · rfl
  · split
    · rfl
    · split
      · rfl
      · split
        · exact congrArg crew (faultIf_st _ _ m)
        · simp only [hread, hreach, faultIf_st, combineLines_of_noLine h]
theorem engRead_crew (op : CartOp) (late : Bool) (who : Option Nat) (as : List Word) {m : Moved} (h : m.st.lines = []) :
    crew (engRead op late who as m).2.st = crew m.st := by
  unfold engRead
  refine List.foldlRecOn (motive := fun acc : List (Word × Option (List Byte)) × Moved => crew acc.2.st = crew m.st) _ _ rfl fun acc ha w _ => ?_
  refine (engWord_crew op late who _ ?_).trans ha
  rw [← h]
  exact congrArg (·.2.2) ha
/-- Gangs with numbers of their own are found by them. -/
theorem gangOf_of_mem {s : State} (h : (s.g :: s.others).Pairwise (fun g h => g.uid ≠ h.uid)) {g : Gang} (hg : g ∈ s.g :: s.others)
    (hp : g.phase ≠ .free) : gangOf s g.uid = some g := by
  unfold gangOf
  cases hf : (s.g :: s.others).find? (fun h => h.uid = g.uid && h.phase ≠ .free) with
  | none => exact absurd (by simpa using hp) (List.find?_eq_none.1 hf g hg)
  | some x =>
    have hx := List.find?_some hf
    simp only [Bool.and_eq_true, decide_eq_true_eq] at hx
    have hnd : ((s.g :: s.others).map (·.uid)).Nodup := List.pairwise_map.2 h
    rw [List.inj_on_of_nodup_map hnd (List.mem_of_find?_eq_some hf) hg hx.1]
/-- Any gang after a change of one that keeps its number and phase. -/
theorem gangOf_onGangAny (u w : Nat) (f : Gang → Gang) (s : State) (h : ∀ g, (f g).uid = g.uid ∧ (f g).phase = g.phase) :
    gangOf (onGangAny u f s) w = (gangOf s w).map (fun g => if w = u then f g else g) := by
  show ((s.g :: s.others).map (fun g => if g.uid = u && g.phase ≠ .free then f g else g)).find? _ = _
  have hp : ((fun g : Gang => (g.uid = w && g.phase ≠ .free : Bool)) ∘ fun g => if (g.uid = u && g.phase ≠ .free : Bool) = true then f g else g)
      = fun g => (g.uid = w && g.phase ≠ .free : Bool) := by
    funext g
    simp only [Function.comp]
    split <;> simp [h g]
  rw [List.find?_map, hp]
  unfold gangOf
  cases hf : (s.g :: s.others).find? (fun g => g.uid = w && g.phase ≠ .free) with
  | none => rfl
  | some g =>
    have hg := List.find?_some hf
    simp only [Bool.and_eq_true, decide_eq_true_eq] at hg
    have hfree : decide (g.phase ≠ .free) = true := by simpa using hg.2
    simp only [Option.map_some, hg.1, hfree, Bool.and_true, decide_eq_true_eq]

/-! The blocks go down -/

section Down

variable {s : State} {op : CartOp} {H : Side → Hit}

/-- The registers of the gangs that a level-1 operation has reached: of the block of each, the bytes `B` of its gang's number are written with
their values, and no other register has changed. -/
def RegsHold (s : State) (op : CartOp) (val : Nat → Byte) (B : Nat → Nat → Prop) (t : State) : Prop :=
  ∀ j g, slotOf s op j = some g → ∃ h, gangOf t g.uid = some h ∧ h.inflight = [] ∧
    (∀ b, B g.uid b → regByte h (fld (dChild op) 6 0) b = val b) ∧
    ∀ r, r < fld (dChild op) 6 0 ∨ fld (dChild op) 6 0 + dCount op / 128 ≤ r → vabs h r = vabs g r

theorem cartStart_regs (huid : (s.g :: s.others).Pairwise (fun g h => g.uid ≠ h.uid)) (hfly : ∀ g ∈ s.g :: s.others, g.inflight = [])
    (val : Nat → Byte) : RegsHold s op val (fun _ _ => False) (cartStart op.id s) := by
  obtain ⟨F, hF, hg⟩ := cartStart_gangs op.id s
  intro j g hj
  obtain ⟨hmem, hfree⟩ := slotOf_mem hj
  obtain ⟨d, hd⟩ := hF g
  have hid (x : Gang) : (F x).uid = x.uid := by
    obtain ⟨d, hd⟩ := hF x
    rw [hd]
  have hu : gangOf (cartStart op.id s) (F g).uid = some (F g) := by
    refine gangOf_of_mem ?_ ?_ (by rw [hd]; exact hfree)
    · rw [hg, List.pairwise_map]
      simpa only [hid] using huid
    · rw [hg]
      exact List.mem_map_of_mem hmem
  refine ⟨F g, by rw [← hid g]; exact hu, by rw [hd]; exact hfly g hmem, by simp, fun r _ => by rw [hd]; rfl⟩
/-- A gang of the operation with four more bytes of its block written. -/
theorem RegsHold.onGangAny {val : Nat → Byte} {B : Nat → Nat → Prop} {t : State} (h : RegsHold s op val B t) (u : Nat) {now b : Nat}
    (h4 : b % 4 = 0) (hb : b + 4 ≤ dCount op) (hn : dCount op % 128 = 0) (hm : fld (dChild op) 6 0 + dCount op / 128 ≤ 64) :
    RegsHold s op val (fun w c => B w c ∨ w = u ∧ b ≤ c ∧ c < b + 4)
      (onGangAny u (putBytes now (fld (dChild op) 6 0) b fun i => val (b + i)) t) := by
  intro j g hj
  obtain ⟨x, hx, hi, hv, hr⟩ := h j g hj
  have hk := putBytes_keeps now (fld (dChild op) 6 0) b (fun i => val (b + i))
  rw [gangOf_onGangAny _ _ _ _ fun y => ⟨(hk y).1, (hk y).2.1⟩, hx]
  refine ⟨_, rfl, ?_⟩
  by_cases hu : g.uid = u
  · simp only [if_pos hu]
    refine ⟨(hk x).2.2 hi, fun c hc => ?_, fun r hro => ?_⟩
    · rw [regByte_putBytes hi (by omega) h4]
      split
      · next hbc => rw [Nat.add_sub_cancel' hbc.1]
      · next hbc => exact hv c (hc.resolve_right fun hc => hbc hc.2)
    · rw [vabs_putBytes hi (by omega), if_neg (by omega), hr r hro]
  · simp only [if_neg hu]
    exact ⟨hi, fun c hc => hv c (hc.resolve_right fun hc => hu hc.1), hr⟩
theorem RegsHold.congr {val : Nat → Byte} {B C : Nat → Nat → Prop} {t u : State} (h : RegsHold s op val B t) (hc : ∀ w b, C w b → B w b)
    (hu : crew u = crew t) : RegsHold s op val C u := by
  intro j g hj
  obtain ⟨x, hx, hi, hv, hr⟩ := h j g hj
  simp only [crew, Prod.mk.injEq] at hu
  refine ⟨x, ?_, hi, fun b hb => hv b (hc _ _ hb), hr⟩
  rw [← hx]
  simp only [gangOf, hu]

theorem pieceMoves_toSlot {late : Bool} {p : (Nat × Nat) × Nat} {m : Moved} {j : Nat} {pa : Word} (hk : op.kind = 1) (hl : op.level = 1)
    (hup : dUp op = false) (hr : (mcopyRuns op)[p.2]? = some (j, pa)) : pieceMoves op late p m = match slotAt op j with
      | none => m
      | some (u, _) =>
        let q := engRead op late none ((List.range p.1.2).map fun i => pa + wd (p.1.1 + i)) m
        { q.2 with st := regWrite u (fld (dChild op) 6 0) p.1.1 q.1 q.2.st } := by
  unfold pieceMoves
  rw [hk]
  simp only [spreadPiece, hr, hup, if_pos hl]
  rfl
theorem regWrite_wrote {val : Side → Byte} {D : Side → Prop} {t : State} (h : Wrote s H val D t) (u m b : Nat) (bs : List (Option Byte)) :
    Wrote s H val D (regWrite u m b bs t) := by
  unfold regWrite
  simp only
  split
  · exact h
  · exact { h with }
/-- The pieces of a block in registers are its elements of four bytes. -/
theorem cuts_zero {n : Nat} (hn : n % 4 = 0) {c : Nat × Nat} (h : c ∈ cuts 0 n) : c.1 % 4 = 0 ∧ c.2 = 4 ∧ c.1 + 4 ≤ n := by
  obtain ⟨k, hk, rfl⟩ := mem_cuts.1 h
  simp only [ceilDiv, show (0 : Word).toNat % 4 = 0 from rfl] at hk ⊢
  omega
/-- The bytes of the gang with number `w` that pieces of a list have written. -/
def SlotBytes (s : State) (op : CartOp) (l : List ((Nat × Nat) × Nat)) (w c : Nat) : Prop :=
  ∃ x ∈ l, ∃ g, slotOf s op x.2 = some g ∧ w = g.uid ∧ x.1.1 ≤ c ∧ c < x.1.1 + 4
/-- The work of an operation that goes down to registers, when the pieces of a list have moved: memory is as it was, and their bytes stand in
the registers. -/
def SlotsMoving (s : State) (op : CartOp) (H : Side → Hit) (l : List ((Nat × Nat) × Nat)) (m : Moved) : Prop :=
  Moving s H (fun _ => 0) (· ∈ Claims.run none (dParent op) (dCount op)) (fun _ => False) m ∧
    RegsHold s op (fun b => sideVal s H (none, dParent op + wd b)) (SlotBytes s op l) m.st
/-- The parent's block goes to the registers of every selected slot that holds a gang (02 R74, R75). -/
theorem mcopy_toSlots (hk : op.kind = 1) (hl : op.level = 1) (huid : (s.g :: s.others).Pairwise (fun g h => g.uid ≠ h.uid))
    (hfly : ∀ g ∈ s.g :: s.others, g.inflight = []) (hm' : fld (dChild op) 6 0 + dCount op / 128 ≤ 64) (hn : dCount op % 128 = 0)
    (hup : dUp op = false) (h : Sides s op (Claims.run none (dParent op) (dCount op)) [] H) :
    CartWrites s op H [] (fun t => ∀ e ∈ ((selected op).zip (List.range (selected op).length)).filterMap
        (fun c => (slotGang s op c.1).map (fun g => (g, c.2))), ∃ h, gangOf t e.1.uid = some h ∧
      (∀ b < dCount op, regByte h (fld (dChild op) 6 0) b = sideVal s H (none, dParent op + BitVec.ofNat 64 b)) ∧
      ∀ r, r < fld (dChild op) 6 0 ∨ fld (dChild op) 6 0 + dCount op / 128 ≤ r → vabs h r = vabs e.1 r) := by
  have hslot := slotAt_reached hl (sides_slots h) hfly
  have hR (q : Side) (hq : q ∈ Claims.run none (dParent op) (dCount op)) :
      q ∈ Claims.run none (dParent op) (dCount op) ++ [] ∧ (H q).perm &&& permR = permR :=
    ⟨List.mem_append_left _ hq, (sidesOf h none).readable q hq⟩
  have key : SlotsMoving s op H (cartPieces op) (cartMoves s op) := by
    rw [cartMoves_eq h]
    generalize (reachSlots (cartStart op.id s) op).slots = sl at *
    refine foldl_extends (SlotsMoving s op H) (fun l p rest hps m hm => ?_)
      ⟨moving_start h _ _, (cartStart_regs huid hfly _).congr (by simp [SlotBytes]) rfl⟩
    obtain ⟨r, hr, hc⟩ := (mem_cartPieces_mcopy hk p).1 (hps ▸ by simp)
    obtain ⟨-, rfl⟩ := mcopyRuns_eq_some.1 hr
    rw [pieceMoves_toSlot (op := { op with slots := sl }) hk hl hup hr, hslot]
    simp only [mcopyTo, hup, hl, if_true, Bool.false_eq_true, if_false] at hc
    simp only [hup, Bool.false_eq_true, if_false]
    obtain ⟨h4, hlen, hle⟩ := cuts_zero (by omega) hc
    cases hg : slotOf s op p.2 with
    | none =>
      refine ⟨hm.1, hm.2.congr (fun w c => ?_) rfl⟩
      rintro ⟨x, hx, g, hxg, hrest⟩
      rcases List.mem_append.1 hx with hx | hx
      · exact ⟨x, hx, g, hxg, hrest⟩
      · obtain rfl := List.mem_singleton.1 hx
        rw [hg] at hxg
        exact absurd hxg (by simp)
    | some g =>
      obtain ⟨hbs, hread⟩ := engRead_reads (sidesOf h sl) (fun q hq => hq.elim) false hR hm.1 (who := none)
        (as := (List.range p.1.2).map fun i => dParent op + wd 0 + wd (p.1.1 + i))
        (by
          simp only [List.mem_map, List.mem_range]
          rintro _ ⟨i, hi, rfl⟩
          exact mem_run.2 ⟨p.1.1 + i, by omega, by rw [add_wd_wd, Nat.zero_add]⟩)
        fun q hq _ _ d hd => hd.elim
      have hcrew := engRead_crew { op with slots := sl } false none
        ((List.range p.1.2).map fun i => dParent op + wd 0 + wd (p.1.1 + i)) hm.1.wrote.noLine
      simp only [Option.map_some, slotBlock]
      refine ⟨⟨regWrite_wrote hread.wrote _ _ _ _, hread.held⟩, ?_⟩
      have hval : (List.map (fun a => some (sideVal s H (none, a))) ((List.range p.1.2).map fun i => dParent op + wd 0 + wd (p.1.1 + i))) =
          (List.range 4).map fun i => some (sideVal s H (none, dParent op + wd (p.1.1 + i))) := by
        rw [hlen, List.map_map]
        simp only [Function.comp_def, add_wd_wd, Nat.zero_add]
      rw [hbs, hval, regWrite_some]
      refine ((hm.2.congr (fun w c hw => hw) hcrew).onGangAny g.uid h4 hle hn hm').congr (fun w c => ?_) rfl
      rintro ⟨x, hx, y, hxg, hrest⟩
      rcases List.mem_append.1 hx with hx | hx
      · exact .inl ⟨x, hx, y, hxg, hrest⟩
      · obtain rfl := List.mem_singleton.1 hx
        obtain rfl : y = g := Option.some.inj (hxg.symm.trans hg)
        exact .inr hrest
  refine cartWrites_of_moves (val := fun _ => 0) h (by simp) (key.1.wrote.congr (by simp)) fun e he => ?_
  obtain ⟨x, hx, -, hv, hr⟩ := key.2 e.2 e.1 (mem_held.1 he)
  generalize reachSlots (cartStart op.id s) op = o
  obtain ⟨ts, ps, hfin⟩ := finishCart_eq o op.id 0 (cartMoves s op)
  have hgang := gangOf_onGangAny o.uid e.1.uid (issuerAfter o op.id 0 (cartMoves s op).wr) (cartMoves s op).st fun _ => ⟨rfl, rfl⟩
  rw [hx] at hgang
  have hsame : (if e.1.uid = o.uid then issuerAfter o op.id 0 (cartMoves s op).wr x else x).v = x.v := by
    split <;> rfl
  rw [hfin]
  refine ⟨_, hgang, fun b hb => ?_, fun r hro => ?_⟩
  · simp only [regByte, vabs, hsame]
    refine hv b ?_
    obtain ⟨c, hc, hle, hlt⟩ := exists_mem_cuts 0 hb
    obtain ⟨-, hlen, -⟩ := cuts_zero (by omega) hc
    obtain ⟨y, hy, -⟩ := Option.bind_eq_some_iff.1 (mem_held.1 he)
    have hrun : (mcopyRuns op)[e.2]? = some (e.2, dParent op + wd (if dUp op then e.2 * dCount op else 0)) :=
      mcopyRuns_eq_some.2 ⟨(List.getElem?_eq_some_iff.1 hy).1, rfl⟩
    exact ⟨(c, e.2), (mem_cartPieces_mcopy hk _).2 ⟨_, hrun, by simpa [mcopyTo, hup, hl] using hc⟩, e.1, mem_held.1 he, rfl, hle, by simp only; omega⟩
  · simp only [vabs, hsame]
    exact hr r hro

end Down

/-- Copies move their bytes, and the completion happens as a whole or not at all (12 R378, 02 R74, R75). -/
theorem copiesMoveTheirBytes : Claims.CopiesMoveTheirBytes :=
  ⟨fun s op hf => ⟨completion_wholly s op hf, completion_stopped s op hf⟩,
    fun _ _ _ _ _ _ _ hk hw => cpy_writes hk hw,
    fun _ _ _ hk hl => mcopy_writes hk hl,
    fun _ _ _ hk hl huid hfly hm hn => ⟨mcopy_toSlots hk hl huid hfly hm hn, mcopy_fromSlots hk hl hfly⟩⟩

end Sys2Proof.Proofs
end

section
/-! SUPPORT. The result of a `reduce` on the values of an element (02 R76). -/

namespace Sys2Proof.Proofs

open Sys2Proof.Machine Sys2Proof.Claims Sys2Proof.Laws

/-- The integer minima and maxima choose one of their two values. -/
theorem intOp32_choice {o : AtomOp} (ho : o ∈ [AtomOp.min, .max, .minu, .maxu]) (a b : W32) : intOp32 o a b = a ∨ intOp32 o a b = b := by
  simp only [List.mem_cons, List.not_mem_nil, or_false] at ho
  rcases ho with rfl | rfl | rfl | rfl <;> simp only [intOp32] <;> split <;> simp
/-- A fold of choices over 32-bit numbers gives one of them, and bounds them all. -/
theorem foldl_intOp32 {o : AtomOp} (ho : o ∈ [AtomOp.min, .max, .minu, .maxu]) {le : W32 → W32 → Prop} (hr : ∀ a, le a a)
    (ht : ∀ a b c, le a b → le b c → le a c) (hle : ∀ a b, le (intOp32 o a b) a ∧ le (intOp32 o a b) b) {l : List Nat} (hl : l ≠ [])
    (hx : ∀ x ∈ l, x < 2 ^ 32) :
    let r := l.tail.foldl (fun a b => intOp32 o a (w32 b)) (w32 (l.headD 0))
    r.toNat ∈ l ∧ ∀ x ∈ l, le r (w32 x) := by
  obtain ⟨y, l, rfl⟩ := List.exists_cons_of_ne_nil hl
  simp only [List.tail_cons, List.headD_cons]
  rw [← List.foldl_map (f := w32) (g := intOp32 o)]
  have hmem := foldl_choice_mem (intOp32_choice ho) (l.map w32) (w32 y)
  obtain ⟨hy, hall⟩ := foldl_choice_le hr ht hle (l.map w32) (w32 y)
  constructor
  · rw [← List.map_cons, List.mem_map] at hmem
    obtain ⟨x, hxl, he⟩ := hmem
    rw [← he, w32, BitVec.toNat_ofNat, Nat.mod_eq_of_lt (hx x hxl)]
    exact hxl
  · intro x h
    rcases List.mem_cons.1 h with rfl | h
    · exact hy
    · exact hall _ (List.mem_map_of_mem h)

section Values

variable (l : List Nat) (o : Nat)

theorem redValue_float : ∀ p ∈ [(0, fFP32), (1, fBF16)], (redValue p.1 0 l none).1 = (pairwiseSum p.2 l).1 ∧
    (redValue p.1 0 l (some o)).1 = (addF p.2 o (pairwiseSum p.2 l).1).1 ∧
    ∀ q ∈ [(1, FMinMaxOp.min), (2, .max)], (redValue p.1 q.1 l none).1 = (pairwiseMinMax p.2 q.2 l).1 ∧
      (redValue p.1 q.1 l (some o)).1 = (pairwiseMinMax p.2 q.2 (l ++ [o])).1 := by
  simp [redValue]
theorem pairwiseSum_small (f : Fmt) (a b c d : Nat) : (pairwiseSum f []).1 = loneF f 0 ∧ (pairwiseSum f [a]).1 = loneF f a ∧
    (pairwiseSum f [a, b]).1 = loneF f (addF f a b).1 ∧ (pairwiseSum f [a, b, c]).1 = loneF f (addF f (addF f a b).1 c).1 ∧
    (pairwiseSum f [a, b, c, d]).1 = loneF f (addF f (addF f a b).1 (addF f c d).1).1 := by
  simp [pairwiseSum, pairTree, pairUp]
theorem redValue_integer (old : Option Nat) (hne : l ++ old.toList ≠ []) (hx : ∀ x ∈ l ++ old.toList, x < 2 ^ 32) :
    let all := l ++ old.toList
    (∀ kind ∈ [2, 3], (redValue kind 0 l old).1 = all.sum % 2 ^ 32) ∧
    (redValue 3 1 l old).1 ∈ all ∧ (∀ x ∈ all, (redValue 3 1 l old).1 ≤ x) ∧ (redValue 3 2 l old).1 ∈ all ∧
    (∀ x ∈ all, x ≤ (redValue 3 2 l old).1) ∧ (redValue 2 1 l old).1 ∈ all ∧ (redValue 2 2 l old).1 ∈ all ∧
    ∀ x ∈ all, (BitVec.ofNat 32 (redValue 2 1 l old).1).toInt ≤ (BitVec.ofNat 32 x).toInt ∧
      (BitVec.ofNat 32 x).toInt ≤ (BitVec.ofNat 32 (redValue 2 2 l old).1).toInt := by
  intro all
  have hnat {x : Nat} (h : x ∈ all) : (w32 x).toNat = x := by rw [w32, BitVec.toNat_ofNat, Nat.mod_eq_of_lt (hx x h)]
  have hminu := foldl_intOp32 (o := .minu) (by simp) (le := fun a b => a.toNat ≤ b.toNat) (fun _ => le_refl _) (fun _ _ _ => le_trans)
    (fun a b => by simp only [intOp32, BitVec.ult_iff_toNat_lt]; split <;> omega) hne hx
  have hmaxu := foldl_intOp32 (o := .maxu) (by simp) (le := fun a b => b.toNat ≤ a.toNat) (fun _ => le_refl _) (fun _ _ _ h1 h2 => h2.trans h1)
    (fun a b => by simp only [intOp32, BitVec.ult_iff_toNat_lt]; split <;> omega) hne hx
  have hmin := foldl_intOp32 (o := .min) (by simp) (le := fun a b => a.toInt ≤ b.toInt) (fun _ => le_refl _) (fun _ _ _ => le_trans)
    (fun a b => by simp only [intOp32, BitVec.slt_iff_toInt_lt]; split <;> omega) hne hx
  have hmax := foldl_intOp32 (o := .max) (by simp) (le := fun a b => b.toInt ≤ a.toInt) (fun _ => le_refl _) (fun _ _ _ h1 h2 => h2.trans h1)
    (fun a b => by simp only [intOp32, BitVec.slt_iff_toInt_lt]; split <;> omega) hne hx
  refine ⟨?_, hminu.1, fun x h => ?_, hmaxu.1, fun x h => ?_, hmin.1, hmax.1, fun x h => ⟨?_, ?_⟩⟩
  · simp [redValue, all, List.sum_eq_foldl]
  · exact (hminu.2 x h).trans_eq (hnat h)
  · exact (hnat h).symm.trans_le (hmaxu.2 x h)
  · have := hmin.2 x h
    simpa [redValue, w32] using this
  · have := hmax.2 x h
    simpa [redValue, w32] using this

end Values

end Sys2Proof.Proofs
end

section
/-! SUPPORT. The elements and pieces of a `reduce` (02 R76, 04 R128, R155). -/

namespace Sys2Proof.Proofs

open Sys2Proof.Machine Sys2Proof.Claims Sys2Proof.Laws

/-! Numbers as bytes -/

/-- Byte `i` of a number. -/
def byteOf (x i : Nat) : Byte := BitVec.ofNat 8 (x / 256 ^ i)
theorem leBytes_eq : ∀ n x, leBytes n x = (List.range n).map (byteOf x)
  | 0, _ => rfl
  | n + 1, x => by
    rw [leBytes, leBytes_eq n, List.range_succ_eq_map, List.map_cons, List.map_map]
    congr 1
    · simp [byteOf]
    · refine List.map_congr_left fun i _ => ?_
      simp [byteOf, pow_succ', Nat.div_div_eq_div_mul]
/-- A range of `n` times `z` numbers, `z` at a time. -/
theorem map_range_mul {α : Type} (f : Nat → α) (z : Nat) : ∀ n, (List.range (z * n)).map f =
    (List.range n).flatMap fun e => (List.range z).map fun i => f (z * e + i)
  | 0 => by simp
  | n + 1 => by simp [Nat.mul_succ, List.range_add, List.range_succ, map_range_mul f z n]

/-! The children's values, one child at a time -/

theorem redList_slot {o : CartOp} (hl : o.level = 1) (z e j : Nat) (js : List Nat) (m : Moved) : redList o z e (j :: js) m =
    ((redList o z e js m).1.map fun t => ((slotAt o j).map fun b => leNat ((b.2.drop (z * e)).take z)).toList ++ t, (redList o z e js m).2) := by
  rw [redList]
  simp only [if_pos hl]
  cases slotAt o j <;> cases (redList o z e js m).1 <;> rfl
theorem redList_memory {o : CartOp} (hl : o.level ≠ 1) (z e j : Nat) (js : List Nat) (m : Moved) {v : List Byte}
    (hv : (engRead o false (some j) ((List.range z).map fun i => dChild o + wd (z * e + i)) m).1 = v.map some) :
    redList o z e (j :: js) m = let t := redList o z e js (engRead o false (some j) ((List.range z).map fun i => dChild o + wd (z * e + i)) m).2
      (t.1.map fun t => leNat v :: t, t.2) := by
  rw [redList]
  simp only [if_neg hl, hv]
  rw [if_neg (by simp)]
  simp only [List.filterMap_map]
  generalize redList o z e js _ = t
  cases t.1 <;> simp

/-- An element of which every input is there (02 R76). -/
theorem redElem_eq {o : CartOp} {w2 : Word} (hw : o.words[2]? = some w2) {e : Nat} {m m1 n : Moved} {l : List Nat} {old : List Byte}
    (hlist : redList o (redBytes (dKind o)) e (List.range (selected o).length) m = (some l, m1)) (hne : l ≠ [])
    (hold : (if w2.getLsbD 37 then
        engRead o false none ((List.range (redBytes (dKind o))).map fun i => dParent o + wd (redBytes (dKind o) * e + i)) m1 else ([], m1)) =
      (old.map some, n)) :
    let r := redValue (dKind o) (fld w2 36 35) l (if w2.getLsbD 37 then some (leNat old) else none)
    redElem o e m = (((List.range (redBytes (dKind o))).map fun i => dParent o + wd (redBytes (dKind o) * e + i)).zip
      (leBytes (redBytes (dKind o)) r.1), { n with fl := n.fl ||| r.2 }) := by
  have hempty : l.isEmpty = false := by simpa using hne
  unfold redElem
  simp only [hw, Option.getD_some, hlist, hempty, hold]
  rw [if_neg (by simp), if_neg (by simp)]
  simp only [List.filterMap_map]
  simp

/-! The sides of a `reduce` -/

/-- The size of an element of a `reduce`. -/
abbrev redSizeOf (op : CartOp) : Nat := redBytes (dKind op)
/-- The bytes of the children, where they stand in memory. -/
def redSrc (op : CartOp) : List Side :=
  if op.level = 1 then []
  else (List.range (selected op).length).flatMap (fun j => Claims.run (some j) (dChild op) (redSizeOf op * dCount op))
/-- The bytes of the result. -/
def redDst (op : CartOp) : List Side := Claims.run none (dParent op) (redSizeOf op * dCount op)
/-- The bytes that a `reduce` reads: the children's and, with acc, the parent's old ones. -/
def RedReads (op : CartOp) (acc : Bool) (q : Side) : Prop := q ∈ redSrc op ∨ acc = true ∧ q ∈ redDst op
/-- The value of element `e` in the child of rank `j`, if there is one (02 R74, R76). -/
def childVal (s : State) (op : CartOp) (H : Side → Hit) (e j : Nat) : Option Nat :=
  if op.level = 1 then (slotOf s op j).map fun g =>
    leNat ((List.range (redSizeOf op)).map fun i => regByte g (fld (dChild op) 6 0) (redSizeOf op * e + i))
  else some (leNat ((List.range (redSizeOf op)).map fun i => sideVal s H (some j, dChild op + wd (redSizeOf op * e + i))))
/-- The parent's old value of element `e`, where it is read. -/
def oldVal (s : State) (op : CartOp) (H : Side → Hit) (acc : Bool) (e : Nat) : Option Nat :=
  if acc then some (leNat ((List.range (redSizeOf op)).map fun i => sideVal s H (none, dParent op + wd (redSizeOf op * e + i)))) else none
/-- The values of element `e` in the children, in ascending order. -/
def childVals (s : State) (op : CartOp) (H : Side → Hit) (e : Nat) : List Nat :=
  (List.range (selected op).length).filterMap (childVal s op H e)
/-- The result of element `e` (02 R76). -/
def redResult (s : State) (op : CartOp) (H : Side → Hit) (w2 : Word) (e : Nat) : Nat :=
  (redValue (dKind op) (fld w2 36 35) (childVals s op H e) (oldVal s op H (w2.getLsbD 37) e)).1

theorem redSizeOf_cases (op : CartOp) : redSizeOf op = 2 ∨ redSizeOf op = 4 := by
  unfold redSizeOf redBytes
  split <;> simp
theorem dCount_lt (op : CartOp) : dCount op < 2 ^ 32 := by
  unfold dCount fld
  exact Nat.mod_lt _ (by decide)

section Elements

variable {s : State} {op : CartOp} {H : Side → Hit} {val : Side → Byte} {D : Side → Prop} {w2 : Word}
  {sl : Option (List (Option (Nat × List Byte)))} (hS : SidesOf s { op with slots := sl } (redSrc op) (redDst op) H)
  (hR : ∀ q, RedReads op (w2.getLsbD 37) q → q ∈ redSrc op ++ redDst op ∧ (H q).perm &&& permR = permR)
  (hslot : op.level = 1 → ∀ j, slotAt { op with slots := sl } j = (slotOf s op j).map (slotBlock op (dCount op * redSizeOf op)))

include hS in
theorem redSrc_untouched (hD : ∀ q, D q → q ∈ redDst op) {q : Side} (hq : q ∈ redSrc op) : Untouched s H D q :=
  fun d hd => hS.apart q hq d (hD d hd)
theorem mem_redSrc {op : CartOp} {q : Side} (h : q ∈ redSrc op) : q.1 ≠ none := by
  unfold redSrc at h
  split at h
  · simp at h
  · obtain ⟨j, -, hq⟩ := List.mem_flatMap.1 h
    obtain ⟨i, -, rfl⟩ := mem_run.1 hq
    simp

include hS hR hslot in
/-- The values of an element in the children (02 R76). -/
theorem redList_reads (hD : ∀ q, D q → q ∈ redDst op) {e : Nat} (he : e < dCount op) : ∀ (js : List Nat) (m : Moved),
    (∀ j ∈ js, j < (selected op).length) → Moving s H val (RedReads op (w2.getLsbD 37)) D m →
    (redList { op with slots := sl } (redSizeOf op) e js m).1 = some (js.filterMap (childVal s op H e)) ∧
      Moving s H val (RedReads op (w2.getLsbD 37)) D (redList { op with slots := sl } (redSizeOf op) e js m).2
  | [], m, _, hm => ⟨rfl, hm⟩
  | j :: js, m, hj, hm => by
    have hbound : redSizeOf op * e + redSizeOf op ≤ redSizeOf op * dCount op := by
      rw [← Nat.mul_succ]
      exact Nat.mul_le_mul_left _ he
    by_cases hl : op.level = 1
    · obtain ⟨h1, h2⟩ := redList_reads hD he js m (fun i hi => hj i (by simp [hi])) hm
      have hblock (g : Gang) : (((slotBlock op (dCount op * redSizeOf op) g).2.drop (redSizeOf op * e)).take (redSizeOf op)) =
          (List.range (redSizeOf op)).map fun i => regByte g (fld (dChild op) 6 0) (redSizeOf op * e + i) :=
        take_drop_map_range _ (by rw [Nat.mul_comm (dCount op)]; exact hbound)
      rw [redList_slot (o := { op with slots := sl }) hl, h1, hslot hl]
      refine ⟨?_, h2⟩
      simp only [Option.map_map, Function.comp_def, hblock, List.filterMap_cons, childVal, if_pos hl, Option.map_some]
      cases slotOf s op j <;> rfl
    · have hin (i : Nat) (hi : i < redSizeOf op) : (some j, dChild op + wd (redSizeOf op * e + i)) ∈ redSrc op := by
        rw [redSrc, if_neg hl]
        exact List.mem_flatMap.2 ⟨j, List.mem_range.2 (hj j (by simp)), mem_run.2 ⟨_, by omega, rfl⟩⟩
      obtain ⟨hv, hm'⟩ := engRead_reads hS hD false hR hm (who := some j)
        (as := (List.range (redSizeOf op)).map fun i => dChild op + wd (redSizeOf op * e + i))
        (by
          simp only [List.mem_map, List.mem_range]
          rintro _ ⟨i, hi, rfl⟩
          exact .inl (hin i hi))
        fun q hq h1 _ => hq.elim (redSrc_untouched hS hD) fun h => by
          obtain ⟨i, -, rfl⟩ := mem_run.1 h.2
          exact absurd h1 (by simp)
      replace hv := hv.trans (List.map_map (f := fun a => sideVal s H (some j, a)) (g := some)).symm
      obtain ⟨h1, h2⟩ := redList_reads hD he js _ (fun i hi => hj i (by simp [hi])) hm'
      rw [redList_memory (o := { op with slots := sl }) hl _ _ _ _ _ hv]
      refine ⟨(congrArg (Option.map _) h1).trans ?_, h2⟩
      simp only [Option.map_some, List.filterMap_cons, childVal, if_neg hl, List.map_map, Function.comp_def]

include hS hR hslot in
/-- An element of which every input is there gives its result's bytes (02 R76). -/
theorem redElem_gives (hw : op.words[2]? = some w2) (hD : ∀ q, D q → q ∈ redDst op) {e : Nat} (he : e < dCount op)
    (hne : childVals s op H e ≠ []) {m : Moved} (hm : Moving s H val (RedReads op (w2.getLsbD 37)) D m)
    (hfresh : w2.getLsbD 37 = true → ∀ q ∈ redDst op, (∃ i < redSizeOf op, wordOf q.2 = wordOf (dParent op + wd (redSizeOf op * e + i))) →
      Untouched s H D q) :
    (redElem { op with slots := sl } e m).1 = (List.range (redSizeOf op)).map (fun i =>
      (dParent op + wd (redSizeOf op * e + i), byteOf (redResult s op H w2 e) i)) ∧
    Moving s H val (RedReads op (w2.getLsbD 37)) D (redElem { op with slots := sl } e m).2 := by
  obtain ⟨h1, hm1⟩ := redList_reads hS hR hslot hD he (List.range (selected op).length) m (by simp) hm
  have hzip (x : Nat) : ((List.range (redSizeOf op)).map fun i => dParent op + wd (redSizeOf op * e + i)).zip (leBytes (redSizeOf op) x) =
      (List.range (redSizeOf op)).map fun i => (dParent op + wd (redSizeOf op * e + i), byteOf x i) := by
    rw [leBytes_eq, List.zip_map']
  by_cases hacc : w2.getLsbD 37 = true
  · obtain ⟨hv, hm2⟩ := engRead_reads hS hD false hR hm1 (who := none)
      (as := (List.range (redSizeOf op)).map fun i => dParent op + wd (redSizeOf op * e + i))
      (by
        simp only [List.mem_map, List.mem_range]
        rintro _ ⟨i, hi, rfl⟩
        refine .inr ⟨hacc, mem_run.2 ⟨redSizeOf op * e + i, ?_, rfl⟩⟩
        calc redSizeOf op * e + i < redSizeOf op * (e + 1) := by rw [Nat.mul_succ]; omega
          _ ≤ redSizeOf op * dCount op := Nat.mul_le_mul_left _ he)
      fun q hq h1 hword => hq.elim (fun h => absurd h1 (mem_redSrc h)) fun h => hfresh hacc q h.2 (by simpa using hword)
    have hel := redElem_eq (o := { op with slots := sl }) hw (Prod.ext h1 rfl) hne ((if_pos hacc).trans (Prod.ext
      (hv.trans (List.map_map (f := fun a => sideVal s H (none, a)) (g := some)).symm) rfl))
    rw [hel]
    refine ⟨(hzip _).trans ?_, hm2.wrote, hm2.held⟩
    simp only [redResult, oldVal, if_pos hacc, List.map_map, Function.comp_def]
    rfl
  · have hel := redElem_eq (o := { op with slots := sl }) hw (Prod.ext h1 rfl) hne (old := []) (if_neg hacc)
    rw [hel]
    refine ⟨(hzip _).trans ?_, hm1.wrote, hm1.held⟩
    simp only [redResult, oldVal, if_neg hacc]
    rfl

end Elements

end Sys2Proof.Proofs
end

section
/-! SUPPORT. A `reduce` acts piece by piece, and its completion writes every result (02 R76, 04 R128, R155). -/

namespace Sys2Proof.Proofs

open Sys2Proof.Machine Sys2Proof.Claims Sys2Proof.Laws

/-! Words that are written one after another -/

theorem engWrites_write {s : State} {op : CartOp} {rd wr : List Side} {H : Side → Hit} {val : Side → Byte} {R : Side → Prop}
    (hS : SidesOf s op rd wr H) (late : Bool) {who : Option Nat} {bs : List (Word × Byte)}
    (hw : ∀ b ∈ bs, (who, b.1) ∈ wr ∧ val (who, b.1) = b.2) : ∀ (ws : List Word) {D : Side → Prop} {m : Moved}, (∀ q, D q → q ∈ wr) →
    Moving s H val R D m → Moving s H val R (fun q => D q ∨ ∃ b ∈ bs, wordOf b.1 ∈ ws ∧ q = (who, b.1))
      (ws.foldl (fun m w => engWrite op late who (bs.filter (fun b => wordOf b.1 = w)) m) m)
  | [], D, m, _, hm => ⟨hm.wrote.congr fun q => by simp, hm.held⟩
  | w :: ws, D, m, hD, hm => by
    have h1 := engWrite_writes hS hD late hm (who := who) (bs := bs.filter (fun b => wordOf b.1 = w))
      (fun b hb => hw b (List.mem_filter.1 hb).1)
      fun b hb c hc => (of_decide_eq_true (List.mem_filter.1 hb).2 :).trans (of_decide_eq_true (List.mem_filter.1 hc).2 :).symm
    have h2 := engWrites_write hS late hw ws
      (fun q hq => hq.elim (hD q) fun ⟨b, hb, hqb⟩ => hqb ▸ (hw b (List.mem_filter.1 hb).1).1) h1
    refine ⟨h2.wrote.congr fun q => ?_, h2.held⟩
    simp only [List.mem_cons, List.mem_filter, decide_eq_true_eq]
    constructor
    · rintro (hq | ⟨b, hb, rfl | hws, rfl⟩)
      · exact .inl (.inl hq)
      · exact .inl (.inr ⟨b, ⟨hb, rfl⟩, rfl⟩)
      · exact .inr ⟨b, hb, hws, rfl⟩
    · rintro ((hq | ⟨b, ⟨hb, hbw⟩, rfl⟩) | ⟨b, hb, hws, rfl⟩)
      · exact .inl hq
      · exact .inr ⟨b, hb, .inl hbw, rfl⟩
      · exact .inr ⟨b, hb, .inr hws, rfl⟩

/-! Pieces of a result -/

/-- The pieces in which a `reduce` acts (04 R128). -/
def redPieces (op : CartOp) : List (Nat × Nat) :=
  if (dParent op).toNat % redSizeOf op = 0 then cuts (dParent op) (redSizeOf op * dCount op) else [(0, redSizeOf op * dCount op)]
theorem cartPieces_reduce {op : CartOp} (hk : op.kind = 2) : cartPieces op = (redPieces op).map fun c => (c, 0) := by
  simp [cartPieces, hk, redPieces]

theorem redPieces_dvd {op : CartOp} {c : Nat × Nat} (h : c ∈ redPieces op) :
    redSizeOf op ∣ c.1 ∧ redSizeOf op ∣ c.2 ∧ c.1 + c.2 ≤ redSizeOf op * dCount op := by
  unfold redPieces at h
  split at h
  · next hz =>
    refine ⟨?_, ?_, cuts_le h⟩
    all_goals
      obtain ⟨k, hk, rfl⟩ := mem_cuts.1 h
      simp only
      rcases redSizeOf_cases op with h2 | h2 <;> rw [h2] at hz ⊢ <;> omega
  · obtain rfl := List.mem_singleton.1 h
    simp
theorem exists_mem_redPieces {op : CartOp} {x : Nat} (h : x < redSizeOf op * dCount op) : ∃ c ∈ redPieces op, c.1 ≤ x ∧ x < c.1 + c.2 := by
  unfold redPieces
  split
  · exact exists_mem_cuts _ h
  · exact ⟨_, List.mem_singleton.2 rfl, Nat.zero_le _, by simpa using h⟩
/-- No piece has a byte in a word of another. -/
theorem redPieces_words {op : CartOp} {l r : List (Nat × Nat)} {c d : Nat × Nat} (h : redPieces op = l ++ c :: r) (hd : d ∈ l) {i j : Nat}
    (hi : i < d.2) (hj : j < c.2) : wordOf (dParent op + wd (d.1 + i)) ≠ wordOf (dParent op + wd (c.1 + j)) := by
  have hn : redSizeOf op * dCount op < 2 ^ 35 := by
    have := dCount_lt op
    rcases redSizeOf_cases op with h2 | h2 <;> rw [h2] <;> omega
  have hpw : (redPieces op).Pairwise fun d c => ∀ i < d.2, ∀ j < c.2, wordOf (dParent op + wd (d.1 + i)) ≠ wordOf (dParent op + wd (c.1 + j)) := by
    unfold redPieces
    split
    · unfold cuts
      rw [List.pairwise_map]
      refine List.pairwise_lt_range.imp fun {a b} hab i hi j hj => ?_
      generalize redSizeOf op * dCount op = n at *
      simp only at hi hj ⊢
      exact wordOf_add_ne (by omega) (by omega) (by omega)
    · exact List.pairwise_singleton _ _
  rw [h, List.pairwise_append] at hpw
  exact hpw.2.2 d hd c (by simp) i hi j hj

section Reduce

variable {s : State} {op : CartOp} {H : Side → Hit} {val : Side → Byte} {D : Side → Prop} {w2 : Word}
  {sl : Option (List (Option (Nat × List Byte)))} (hS : SidesOf s { op with slots := sl } (redSrc op) (redDst op) H)
  (hR : ∀ q, RedReads op (w2.getLsbD 37) q → q ∈ redSrc op ++ redDst op ∧ (H q).perm &&& permR = permR)
  (hslot : op.level = 1 → ∀ j, slotAt { op with slots := sl } j = (slotOf s op j).map (slotBlock op (dCount op * redSizeOf op)))
  (hw : op.words[2]? = some w2) (hne : ∀ e < dCount op, childVals s op H e ≠ [])
  (hval : ∀ e < dCount op, ∀ i < redSizeOf op, val (none, dParent op + wd (redSizeOf op * e + i)) = byteOf (redResult s op H w2 e) i)

/-- The bytes of the result of element `e`, with their addresses. -/
def elemBytes (s : State) (op : CartOp) (H : Side → Hit) (w2 : Word) (e : Nat) : List (Word × Byte) :=
  (List.range (redSizeOf op)).map fun i => (dParent op + wd (redSizeOf op * e + i), byteOf (redResult s op H w2 e) i)

include hS hR hslot hw hne in
/-- Elements that are computed one after another give their results' bytes. -/
theorem redElems_give (hD : ∀ q, D q → q ∈ redDst op) : ∀ (es : List Nat) (acc : List (Word × Byte) × Moved), (∀ e ∈ es, e < dCount op ∧
    (w2.getLsbD 37 = true → ∀ q ∈ redDst op, (∃ i < redSizeOf op, wordOf q.2 = wordOf (dParent op + wd (redSizeOf op * e + i))) →
      Untouched s H D q)) → Moving s H val (RedReads op (w2.getLsbD 37)) D acc.2 →
    let r := es.foldl (fun acc e => (acc.1 ++ (redElem { op with slots := sl } e acc.2).1, (redElem { op with slots := sl } e acc.2).2)) acc
    r.1 = acc.1 ++ es.flatMap (elemBytes s op H w2) ∧ Moving s H val (RedReads op (w2.getLsbD 37)) D r.2
  | [], acc, _, hm => ⟨by simp, hm⟩
  | e :: es, acc, he, hm => by
    obtain ⟨he1, hfresh⟩ := he e (by simp)
    obtain ⟨h1, h2⟩ := redElem_gives hS hR hslot hw hD he1 (hne e he1) hm hfresh
    obtain ⟨h3, h4⟩ := redElems_give hD es (acc.1 ++ (redElem { op with slots := sl } e acc.2).1, (redElem { op with slots := sl } e acc.2).2)
      (fun x hx => he x (by simp [hx])) h2
    refine ⟨h3.trans ?_, h4⟩
    rw [h1, List.flatMap_cons, List.append_assoc]
    rfl
theorem elem_index {z c k i : Nat} (hz : 0 < z) (hc : z ∣ c) (hi : i < z) :
    (c + (z * k + i)) / z = c / z + k ∧ (c + (z * k + i)) % z = i ∧ z * (c / z + k) + i = c + (z * k + i) := by
  have heq : z * (c / z + k) + i = c + (z * k + i) := by rw [Nat.mul_add, Nat.mul_div_cancel' hc, Nat.add_assoc]
  refine ⟨?_, ?_, heq⟩
  · rw [← heq, Nat.mul_add_div hz, Nat.div_eq_of_lt hi, Nat.add_zero]
  · rw [← heq, Nat.mul_add_mod, Nat.mod_eq_of_lt hi]
theorem elem_lt {z n k i : Nat} (hn : z ∣ n) (hk : k < n / z) (hi : i < z) : z * k + i < n :=
  calc z * k + i < z * (k + 1) := by rw [Nat.mul_succ]; omega
    _ ≤ z * (n / z) := Nat.mul_le_mul_left _ hk
    _ = n := Nat.mul_div_cancel' hn
/-- The bytes of a piece, element by element. -/
theorem mem_pieceElems {c : Nat × Nat} (hc1 : redSizeOf op ∣ c.1) (hc2 : redSizeOf op ∣ c.2) {b : Word × Byte} :
    b ∈ ((List.range (c.2 / redSizeOf op)).map fun i => c.1 / redSizeOf op + i).flatMap (elemBytes s op H w2) ↔
      ∃ x < c.2, b = (dParent op + wd (c.1 + x), byteOf (redResult s op H w2 ((c.1 + x) / redSizeOf op)) ((c.1 + x) % redSizeOf op)) := by
  have hz : 0 < redSizeOf op := by
    rcases redSizeOf_cases op with h | h <;> omega
  simp only [List.mem_flatMap, List.mem_map, List.mem_range, elemBytes]
  constructor
  · rintro ⟨e, ⟨k, hk, rfl⟩, i, hi, rfl⟩
    obtain ⟨hdiv, hmod, heq⟩ := elem_index (k := k) hz hc1 hi
    exact ⟨redSizeOf op * k + i, elem_lt hc2 hk hi, by rw [hdiv, hmod, heq]⟩
  · rintro ⟨x, hx, rfl⟩
    obtain ⟨hdiv, hmod, heq⟩ := elem_index (k := x / redSizeOf op) hz hc1 (Nat.mod_lt x hz)
    rw [Nat.div_add_mod] at hdiv hmod heq
    exact ⟨_, ⟨x / redSizeOf op, Nat.div_lt_div_of_lt_of_dvd hc2 hx, rfl⟩, x % redSizeOf op, Nat.mod_lt x hz, by rw [hdiv, hmod, heq]⟩

include hS hR hslot hw hne hval in
/-- A piece of a `reduce` writes its results (02 R76). -/
theorem reducePiece_moves (hD : ∀ q, D q → q ∈ redDst op) {c : Nat × Nat} (hc : c ∈ redPieces op) {m : Moved}
    (hm : Moving s H val (RedReads op (w2.getLsbD 37)) D m)
    (hfresh : w2.getLsbD 37 = true → ∀ q ∈ redDst op, (∃ i < c.2, wordOf q.2 = wordOf (dParent op + wd (c.1 + i))) → Untouched s H D q) :
    Moving s H val (RedReads op (w2.getLsbD 37)) (fun q => D q ∨ ∃ i < c.2, q = (none, dParent op + wd (c.1 + i)))
      (reducePiece { op with slots := sl } false (c, 0) m) := by
  obtain ⟨hc1, hc2, hle⟩ := redPieces_dvd hc
  have hz : 0 < redSizeOf op := by
    rcases redSizeOf_cases op with h | h <;> omega
  have hmem (b) := mem_pieceElems (s := s) (H := H) (w2 := w2) (b := b) hc1 hc2
  have hwrite : ∀ b ∈ ((List.range (c.2 / redSizeOf op)).map fun i => c.1 / redSizeOf op + i).flatMap (elemBytes s op H w2),
      (none, b.1) ∈ redDst op ∧ val (none, b.1) = b.2 := by
    intro b hb
    obtain ⟨x, hx, rfl⟩ := (hmem b).1 hb
    refine ⟨mem_run.2 ⟨c.1 + x, by omega, rfl⟩, ?_⟩
    have := hval ((c.1 + x) / redSizeOf op) (Nat.div_lt_of_lt_mul (by omega)) ((c.1 + x) % redSizeOf op) (Nat.mod_lt _ hz)
    rwa [Nat.div_add_mod] at this
  have helem : ∀ e ∈ (List.range (c.2 / redSizeOf op)).map fun i => c.1 / redSizeOf op + i, e < dCount op ∧ (w2.getLsbD 37 = true →
      ∀ q ∈ redDst op, (∃ i < redSizeOf op, wordOf q.2 = wordOf (dParent op + wd (redSizeOf op * e + i))) → Untouched s H D q) := by
    intro e he
    obtain ⟨k, hk, rfl⟩ := List.mem_map.1 he
    have hin (i) (hi : i < redSizeOf op) : ∃ x < c.2, redSizeOf op * (c.1 / redSizeOf op + k) + i = c.1 + x :=
      ⟨_, elem_lt hc2 (List.mem_range.1 hk) hi, (elem_index hz hc1 hi).2.2⟩
    obtain ⟨x, hx, h0⟩ := hin 0 hz
    refine ⟨Nat.lt_of_mul_lt_mul_left (a := redSizeOf op) (by omega), fun hacc q hq hi => ?_⟩
    obtain ⟨i, hi, hword⟩ := hi
    obtain ⟨y, hy, h1⟩ := hin i hi
    exact hfresh hacc q hq ⟨y, hy, h1 ▸ hword⟩
  obtain ⟨h1, h2⟩ := redElems_give hS hR hslot hw hne hD _ ([], m) helem hm
  rw [List.foldl_map] at h1 h2
  have h3 := engWrites_write hS false (who := none) hwrite
    (((((List.range (c.2 / redSizeOf op)).map fun i => c.1 / redSizeOf op + i).flatMap (elemBytes s op H w2)).map fun b => wordOf b.1).eraseDups) hD h2
  have hp : reducePiece { op with slots := sl } false (c, 0) m =
      let r := (List.range (c.2 / redSizeOf op)).foldl (fun acc i =>
        (acc.1 ++ (redElem { op with slots := sl } (c.1 / redSizeOf op + i) acc.2).1,
          (redElem { op with slots := sl } (c.1 / redSizeOf op + i) acc.2).2)) ([], m)
      ((r.1.map (fun b => wordOf b.1)).eraseDups).foldl (fun m w =>
        engWrite { op with slots := sl } false none (r.1.filter (fun b => wordOf b.1 = w)) m) r.2 := rfl
  rw [hp]
  simp only [h1, List.nil_append]
  refine ⟨h3.wrote.congr fun q => or_congr_right ?_, h3.held⟩
  constructor
  · rintro ⟨i, hi, rfl⟩
    have hb := (hmem _).2 ⟨i, hi, rfl⟩
    exact ⟨_, hb, List.mem_eraseDups.2 (List.mem_map_of_mem hb), rfl⟩
  · rintro ⟨b, hb, -, rfl⟩
    obtain ⟨x, hx, rfl⟩ := (hmem b).1 hb
    exact ⟨x, hx, rfl⟩

end Reduce

end Sys2Proof.Proofs
end

section
/-! The cart's operations (02 R71 to R79, 04 R153 to R155, 12 R374 to R379). -/

namespace Sys2Proof.Proofs

open Sys2Proof.Machine Sys2Proof.Claims Sys2Proof.Laws

section Reduce

variable {s : State} {op : CartOp} {H : Side → Hit} {w2 : Word}

/-- The children's values of an element, as the statement lists them. -/
theorem childVals_eq (s : State) (op : CartOp) (H : Side → Hit) (e : Nat) : childVals s op H e =
    ((selected op).zip (List.range (selected op).length)).filterMap (fun c =>
      if op.level = 1 then (slotGang s op c.1).map (fun g =>
        leNat ((List.range (redSizeOf op)).map (fun i => regByte g (fld (dChild op) 6 0) (redSizeOf op * e + i))))
      else some (leNat ((List.range (redSizeOf op)).map (fun i => sideVal s H (some c.2, dChild op + wd (redSizeOf op * e + i)))))) := by
  have hsnd : List.range (selected op).length = ((selected op).zip (List.range (selected op).length)).map Prod.snd :=
    (List.map_snd_zip (by simp)).symm
  rw [childVals]
  conv_lhs => rw [hsnd, List.filterMap_map]
  refine List.filterMap_congr fun c hc => ?_
  rw [List.range_eq_range', ← List.zipIdx_eq_zip_range', List.mem_zipIdx_iff_getElem?] at hc
  simp only [Function.comp, childVal, slotOf, hc, Option.bind_some]
theorem pieceMoves_reduce {late : Bool} {p : (Nat × Nat) × Nat} {m : Moved} (hk : op.kind = 2) :
    pieceMoves op late p m = reducePiece op late p m := by
  simp only [pieceMoves, hk]
/-- A `reduce` writes the result of every element (02 R76). -/
theorem reduce_writes (hk : op.kind = 2) (hw : op.words[2]? = some w2) (hfly : op.level = 1 → ∀ g ∈ s.g :: s.others, g.inflight = [])
    (h : Sides s op (redSrc op) (redDst op) H) (hne : ∀ e < dCount op, childVals s op H e ≠ [])
    (hacc : w2.getLsbD 37 = true → ∀ q ∈ redDst op, (H q).perm &&& permR = permR ∧
      (locKind (H q).loc = 0 → (lineOf s (H q).loc).2 = (H q).key)) :
    CartWrites s op H ((redDst op).zip ((List.range (dCount op)).flatMap (fun e => leBytes (redSizeOf op) (redResult s op H w2 e))))
      (fun _ => True) := by
  have hz : 0 < redSizeOf op := by
    rcases redSizeOf_cases op with h | h <;> omega
  have hnd := sides_nodup h
  have hout : (redDst op).zip ((List.range (dCount op)).flatMap (fun e => leBytes (redSizeOf op) (redResult s op H w2 e))) =
      (List.range (dCount op)).flatMap fun e => (List.range (redSizeOf op)).map fun i =>
        ((none, dParent op + wd (redSizeOf op * e + i)), byteOf (redResult s op H w2 e) i) := by
    simp only [leBytes_eq]
    rw [← zip_flatMap_range, redDst, Claims.run, map_range_mul]
    rfl
  have hfst : ((redDst op).zip ((List.range (dCount op)).flatMap (fun e => leBytes (redSizeOf op) (redResult s op H w2 e)))).map Prod.fst =
      redDst op := List.map_fst_zip (by simp [leBytes_eq, redDst, Claims.run, List.length_flatMap, Nat.mul_comm])
  generalize (redDst op).zip ((List.range (dCount op)).flatMap (fun e => leBytes (redSizeOf op) (redResult s op H w2 e))) = out at *
  have hval := fun b hb => outVal_of_mem (out := out) (hfst ▸ hnd) (b := b) hb
  have hbyte : ∀ e < dCount op, ∀ i < redSizeOf op, outVal out (none, dParent op + wd (redSizeOf op * e + i)) = byteOf (redResult s op H w2 e) i := by
    intro e he i hi
    refine hval ((none, dParent op + wd (redSizeOf op * e + i)), byteOf (redResult s op H w2 e) i) ?_
    rw [hout]
    exact List.mem_flatMap.2 ⟨e, List.mem_range.2 he, List.mem_map.2 ⟨i, List.mem_range.2 hi, rfl⟩⟩
  have hslot (hl : op.level = 1) (j : Nat) : slotAt { op with slots := (reachSlots (cartStart op.id s) op).slots } j =
      (slotOf s op j).map (slotBlock op (dCount op * redSizeOf op)) := by
    rw [slotAt_reached hl (sides_slots h) (hfly hl) j, if_pos hk]
  refine cartWrites_of_moves h hval ?_ trivial
  rw [cartMoves_eq h, cartPieces_reduce hk, List.foldl_map]
  generalize (reachSlots (cartStart op.id s) op).slots = sl at *
  have hS := sidesOf h sl
  have hR (q) (hq : RedReads op (w2.getLsbD 37) q) : q ∈ redSrc op ++ redDst op ∧ (H q).perm &&& permR = permR := by
    rcases hq with hq | ⟨ha, hq⟩
    · exact ⟨List.mem_append_left _ hq, hS.readable q hq⟩
    · exact ⟨List.mem_append_right _ hq, (hacc ha q hq).1⟩
  refine (moving_foldl (R := RedReads op (w2.getLsbD 37)) (W := fun c q => ∃ i < c.2, q = (none, dParent op + wd (c.1 + i))) (ps := redPieces op)
    (fun l c rest hps m hm => ?_) (moving_start h _ _)).wrote.congr fun q => ?_
  · have hD (q) (hq : ∃ x ∈ l, ∃ i < x.2, q = (none, dParent op + wd (x.1 + i))) : q ∈ redDst op := by
      obtain ⟨x, hx, i, hi, rfl⟩ := hq
      have := (redPieces_dvd (hps ▸ by simp [hx] : x ∈ redPieces op)).2.2
      exact mem_run.2 ⟨x.1 + i, by omega, rfl⟩
    rw [pieceMoves_reduce (op := { op with slots := sl }) hk]
    refine reducePiece_moves hS hR hslot hw hne hbyte hD (hps ▸ by simp) hm fun ha q hq hi d hd => ?_
    refine ⟨fun hloc => ?_, fun _ => (hacc ha d (hD d hd)).2⟩
    obtain rfl := hS.inj d (hD d hd) q hq hloc
    obtain ⟨x, hx, i, hxi, rfl⟩ := hd
    obtain ⟨j, hj, hword⟩ := hi
    exact redPieces_words hps hx hxi hj hword
  · rw [hout]
    constructor
    · rintro ⟨b, hb, rfl⟩
      obtain ⟨e, he, hb⟩ := List.mem_flatMap.1 hb
      obtain ⟨i, hi, rfl⟩ := List.mem_map.1 hb
      have hlt : redSizeOf op * e + i < redSizeOf op * dCount op :=
        elem_lt (Nat.dvd_mul_right _ _) (by rw [Nat.mul_div_cancel_left _ hz]; exact List.mem_range.1 he) (List.mem_range.1 hi)
      obtain ⟨c, hc, hle, hltc⟩ := exists_mem_redPieces hlt
      exact ⟨c, hc, redSizeOf op * e + i - c.1, by omega, by rw [Nat.add_sub_cancel' hle]⟩
    · rintro ⟨c, hc, i, hi, rfl⟩
      have hle := (redPieces_dvd hc).2.2
      refine ⟨_, List.mem_flatMap.2 ⟨(c.1 + i) / redSizeOf op, List.mem_range.2 (Nat.div_lt_of_lt_mul (by omega)),
        List.mem_map.2 ⟨(c.1 + i) % redSizeOf op, List.mem_range.2 (Nat.mod_lt _ hz), rfl⟩⟩, ?_⟩
      rw [Nat.div_add_mod]

end Reduce

/-- Reductions write what their operations make of the children's values (02 R74, R76). -/
theorem reductionsCombineTheirChildren : Claims.ReductionsCombineTheirChildren := by
  refine ⟨fun s op H w2 hk hw hfly => ?_, fun l o => ⟨redValue_float l o, pairwiseSum_small, fun old _ => redValue_integer l old⟩⟩
  intro z n ranks dst src vals old hS hne hacc
  have hvals (e : Nat) : vals e = childVals s op H e := (childVals_eq s op H e).symm
  have h := reduce_writes hk hw hfly hS (fun e he => hvals e ▸ hne e he) hacc
  simp only [redResult, ← hvals] at h
  exact h

/-- Settles O40: each cart instruction publishes and takes its number; its completion runs the pieces of the operation one after another, and
where all its bytes can move each piece reads first values and writes its own bytes alone, so that together they write the statement's bytes. -/
theorem cartOperationsRun : Obligations.CartOperationsRun :=
  ⟨cartInstructionsTakeNumbers, copiesMoveTheirBytes, reductionsCombineTheirChildren⟩

end Sys2Proof.Proofs
end

section
/-! SUPPORT. The address checks of accesses, once for every form: where the bytes map, the checks give their places; where one fails, the trap
of the lowest lane's first byte (01 R27, R33, 04 R159, 12 R370, R388). -/

namespace Sys2Proof.Proofs

open Sys2Proof.Machine Sys2Proof.Claims Sys2Proof.Laws

/-! The places of an access's bytes -/

/-- Where a byte of the issuing gang lies; a place without meaning for an address that does not map. -/
def hitOf (s : State) (a : Word) : Hit := (gangByte s s.g a).toOption.getD ⟨0, 0, none, 0⟩
/-- The places of the `n` bytes from an address. -/
def spanOf (s : State) (n : Nat) (a : Word) : List Hit := (List.range n).map (fun i => hitOf s (a + wd i))
/-- One lane's access with the places of its bytes. -/
def accOf (s : State) (n : Nat) (p : Nat × Word) : LaneAcc := ⟨p.1, p.2, spanOf s n p.2⟩

theorem hitOf_eq {s : State} {a : Word} {h : Hit} (hb : gangByte s s.g a = .ok h) : hitOf s a = h := by rw [hitOf, hb]; rfl
theorem add_wd_zero (a : Word) : a + wd 0 = a := BitVec.add_zero a
theorem add_wd_succ (a : Word) (i : Nat) : a + wd (i + 1) = a + 1 + wd i := by rw [Nat.add_comm, ← add_wd_wd]; rfl
theorem spanOf_succ (s : State) (n : Nat) (a : Word) : spanOf s (n + 1) a = hitOf s a :: spanOf s n (a + 1) := by
  simp only [spanOf, List.range_succ_eq_map, List.map_cons, List.map_map, add_wd_zero, Function.comp_def, add_wd_succ]
@[simp] theorem length_spanOf (s : State) (n : Nat) (a : Word) : (spanOf s n a).length = n := by simp [spanOf]
/-- Part of an access is an access of its own. -/
theorem drop_take_spanOf (s : State) (a : Word) {n i k : Nat} (h : i + k ≤ n) : ((spanOf s n a).drop i).take k = spanOf s k (a + wd i) := by
  simp only [spanOf, take_drop_map_range _ h, add_wd_wd]

/-! One lane -/

section Span

variable {s : State} {need : BitVec 4} {a : Word}

/-- Byte `i` of an access passes its checks: it maps with the permissions and lies in the window of the first (01 R27, R33). -/
def Passes (s : State) (need : BitVec 4) (a : Word) (i : Nat) : Prop :=
  (∃ h, gangByte s s.g (a + wd i) = .ok h ∧ h.perm &&& need = need) ∧ windowOf (a + wd i) = windowOf a

theorem passes_succ {i : Nat} (hw : windowOf (a + 1) = windowOf a) : Passes s need a (i + 1) ↔ Passes s need (a + 1) i := by
  simp only [Passes, add_wd_succ, hw]
theorem failsAt_succ {i c : Nat} (hw : windowOf (a + 1) = windowOf a) (h : FailsAt s need a (i + 1) c) : FailsAt s need (a + 1) i c := by
  obtain ⟨hp, hf⟩ := h
  refine ⟨fun j hj => (passes_succ hw).1 (hp (j + 1) (by omega)), ?_⟩
  change windowOf (a + wd (i + 1)) ≠ _ ∧ _ ∨ _ at hf
  simpa only [← wd.eq_1, add_wd_succ, hw] using hf

/-- A first byte that passes leaves the check to the bytes behind it. -/
theorem spanHits_succ {info : Word} {n : Nat} (h0 : Passes s need a 0) (hw : n = 0 ∨ windowOf (a + 1) = windowOf a) :
    spanHits (gangByte s s.g) need info (n + 1) a = (spanHits (gangByte s s.g) need info n (a + 1)).map (hitOf s a :: ·) := by
  obtain ⟨⟨h, hb, hp⟩, -⟩ := h0
  rw [add_wd_zero] at hb
  have hn : (n ≠ 0 && windowOf (a + 1) ≠ windowOf a : Bool) = false := by
    rcases hw with hw | hw
    · simp only [hw, ne_eq, not_true, decide_false, Bool.false_and]
    · simp only [hw, ne_eq, not_true, decide_false, Bool.and_false]
  simp only [spanHits, hb, hitOf_eq hb, hp, ne_eq, not_true, if_false, hn, Bool.false_eq_true]
  cases spanHits (gangByte s s.g) need info n (a + 1) <;> rfl

/-- The check of an access whose bytes all pass gives their places. -/
theorem spanHits_of_passes (info : Word) : ∀ {n : Nat} {a : Word}, (∀ i < n, Passes s need a i) →
    spanHits (gangByte s s.g) need info n a = .ok (spanOf s n a)
  | 0, _, _ => rfl
  | n + 1, a, h => by
    have hw : n = 0 ∨ windowOf (a + 1) = windowOf a := by
      rcases Nat.eq_zero_or_pos n with hn | hn
      · exact .inl hn
      · exact .inr (h 1 (by omega)).2
    have ht : ∀ i < n, Passes s need (a + 1) i := fun i hi =>
      (passes_succ (hw.resolve_left (by omega))).1 (h (i + 1) (by omega))
    rw [spanHits_succ (h 0 (by omega)) hw, spanHits_of_passes info ht, spanOf_succ]
    rfl

/-- The check of an access traps at its first byte that fails (04 R159). -/
theorem spanHits_of_fails (info : Word) : ∀ {n i c : Nat} {a : Word}, i < n → FailsAt s need a i c →
    spanHits (gangByte s s.g) need info n a = .error ⟨c, a + wd i, info⟩
  | n + 1, 0, c, a, _, ⟨_, hf⟩ => by
    have hf : windowOf (a + wd 0) ≠ windowOf a ∧ c = 0x11 ∨ windowOf (a + wd 0) = windowOf a ∧ (gangByte s s.g (a + wd 0) = .error c ∨
      ∃ h, gangByte s s.g (a + wd 0) = .ok h ∧ h.perm &&& need ≠ need ∧ c = 0x13) := hf
    rw [add_wd_zero] at hf ⊢
    obtain ⟨hw, -⟩ | ⟨-, hb | ⟨h, hb, hp, rfl⟩⟩ := hf
    · exact absurd rfl hw
    · simp only [spanHits, hb]
    · simp only [spanHits, hb, ne_eq, hp, not_false_eq_true, if_true]
  | n + 1, i + 1, c, a, hi, h => by
    have h0 : Passes s need a 0 := h.1 0 (by omega)
    by_cases hw : windowOf (a + 1) = windowOf a
    · rw [spanHits_succ h0 (.inr hw), spanHits_of_fails info (by omega) (failsAt_succ hw h), add_wd_succ]
      rfl
    · obtain ⟨⟨h1, hb, hp⟩, -⟩ := h0
      have hi0 : i = 0 := by
        by_contra hne
        exact hw (h.1 1 (by omega)).2
      subst hi0
      have hc : c = 0x11 := by
        obtain ⟨-, ⟨-, hc⟩ | ⟨hc, -⟩⟩ := h
        · exact hc
        · exact absurd hc hw
      rw [add_wd_zero] at hb
      have hn : (n ≠ 0 && windowOf (a + 1) ≠ windowOf a : Bool) = true := by
        simp only [show n ≠ 0 by omega, hw, ne_eq, not_false_eq_true, decide_true, Bool.and_self]
      simp only [spanHits, hb, hp, ne_eq, not_true, if_false, hn, if_true, hc]
      rfl

end Span

/-! The lanes of a list -/

/-- Every byte of the accesses of a list lies somewhere. -/
def Mapped (s : State) (n : Nat) (as : List (Nat × Word)) : Prop := ∀ p ∈ as, ∀ i < n, ∃ h, gangByte s s.g (p.2 + wd i) = .ok h

section Lanes

variable {s : State} {need : BitVec 4} {n : Nat} {as : List (Nat × Word)}

theorem maps_cons {p : Nat × Word} : Maps s need n (p :: as) ↔ (∀ i < n, Passes s need p.2 i) ∧ Maps s need n as := List.forall_mem_cons

theorem mapped_of_maps (h : Maps s need n as) : Mapped s n as := by
  intro p hp i hi
  obtain ⟨⟨x, hx, -⟩, -⟩ := h p hp i hi
  exact ⟨x, hx⟩

/-- The checks of accesses that map give the places of their bytes. -/
theorem checkLanes_of_maps : ∀ {as : List (Nat × Word)}, Maps s need n as → checkLanes (gangByte s s.g) need n as = .ok (as.map (accOf s n))
  | [], _ => rfl
  | (l, a) :: r, h => by
    obtain ⟨ha, hr⟩ := maps_cons.1 h
    simp only [checkLanes, spanHits_of_passes (wd l) ha, checkLanes_of_maps hr]
    rfl
/-- The checks of accesses trap for the lowest lane that fails (04 R159). -/
theorem checkLanes_of_fails {l c : Nat} {x : Word} (h : FirstFails s need n as l x c) :
    checkLanes (gangByte s s.g) need n as = .error ⟨c, x, wd l⟩ := by
  obtain ⟨pre, a, post, i, rfl, hpre, hi, rfl, hf⟩ := h
  induction pre with
  | nil => simp only [List.nil_append, checkLanes, spanHits_of_fails (wd l) hi hf]; rfl
  | cons p pre ih =>
    obtain ⟨hp, hr⟩ := maps_cons.1 hpre
    simp only [List.cons_append, checkLanes, spanHits_of_passes (wd p.1) hp, ih hr]

/-- Space 0xF maps no byte (01 R25). -/
theorem gangByte_device {a : Word} (h : a.toNat / 2 ^ 60 = 15) : gangByte s s.g a = .error cDevice := by
  simp only [gangByte, mapByte, h]
theorem space_of_maps (h : Maps s need n as) (hn : 0 < n) {p : Nat × Word} (hp : p ∈ as) : p.2.toNat / 2 ^ 60 ≠ 15 := by
  intro h15
  obtain ⟨x, hx⟩ := mapped_of_maps h p hp 0 hn
  rw [add_wd_zero, gangByte_device h15] at hx
  cases hx

end Lanes

/-! Register blocks -/

section Block

variable {s : State} {need : BitVec 4} {m : Nat}

/-- The accesses of a block, each of `m` words, as the checks of lanes take them. -/
theorem blockAccs_of_error {t : Trap} : ∀ {ws : List (Nat × Nat × Word)},
    checkLanes (gangByte s s.g) need (4 * m) (ws.map fun w => (w.1, w.2.2)) = .error t →
    blockAccs s s.g need (ws.map fun w => (w.1, w.2.1, w.2.2, m)) = .error t
  | [], h => by cases h
  | (l, i, a) :: r, h => by
    simp only [List.map_cons, checkLanes] at h
    simp only [List.map_cons, blockAccs]
    cases hs : spanHits (gangByte s s.g) need (wd l) (4 * m) a with
    | error e => rw [hs] at h; cases h; rfl
    | ok hits =>
      rw [hs] at h
      cases hr : checkLanes (gangByte s s.g) need (4 * m) (r.map fun w => (w.1, w.2.2)) with
      | error e =>
        rw [hr] at h
        cases h
        simp only [blockAccs_of_error hr]
      | ok accs => rw [hr] at h; cases h
/-- The words of an access of a block, each with its register. -/
theorem spanWords_spanOf (l i : Nat) (a : Word) :
    spanWords l i a m (spanOf s (4 * m) a) = (List.range m).map fun k => (i + k, accOf s 4 (l, a + wd (4 * k))) := by
  refine List.map_congr_left fun k hk => ?_
  rw [drop_take_spanOf s a (by have := List.mem_range.1 hk; omega)]
  rfl
theorem blockAccs_of_maps : ∀ {ws : List (Nat × Nat × Word)}, Maps s need (4 * m) (ws.map fun w => (w.1, w.2.2)) →
    blockAccs s s.g need (ws.map fun w => (w.1, w.2.1, w.2.2, m)) =
      .ok (ws.flatMap fun w => (List.range m).map fun k => (w.2.1 + k, accOf s 4 (w.1, w.2.2 + wd (4 * k))))
  | [], _ => rfl
  | (l, i, a) :: r, h => by
    obtain ⟨ha, hr⟩ := maps_cons.1 h
    simp only [List.map_cons, blockAccs, spanHits_of_passes (wd l) ha, blockAccs_of_maps hr, spanWords_spanOf, List.flatMap_cons]

/-- The accesses of a block with their first registers, and the words in each (12 R370). -/
def blockParts (g : Gang) (a b : Reg) (n : Nat) : List (Nat × Nat × Word) :=
  if b = 0 then blockWords g a b n else (lanesOf (execMask g)).map (fun l => (l, 0, blockAddr g a b 0 l))
/-- How many words an access of a block has (12 R370). -/
def blockRun (b : Reg) (n : Nat) : Nat := if b = 0 then 1 else n

variable (g : Gang) (a b : Reg) (n : Nat)

theorem blockSpans_eq : blockSpans g a b n = (blockParts g a b n).map fun w => (w.1, w.2.1, w.2.2, blockRun b n) := by
  by_cases hb : b = 0
  · simp only [blockSpans, blockParts, blockRun, hb, ne_eq, not_true, if_true, if_false]
  · simp only [blockSpans, blockParts, blockRun, hb, ne_eq, not_false_eq_true, if_true, if_false, List.map_map, Function.comp_def]
theorem mapsBlock_iff : MapsBlock s need a b n ↔ Maps s need (4 * blockRun b n) ((blockParts s.g a b n).map fun w => (w.1, w.2.2)) := by
  by_cases hb : b = 0
  · simp only [MapsBlock, blockParts, blockRun, if_pos hb]
  · simp only [MapsBlock, blockParts, blockRun, if_neg hb, laneAddrs, List.map_map, Function.comp_def]
theorem blockFails_iff (l : Nat) (x : Word) (c : Nat) : BlockFails s need a b n l x c ↔
    FirstFails s need (4 * blockRun b n) ((blockParts s.g a b n).map fun w => (w.1, w.2.2)) l x c := by
  by_cases hb : b = 0
  · simp only [BlockFails, blockParts, blockRun, if_pos hb]
  · simp only [BlockFails, blockParts, blockRun, if_neg hb, laneAddrs, List.map_map, Function.comp_def]
/-- In lane-major order the words of a lane stand one behind another (12 R370). -/
theorem blockAddr_laneMajor (hb : b ≠ 0) (k l : Nat) : blockAddr g a b 0 l + wd (4 * k) = blockAddr g a b k l := by
  simp only [blockAddr, if_neg hb, Nat.mul_zero, add_wd_zero]
/-- The words of the accesses are those of the block, in its order. -/
theorem flatMap_blockParts {β : Type} (F : Nat → Nat → Word → β) :
    ((blockParts g a b n).flatMap fun w => (List.range (blockRun b n)).map fun k => F w.1 (w.2.1 + k) (w.2.2 + wd (4 * k))) =
      (blockWords g a b n).map fun w => F w.1 w.2.1 w.2.2 := by
  unfold blockParts blockRun
  by_cases hb : b = 0
  · have hz (w : Nat × Nat × Word) : w.2.2 + wd (4 * 0) = w.2.2 := add_wd_zero _
    simp only [if_pos hb, List.range_one, List.map_cons, List.map_nil, hz, Nat.add_zero]
    exact (List.map_eq_flatMap ..).symm
  · simp only [if_neg hb, blockWords, List.map_flatMap, List.flatMap_map, List.map_map, Function.comp_def,
      blockAddr_laneMajor g a b hb, Nat.zero_add]

variable {a b n}

/-- The checks of a block that maps give its words in lane order, then register order (12 R370). -/
theorem blockAccs_of_mapsBlock (h : MapsBlock s need a b n) : blockAccs s s.g need (blockSpans s.g a b n) =
    .ok ((blockWords s.g a b n).map fun w => (w.2.1, accOf s 4 (w.1, w.2.2))) := by
  rw [blockSpans_eq, blockAccs_of_maps ((mapsBlock_iff a b n).1 h)]
  exact congrArg Except.ok (flatMap_blockParts s.g a b n fun l i x => (i, accOf s 4 (l, x)))
/-- The checks of a block trap for the lowest lane that fails (12 R370). -/
theorem blockAccs_of_blockFails {l c : Nat} {x : Word} (h : BlockFails s need a b n l x c) :
    blockAccs s s.g need (blockSpans s.g a b n) = .error ⟨c, x, wd l⟩ := by
  rw [blockSpans_eq]
  exact blockAccs_of_error (checkLanes_of_fails ((blockFails_iff a b n l x c).1 h))
/-- Every byte of a block that maps lies somewhere. -/
theorem mapped_of_mapsBlock (h : MapsBlock s need a b n) : Mapped s 4 ((blockWords s.g a b n).map fun w => (w.1, w.2.2)) := by
  rw [mapsBlock_iff] at h
  rw [← flatMap_blockParts s.g a b n fun l _ x => (l, x)]
  intro p hp i hi
  obtain ⟨w, hw, hp⟩ := List.mem_flatMap.1 hp
  obtain ⟨k, hk, rfl⟩ := List.mem_map.1 hp
  have hk := List.mem_range.1 hk
  obtain ⟨x, hx⟩ := mapped_of_maps h _ (List.mem_map_of_mem hw) (4 * k + i) (by omega)
  exact ⟨x, by rw [add_wd_wd]; exact hx⟩

end Block

/-! Atomics -/

/-- The checks of an atomic trap for the lowest lane that fails: its address check, then its alignment, then space 0xF (04 R145, 12 R388). -/
theorem atomLanes_of_fails {s : State} {n align : Nat} (hn : 0 < n) {as : List (Nat × Word)} {l c : Nat} {x : Word}
    (h : AtomFails s n align as l x c) : atomLanes s s.g n align as = .error ⟨c, x, wd l⟩ := by
  obtain ⟨pre, a, post, rfl, hpre, hal, hf⟩ := h
  induction pre with
  | cons p pre ih =>
    have hp := space_of_maps hpre hn List.mem_cons_self
    have ha : ¬ p.2.toNat % align ≠ 0 := hal p List.mem_cons_self
    obtain ⟨hm, hr⟩ := maps_cons.1 hpre
    simp only [List.cons_append, atomLanes, atomLane, if_neg hp, spanHits_of_passes (wd p.1) hm, if_neg ha,
      ih hr fun q hq => hal q (List.mem_cons_of_mem _ hq)]
  | nil =>
    suffices hl : atomLane s s.g n align l a = .error ⟨c, x, wd l⟩ by simp only [List.nil_append, atomLanes, hl]
    obtain ⟨h15, rfl, hb⟩ | ⟨h15, pre, b, q, i, he, -, hi, rfl, hb⟩ | ⟨hm, hb, rfl, rfl⟩ := hf
    · obtain ⟨hb, rfl⟩ | ⟨hb, rfl⟩ := hb <;> simp only [atomLane, if_pos h15, ne_eq, hb, not_false_eq_true, if_true, if_false]
    · obtain ⟨rfl, hq⟩ : pre = [] ∧ (l, a) :: [] = (l, b) :: q := by
        cases pre with
        | nil => exact ⟨rfl, he⟩
        | cons p pre => simp at he
      obtain rfl : a = b := by simpa using congrArg (·.head?.map Prod.snd) hq
      simp only [atomLane, if_neg h15, spanHits_of_fails (wd l) hi hb]
      rfl
    · simp only [atomLane, if_neg (space_of_maps hm hn List.mem_cons_self), spanHits_of_passes (wd l) (maps_cons.1 hm).1, if_pos hb]

end Sys2Proof.Proofs
end

section
/-! An access that fails traps before it has any effect (01 R27, 04 R159, 12 R366 to R370, R388). -/

namespace Sys2Proof.Proofs

open Sys2Proof.Machine Sys2Proof.Claims Sys2Proof.Laws

/-- An instruction that raises a trap which is delivered enters the handler. -/
theorem runs_of_raise {s : State} (h : Delivers s) {i : Instr} {t : Trap} (he : exec i s = .next (raise t s)) :
    Runs i s (Entered t.cause t.addr t.info (pcOf s) s) :=
  ⟨_, he, entered_raise h t⟩

section Traps

variable {s : State} {t : Trap} {d a b : Reg} {f : AddrForm} {z : Size} {o : BitVec 9} {col sk : Bool} {n : BitVec 4}

/-- A 64-bit load with a lane outside the identification page is none of that page (01 R25). -/
theorem idLoad_of_word {as : List (Nat × Word)} (h : z = .d → ∃ p ∈ as, idAddr p.2 = false) :
    (z = .d && !as.isEmpty && as.all (fun p => idAddr p.2) : Bool) = false := by
  by_cases hz : z = .d
  · obtain ⟨p, hp, hid⟩ := h hz
    have hall : as.all (fun p => idAddr p.2) = false := List.all_eq_false.2 ⟨p, hp, by simp [hid]⟩
    rw [hall, Bool.and_false]
  · simp only [hz, decide_false, Bool.false_and]
theorem idScalar_of_word {x : Word} (h : z = .d → idAddr x = false) : (z = .d && idAddr x : Bool) = false := by
  by_cases hz : z = .d
  · simp only [h hz, Bool.and_false]
  · simp only [hz, decide_false, Bool.false_and]

theorem storeTo_traps {as : List (Nat × Word)} {size : Nat} (v : Nat → Nat)
    (h : checkLanes (gangByte s s.g) (if s.g.prec then permW else 0) size as = .error t) : storeTo as size v s = raise t s := by
  simp only [storeTo, h]
theorem exec_ld_traps (hh : Holds s.g ([(d, sizeRegs z)] ++ addrRegs f))
    (hz : z = .d → ∃ p ∈ laneAddrs s.g (laneAddr s.g a f (sizeBytes z)), idAddr p.2 = false)
    (h : checkLanes (gangByte s s.g) permR (sizeBytes z) (laneAddrs s.g (laneAddr s.g a f (sizeBytes z))) = .error t) :
    exec (.ld d a f z) s = .next (raise t s) := by
  change execLd d a f z s = _
  simp only [execLd, blockTrap_none s.g _ hh, orTrap_none, idLoad_of_word hz, Bool.false_eq_true, if_false, h]
theorem exec_st_traps (hh : Holds s.g ([(d, sizeRegs z)] ++ addrRegs f))
    (h : checkLanes (gangByte s s.g) (if s.g.prec then permW else 0) (sizeBytes z) (laneAddrs s.g (laneAddr s.g a f (sizeBytes z))) = .error t) :
    exec (.st d a f z) s = .next (raise t s) := by
  change execSt d a f z s = _
  simp only [execSt, blockTrap_none s.g _ hh, orTrap_none, storeTo_traps _ h]
theorem exec_lds_traps (hz : z = .d → idAddr (offAddr s.g a o (sizeBytes z)) = false)
    (h : checkLanes (gangByte s s.g) permR (sizeBytes z) [(0, offAddr s.g a o (sizeBytes z))] = .error t) :
    exec (.lds d a o z) s = .next (raise t s) ∧ exec (.ldc d a o z) s = .next (raise t s) := by
  change execLds d a o z s = _ ∧ execLdc d a o z s = _
  simp only [execLds, execLdc, idScalar_of_word hz, Bool.false_eq_true, if_false, h, and_self]
theorem exec_sts_traps
    (h : checkLanes (gangByte s s.g) (if s.g.prec then permW else 0) (sizeBytes z) [(0, offAddr s.g a o (sizeBytes z))] = .error t) :
    exec (.sts d a o z) s = .next (raise t s) := by
  change execSts d a o z s = _
  simp only [execSts, storeTo_traps _ h]
/-- A tile whose base fails traps for it (12 R368). -/
theorem exec_tile_baseTraps (hh : Holds s.g [(d, 1)]) (h : tileTrap s (sreg s.g a) = some t) :
    exec (.ldsp d a b col sk) s = .next (raise t s) ∧ exec (.stsp d a b col sk) s = .next (raise t s) := by
  change execLdsp d a b col sk s = _ ∧ execStsp d a b col sk s = _
  simp only [execLdsp, execStsp, blockTrap_none s.g _ hh, orTrap_none, h, orTrap_some, and_self]
theorem exec_ldsp_traps (hh : Holds s.g [(d, 1)]) (hb : tileTrap s (sreg s.g a) = none)
    (h : checkLanes (gangByte s s.g) permR 4 (tileAddrs s.g a b col sk) = .error t) : exec (.ldsp d a b col sk) s = .next (raise t s) := by
  change execLdsp d a b col sk s = _
  simp only [execLdsp, blockTrap_none s.g _ hh, hb, orTrap_none, h]
theorem exec_stsp_traps (hh : Holds s.g [(d, 1)]) (hb : tileTrap s (sreg s.g a) = none)
    (h : checkLanes (gangByte s s.g) (if s.g.prec then permW else 0) 4 (tileAddrs s.g a b col sk) = .error t) :
    exec (.stsp d a b col sk) s = .next (raise t s) := by
  change execStsp d a b col sk s = _
  simp only [execStsp, blockTrap_none s.g _ hh, hb, orTrap_none, storeTo_traps _ h]
theorem exec_ldb_traps (hh : Holds s.g [(d, n.toNat + 1)]) (h : blockAccs s s.g permR (blockSpans s.g a b (n.toNat + 1)) = .error t) :
    exec (.ldb d a b n) s = .next (raise t s) := by
  change execLdb d a b n s = _
  simp only [execLdb, blockTrap_none s.g _ hh, orTrap_none, h]
theorem exec_stb_traps (hh : Holds s.g [(d, n.toNat + 1)])
    (h : blockAccs s s.g (if s.g.prec then permW else 0) (blockSpans s.g a b (n.toNat + 1)) = .error t) :
    exec (.stb d a b n) s = .next (raise t s) := by
  change execStb d a b n s = _
  simp only [execStb, blockTrap_none s.g _ hh, orTrap_none, h]

/-- An atomic with a lane that fails traps before it sends any request (12 R388). -/
theorem atomic_traps {regs k align size : Nat} {op : Nat → HomeOp} {x : Nat → Word} (hh : Holds s.g [(d, regs), (b, 1)])
    (h : atomLanes s s.g k align (atomAddrs s.g a b) = .error t) : atomic d a b regs k align size op x s = raise t s := by
  simp only [atomic, blockTrap_none s.g _ hh, orTrap_none, h]
theorem exec_red_traps {q : RedOp} (hh : Holds s.g [(d, redSize q / 4), (b, 1)])
    (h : atomLanes s s.g (redSize q) (redSize q) (atomAddrs s.g a b) = .error t) : exec (.red d a b q) s = .next (raise t s) := by
  change execRed d a b q s = _
  simp only [execRed, blockTrap_none s.g _ hh, orTrap_none, h]

end Traps

/-! The base checks of a tile, in their order (01 R25, 12 R366, R368) -/

section Base

variable {s : State} {y : Word}

theorem tileTrap_device (h : y.toNat / 2 ^ 60 = 15) : tileTrap s y = some ⟨cDevice, y, 0⟩ := by simp only [tileTrap, if_pos h]
theorem tileTrap_space (h : y.toNat / 2 ^ 60 ≠ 15)
    (hb : y.toNat / 2 ^ 60 ≠ 1 ∨ 2 ^ 18 ≤ y.toNat % 2 ^ 60 ∨ y.toNat % 2 ^ 60 % 128 ≠ 0) : tileTrap s y = some ⟨cSpace, y, 0⟩ := by
  have hb : (y.toNat / 2 ^ 60 ≠ 1 || 2 ^ 18 ≤ y.toNat % 2 ^ 60 || y.toNat % 2 ^ 60 % 128 ≠ 0 : Bool) = true := by
    simpa only [Bool.or_eq_true, decide_eq_true_eq, or_assoc] using hb
  simp only [tileTrap, if_neg h, if_pos hb]
theorem tileTrap_bound (h : y.toNat / 2 ^ 60 = 1) (hlt : y.toNat % 2 ^ 60 < 2 ^ 18) (hal : y.toNat % 2 ^ 60 % 128 = 0)
    (hw : (scratchOf s s.g).2.1 < y.toNat % 2 ^ 60 + 4096) :
    tileTrap s y = some ⟨cBound, y + wd ((scratchOf s s.g).2.1 - y.toNat % 2 ^ 60), 0⟩ := by
  have hb : (y.toNat / 2 ^ 60 ≠ 1 || 2 ^ 18 ≤ y.toNat % 2 ^ 60 || y.toNat % 2 ^ 60 % 128 ≠ 0 : Bool) = false := by
    simp only [Bool.or_eq_false_iff, decide_eq_false_iff_not]
    omega
  simp only [tileTrap, if_neg (show ¬ y.toNat / 2 ^ 60 = 15 by omega), hb, Bool.false_eq_true, if_false, if_pos hw]

end Base

theorem badAccessesTrap_lowestLane : Claims.BadAccessesTrap := by
  intro s d a b f z o col sk n l c x hd
  have traps {i : Instr} {y : Word} {k : Nat} {m : Word} (he : exec i s = .next (raise ⟨k, y, m⟩ s)) :
      Runs i s (Entered k y m (pcOf s) s) := runs_of_raise hd he
  refine ⟨fun hh => ⟨fun hz h => traps (exec_ld_traps hh hz (checkLanes_of_fails h)),
      fun h => traps (exec_st_traps hh (checkLanes_of_fails h))⟩, ?_, ?_, ?_, ?_, ?_⟩
  · intro hz h
    obtain ⟨hs, hc⟩ := exec_lds_traps (d := d) hz (checkLanes_of_fails h)
    exact ⟨traps hs, traps hc⟩
  · exact fun h => traps (exec_sts_traps (checkLanes_of_fails h))
  · exact fun hh hb => ⟨fun h => traps (exec_ldsp_traps hh hb (checkLanes_of_fails h)),
      fun h => traps (exec_stsp_traps hh hb (checkLanes_of_fails h))⟩
  · intro hh y w at_ k e h
    have base (hb : tileTrap s (sreg s.g a) = some ⟨k, e, 0⟩) :
        Runs (.ldsp d a b col sk) s (Entered k e 0 (pcOf s) s) ∧ Runs (.stsp d a b col sk) s (Entered k e 0 (pcOf s) s) := by
      obtain ⟨hl, hs⟩ := exec_tile_baseTraps (b := b) (col := col) (sk := sk) hh hb
      exact ⟨traps hl, traps hs⟩
    obtain ⟨h15, rfl, rfl⟩ | ⟨h15, hbad, rfl, rfl⟩ | ⟨h1, hlt, hal, hw, rfl, rfl⟩ := h
    · exact base (tileTrap_device h15)
    · exact base (tileTrap_space h15 hbad)
    · exact base (tileTrap_bound h1 hlt hal hw)
  · exact fun hh => ⟨fun h => traps (exec_ldb_traps hh (blockAccs_of_blockFails h)),
      fun h => traps (exec_stb_traps hh (blockAccs_of_blockFails h))⟩

theorem badAtomicsTrap_lowestLane : Claims.BadAtomicsTrap := by
  intro s d a b o p q l c x hd
  have traps {i : Instr} {regs k align size : Nat} {op : Nat → HomeOp} {v : Nat → Word} (hk : 0 < k)
      (he : exec i s = .next (atomic d a b regs k align size op v s)) (hh : Holds s.g [(d, regs), (b, 1)])
      (h : AtomFails s k align (atomAddrs s.g a b) l x c) : Runs i s (Entered c x (BitVec.ofNat 64 l) (pcOf s) s) :=
    runs_of_raise hd (he.trans (congrArg _ (atomic_traps hh (atomLanes_of_fails hk h))))
  have hq : 0 < redSize q := by cases q <;> decide
  exact ⟨traps (by omega) rfl, traps (by omega) rfl, traps (by omega) rfl, traps (by omega) rfl, traps (by omega) rfl,
    fun hh h => runs_of_raise hd (exec_red_traps hh (atomLanes_of_fails hq h))⟩

end Sys2Proof.Proofs
end

section
/-! SUPPORT. A checked load from its recalls to the pending result: what it leaves alone, what its lanes get where its bytes are clean, and what
it reports where one has an uncorrectable error (03 R103, 04 R130, R147, 18 R474). -/

namespace Sys2Proof.Proofs

open Sys2Proof.Machine Sys2Proof.Claims Sys2Proof.Laws

/-! Numbers of bytes and values of lanes -/

theorem leNat_lt : ∀ bs : List Byte, leNat bs < 256 ^ bs.length
  | [] => by decide
  | b :: r => by
    have ih := leNat_lt r
    have hb := b.isLt
    rw [leNat, List.length_cons, Nat.pow_succ]
    omega
theorem leNat_map_range : ∀ {n i : Nat} (f : Nat → Byte), i < n → leNat ((List.range n).map f) / 256 ^ i % 256 = (f i).toNat
  | n + 1, i, f, hi => by
    have hb := (f 0).isLt
    have hs : leNat ((List.range (n + 1)).map f) = (f 0).toNat + 256 * leNat ((List.range n).map (f ∘ Nat.succ)) := by
      rw [List.range_succ_eq_map, List.map_cons, List.map_map, leNat]
    rw [hs]
    cases i with
    | zero => rw [Nat.pow_zero, Nat.div_one]; omega
    | succ i =>
      rw [Nat.pow_succ', ← Nat.div_div_eq_div_mul, show ∀ x, ((f 0).toNat + 256 * x) / 256 = x by omega]
      exact leNat_map_range (f ∘ Nat.succ) (by omega)
/-- A lane's bytes in the gang's view, low byte first, are the number that it sees (04 R130). -/
theorem seen_viewNat (s : State) (n : Nat) (a : Word) : Seen s n a (viewNat s s.g (spanOf s n a)) := by
  refine ⟨?_, fun i hi h hb => ?_⟩
  · simpa only [viewNat, List.length_map, length_spanOf] using leNat_lt ((spanOf s n a).map fun h => viewByte s s.g h.loc h.key)
  · rw [viewNat, spanOf, List.map_map, leNat_map_range _ hi, Function.comp_apply, wd, hitOf_eq hb]
/-- The value of a lane that a list names, with one value alone. -/
theorem valueAt_of_mem {vs : List (Nat × Nat)} {l v : Nat} (hm : (l, v) ∈ vs) (hu : ∀ w, (l, w) ∈ vs → w = v) : valueAt vs l = v := by
  cases hf : vs.find? (fun p => p.1 = l) with
  | none => exact absurd (decide_eq_true rfl) (List.find?_eq_none.1 hf _ hm)
  | some p =>
    have hp : p.1 = l := by simpa using List.find?_some hf
    rw [valueAt, hf]
    exact hu p.2 (hp ▸ List.mem_of_find?_eq_some hf)

/-! What recalls, fetches and the pending result leave alone -/

/-- What of the issuing gang and its instruction no line, store or fetch at its home changes. -/
def issuing (s : State) := (s.g.paths, s.g.act, s.g.pend, s.g.flags, s.g.s, s.g.v, s.g.k, s.g.inh, s.g.phase, s.nextId, s.iss)

theorem combineLines_issuing (p : RedLine → Bool) (s : State) : issuing (combineLines p s) = issuing s := by
  have hgang (u : Nat) (o : Gang → Cells Nat) (t : State) : issuing (onGangAny u (fun g => { g with own := o g }) t) = issuing t := by
    unfold issuing onGangAny onGang
    split <;> rfl
  unfold combineLines
  refine foldl_keeps issuing (fun t r => ?_) _ _
  unfold lineHome
  split
  · rfl
  · refine (foldl_keeps issuing (fun t u => hgang u _ t) _ _).trans ?_
    unfold homeWrite
    exact (foldl_keeps issuing (by intros; rfl) _ _).trans rfl
theorem recallLoad_issuing (as : List (List Nat)) (s : State) : issuing (recallLoad as s) = issuing s := combineLines_issuing _ s

/-- A load whose result comes with the reply has completed its issue. -/
theorem completes_of_addPend {i : Instr} {s t : State} {ws : List RegWrite} {ds : List Deferred} {far : List (Word × Nat × Nat)} {aw : Bool}
    (h : issuing t = issuing s) (he : exec i s = .next (next (addPend ws 0 ds t far aw))) : Completes i s := by
  simp only [issuing, Prod.mk.injEq] at h
  obtain ⟨hpaths, hact, hpend, hflags, hs, hv, hk, hinh, hphase, hid, hiss⟩ := h
  have hpath : path t.g = path s.g := by simp only [path, hpaths, hact]
  refine ⟨_, he, ?_, ⟨_, congrArg (· ++ [_]) hpend, hid, congrArg Issue.flag hiss, rfl⟩, fun f hf => ?_, hs, hv, hk, hinh, hphase⟩
  · change t.g.paths.set t.g.act { path t.g with pc := (path t.g).pc + 4 } = _
    rw [hpath, hpaths]
    simp only [hact, pcOf]
  · change ((t.g.flags.setIfInBounds t.iss.flag (flagCount t.g t.iss.flag + 1))[f]?).getD 0 = _
    rw [hiss, hflags, show flagCount t.g = flagCount s.g by unfold flagCount; rw [hflags]]
    by_cases hfl : f = s.iss.flag
    · subst hfl; simp [hf]
    · rw [Vector.getElem?_setIfInBounds_ne (Ne.symm hfl), if_neg hfl, flagCount]

/-! Clean bytes: no line of any core, no uncorrectable error -/

theorem clean_hitOf {s : State} {n i : Nat} {as : List (Nat × Word)} {p : Nat × Word} (hm : Mapped s n as) (hc : Clean s n as) (hp : p ∈ as)
    (hi : i < n) : poisoned s (hitOf s (p.2 + wd i)).loc = false ∧ ∀ r ∈ s.lines, lineCovers r (hitOf s (p.2 + wd i)).loc = false := by
  obtain ⟨h, hb⟩ := hm p hp i hi
  rw [hitOf_eq hb]
  exact hc p hp i hi h hb

theorem combineLines_of_noMatch {s : State} {p : RedLine → Bool} (h : ∀ r ∈ s.lines, p r = false) : combineLines p s = s := by
  rw [combineLines, List.filter_eq_nil_iff.2 fun r hr => by simp [h r hr]]
  rfl
theorem recallLoad_of_noLine {s : State} {as : List (List Nat)} (h : ∀ l ∈ as.flatten, ∀ r ∈ s.lines, lineCovers r l = false) :
    recallLoad as s = { s with g := markSeen as.flatten s.g } := by
  have hit : (as.map (fun ls => ls.filter (fun l => !(granule l).any (holds s s.g)))).filter
      (fun ls => ls.any (fun l => s.lines.any (fun r => lineCovers r l))) = [] := by
    refine List.filter_eq_nil_iff.2 fun ls hls => ?_
    obtain ⟨ms, hms, rfl⟩ := List.mem_map.1 hls
    simp only [Bool.not_eq_true, List.any_eq_false]
    exact fun l hl r hr => by simp [h l (List.mem_flatten.2 ⟨ms, hms, (List.mem_filter.1 hl).1⟩) r hr]
  have hc : combineLines (fun r => ([] : List (List Nat)).any fun ls => ls.any (lineCovers r)) s = s := combineLines_of_noMatch fun _ _ => rfl
  simp only [recallLoad, hit, hc]
  rfl

/-! Uncorrectable errors -/

/-- Whether byte `i` of an access has an uncorrectable error. -/
def errorAt (s : State) (hs : List Hit) (i : Nat) : Bool := ((hs[i]?).map (fun h => poisoned s h.loc)).getD false

section Errors

variable {s : State} {n : Nat} {as : List (Nat × Word)}

theorem errorAt_spanOf (a : Word) {i : Nat} (hi : i < n) : errorAt s (spanOf s n a) i = poisoned s (hitOf s (a + wd i)).loc := by
  simp [errorAt, spanOf, hi]
theorem replyError_cons (x : LaneAcc) (r : List LaneAcc) : replyError s (x :: r) = (((List.range x.hits.length).find? (errorAt s x.hits)).map
    fun i => ⟨cMemory, x.addr + wd i, wd x.lane, false, false⟩).or (replyError s r) := by
  have he : errorAt s x.hits = fun i => ((x.hits[i]?).map fun h => poisoned s h.loc).getD false := rfl
  rw [replyError, List.findSome?_cons, ← he]
  cases (List.range x.hits.length).find? (errorAt s x.hits) <;> rfl
theorem replyError_cons_none {p : Nat × Word} (h : ∀ i < n, poisoned s (hitOf s (p.2 + wd i)).loc = false) :
    replyError s ((p :: as).map (accOf s n)) = replyError s (as.map (accOf s n)) := by
  have hf : (List.range (spanOf s n p.2).length).find? (errorAt s (spanOf s n p.2)) = none := by
    rw [length_spanOf, List.find?_range_eq_none]
    exact fun i hi => by simp [errorAt_spanOf p.2 hi, h i hi]
  rw [List.map_cons, replyError_cons, accOf, hf]
  rfl
theorem replyError_none : ∀ {as : List (Nat × Word)}, (∀ p ∈ as, ∀ i < n, poisoned s (hitOf s (p.2 + wd i)).loc = false) →
    replyError s (as.map (accOf s n)) = none
  | [], _ => rfl
  | p :: as, h => by
    rw [replyError_cons_none (h p List.mem_cons_self), replyError_none fun q hq => h q (List.mem_cons_of_mem _ hq)]
/-- The memory-error of a reply names the lowest lane that has one, and the first of its bytes (18 R474). -/
theorem replyError_of_firstError {l : Nat} {x : Word} (h : FirstError s n as l x) :
    replyError s (as.map (accOf s n)) = some ⟨cMemory, x, wd l, false, false⟩ := by
  obtain ⟨pre, a, post, i, rfl, hpre, hi, hlow, rfl, hx⟩ := h
  have herr {y : Word} {b : Bool} (hy : ∃ h, gangByte s s.g y = .ok h ∧ poisoned s h.loc = b) : poisoned s (hitOf s y).loc = b := by
    obtain ⟨h, hb, hp⟩ := hy
    rw [hitOf_eq hb, hp]
  induction pre with
  | nil =>
    have hf : (List.range (spanOf s n a).length).find? (errorAt s (spanOf s n a)) = some i := by
      rw [length_spanOf, List.find?_range_eq_some, errorAt_spanOf a hi]
      exact ⟨herr hx, List.mem_range.2 hi, fun j hj => by rw [errorAt_spanOf a (hj.trans hi), wd, herr (hlow j hj)]; rfl⟩
    rw [List.nil_append, List.map_cons, replyError_cons, accOf, hf]
    rfl
  | cons p pre ih =>
    rw [List.cons_append, replyError_cons_none fun j hj => herr (hpre p List.mem_cons_self j hj)]
    exact ih fun q hq => hpre q (List.mem_cons_of_mem _ hq)

end Errors

/-! A load from its checked accesses -/

/-- A load from the bytes of its lanes, with the writes that it makes of what it sees (12 R360). -/
def loadFrom (n : Nat) (as : List (Nat × Word)) (W : State → List RegWrite) (s : State) : State :=
  let t := recallAccs (as.map (accOf s n)) s
  loadDone (as.map (accOf s n)) (W t) t

/-- A load pends with its writes, or with none and the memory-error of its lowest lane (03 R103, 18 R474). -/
theorem loadDone_eq (accs : List LaneAcc) (ws : List RegWrite) (s : State) : loadDone accs ws s =
    next (addPend (if replyError s accs = none then ws else []) 0 (replyError s accs).toList s (farAccess s.g accs) (leavesCore s.g accs)) := by
  unfold loadDone
  cases replyError s accs <;> rfl

section From

variable {s : State} {n : Nat} {as : List (Nat × Word)} {W : State → List RegWrite} {i : Instr}

theorem completes_loadFrom (he : exec i s = .next (loadFrom n as W s)) : Completes i s := by
  rw [loadFrom, loadDone_eq] at he
  exact completes_of_addPend (recallLoad_issuing _ _) he

theorem loadFrom_of_noLine (h : ∀ p ∈ as, ∀ i < n, ∀ r ∈ s.lines, lineCovers r (hitOf s (p.2 + wd i)).loc = false) : ∃ ls far aw,
    loadFrom n as W s = next (addPend (if replyError s (as.map (accOf s n)) = none then W { s with g := markSeen ls s.g } else []) 0
      (replyError s (as.map (accOf s n))).toList { s with g := markSeen ls s.g } far aw) := by
  have hl : recallAccs (as.map (accOf s n)) s = { s with g := markSeen _ s.g } := recallLoad_of_noLine fun l hl => by
    simp only [List.map_map, List.mem_flatten, List.mem_map, Function.comp_apply, accOf, spanOf] at hl
    obtain ⟨ls, ⟨p, hp, rfl⟩, hl⟩ := hl
    simp only [List.mem_map, List.mem_range] at hl
    obtain ⟨j, hj, rfl⟩ := hl
    exact h p hp j hj
  simp only [loadFrom, hl, loadDone_eq]
  exact ⟨_, _, _, rfl⟩

/-- A load of clean bytes pends with its writes (04 R130). -/
theorem loads_loadFrom (hm : Mapped s n as) (hc : Clean s n as)
    (he : exec i s = .next (loadFrom n as W s)) {ws : List RegWrite} (hw : ∀ ls, W { s with g := markSeen ls s.g } = ws) : Loads i s ws := by
  obtain ⟨ls, far, aw, hl⟩ := loadFrom_of_noLine (W := W) fun p hp i hi => (clean_hitOf hm hc hp hi).2
  rw [replyError_none fun p hp i hi => (clean_hitOf hm hc hp hi).1, if_pos rfl, hw] at hl
  exact ⟨ls, far, aw, he.trans (congrArg _ hl)⟩

/-- A load of a byte with an uncorrectable error pends without a write and with the memory-error (18 R474). -/
theorem fails_loadFrom (hn : s.lines = []) {l : Nat} {x : Word} (h : FirstError s n as l x) (he : exec i s = .next (loadFrom n as W s)) :
    ∃ ls far aw, exec i s =
      .next (next (addPend [] 0 [⟨0x17, x, BitVec.ofNat 64 l, false, false⟩] { s with g := markSeen ls s.g } far aw)) := by
  obtain ⟨ls, far, aw, hl⟩ := loadFrom_of_noLine (s := s) (n := n) (as := as) (W := W) (by simp [hn])
  rw [replyError_of_firstError h, if_neg (Option.some_ne_none _)] at hl
  exact ⟨ls, far, aw, he.trans (congrArg _ hl)⟩

end From

end Sys2Proof.Proofs
end

section
/-! The loads of every form: what they read, where they complete, and the memory-errors that they report (12 R357 to R370, 01 R25, 03 R103, 04
R130, 18 R474). -/

namespace Sys2Proof.Proofs

open Sys2Proof.Machine Sys2Proof.Claims Sys2Proof.Laws

/-! Each form as a load from its lanes' bytes -/

theorem sizeBytes_pos (z : Size) : 0 < sizeBytes z := by cases z <;> decide

section Forms

variable {s : State} {d a b : Reg} {f : AddrForm} {z : Size} {o : BitVec 9} {col sk : Bool} {k : BitVec 4} {n : Nat} {as : List (Nat × Word)}

/-- The identification page maps no byte (01 R25). -/
theorem not_idAddr_of_maps {need : BitVec 4} (hm : Maps s need n as) (hn : 0 < n) {p : Nat × Word} (hp : p ∈ as) : idAddr p.2 = false := by
  rw [idAddr, decide_eq_false (space_of_maps hm hn hp)]
  rfl
theorem idLoad_of_maps {need : BitVec 4} (hm : Maps s need n as) (hn : 0 < n) :
    (z = .d && !as.isEmpty && as.all (fun p => idAddr p.2) : Bool) = false := by
  cases as with
  | nil => simp only [List.isEmpty_nil, Bool.not_true, Bool.and_false, Bool.false_and]
  | cons p as => exact idLoad_of_word fun _ => ⟨p, List.mem_cons_self, not_idAddr_of_maps hm hn List.mem_cons_self⟩

/-- What the gang sees in a state `t` at the bytes of each lane of a list. -/
def viewVals (s t : State) (n : Nat) (as : List (Nat × Word)) : List (Nat × Nat) := as.map fun p => (p.1, viewNat t t.g (spanOf s n p.2))
/-- The words of register `i` of a block (12 R370). -/
def blockReg (g : Gang) (a b : Reg) (n i : Nat) : List (Nat × Word) := ((blockWords g a b n).filter fun w => w.2.1 = i).map fun w => (w.1, w.2.2)

theorem loadWrites_one (g : Gang) (d : Reg) (vs : List (Nat × Nat)) :
    loadWrites g d 1 vs = [.v (vnum g d) (execMask g) (mkLanes fun l => w32 (valueAt vs l))] := by
  simp only [loadWrites, List.range_one, List.map_cons, List.map_nil, Nat.mul_zero, Nat.pow_zero, Nat.div_one]
theorem exec_ld_loads (hh : Holds s.g ([(d, sizeRegs z)] ++ addrRegs f))
    (hm : Maps s permR (sizeBytes z) (laneAddrs s.g (laneAddr s.g a f (sizeBytes z)))) :
    exec (.ld d a f z) s = .next (loadFrom (sizeBytes z) (laneAddrs s.g (laneAddr s.g a f (sizeBytes z)))
      (fun t => loadWrites s.g d (sizeRegs z) (viewVals s t (sizeBytes z) (laneAddrs s.g (laneAddr s.g a f (sizeBytes z))))) s) := by
  change execLd d a f z s = _
  simp only [execLd, blockTrap_none s.g _ hh, orTrap_none, idLoad_of_maps hm (sizeBytes_pos z), Bool.false_eq_true, if_false,
    checkLanes_of_maps hm, loadFrom, viewVals, List.map_map, Function.comp_def, accOf]
theorem exec_lds_loads (hm : Maps s permR (sizeBytes z) [(0, offAddr s.g a o (sizeBytes z))]) :
    exec (.lds d a o z) s = .next (loadFrom (sizeBytes z) [(0, offAddr s.g a o (sizeBytes z))]
      (fun t => [.s d.toNat (wd (viewNat t t.g (spanOf s (sizeBytes z) (offAddr s.g a o (sizeBytes z)))))]) s) := by
  have hid := idScalar_of_word (z := z) fun _ => not_idAddr_of_maps hm (sizeBytes_pos z) List.mem_cons_self
  change execLds d a o z s = _
  simp only [execLds, hid, Bool.false_eq_true, if_false, checkLanes_of_maps hm, loadFrom]
  rfl
theorem exec_ldsp_loads (hh : Holds s.g [(d, 1)]) (hb : tileTrap s (sreg s.g a) = none) (hm : Maps s permR 4 (tileAddrs s.g a b col sk)) :
    exec (.ldsp d a b col sk) s = .next (loadFrom 4 (tileAddrs s.g a b col sk)
      (fun t => loadWrites s.g d 1 (viewVals s t 4 (tileAddrs s.g a b col sk))) s) := by
  change execLdsp d a b col sk s = _
  simp only [execLdsp, blockTrap_none s.g _ hh, hb, orTrap_none, checkLanes_of_maps hm, loadFrom, viewVals, List.map_map, Function.comp_def, accOf]
theorem exec_ldb_loads (hh : Holds s.g [(d, k.toNat + 1)]) (hm : MapsBlock s permR a b (k.toNat + 1)) :
    exec (.ldb d a b k) s = .next (loadFrom 4 ((blockWords s.g a b (k.toNat + 1)).map fun w => (w.1, w.2.2))
      (fun t => (List.range (k.toNat + 1)).map fun i => .v (vnum s.g d i) (execMask s.g)
        (mkLanes fun l => w32 (valueAt (viewVals s t 4 (blockReg s.g a b (k.toNat + 1) i)) l))) s) := by
  change execLdb d a b k s = _
  simp only [execLdb, blockTrap_none s.g _ hh, orTrap_none, blockAccs_of_mapsBlock hm, loadFrom, viewVals, blockReg, List.map_map,
    List.filter_map, Function.comp_def, accOf]

/-! The identification page (01 R25, 17 R465) -/

theorem exec_ld_idPage (hh : Holds s.g ([(d, 2)] ++ addrRegs f)) (hne : laneAddrs s.g (laneAddr s.g a f 8) ≠ [])
    (hid : ∀ p ∈ laneAddrs s.g (laneAddr s.g a f 8), idAddr p.2 = true) : ∃ ws, exec (.ld d a f .d) s = .next (next (addPend ws 0 [] s)) := by
  change ∃ ws, execLd d a f .d s = _
  have hall : (!(laneAddrs s.g (laneAddr s.g a f 8)).isEmpty && (laneAddrs s.g (laneAddr s.g a f 8)).all fun p => idAddr p.2) = true := by
    simpa [hne] using hid
  simp only [execLd, sizeRegs, sizeBytes, blockTrap_none s.g _ hh, orTrap_none, decide_true, Bool.true_and, hall, if_true]
  exact ⟨_, rfl⟩
theorem exec_scalar_idPage (hid : idAddr (offAddr s.g a o 8) = true) : ∀ i ∈ [Instr.lds d a o .d, .ldc d a o .d],
    exec i s = .next (next (addPend [.s d.toNat (idWord s s.g ((offAddr s.g a o 8).toNat % 2 ^ 60))] 0 [] s)) := by
  have hl : execLds d a o .d s = .next (next (addPend [.s d.toNat (idWord s s.g ((offAddr s.g a o 8).toNat % 2 ^ 60))] 0 [] s)) := by
    simp only [execLds, sizeBytes, hid, decide_true, Bool.true_and, if_true]
  have hc : execLdc d a o .d s = .next (next (addPend [.s d.toNat (idWord s s.g ((offAddr s.g a o 8).toNat % 2 ^ 60))] 0 [] s)) := by
    simp only [execLdc, sizeBytes, hid, decide_true, Bool.true_and, if_true]
  exact List.forall_mem_cons.2 ⟨hl, List.forall_mem_cons.2 ⟨hc, fun _ h => absurd h List.not_mem_nil⟩⟩

/-! What a lane sees (04 R130) -/

theorem seen_valueAt {l : Nat} {x : Word} (hm : (l, x) ∈ as) (hu : ∀ y, (l, y) ∈ as → y = x) : Seen s n x (valueAt (viewVals s s n as) l) := by
  have hv : valueAt (viewVals s s n as) l = viewNat s s.g (spanOf s n x) := by
    refine valueAt_of_mem (List.mem_map_of_mem (f := fun p : Nat × Word => (p.1, viewNat s s.g (spanOf s n p.2))) hm) fun w hw => ?_
    obtain ⟨p, hp, he⟩ := List.mem_map.1 hw
    obtain ⟨rfl, rfl⟩ := Prod.mk.inj he
    rw [hu p.2 hp]
  rw [hv]
  exact seen_viewNat s n x
theorem mem_laneAddrs {F : Nat → Word} {l : Nat} {x : Word} : (l, x) ∈ laneAddrs s.g F ↔ Active s l ∧ x = F l := by
  rw [laneAddrs, List.mem_map, ← mem_activeLanes]
  constructor
  · rintro ⟨m, hm, he⟩
    obtain ⟨rfl, rfl⟩ := Prod.mk.inj he
    exact ⟨hm, rfl⟩
  · rintro ⟨hl, rfl⟩
    exact ⟨l, hl, rfl⟩
theorem seen_laneAddrs {F : Nat → Word} {l : Nat} (hl : Active s l) : Seen s n (F l) (valueAt (viewVals s s n (laneAddrs s.g F)) l) :=
  seen_valueAt (mem_laneAddrs.2 ⟨hl, rfl⟩) fun _ hy => (mem_laneAddrs.1 hy).2
theorem mem_blockReg {i l : Nat} {x : Word} : (l, x) ∈ blockReg s.g a b n i ↔ Active s l ∧ i < n ∧ x = blockAddr s.g a b i l := by
  simp only [blockReg, blockWords, List.mem_map, List.mem_filter, List.mem_flatMap, List.mem_range, decide_eq_true_eq, mem_activeLanes]
  constructor
  · rintro ⟨w, ⟨⟨m, hm, j, hj, rfl⟩, rfl⟩, he⟩
    obtain ⟨rfl, rfl⟩ := Prod.mk.inj he
    exact ⟨hm, hj, rfl⟩
  · rintro ⟨hl, hi, rfl⟩
    exact ⟨(l, i, blockAddr s.g a b i l), ⟨⟨l, hl, i, hi, rfl⟩, rfl⟩, rfl⟩

end Forms

/-! The claims -/

theorem loadsReadTheView : Claims.LoadsReadWhatTheGangSees := by
  intro s d a b f z o col sk n
  refine ⟨fun hh ⟨hm, hc⟩ => ?_, fun ⟨hm, hc⟩ => ?_, fun hh hb ⟨hm, hc⟩ => ?_, fun hh hm hc => ?_⟩
  · exact ⟨_, loads_loadFrom (mapped_of_maps hm) hc (exec_ld_loads hh hm) fun _ => rfl, fun l hl => seen_laneAddrs hl⟩
  · exact ⟨_, loads_loadFrom (mapped_of_maps hm) hc (exec_lds_loads hm) fun _ => rfl, seen_viewNat s _ _⟩
  · refine ⟨valueAt (viewVals s s 4 (tileAddrs s.g a b col sk)),
      loads_loadFrom (mapped_of_maps hm) hc (exec_ldsp_loads hh hb hm) fun _ => ?_, fun p hp => ?_⟩
    · exact (loadWrites_one s.g d _).trans rfl
    · obtain ⟨hl, he⟩ := mem_laneAddrs.1 (show (p.1, p.2) ∈ tileAddrs s.g a b col sk from hp)
      exact he ▸ seen_laneAddrs hl
  · exact ⟨_, loads_loadFrom (mapped_of_mapsBlock hm) hc (exec_ldb_loads hh hm) fun _ => rfl, fun i hi l hl =>
      seen_valueAt (mem_blockReg.2 ⟨hl, by omega, rfl⟩) fun _ hy => (mem_blockReg.1 hy).2.2⟩

theorem badLoadsReport_lowestLane : Claims.BadLoadsReport := by
  intro s d a b f z o col sk n l x hn
  exact ⟨fun hh hm h => fails_loadFrom hn h (exec_ld_loads hh hm), fun hm h => fails_loadFrom hn h (exec_lds_loads hm),
    fun hh hb hm h => fails_loadFrom hn h (exec_ldsp_loads hh hb hm), fun hh hm h => fails_loadFrom hn h (exec_ldb_loads hh hm)⟩

/-- Settles O31: the checks answer the first byte that fails in the order of the lanes (`checkLanes_of_fails`, `atomLanes_of_fails`), and every form
raises what they answer before it does anything else; a reply's error is found in the same order (`replyError_of_firstError`). -/
theorem badAccessesTrap : Obligations.BadAccessesTrap := ⟨badAccessesTrap_lowestLane, badAtomicsTrap_lowestLane, badLoadsReport_lowestLane⟩

end Sys2Proof.Proofs
end

section
/-! The constant path and the identification page, and where every load completes its issue (01 R25, 04 R128, R149, 12 R364). -/

namespace Sys2Proof.Proofs

open Sys2Proof.Machine Sys2Proof.Claims Sys2Proof.Laws

/-! What a path reads (04 R128, R149) -/

theorem le_foldl_max (f : Nat → Nat) : ∀ (ls : List Nat) (m : Nat), m ≤ ls.foldl (fun m l => max m (f l)) m ∧
    ∀ l ∈ ls, f l ≤ ls.foldl (fun m l => max m (f l)) m
  | [], m => ⟨le_refl m, fun _ h => absurd h List.not_mem_nil⟩
  | l :: ls, m => by
    obtain ⟨h0, hr⟩ := le_foldl_max f ls (max m (f l))
    exact ⟨(le_max_left _ _).trans h0, List.forall_mem_cons.2 ⟨(le_max_right _ _).trans h0, hr⟩⟩
theorem mem_insertNat {m n : Nat} : ∀ {l : List Nat}, m ∈ insertNat n l → m = n ∨ m ∈ l
  | [], h => .inl (List.mem_singleton.1 h)
  | k :: r, h => by
    unfold insertNat at h
    split at h
    · exact List.mem_cons.1 h
    · obtain rfl | h := List.mem_cons.1 h
      · exact .inr List.mem_cons_self
      · exact (mem_insertNat h).imp_right (List.mem_cons_of_mem _)
theorem mem_sortNat {m : Nat} : ∀ {l : List Nat}, m ∈ sortNat l → m ∈ l
  | _ :: _, h => List.mem_cons.2 ((mem_insertNat h).imp_right mem_sortNat)

section Paths

variable (s : State) (cl : Coords) (p : Nat) (fl : Cells Nat)

theorem mem_elemLocs (l : Nat) : l ∈ elemLocs l := List.mem_map.2 ⟨l % 4, List.mem_range.2 (Nat.mod_lt _ (by decide)), by omega⟩
/-- The bytes of an element are taken at one moment (04 R128). -/
theorem pathCut_elem (d l : Nat) : pathCut s cl p fl d (4 * (l / 4)) = pathCut s cl p fl d l := by
  have h4 : 4 * (l / 4) / 4 = l / 4 := by omega
  have he : elemLocs (4 * (l / 4)) = elemLocs l := by rw [elemLocs, h4, elemLocs]
  have hf : fetchedPos s cl p (4 * (l / 4)) = fetchedPos s cl p l := by rw [fetchedPos, h4, fetchedPos]
  simp only [pathCut, he, hf]
/-- A path reads no write before the one last fetched for the element or fixed by a `pfence` (04 R149, R150). -/
theorem pathCut_ge (d l : Nat) : min (topOf s l) (max (fetchedPos s cl p l) (cget 0 fl (l * 4 + p))) ≤ pathCut s cl p fl d l := by
  obtain ⟨hf, hl⟩ := le_foldl_max (fun l => cget 0 fl (l * 4 + p)) (elemLocs l) (fetchedPos s cl p l)
  have hlo := max_le hf (hl l (mem_elemLocs l))
  have htop := (le_foldl_max (topOf s) (elemLocs l) 0).2 l (mem_elemLocs l)
  unfold pathCut
  dsimp only
  split
  · exact (min_le_left _ _).trans htop
  · refine (min_le_right _ _).trans (hlo.trans ?_)
    generalize hps : (sortNat _).reverse[d - 1]? = q
    cases q with
    | none => exact le_refl _
    | some x =>
      have hx := (List.mem_filter.1 (List.mem_eraseDups.1 (mem_sortNat (List.mem_reverse.1 (List.mem_of_getElem? hps))))).2
      simp only [Bool.and_eq_true, decide_eq_true_eq] at hx
      exact hx.1

theorem pick_eq : Machine.pick s = ((Machine.pick s).1, { s with picks := s.picks.drop 1 }) := by
  unfold Machine.pick
  cases hp : s.picks with
  | nil => exact congrArg (Prod.mk 0) (by rw [List.drop_nil, ← hp])
  | cons n r => rfl
theorem foldl_setFetched : ∀ (qs : List ((Nat × Key) × Nat)) (t : State), ∃ fs,
    qs.foldl (fun s q => setFetched cl p q.1.1 q.2 s) t = { t with fetched := fs }
  | [], t => ⟨t.fetched, rfl⟩
  | q :: qs, t => foldl_setFetched qs (setFetched cl p q.1.1 q.2 t)
/-- A path's read changes the path's record alone, and takes a pick. -/
theorem pathRead_state (hs : List (Nat × Key)) : ∃ fs, (pathRead cl p fl hs s).2 = { s with fetched := fs, picks := s.picks.drop 1 } := by
  unfold pathRead
  rw [pick_eq]
  obtain ⟨fs, h⟩ := foldl_setFetched cl p _ { s with picks := s.picks.drop 1 }
  exact ⟨fs, h⟩

/-- The moment at which a path's read of bytes takes element `e` of them: its digit of the next pick says how many writes back (04 R128). -/
def readMoment (hs : List (Nat × Key)) (e : Nat) : Nat :=
  let first := hs.foldl (fun m h => min m (h.1 / 4)) ((hs.head?.map (·.1 / 4)).getD 0)
  pathCut s cl p fl (((Machine.pick s).1 >>> (8 * (e - first))) % 256) (4 * e)
theorem readMoment_ge (hs : List (Nat × Key)) (l : Nat) :
    min (topOf s l) (max (fetchedPos s cl p l) (cget 0 fl (l * 4 + p))) ≤ readMoment s cl p fl hs (l / 4) := by
  rw [readMoment, pathCut_elem]
  exact pathCut_ge s cl p fl _ l
/-- A path reads the bytes of each element as they stood at one moment of their modification orders (04 R128, R149). -/
theorem pathRead_bytes (hs : List (Nat × Key)) : (pathRead cl p fl hs s).1 =
    hs.map fun h => decrypt h.1 h.2 (writeAt s h.1 (lastUpTo s h.1 (readMoment s cl p fl hs (h.1 / 4)))) := by
  unfold pathRead
  rw [pick_eq]
  simp only [readMoment, List.map_map, Function.comp_def, pathCut_elem]
  rfl

end Paths

/-! `ldc` -/

section Constant

variable {s : State} {d a : Reg} {o : BitVec 9} {z : Size}

/-- Where the bytes of an access lie, with the keys that they are read under. -/
def places (s : State) (n : Nat) (x : Word) : List (Nat × Key) := (spanOf s n x).map fun h => (h.loc, h.key)
/-- The bytes that a constant load reads, and the state that it leaves (12 R364). -/
def constRead (s : State) (n : Nat) (x : Word) : List Byte × State :=
  pathRead (unitOf 2 s.g.at_) 1 s.g.fenced (places s n x)
    (combineLines (fun r => (places s n x).any fun h => lineCovers r h.1) s)

theorem exec_ldc_loads (hm : Maps s permR (sizeBytes z) [(0, offAddr s.g a o (sizeBytes z))]) :
    exec (.ldc d a o z) s = .next (loadDone [accOf s (sizeBytes z) (0, offAddr s.g a o (sizeBytes z))]
      [.s d.toNat (wd (leNat (constRead s (sizeBytes z) (offAddr s.g a o (sizeBytes z))).1))]
      (constRead s (sizeBytes z) (offAddr s.g a o (sizeBytes z))).2) := by
  have hid := idScalar_of_word (z := z) fun _ => not_idAddr_of_maps hm (sizeBytes_pos z) List.mem_cons_self
  change execLdc d a o z s = _
  simp only [execLdc, hid, Bool.false_eq_true, if_false, checkLanes_of_maps hm, List.map_cons, List.map_nil, List.flatMap_cons, List.flatMap_nil,
    List.append_nil]
  rfl
theorem constRead_issuing (n : Nat) (x : Word) : issuing (constRead s n x).2 = issuing s := by
  obtain ⟨fs, h⟩ := pathRead_state (combineLines (fun r => (places s n x).any fun h => lineCovers r h.1) s)
    (unitOf 2 s.g.at_) 1 s.g.fenced (places s n x)
  rw [constRead, h]
  exact combineLines_issuing _ s
theorem constRead_of_noLine {n : Nat} {x : Word} (h : ∀ i < n, ∀ r ∈ s.lines, lineCovers r (hitOf s (x + wd i)).loc = false) :
    constRead s n x = pathRead (unitOf 2 s.g.at_) 1 s.g.fenced (places s n x) s := by
  rw [constRead, combineLines_of_noMatch fun r hr => ?_]
  simp only [places, spanOf, List.map_map, List.any_map, List.any_eq_false, List.mem_range, Function.comp_apply]
  exact fun i hi => by simp [h i hi r hr]

/-- `ldc` of clean bytes (04 R149, 12 R364). -/
theorem ldc_reads (hr : Readable s (sizeBytes z) [(0, offAddr s.g a o (sizeBytes z))]) : ∃ u v far aw,
    exec (.ldc d a o z) s = .next (next (addPend [.s d.toNat (BitVec.ofNat 64 v)] 0 [] u far aw)) ∧
    u = { s with fetched := u.fetched, picks := s.picks.drop 1 } ∧ v < 256 ^ sizeBytes z ∧
    ∃ q : Nat → Nat, ∀ i < sizeBytes z, ∀ h, gangByte s s.g (offAddr s.g a o (sizeBytes z) + BitVec.ofNat 64 i) = .ok h →
      min (topOf s h.loc) (max (fetchedPos s (unitOf 2 s.g.at_) 1 h.loc) (cget 0 s.g.fenced (h.loc * 4 + 1))) ≤ q (h.loc / 4) ∧
        v / 256 ^ i % 256 = (decrypt h.loc h.key (writeAt s h.loc (lastUpTo s h.loc (q (h.loc / 4))))).toNat := by
  obtain ⟨hm, hc⟩ := hr
  have he := exec_ldc_loads (d := d) hm
  generalize offAddr s.g a o (sizeBytes z) = x at *
  have hclean {i : Nat} (hi : i < sizeBytes z) := clean_hitOf (mapped_of_maps hm) hc List.mem_cons_self hi
  obtain ⟨fs, hst⟩ := pathRead_state s (unitOf 2 s.g.at_) 1 s.g.fenced (places s (sizeBytes z) x)
  have hbs := pathRead_bytes s (unitOf 2 s.g.at_) 1 s.g.fenced (places s (sizeBytes z) x)
  have hok : replyError { s with fetched := fs, picks := s.picks.drop 1 } [accOf s (sizeBytes z) (0, x)] = none :=
    replyError_none (s := s) (as := [(0, x)]) fun p hp i hi => by rw [List.mem_singleton.1 hp]; exact (hclean hi).1
  rw [constRead_of_noLine fun i hi => (hclean hi).2, hst, loadDone_eq, hok, if_pos rfl] at he
  refine ⟨{ s with fetched := fs, picks := s.picks.drop 1 }, _, _, _, he, rfl, ?_, readMoment s (unitOf 2 s.g.at_) 1 s.g.fenced (places s (sizeBytes z) x),
    fun i hi h hb => ⟨readMoment_ge s _ 1 _ _ h.loc, ?_⟩⟩
  · have hlen : (places s (sizeBytes z) x).length = sizeBytes z := by rw [places, List.length_map, length_spanOf]
    have hlt := leNat_lt (pathRead (unitOf 2 s.g.at_) 1 s.g.fenced (places s (sizeBytes z) x) s).1
    rwa [hbs, List.length_map, hlen, ← hbs] at hlt
  · rw [hbs, places, spanOf, List.map_map, List.map_map, leNat_map_range _ hi, Function.comp_apply, Function.comp_apply, wd, hitOf_eq hb]

end Constant

/-! The claims -/

theorem loads_of_addPend {i : Instr} {s : State} {ws : List RegWrite} (he : exec i s = .next (next (addPend ws 0 [] s))) : Loads i s ws :=
  ⟨[], [], false, he⟩

theorem constantAndIdentificationLoads : Claims.ConstantAndIdentificationLoads := by
  intro s d a o z
  refine ⟨ldc_reads, fun hid i hi => loads_of_addPend (exec_scalar_idPage hid i hi), fun hx => loads_of_addPend ?_⟩
  have h := exec_scalar_idPage (d := d) (a := a) (o := o) (s := s) (by rw [hx]; decide) (.lds d a o .d) List.mem_cons_self
  rw [hx] at h
  exact h

theorem loadsComplete : Claims.LoadsComplete := by
  intro s d a b f z o col sk n
  refine ⟨fun hh hm => completes_loadFrom (exec_ld_loads hh hm), fun hh hne hid => ?_, fun hm => ⟨completes_loadFrom (exec_lds_loads hm), ?_⟩,
    fun hid => ?_, fun hh hb hm => completes_loadFrom (exec_ldsp_loads hh hb hm), fun hh hm => completes_loadFrom (exec_ldb_loads hh hm)⟩
  · obtain ⟨ws, he⟩ := exec_ld_idPage hh hne hid
    exact completes_of_addPend rfl he
  · have he := exec_ldc_loads (d := d) hm
    rw [loadDone_eq] at he
    exact completes_of_addPend (constRead_issuing _ _) he
  · have hc (i : Instr) (hi : i ∈ [Instr.lds d a o .d, .ldc d a o .d]) : Completes i s := completes_of_addPend rfl (exec_scalar_idPage hid i hi)
    exact ⟨hc _ List.mem_cons_self, hc _ (List.mem_cons_of_mem _ List.mem_cons_self)⟩

/-- Settles O29: the checks give the places of all bytes (`checkLanes_of_maps`), so that each form is one load from them (`loadFrom`): it pends with
what the gang sees there, or, through the constant path, with each element as it stood at one moment (`pathRead_bytes`). -/
theorem loadsReadWhatTheGangSees : Obligations.LoadsReadWhatTheGangSees := ⟨loadsReadTheView, loadsComplete, constantAndIdentificationLoads⟩

end Sys2Proof.Proofs
end

section
/-! SUPPORT. The block split of a tile (02 R46, R49): where the children's sub-tiles begin and end. -/

namespace Sys2Proof.Proofs

open Sys2Proof.Machine Sys2Proof.Claims Sys2Proof.Laws

theorem lt_ceilDiv_iff {u e g : Nat} (hg : 0 < g) : u < ceilDiv e g ↔ u * g < e := by
  rw [ceilDiv, Nat.lt_iff_add_one_le, Nat.le_div_iff_mul_le hg, Nat.add_mul]
  omega

section Split

variable (ws : List Word) {c k : Nat}

theorem tGran_pos : 0 < tGran ws := Nat.two_pow_pos _
theorem tExt_le_tUnits : tExt ws (tDim ws) ≤ tUnits ws * tGran ws :=
  Nat.le_of_not_lt fun h => lt_irrefl _ ((lt_ceilDiv_iff (tGran_pos ws)).2 h)
theorem tStart_zero : tStart ws c 0 = 0 := by simp [tStart]
theorem tStart_last (hc : 0 < c) : tStart ws c c = tUnits ws := Nat.mul_div_cancel_left _ hc
theorem tStart_le_succ (c k : Nat) : tStart ws c k ≤ tStart ws c (k + 1) := Nat.div_le_div_right (Nat.mul_le_mul_right _ (Nat.le_succ k))
/-- A child of the split begins at the tile's end only where the tile is empty. -/
theorem tStart_lt (hk : k < c) (hu : 0 < tUnits ws) : tStart ws c k < tUnits ws :=
  Nat.div_lt_of_lt_mul (Nat.mul_lt_mul_of_pos_right hk hu)
theorem tStart_mul_le (hk : k < c) : tStart ws c k * tGran ws ≤ tExt ws (tDim ws) := by
  rcases Nat.eq_zero_or_pos (tUnits ws) with hu | hu
  · simp [tStart, hu]
  · exact Nat.le_of_lt ((lt_ceilDiv_iff (tGran_pos ws)).1 (tStart_lt ws hk hu))
theorem tStart_mul_lt (hk : k < c) (h : tStart ws c k < tStart ws c (k + 1)) : tStart ws c k * tGran ws < tExt ws (tDim ws) := by
  refine (lt_ceilDiv_iff (tGran_pos ws)).1 (lt_of_lt_of_le h ?_)
  exact (Nat.div_le_div_right (Nat.mul_le_mul_right _ hk)).trans (le_of_eq (Nat.mul_div_cancel_left _ (by omega)))
/-- The numbers of granules of two children differ by at most one. -/
theorem tStart_step (hc : 0 < c) (k : Nat) : tUnits ws / c ≤ tStart ws c (k + 1) - tStart ws c k ∧
    tStart ws c (k + 1) - tStart ws c k ≤ (tUnits ws + c - 1) / c := by
  simp only [tStart, Nat.add_mul, Nat.one_mul]
  generalize k * tUnits ws = x
  generalize tUnits ws = y
  refine ⟨Nat.le_sub_of_add_le' (Nat.div_add_div_le_add_div), Nat.sub_le_iff_le_add'.2 ?_⟩
  have hy : y ≤ (y + c - 1) / c * c := Nat.le_of_not_lt fun h => lt_irrefl _ ((lt_ceilDiv_iff hc).2 h)
  calc (x + y) / c ≤ (x + (y + c - 1) / c * c) / c := Nat.div_le_div_right (Nat.add_le_add_left hy x)
    _ = x / c + (y + c - 1) / c := Nat.add_mul_div_right _ _ hc

end Split

theorem splitsCoverTheTile : Claims.SplitsCoverTheTile := by
  intro ws c hc hm e at_
  have hg := tGran_pos ws
  refine ⟨by simp [at_, tStart_zero], ?_, fun k hk => ?_⟩
  · simp only [at_, tStart_last ws hc]
    exact min_eq_right (tExt_le_tUnits ws)
  have hle : tStart ws c k * tGran ws ≤ e := tStart_mul_le ws hk
  have hstep : tStart ws c k * tGran ws ≤ tStart ws c (k + 1) * tGran ws := Nat.mul_le_mul_right _ (tStart_le_succ ws c k)
  refine ⟨?_, ?_, tStart_step ws hc k⟩
  · simp only [at_, tPart, if_neg hm, min_eq_left hle]
    exact Nat.add_sub_cancel' (le_min hstep hle)
  · have hne : decide (tMode ws ≠ 1) = true := by simpa using hm
    simp only [tEmpty, hne, Bool.true_and, decide_eq_true_eq, at_, min_eq_left hle]
    refine ⟨fun h => by rw [h, min_eq_left hle], fun h => ?_⟩
    by_contra hne
    have hlt := lt_of_le_of_ne (tStart_le_succ ws c k) (Ne.symm hne)
    have := lt_min (Nat.mul_lt_mul_of_pos_right hlt hg) (tStart_mul_lt ws hk hlt)
    omega

/-! The sub-tile of a child (02 R49) -/

section ChildTile

variable (w : Word) (x : Nat)

theorem toNat_setHalf (d : Nat) : (setHalf w d x).toNat =
    if d % 2 = 0 then w.toNat / 2 ^ 32 * 2 ^ 32 + x % 2 ^ 32 else x % 2 ^ 32 * 2 ^ 32 + w.toNat % 2 ^ 32 := by
  have hw := w.isLt
  rw [setHalf]
  split <;> rw [wd, BitVec.toNat_ofNat, Nat.mod_eq_of_lt (by omega)]
theorem setHalf_same (d : Nat) : (setHalf w d x).toNat / 2 ^ (32 * (d % 2)) % 2 ^ 32 = x % 2 ^ 32 := by
  rw [toNat_setHalf]
  split
  · next h => rw [h]; omega
  · next h => rw [Nat.mod_two_ne_zero.1 h]; omega
theorem setHalf_other {d e : Nat} (h : e % 2 ≠ d % 2) : (setHalf w d x).toNat / 2 ^ (32 * (e % 2)) % 2 ^ 32 = w.toNat / 2 ^ (32 * (e % 2)) % 2 ^ 32 := by
  have hw := w.isLt
  rw [toNat_setHalf]
  split
  · next hd => rw [show e % 2 = 1 by omega]; omega
  · next hd => rw [show e % 2 = 0 by omega]; omega

end ChildTile

theorem rw_set_same {ws : List Word} {i : Nat} (h : i < ws.length) (x : Word) : rw (ws.set i x) i = x := by simp [rw, h]
theorem rw_set_other (ws : List Word) {i j : Nat} (h : i ≠ j) (x : Word) : rw (ws.set i x) j = rw ws j := by simp [rw, h]

theorem tDim_lt (ws : List Word) : tDim ws < 4 := Nat.mod_lt _ (by decide)

section Record

variable {ws : List Word} (hl : ws.length = 8) {w : Word} {d e : Nat} (hd : d < 4) (x : Nat)
include hl hd

/-- With the origin, or the extent, of one dimension set, that dimension reads back, and every other one is as it was. -/
theorem tOrg_set (hw : rw ws (1 + d / 2) = w) :
    tOrg (ws.set (1 + d / 2) (setHalf w d x)) e = if e = d then x % 2 ^ 32 else tOrg ws e := by
  unfold tOrg
  by_cases hi : e / 2 = d / 2
  · rw [hi, rw_set_same (by omega), hw]
    by_cases he : e = d
    · rw [if_pos he, he, setHalf_same]
    · rw [if_neg he, setHalf_other _ _ (by omega)]
  · rw [rw_set_other _ (by omega), if_neg (by rintro rfl; exact hi rfl)]
theorem tExt_set (hw : rw ws (3 + d / 2) = w) :
    tExt (ws.set (3 + d / 2) (setHalf w d x)) e = if e = d then x % 2 ^ 32 else tExt ws e := by
  unfold tExt
  by_cases hi : e / 2 = d / 2
  · rw [hi, rw_set_same (by omega), hw]
    by_cases he : e = d
    · rw [if_pos he, he, setHalf_same]
    · rw [if_neg he, setHalf_other _ _ (by omega)]
  · rw [rw_set_other _ (by omega), if_neg (by rintro rfl; exact hi rfl)]

end Record

theorem tOrg_set_other {ws : List Word} {i e : Nat} (h : i ≠ 1 + e / 2) (w : Word) : tOrg (ws.set i w) e = tOrg ws e := by
  rw [tOrg, tOrg, rw_set_other ws h]
theorem tExt_set_other {ws : List Word} {i e : Nat} (h : i ≠ 3 + e / 2) (w : Word) : tExt (ws.set i w) e = tExt ws e := by
  rw [tExt, tExt, rw_set_other ws h]

section Sub

variable {ws : List Word} {c k : Nat}

@[simp] theorem length_childTile (ws : List Word) (c k : Nat) : (childTile ws c k).length = ws.length := by
  unfold childTile
  split <;> simp
/-- The tile of a child in replicate mode has the parent's dimensions. -/
theorem childTile_replicate (hm : tMode ws = 1) (e : Nat) : tOrg (childTile ws c k) e = tOrg ws e ∧ tExt (childTile ws c k) e = tExt ws e := by
  rw [childTile, if_pos hm]
  exact ⟨tOrg_set_other (by omega) _, tExt_set_other (by omega) _⟩
/-- The tile of a child in block mode: the split dimension takes its part, every other one is the parent's. -/
theorem childTile_block (hl : ws.length = 8) (hm : tMode ws ≠ 1) {e : Nat} (he : e < 4) :
    tOrg (childTile ws c k) e = (if e = tDim ws then (tOrg ws (tDim ws) + tStart ws c k * tGran ws) % 2 ^ 32 else tOrg ws e) ∧
    tExt (childTile ws c k) e = (if e = tDim ws then tPart ws c k % 2 ^ 32 else tExt ws e) := by
  have hd := tDim_lt ws
  rw [childTile, if_neg hm]
  constructor
  · rw [tOrg_set_other (by omega), tOrg_set (by simpa using hl) hd _ (rw_set_other ws (by omega) _), tOrg_set_other (by omega)]
  · rw [tExt_set (by simpa using hl) hd, tExt_set_other (by omega), tExt_set_other (by omega)]
    rw [rw_set_other _ (by omega), rw_set_other _ (by omega)]

end Sub

/-- Settles O47: the start of a child that the split has lies in the tile, so that its origin and its part fit their fields. -/
theorem subTilesFollowTheSplit : Obligations.SubTilesFollowTheSplit := by
  intro ws c k hk hl hfit t d G E a
  refine ⟨fun hm => ?_, fun hm e _ => childTile_replicate hm e⟩
  have hd : d < 4 := tDim_lt ws
  have hstart : a k * G ≤ E := tStart_mul_le ws hk
  have hE : E < 2 ^ 32 := Nat.mod_lt _ (Nat.two_pow_pos _)
  have hpart : tPart ws c k = min (a (k + 1) * G) E - a k * G := if_neg hm
  obtain ⟨ho, he⟩ := childTile_block (c := c) (k := k) hl hm hd
  rw [if_pos rfl] at ho he
  refine ⟨ho.trans (Nat.mod_eq_of_lt ?_), he.trans ?_, fun e h4 hne => ?_⟩
  · rcases Nat.eq_zero_or_pos (tUnits ws) with hu | hu
    · rw [tStart, hu, Nat.mul_zero, Nat.zero_div, Nat.zero_mul, Nat.add_zero]
      exact Nat.mod_lt _ (Nat.two_pow_pos _)
    · exact lt_of_lt_of_le (Nat.add_lt_add_left ((lt_ceilDiv_iff (tGran_pos ws)).1 (tStart_lt ws hk hu)) _) hfit
  · rw [hpart]
    exact Nat.mod_eq_of_lt (by omega)
  · obtain ⟨ho, he⟩ := childTile_block (c := c) (k := k) hl hm h4
    exact ⟨ho.trans (if_neg hne), he.trans (if_neg hne)⟩

end Sys2Proof.Proofs
end

section
/-! SUPPORT. What requests that are served at their homes change, in full: memory with its orders, the requests themselves, and of each gang its
pending results, waiting traps, view and own writes. Everything else of the machine is as before (04 R127, R133, R141). -/

namespace Sys2Proof.Proofs

open Sys2Proof.Machine Sys2Proof.Claims Sys2Proof.Laws

/-! The parts that stay -/

/-- A gang without what a request that is served changes of it. -/
def gangKept (g : Gang) : Gang := { g with pend := [], deferred := [], view := [], own := [] }
/-- The machine without what an atomic request or a line that is served changes of it. -/
def atomKept (s : State) : State :=
  { s with
    g := gangKept s.g, others := s.others.map gangKept, images := s.images.map (fun i => { i with gangs := i.gangs.map gangKept })
    mem := [], keys := [], lineKeys := [], tags := [], origin := [], top := [], wseq := 0, hist := [], pubs := [], atoms := [], merges := []
    areplies := [], lines := [], picks := [] }
/-- The machine without what a store that is served changes of it either. -/
def serveKept (s : State) : State := { atomKept s with stores := [], faults := [] }

theorem serveKept_of_atomKept {s t : State} (h : atomKept t = atomKept s) : serveKept t = serveKept s :=
  congrArg (fun k : State => { k with stores := [], faults := [] }) h

theorem upd_map_keeps {α β : Type} {F : α → β} {p : α → Bool} {f : α → α} (hf : ∀ x, F (f x) = F x) (l : List α) :
    (upd p f l).map F = l.map F := by
  rw [upd, List.map_map]
  refine List.map_congr_left fun x _ => ?_
  simp only [Function.comp]
  split
  · exact hf x
  · rfl

section Gangs

variable (u : Nat) {f : Gang → Gang} (hf : ∀ g, gangKept (f g) = gangKept g) (s : State)

include hf
theorem onGang_kept : atomKept (onGang u f s) = atomKept s := by
  have hg : gangKept (if s.g.uid = u && s.g.phase ≠ .free then f s.g else s.g) = gangKept s.g := by
    split
    · exact hf _
    · rfl
  simp only [onGang, atomKept, hg, upd_map_keeps hf]
theorem onGangAny_kept : atomKept (onGangAny u f s) = atomKept s := by
  have hi (i : SaveImage) : ({ i with gangs := (upd (fun g => g.uid = u) f i.gangs).map gangKept } : SaveImage) =
      { i with gangs := i.gangs.map gangKept } := by rw [upd_map_keeps hf]
  calc atomKept (onGangAny u f s) = { atomKept (onGang u f s) with images := (atomKept (onGangAny u f s)).images } := rfl
    _ = { atomKept (onGang u f s) with images := (atomKept s).images } := by
      simp only [atomKept, onGangAny, List.map_map, Function.comp_def, hi]
    _ = atomKept s := by rw [onGang_kept u hf s]

end Gangs

theorem addTraps_kept (ds : List Deferred) (g : Gang) : gangKept (addTraps ds g) = gangKept g := by
  unfold addTraps
  split <;> rfl
theorem pick_kept (s : State) : atomKept (Machine.pick s).2 = atomKept s := by
  unfold Machine.pick
  split <;> rfl
theorem homeWrite_kept (bs : List (Nat × Byte)) (k : Key) (s : State) : atomKept (homeWrite bs k s) = atomKept s := by
  unfold homeWrite
  exact (foldl_keeps atomKept (by intros; rfl) bs _).trans rfl

/-! Atomic requests and update-only lines -/

theorem laneReply_kept (r : AtomReq) (ws : List RegWrite) (s : State) : atomKept (laneReply r ws s) = atomKept s :=
  onGangAny_kept r.uid (by intros; rfl) s
theorem answer_kept (r : AtomReq) (v : Word) (fl : Fl) (ws : List Word) (s : State) : atomKept (answer r v fl ws s) = atomKept s := by
  unfold answer
  split
  · exact laneReply_kept r _ s
  · rfl
theorem memberWrite_kept (r : AtomReq) (p q : Nat) (v : Word) (s : State) : atomKept (memberWrite r p q v s) = atomKept s := by
  unfold memberWrite
  refine foldl_keeps atomKept (fun t b => ?_) _ _
  exact (onGangAny_kept r.uid (by intros; rfl) _).trans rfl
theorem memberWrites_kept (op : HomeOp) (q : Nat) : ∀ (p : Nat) (vs : List (AtomReq × Word)) (s : State),
    atomKept (memberWrites op q p vs s) = atomKept s
  | _, [], _ => rfl
  | p, (_, _) :: vs, s => by rw [memberWrites, memberWrites_kept op q (p + 1) vs, memberWrite_kept]
theorem ownHome_kept (u l z : Nat) (v : Word) (k : Key) (s : State) : atomKept (ownHome u l z v k s) = atomKept s := by
  unfold ownHome
  exact (foldl_keeps atomKept (fun t (b : Nat × Byte) => onGangAny_kept u (f := ownWrite b.1 (s.wseq + 1)) (by intros; rfl) t) _ _).trans
    (homeWrite_kept _ _ s)
theorem lineHome_kept (r : RedLine) (s : State) : atomKept (lineHome r s) = atomKept s := by
  unfold lineHome
  split
  · rfl
  · refine (foldl_keeps atomKept (fun t u => ?_) _ _).trans ((homeWrite_kept _ _ _).trans rfl)
    exact onGangAny_kept u (by intros; rfl) t
theorem combineLines_kept (p : RedLine → Bool) (s : State) : atomKept (combineLines p s) = atomKept s :=
  foldl_keeps atomKept (fun s r => lineHome_kept r s) _ _
theorem execRequest_kept (r : AtomReq) (s : State) : atomKept (execRequest r s) = atomKept s := by
  have hr : atomKept (recallLines r.loc (if r.op = .chunk then 32 else r.size) { s with atoms := s.atoms.filter (fun x => x.id ≠ r.id) })
      = atomKept s := combineLines_kept _ _
  unfold execRequest
  simp only
  split
  · split
    · rw [answer_kept, hr]
    · rw [answer_kept, ownHome_kept]
      exact (foldl_keeps atomKept (fun t e => memberWrite_kept _ _ _ _ t) _ _).trans hr
  · split
    · rw [answer_kept, ownHome_kept]
      exact (memberWrites_kept _ _ _ _ _).trans hr
    · rw [answer_kept, hr]
theorem failRequest_kept (r : AtomReq) (s : State) : atomKept (failRequest r s) = atomKept s := by
  unfold failRequest
  refine (foldl_keeps atomKept (fun t u => onGangAny_kept u (fun g => addTraps_kept _ g) t) _ _).trans ?_
  exact (foldl_keeps atomKept (fun t x => laneReply_kept x [] t) _ _).trans rfl
theorem serveRequest_kept (r : AtomReq) (s : State) : atomKept (serveRequest r s) = atomKept s := by
  unfold serveRequest
  split
  · exact failRequest_kept r s
  · exact execRequest_kept r s
theorem atomTimeout_kept (r : AtomReq) (s : State) : atomKept (atomTimeout r s) = atomKept s := by
  unfold atomTimeout
  simp only
  split
  · refine (foldl_keeps atomKept (fun t x => ?_) _ _).trans ?_
    · split
      · exact onGang_kept _ (by intros; rfl) t
      · rfl
    · refine Eq.trans (b := atomKept (failRequest r (recallLines r.loc (if r.op = .chunk then 32 else r.size) (Machine.pick s).2))) rfl ?_
      rw [failRequest_kept, recallLines, combineLines_kept, pick_kept]
  · rw [failRequest_kept, pick_kept]

/-! Stores -/

theorem testStore_kept (r : StoreReq) (s : State) : serveKept (testStore r s).2 = serveKept s := by
  unfold testStore
  split
  · rfl
  · split
    · rfl
    · simp only
      split <;> rfl
theorem storeBytes_kept (r : StoreReq) (s : State) : atomKept (storeBytes r s) = atomKept s := by
  unfold storeBytes
  refine (foldl_keeps atomKept (fun t b => ?_) _ _).trans rfl
  exact (onGang_kept r.uid (by intros; rfl) _).trans rfl
theorem storeHome_kept (r : StoreReq) (s : State) : serveKept (storeHome r s) = serveKept s := by
  have h := serveKept_of_atomKept (storeBytes_kept r s)
  unfold storeHome
  split
  · split
    · exact h
    · exact h
  · exact h
theorem deliverStore_kept (r : StoreReq) (s : State) : serveKept (deliverStore r s) = serveKept s :=
  (storeHome_kept _ _).trans (testStore_kept r s)
theorem storeTimeout_kept (gone : ByteWrite → Bool) (r : StoreReq) (s : State) : serveKept (storeTimeout gone r s) = serveKept s := by
  unfold storeTimeout
  split
  · rfl
  · next b _ =>
    have hp : serveKept (Machine.pick s).2 = serveKept s := serveKept_of_atomKept (pick_kept s)
    have hf : serveKept (if r.faulted then (Machine.pick s).2 else storeFault r cMemory b.va (postedInfo b false) (Machine.pick s).2)
        = serveKept s := by
      rw [← hp]
      split <;> rfl
    have hh (c : Bool) (q : StoreReq) (t : State) : serveKept (if c then storeHome q t else t) = serveKept t := by
      split
      · exact storeHome_kept q t
      · rfl
    exact (hh _ _ _).trans hf
theorem serveId_kept (i : Nat) (s : State) : serveKept (serveId i s) = serveKept s := by
  unfold serveId
  split
  · simp only
    split
    · rw [deliverStore_kept, storeTimeout_kept]
    · rw [storeTimeout_kept]
  · split
    · split
      · exact serveKept_of_atomKept (serveRequest_kept _ s)
      · exact serveKept_of_atomKept (atomTimeout_kept _ s)
    · rfl
theorem drainOwn_kept (u : Nat) (s : State) : serveKept (drainOwn u s) = serveKept s :=
  foldl_keeps serveKept (fun s i => serveId_kept i s) _ _
theorem sendLine_kept (r : RedLine) (s : State) : serveKept (sendLine r s) = serveKept s :=
  (serveKept_of_atomKept (lineHome_kept r _)).trans
    (foldl_keeps serveKept (fun _ _ => foldl_keeps serveKept (fun s i => serveId_kept i s) _ _) _ _)
/-- A publish changes memory, requests and published views, and of the gangs what a request that is served changes (04 R133, R134). -/
theorem publishFor_kept (u m : Nat) (s : State) : serveKept (publishFor u m s) = serveKept s := by
  have hlines : serveKept (((drainOwn u s).lines.filter (fun r => r.uids.contains u)).foldl (fun s r => sendLine r s) (drainOwn u s))
      = serveKept s := (foldl_keeps serveKept (fun s r => sendLine_kept r s) _ _).trans (drainOwn_kept u s)
  unfold publishFor
  simp only
  split <;> exact hlines

/-! What follows for the gangs -/

section Kept

variable {s t : State} (h : serveKept t = serveKept s)
include h

theorem gangKept_of_kept : gangKept t.g = gangKept s.g := congrArg State.g h
/-- The gangs that a search by a kept property finds correspond. -/
theorem find?_of_kept {p : Gang → Bool} (hp : ∀ g, p (gangKept g) = p g) :
    ((t.g :: t.others).find? p).map gangKept = ((s.g :: s.others).find? p).map gangKept := by
  have hm : (t.g :: t.others).map gangKept = (s.g :: s.others).map gangKept :=
    congrArg₂ List.cons (congrArg State.g h) (congrArg State.others h)
  have hc : p ∘ gangKept = p := funext hp
  have hf (l : List Gang) : (l.map gangKept).find? p = (l.find? p).map gangKept := by rw [List.find?_map, hc]
  rw [← hf, hm, hf]
theorem gangOf_of_kept (u : Nat) : (gangOf t u).map gangKept = (gangOf s u).map gangKept := find?_of_kept h fun _ => rfl

theorem launches_of_kept : t.launches = s.launches := (congrArg State.launches h :)
theorem jobs_of_kept : t.jobs = s.jobs := (congrArg State.jobs h :)
theorem cycle_of_kept : t.cycle = s.cycle := (congrArg State.cycle h :)
theorem iss_of_kept : t.iss = s.iss := (congrArg State.iss h :)
theorem early_of_kept : t.early = s.early := (congrArg State.early h :)
theorem pcOf_of_kept : pcOf t = pcOf s := by
  have hpaths : t.g.paths = s.g.paths := (congrArg Gang.paths (gangKept_of_kept h) :)
  have hact : t.g.act = s.g.act := (congrArg Gang.act (gangKept_of_kept h) :)
  simp only [pcOf, path, hpaths, hact]

end Kept

section KeptGang

variable {g h : Gang} (hk : gangKept g = gangKept h)
include hk

theorem uid_of_kept : g.uid = h.uid := (congrArg Gang.uid hk :)
theorem at_of_kept : g.at_ = h.at_ := (congrArg Gang.at_ hk :)
theorem phase_of_kept : g.phase = h.phase := (congrArg Gang.phase hk :)
theorem job_of_kept : g.job = h.job := (congrArg Gang.job hk :)
theorem launch_of_kept : g.launch = h.launch := (congrArg Gang.launch hk :)
theorem child_of_kept : g.child = h.child := (congrArg Gang.child hk :)
theorem fail_of_kept : g.fail = h.fail := (congrArg Gang.fail hk :)
theorem barOpen_of_kept : g.barOpen = h.barOpen := (congrArg Gang.barOpen hk :)

end KeptGang

theorem publish_kept (m : Nat) (s : State) : serveKept (publish m s) = serveKept s := publishFor_kept s.g.uid m s

end Sys2Proof.Proofs
end

section
/-! SUPPORT. An instruction that waits at its start: the path stands there, and another ready one goes on where the gang can give way (03 R99). -/

namespace Sys2Proof.Proofs

open Sys2Proof.Machine Sys2Proof.Claims Sys2Proof.Laws

/-- A fold that keeps the best so far answers one of the list, and answers one unless the list is empty. -/
theorem foldl_best {α : Type} {op : Option α → α → Option α} (hop : ∀ b x, op b x = some x ∨ (b.isSome = true ∧ op b x = b)) :
    ∀ (xs : List α) (b : Option α), (∀ i, xs.foldl op b = some i → i ∈ xs ∨ b = some i) ∧
      ((xs.foldl op b).isSome = (b.isSome || !xs.isEmpty))
  | [], b => by simp
  | x :: xs, b => by
    obtain ⟨hmem, hsome⟩ := foldl_best hop xs (op b x)
    rw [List.foldl_cons]
    rcases hop b x with h | ⟨hb, h⟩
    · rw [h] at hmem hsome ⊢
      exact ⟨fun i hi => .inl ((hmem i hi).elim (List.mem_cons_of_mem x) (fun e => by simp_all)), by simp [hsome]⟩
    · rw [h] at hmem hsome ⊢
      exact ⟨fun i hi => (hmem i hi).imp_left (List.mem_cons_of_mem x), by simp [hsome, hb]⟩

/-- The paths that the active one can give way to. -/
def readyOthers (g : Gang) : List (Fin 16) := (List.finRange 16).filter (fun i => i ≠ g.act && (g.paths[i]).state = .ready)

theorem older_choice (g : Gang) (b : Option (Fin 16)) (i : Fin 16) :
    (match b with
      | none => some i
      | some j => if (g.paths[j]).age < (g.paths[i]).age then some i else some j) = some i ∨
    (b.isSome = true ∧ (match b with
      | none => some i
      | some j => if (g.paths[j]).age < (g.paths[i]).age then some i else some j) = b) := by
  cases b with
  | none => exact .inl rfl
  | some j =>
    simp only
    split
    · exact .inl rfl
    · exact .inr ⟨rfl, rfl⟩
theorem readyBest_ne {g : Gang} {i : Fin 16} (h : readyBest g = some i) : i ≠ g.act := by
  have := ((foldl_best (older_choice g) (readyOthers g) none).1 i h).resolve_right (by simp)
  simp only [readyOthers, List.mem_filter, Bool.and_eq_true, decide_eq_true_eq] at this
  exact this.2.1
theorem readyBest_isSome (g : Gang) : (readyBest g).isSome = !(readyOthers g).isEmpty := (foldl_best (older_choice g) (readyOthers g) none).2

@[simp] theorem paths_unAge (m : BitVec 16) (g : Gang) (i : Fin 16) :
    (unAge m g).paths[i] = if m.getLsbD i then { g.paths[i] with age := g.paths[i].age - 1 } else g.paths[i] := by
  simp [unAge]
theorem canGiveWay_unissue (s : State) : canGiveWay (unissue s).g = canGiveWay s.g := by
  have hst (i : Fin 16) : ((unissue s).g.paths[i]).state = (s.g.paths[i]).state := by
    show ((unAge s.iss.aged s.g).paths[i]).state = _
    rw [paths_unAge]
    split <;> rfl
  have hr : readyOthers (unissue s).g = readyOthers s.g := by
    unfold readyOthers
    simp only [hst]
    rfl
  rw [canGiveWay, canGiveWay, readyBest_isSome, readyBest_isSome, hr]
  rfl

/-- Giving way moves no path, and makes another one active where the gang can give way. -/
theorem giveWay_pc (g : Gang) (a : Fin 16) : ((giveWay g).paths[a]).pc = (g.paths[a]).pc := by
  have hset (ps : Vector PathEntry 16) (b : Fin 16) (e : PathEntry) (he : e.pc = (ps[b]).pc) : ((ps.set b e)[a]).pc = (ps[a]).pc := by
    by_cases hab : b = a
    · subst hab; simpa using he
    · simp [Fin.val_inj, hab]
  unfold giveWay
  split
  · next i _ _ =>
    let ps := g.paths.set g.act { path g with age := 0 }
    exact (hset ps i { ps[i] with age := 0 } rfl).trans (hset g.paths g.act { path g with age := 0 } rfl)
  · rfl
theorem giveWay_act (g : Gang) : (canGiveWay g = false → giveWay g = g) ∧ (canGiveWay g = true → (giveWay g).act ≠ g.act) := by
  unfold giveWay canGiveWay
  cases g.inh with
  | true => exact ⟨fun _ => rfl, fun h => by simp at h⟩
  | false =>
    cases hr : readyBest g with
    | none => exact ⟨fun _ => rfl, fun h => by simp at h⟩
    | some i => exact ⟨fun h => by simp at h, fun _ => readyBest_ne hr⟩
theorem giveWay_tried (g : Gang) : (giveWay g).tried = g.tried := by
  unfold giveWay
  split <;> rfl

theorem getLsbD_tried {m : BitVec 16} {i a : Fin 16} (h : i ≠ a) : (m ||| (1#16 <<< a.val)).getLsbD i = m.getLsbD i := by
  have hne : i.val ≠ a.val := fun e => h (Fin.ext e)
  rw [BitVec.getLsbD_or, BitVec.getLsbD_shiftLeft, BitVec.getLsbD_one]
  rcases lt_or_ge i.val a.val with hl | hl
  · simp [hl]
  · have : i.val - a.val ≠ 0 := by omega
    simp [this]

/-- The gang of an instruction that blocks, where it looks for another path. -/
def triedGang (s : State) : Gang := { (unissue s).g with tried := s.g.tried ||| (1#16 <<< s.g.act.val) }
theorem block_eq (s : State) : block s = { unissue s with
    g := { giveWay (triedGang s) with
      blocked := !canGiveWay (unissue s).g || (giveWay (triedGang s)).tried.getLsbD (giveWay (triedGang s)).act } } := rfl

/-- An instruction that blocks waits (03 R99). -/
theorem waits_block {s u : State} (h : gangKept u.g = gangKept s.g) : Waits s (block u) := by
  have hpaths : u.g.paths = s.g.paths := (congrArg Gang.paths h :)
  have hact : u.g.act = s.g.act := (congrArg Gang.act h :)
  have hinh : u.g.inh = s.g.inh := (congrArg Gang.inh h :)
  have htried : u.g.tried = s.g.tried := (congrArg Gang.tried h :)
  have hcan : canGiveWay (unissue u).g = canGiveWay s.g := by
    rw [canGiveWay_unissue, canGiveWay, canGiveWay, readyBest, readyBest, hpaths, hact, hinh]
  have hpc (a : Fin 16) : ((unAge u.iss.aged u.g).paths[a]).pc = (s.g.paths[a]).pc := by
    rw [paths_unAge, hpaths]
    split <;> rfl
  obtain ⟨hstay, hgo⟩ := giveWay_act (triedGang u)
  rw [show canGiveWay (triedGang u) = canGiveWay s.g from hcan] at hstay hgo
  rw [block_eq]
  refine ⟨(giveWay_pc (triedGang u) s.g.act).trans (hpc s.g.act), fun hc => ⟨?_, ?_⟩, fun hc => ⟨?_, ?_⟩⟩
  · simp only [hstay hc]
    exact hact
  · simp only [hcan, hc]
    rfl
  · rw [← hact]
    exact hgo hc
  · have htr : (triedGang u).tried = s.g.tried ||| (1#16 <<< s.g.act.val) := by rw [triedGang, htried, hact]
    have hne : (giveWay (triedGang u)).act ≠ s.g.act := fun e => hgo hc (e.trans hact.symm)
    simp only [hcan, hc, giveWay_tried, htr, getLsbD_tried hne, Bool.not_true, Bool.false_or]

end Sys2Proof.Proofs
end

section
/-! Launches, and the joins that wait for them (02 R43 to R62, 12 R391 to R393). -/

namespace Sys2Proof.Proofs

open Sys2Proof.Machine Sys2Proof.Claims Sys2Proof.Laws

/-! Join handles (02 R57) -/

/-- Whether a value is no handle to give out: 0, or the handle of a launch. -/
def handleUsed (s : State) (x : Word) : Bool := x = 0 || s.launches.any (fun l => l.handle = x)

theorem newHandle_eq (s : State) : newHandle s =
    if handleUsed s (Config.freeHandle s.nextId &&& 0x7FFFFFFFFFFFFFFF) then
      (((List.range (s.launches.length + 2)).map wd).find? (fun x => !handleUsed s x)).getD 1
    else Config.freeHandle s.nextId &&& 0x7FFFFFFFFFFFFFFF := rfl
theorem handleUsed_iff (s : State) (x : Word) : handleUsed s x = true ↔ x ∈ 0 :: s.launches.map (·.handle) := by
  simp only [handleUsed, Bool.or_eq_true, decide_eq_true_eq, List.any_eq_true, List.mem_cons, List.mem_map]
/-- More numbers than launches: one of them is no handle yet. -/
theorem exists_unused {s : State} (h : s.launches.length < 2 ^ 32) : ∃ n < 2 ^ 63,
    ((List.range (s.launches.length + 2)).map wd).find? (fun x => !handleUsed s x) = some (wd n) ∧ handleUsed s (wd n) = false := by
  cases hf : ((List.range (s.launches.length + 2)).map wd).find? (fun x => !handleUsed s x) with
  | some x =>
    obtain ⟨n, hn, rfl⟩ := List.mem_map.1 (List.mem_of_find?_eq_some hf)
    have hn := List.mem_range.1 hn
    have hu := List.find?_some hf
    exact ⟨n, by omega, rfl, by simpa using hu⟩
  | none =>
    have hall := List.find?_eq_none.1 hf
    have hsub : (List.range (s.launches.length + 2)).map wd ⊆ 0 :: s.launches.map (·.handle) := fun x hx =>
      (handleUsed_iff s x).1 (by simpa using hall x hx)
    have hnd : ((List.range (s.launches.length + 2)).map wd).Nodup := by
      refine List.Nodup.map_on (fun a ha b hb e => ?_) List.nodup_range
      have ha := List.mem_range.1 ha
      have hb := List.mem_range.1 hb
      have he := congrArg BitVec.toNat e
      rwa [wd, wd, BitVec.toNat_ofNat, BitVec.toNat_ofNat, Nat.mod_eq_of_lt (by omega), Nat.mod_eq_of_lt (by omega)] at he
    have := (hnd.subperm hsub).length_le
    simp at this
/-- A join handle is no handle of a launch, is not 0, and has bit 63 clear. -/
theorem newHandle_fresh {s : State} (h : s.launches.length < 2 ^ 32) :
    newHandle s ≠ 0 ∧ (newHandle s).getLsbD 63 = false ∧ ∀ x ∈ s.launches, x.handle ≠ newHandle s := by
  have hbit : handleUsed s (newHandle s) = false ∧ (newHandle s).getLsbD 63 = false := by
    rw [newHandle_eq]
    split
    · obtain ⟨n, hn, hf, hu⟩ := exists_unused h
      rw [hf]
      refine ⟨hu, ?_⟩
      rw [Option.getD_some, wd, BitVec.getLsbD_ofNat, Nat.testBit_lt_two_pow hn]
      rfl
    · next hu => exact ⟨by simpa using hu, by simp⟩
  have hmem : newHandle s ∉ 0 :: s.launches.map (·.handle) := fun hm => by
    rw [(handleUsed_iff s _).2 hm] at hbit
    exact absurd hbit.1 (by decide)
  rw [List.mem_cons, not_or] at hmem
  exact ⟨hmem.1, hbit.2, fun x hx e => hmem.2 (List.mem_map.2 ⟨x, hx, e⟩)⟩

/-! `lnch` and `lnch.try` -/

section Lnch

variable {s : State} {d t : Reg} {f : BitVec 6} {l : Level}

/-- The launch of an instruction whose checks pass, where the pool has a record. -/
theorem exec_lnch_takes (ht : launchTrap s l.code (sreg s.g (f.setWidth 7)) (launchTile s t) = none) (hd : launchDepth s.g l.code ≤ 8)
    (hr : poolReady s l.code = true) : ∀ i ∈ [Instr.lnch d f t l, .lnchTry d f t l],
    exec i s = .next (next (takeLaunch d l.code (sreg s.g (f.setWidth 7)) (launchTile s t) (launchDepth s.g l.code)
      (tChildren (launchTile s t) l.code (launchKids s s.g.at_ l.code)) s)) := by
  have hn : ¬ Config.maxDepth < launchDepth s.g l.code := Nat.not_lt.2 hd
  have hl : exec (.lnch d f t l) s = execLnch d f t l s := rfl
  have hy : exec (.lnchTry d f t l) s = execLnchTry d f t l s := rfl
  simp only [List.forall_mem_cons, hl, hy, execLnch, execLnchTry, ht, orTrap_none, if_neg hn, if_pos hr]
  simp
/-- Without a record, `lnch.try` answers so, and `lnch` waits with a place in the pool's order (02 R56, R57). -/
theorem exec_lnch_waits (ht : launchTrap s l.code (sreg s.g (f.setWidth 7)) (launchTile s t) = none) (hd : launchDepth s.g l.code ≤ 8)
    (hr : poolReady s l.code = false) :
    exec (.lnchTry d f t l) s = .next (next (putS 1 d 0x8000000000000001 s)) ∧
    ∃ q : List Ticket, exec (.lnch d f t l) s = .next (block { s with poolQ := q }) ∧
      ∃ k ∈ q, k.uid = s.g.uid ∧ k.path = s.g.act.val ∧ k.n = l.code := by
  have hn : ¬ Config.maxDepth < launchDepth s.g l.code := Nat.not_lt.2 hd
  have hno : ¬ poolReady s l.code = true := by simp [hr]
  have hl : exec (.lnch d f t l) s = execLnch d f t l s := rfl
  have hy : exec (.lnchTry d f t l) s = execLnchTry d f t l s := rfl
  simp only [hl, hy, execLnch, execLnchTry, ht, orTrap_none, if_neg hn, if_neg hno, true_and]
  split
  · next hown =>
    obtain ⟨k, hk, ho⟩ := List.any_eq_true.1 hown
    simp only [ownTicket, Bool.and_eq_true, decide_eq_true_eq] at ho
    exact ⟨s.poolQ, rfl, k, hk, ho.1.1, ho.1.2, ho.2⟩
  · exact ⟨_, rfl, _, List.mem_append_right _ List.mem_cons_self, rfl, rfl, rfl⟩
theorem exec_lnch_tooDeep (ht : launchTrap s l.code (sreg s.g (f.setWidth 7)) (launchTile s t) = none) (hd : 8 < launchDepth s.g l.code) :
    exec (.lnchTry d f t l) s = .next (next (putS 1 d 0x8000000000000002 s)) ∧
    exec (.lnch d f t l) s = .next (raise ⟨cLaunchDepth, 0, 0⟩ s) := by
  have hn : Config.maxDepth < launchDepth s.g l.code := hd
  have hl : exec (.lnch d f t l) s = execLnch d f t l s := rfl
  have hy : exec (.lnchTry d f t l) s = execLnchTry d f t l s := rfl
  simp only [hl, hy, execLnch, execLnchTry, ht, orTrap_none, if_pos hn, and_self]
theorem exec_lnch_traps {k : Trap} (ht : launchTrap s l.code (sreg s.g (f.setWidth 7)) (launchTile s t) = some k) :
    ∀ i ∈ [Instr.lnch d f t l, .lnchTry d f t l], exec i s = .next (raise k s) := by
  have hl : exec (.lnch d f t l) s = execLnch d f t l s := rfl
  have hy : exec (.lnchTry d f t l) s = execLnchTry d f t l s := rfl
  simp only [List.forall_mem_cons, hl, hy, execLnch, execLnchTry, ht, orTrap_some]
  simp

/-- What a launch leaves (02 R52 to R57): `q` is the state in which the issuer has published. -/
theorem takeLaunch_launches (d : Reg) (l : Nat) (func : Word) (ws : List Word) (depth c : Nat) (s : State) (hlen : s.launches.length < 2 ^ 32) :
    let q := publish l { s with poolQ := s.poolQ.filter (fun t => !ownTicket s l t) }
    let u := next (takeLaunch d l func ws depth c s)
    ∃ n : Launch, u.launches = q.launches ++ [n] ∧
      n.level = l ∧ n.func = func ∧ n.tile = ws ∧ n.depth = depth ∧ n.children.length = c ∧ n.record = true ∧
      n.issuer = some (s.g.uid, s.g.at_) ∧ n.parent = some s.g.launch ∧ n.joined = false ∧ n.cancelled = false ∧
      n.handle ≠ 0 ∧ n.handle.getLsbD 63 = false ∧ (∀ x ∈ q.launches, x.handle ≠ n.handle) ∧
      u.g.inflight = (fixed 1 (.s d.toNat n.handle) q).g.inflight ∧ pcOf u = pcOf s + 4 ∧ u.mem = q.mem ∧
      (∀ k < c, n.children[k]? = some (if tEmpty ws c k then .done else .waiting)) := by
  unfold takeLaunch
  have hq := publish_kept l { s with poolQ := s.poolQ.filter (fun t => !ownTicket s l t) }
  generalize publish l { s with poolQ := s.poolQ.filter (fun t => !ownTicket s l t) } = q at hq ⊢
  have hg := gangKept_of_kept hq
  have hls : q.launches = s.launches := (launches_of_kept hq :)
  have hpc : pcOf q = pcOf s := (pcOf_of_kept hq :)
  obtain ⟨h0, h63, hne⟩ := newHandle_fresh (s := q) (by rw [hls]; exact hlen)
  refine ⟨_, rfl, rfl, rfl, rfl, rfl, by simp, rfl, ?_, ?_, rfl, rfl, h0, h63, hne, rfl, ?_, rfl, fun k hk => ?_⟩
  · exact congrArg some (Prod.ext (uid_of_kept hg) (at_of_kept hg))
  · exact congrArg some (launch_of_kept hg)
  · exact (pcOf_next _).trans (congrArg (· + 4) hpc)
  · rw [List.getElem?_map, List.getElem?_range hk]
    rfl

end Lnch

theorem launchesTakeRecords : Claims.LaunchesTakeRecords := by
  intro s d t f l hlen func ws depth c q
  refine ⟨fun ht hd hr i hi => ⟨_, exec_lnch_takes ht hd hr i hi, takeLaunch_launches d l.code func ws depth c s hlen⟩,
    fun ht hd hr => ?_, fun ht hd => ?_, fun k hdel ht i hi => runs_of_raise hdel (exec_lnch_traps ht i hi), fun hroot => if_pos hroot⟩
  · obtain ⟨htry, p, hblock, hk⟩ := exec_lnch_waits (d := d) ht hd hr
    exact ⟨htry, _, hblock, waits_block rfl, rfl, rfl, hk⟩
  · obtain ⟨htry, hraise⟩ := exec_lnch_tooDeep (d := d) ht hd
    exact ⟨htry, fun hdel => runs_of_raise hdel hraise⟩

/-! `joinw` -/

/-- The state in which a `joinw` has freed the record of its launch (02 R60). -/
def joined (l : Launch) (s : State) : State :=
  { s with launches := upd (fun x => x.id = l.id) (fun x => { x with joined := true, record := false }) s.launches }

/-- What `joinw` does with the launch that its handle names, if the gang holds it. -/
def joinOf (d : Reg) (s : State) : Option Launch → State
  | none => raise ⟨cHandle, 0, 0⟩ s
  | some l => if !l.completed then block s else next (putS 1 d (statusWord l) (acquire l.level (joined l s)))

theorem joinOf_waits {s : State} {l : Launch} (d : Reg) (hc : l.completed = false) : joinOf d s (some l) = block s := by
  rw [joinOf, hc]
  rfl
theorem joinOf_completed {s : State} {l : Launch} (d : Reg) (hc : l.completed = true) :
    joinOf d s (some l) = next (putS 1 d (statusWord l) (acquire l.level (joined l s))) := by
  rw [joinOf, hc]
  rfl
theorem exec_joinw (d a : Reg) (s : State) : exec (.joinw d a) s = .next (joinOf d s
    (s.launches.find? (fun l => l.handle = sreg s.g a && (l.issuer.map (·.1)) = some s.g.uid && !l.joined))) := by
  show execJoinw d a s = _
  unfold execJoinw
  simp only
  split
  · next e => rw [e]; rfl
  · next e => rw [e]; rfl

/-- A child's failure with its index. -/
def failedAt : Child × Nat → Option (Nat × Nat × Nat)
  | (.failed c o, k) => some (k, c, o)
  | (.waiting, _) | (.running _, _) | (.done, _) => none
/-- Whether a child has failed. -/
def hasFailed : Child → Bool
  | .failed _ _ => true
  | .waiting | .running _ | .done => false
/-- The failures of children that are numbered from `i` on. -/
def failuresFrom (i : Nat) (cs : List Child) : List (Nat × Nat × Nat) := (cs.zip (List.range' i cs.length)).filterMap failedAt

theorem failures_eq (l : Launch) : failures l = failuresFrom 0 l.children := by
  rw [failures, failuresFrom, List.range_eq_range']
  congr 1
  funext ⟨c, k⟩
  cases c <;> rfl
theorem failuresFrom_cons (i : Nat) (c : Child) (cs : List Child) :
    failuresFrom i (c :: cs) = (failedAt (c, i)).toList ++ failuresFrom (i + 1) cs := by
  rw [failuresFrom, List.length_cons, List.range'_succ, List.zip_cons_cons, List.filterMap_cons]
  cases failedAt (c, i) <;> rfl
theorem length_failuresFrom : ∀ (cs : List Child) (i : Nat), (failuresFrom i cs).length = (cs.filter hasFailed).length
  | [], _ => rfl
  | c :: cs, i => by
    rw [failuresFrom_cons, List.length_append, length_failuresFrom cs, List.filter_cons]
    cases c <;> simp [failedAt, hasFailed, Nat.add_comm]
theorem failuresFrom_done : ∀ (cs : List Child) (i : Nat), (∀ c ∈ cs, c = .done) → failuresFrom i cs = []
  | [], _, _ => rfl
  | c :: cs, i, h => by
    rw [failuresFrom_cons, h c List.mem_cons_self, failuresFrom_done cs (i + 1) fun d hd => h d (List.mem_cons_of_mem _ hd)]
    rfl
/-- The lowest failure comes first. -/
theorem failuresFrom_lowest : ∀ (cs : List Child) (i k : Nat) {c o : Nat}, cs[k]? = some (.failed c o) →
    (∀ j < k, ∀ x y, cs[j]? ≠ some (.failed x y)) → (failuresFrom i cs).head? = some (i + k, c, o)
  | [], _, _, _, _, h, _ => by simp at h
  | d :: cs, i, 0, c, o, h, _ => by
    rw [failuresFrom_cons, Option.some.inj (h : some d = _)]
    rfl
  | d :: cs, i, k + 1, c, o, h, hlow => by
    have hd : failedAt (d, i) = none := by
      cases d with
      | failed x y => exact absurd rfl (hlow 0 (Nat.succ_pos k) x y)
      | waiting | running _ | done => rfl
    have ih := failuresFrom_lowest cs (i + 1) k (c := c) (o := o) h fun j hj x y => hlow (j + 1) (Nat.succ_lt_succ hj) x y
    rw [failuresFrom_cons, hd, ← Nat.succ_add_eq_add_succ i k]
    exact ih

/-- The status word where every child is done, and its fields where one has failed (02 R62). -/
theorem statusWord_done {l : Launch} (h : ∀ c ∈ l.children, c = .done) (hc : l.cancelled = false) : statusWord l = 0xFFFF0000 := by
  have hf : failures l = [] := (failures_eq l).trans (failuresFrom_done _ _ h)
  simp only [statusWord, hf, hc]
  rfl
theorem statusWord_failed {l : Launch} {k c o : Nat} (h : l.children[k]? = some (.failed c o))
    (hlow : ∀ j < k, ∀ x y, l.children[j]? ≠ some (.failed x y)) (hk : k < 2 ^ 16) (hc : c < 256) (ho : o < 8) :
    let z := statusWord l
    z.toNat % 2 ^ 16 = min (l.children.filter hasFailed).length 65535 ∧ z.toNat / 2 ^ 16 % 2 ^ 16 = k ∧
      z.toNat / 2 ^ 32 % 2 ^ 8 = c ∧ z.toNat / 2 ^ 40 % 8 = o ∧ z.getLsbD 48 = l.cancelled := by
  have hhead := failuresFrom_lowest l.children 0 k h hlow
  rw [← failures_eq, Nat.zero_add] at hhead
  obtain ⟨r, hr⟩ := List.head?_eq_some_iff.1 hhead
  have hlen : (failures l).length = (l.children.filter hasFailed).length := by rw [failures_eq, length_failuresFrom]
  have hmin : min (failures l).length 65535 < 2 ^ 16 := lt_of_le_of_lt (Nat.min_le_right _ _) (by decide)
  have hz : statusWord l = wd ((if l.cancelled then 2 ^ 48 else 0) + o % 8 * 2 ^ 40 + c % 256 * 2 ^ 32 + k * 2 ^ 16 + min (failures l).length 65535) := by
    rw [statusWord, hr]
  rw [hlen] at hz hmin
  generalize min (l.children.filter hasFailed).length 65535 = n at hz hmin ⊢
  have hnat : (statusWord l).toNat = (if l.cancelled then 2 ^ 48 else 0) + o * 2 ^ 40 + c * 2 ^ 32 + k * 2 ^ 16 + n := by
    rw [hz, wd, BitVec.toNat_ofNat, Nat.mod_eq_of_lt ho, Nat.mod_eq_of_lt hc]
    refine Nat.mod_eq_of_lt ?_
    split <;> omega
  simp only [BitVec.getLsbD, Nat.testBit_eq_decide_div_mod_eq, hnat]
  cases l.cancelled <;> simp only [if_true, if_false, Bool.false_eq_true, decide_eq_true_eq, decide_eq_false_iff_not] <;> omega

theorem joinsGiveTheStatus : Claims.JoinsGiveTheStatus := by
  intro s d a mine
  have hex {m : Option Launch} (hm : mine = m) : exec (.joinw d a) s = .next (joinOf d s m) := hm ▸ exec_joinw d a s
  refine ⟨fun hm hdel => runs_of_raise hdel (hex hm), fun l hm => ⟨fun hc => ?_, fun hc => ?_⟩⟩
  · exact ⟨block s, by rw [hex hm, joinOf_waits d hc], waits_block rfl, rfl⟩
  · refine ⟨next (putS 1 d (statusWord l) (acquire l.level (joined l s))), by rw [hex hm, joinOf_completed d hc], rfl, pcOf_next _,
      by simp [putS, acquire, joined], by simp [putS, acquire, joined], rfl, statusWord l, by simp [putS, fixed, acquire, joined],
      fun hd => statusWord_done hd, fun k c o h hlow hk hc ho => ?_⟩
    obtain ⟨hn, hrest⟩ := statusWord_failed h hlow hk hc ho
    refine ⟨hn.trans ?_, hrest⟩
    congr 3

/-- Settles O41: the children's parts meet, `lnch` publishes and adds its launch, and `joinw` gives the word of the lowest failure. -/
theorem launchesAndJoins : Obligations.LaunchesAndJoins := ⟨splitsCoverTheTile, launchesTakeRecords, joinsGiveTheStatus⟩

end Sys2Proof.Proofs
end

section
/-! SUPPORT. Views only grow (04 R132, R135). -/

namespace Sys2Proof.Proofs

open Sys2Proof.Machine Sys2Proof.Claims Sys2Proof.Laws

/-- Every location has at least the position that it has in another view. -/
def ViewLe (a b : Cells Nat) : Prop := ∀ l, cget 0 a l ≤ cget 0 b l

theorem ViewLe.refl (a : Cells Nat) : ViewLe a a := fun _ => le_rfl
theorem ViewLe.trans {a b c : Cells Nat} (h : ViewLe a b) (k : ViewLe b c) : ViewLe a c := fun l => (h l).trans (k l)

/-- A write that is not the default reads back in any map, canonical or not. -/
theorem cget_cset_ne {α : Type} [DecidableEq α] {d x : α} (hx : x ≠ d) (k : Nat) : ∀ m : Cells α, cget d (cset d m k x) k = x
  | [] => by rw [cset, if_neg hx, cget, if_pos rfl]
  | (j, y) :: r => by
    rw [cset, if_neg hx, if_neg hx]
    split
    · rw [cget, if_pos rfl]
    · split
      · rw [cget, if_pos rfl]
      · next hj => simp only [cget, if_neg hj, cget_cset_ne hx k r]
/-- Raising one position of a view. -/
theorem viewLe_cset_max (v : Cells Nat) (k n : Nat) : ViewLe v (cset 0 v k (max (cget 0 v k) n)) := by
  intro l
  by_cases hl : l = k
  · subst hl
    rcases Nat.eq_zero_or_pos (max (cget 0 v l) n) with h | h
    · exact (Nat.le_of_eq (by omega : cget 0 v l = 0)).trans (Nat.zero_le _)
    · rw [cget_cset_ne (by omega)]
      exact Nat.le_max_left _ _
  · rw [cget_cset_other _ hl]
theorem viewLe_vjoin : ∀ b a : Cells Nat, ViewLe a (vjoin a b)
  | [], a => ViewLe.refl a
  | (k, n) :: r, a => (viewLe_cset_max a k n).trans (viewLe_vjoin r _)
theorem viewLe_foldl {α : Type} {f : Cells Nat → α → Cells Nat} (hf : ∀ v x, ViewLe v (f v x)) :
    ∀ (xs : List α) (v : Cells Nat), ViewLe v (xs.foldl f v)
  | [], v => ViewLe.refl v
  | x :: xs, v => (hf v x).trans (viewLe_foldl hf xs (f v x))
/-- A fold whose steps only raise positions leaves at least what one of its steps leaves. -/
theorem le_foldl_of_mem {α : Type} {f : Cells Nat → α → Cells Nat} (hf : ∀ v x, ViewLe v (f v x)) {x : α} {n k : Nat}
    (hx : ∀ v, n ≤ cget 0 (f v x) k) {xs : List α} (hm : x ∈ xs) (v : Cells Nat) : n ≤ cget 0 (xs.foldl f v) k := by
  obtain ⟨as, bs, rfl⟩ := List.append_of_mem hm
  rw [List.foldl_append, List.foldl_cons]
  exact (hx _).trans (viewLe_foldl hf bs _ k)
/-- A position that has been raised to `n` is at least `n`. -/
theorem le_cget_cset_max (v : Cells Nat) (k m n : Nat) : n ≤ cget 0 (cset 0 v k (max m n)) k := by
  rcases Nat.eq_zero_or_pos (max m n) with h | h
  · exact (Nat.le_of_eq (by omega : n = 0)).trans (Nat.zero_le _)
  · rw [cget_cset_ne (by omega)]
    exact Nat.le_max_right m n

end Sys2Proof.Proofs
end

section
/-! Barriers (02 R67 to R70): what the acquires of a barrier take in, and how it opens. -/

namespace Sys2Proof.Proofs

open Sys2Proof.Machine Sys2Proof.Claims Sys2Proof.Laws

/-! What an acquire takes in -/

/-- What an acquire takes in without early writes. -/
def takenIn (s : State) (l : Nat) (q : Gang) : Cells Nat := acquired { s with early := [] } l q

theorem takenIn_eq (s : State) (l : Nat) (q : Gang) : takenIn s l q = s.pubs.foldl (fun v p =>
    if commonLevel s p.by_ q ≤ p.level && commonLevel s p.by_ q ≤ l then vjoin v p.view else v) q.view := by
  unfold takenIn
  cases l <;> rfl
theorem takenIn_congr {s t : State} (hp : t.pubs = s.pubs) (hj : t.jobs = s.jobs) (l : Nat) (q : Gang) : takenIn t l q = takenIn s l q := by
  have hc (b : Option (Nat × Coords)) : commonLevel t b q = commonLevel s b q := by
    simp only [commonLevel, wideOf, jobWord, jobOn, hj]
  simp only [takenIn_eq, hp, hc]
theorem viewLe_takenIn (s : State) (l : Nat) (q : Gang) : ViewLe q.view (takenIn s l q) := by
  rw [takenIn_eq]
  refine viewLe_foldl (fun v p => ?_) _ _
  split
  · exact viewLe_vjoin _ v
  · exact ViewLe.refl v
/-- An acquire takes in at least what one without early writes does (04 R136). -/
theorem takenIn_le_acquired (s : State) (l : Nat) (q : Gang) : ViewLe (takenIn s l q) (acquired s l q) := by
  rw [takenIn_eq]
  unfold acquired
  split
  · exact ViewLe.refl _
  · exact ViewLe.refl _
  · exact viewLe_foldl (fun v n => viewLe_vjoin _ v) _ _

/-! The launch of a barrier -/

theorem launchOf_upd (s : State) (i : Nat) {f : Launch → Launch} (hf : ∀ x, (f x).id = x.id) :
    launchOf { s with launches := upd (fun x => x.id = i) f s.launches } i = (launchOf s i).map f := by
  have hp : ((fun x : Launch => decide (x.id = i)) ∘ fun x => if decide (x.id = i) = true then f x else x) = fun x => decide (x.id = i) := by
    funext x
    simp only [Function.comp]
    split <;> simp [hf]
  show (upd (fun x => x.id = i) f s.launches).find? _ = _
  rw [upd, List.find?_map, hp]
  unfold launchOf
  cases hx : s.launches.find? (fun x => decide (x.id = i)) with
  | none => rfl
  | some x => exact congrArg some (if_pos (List.find?_some hx))

theorem tryOpen_opens {s : State} {i : Nat} {x : Launch} (hl : launchOf s i = some x) (ha : x.arrived ≠ [])
    (hc : ∀ c ∈ x.children, memberArrived s x c = true) : tryOpen i s = openBarrier x s := by
  unfold tryOpen
  rw [hl]
  have hall : x.children.all (memberArrived s x) = true := List.all_eq_true.2 hc
  simp [hall, ha]
theorem tryOpen_waits {s : State} {i : Nat} {x : Launch} (hl : launchOf s i = some x) {c : Child} (hc : c ∈ x.children)
    (hn : memberArrived s x c = false) : tryOpen i s = s := by
  unfold tryOpen
  rw [hl]
  have hall : x.children.all (memberArrived s x) = false := List.all_eq_false.2 ⟨c, hc, by simp [hn]⟩
  simp [hall]
/-- Whether a running member counts as arrived. -/
theorem memberArrived_running (s : State) (x : Launch) (v : Nat) : memberArrived s x (.running v) =
    (x.arrived.contains v || ((gangOf s v).map (fun g => decide (g.phase ≠ .running))).getD false) := by
  cases h : gangOf s v <;> simp [memberArrived, h]
/-- What has arrived stays arrived while the gangs stay in their phases and others arrive. -/
theorem memberArrived_mono {s t : State} {x y : Launch} (hg : ∀ v, (gangOf t v).map (·.phase) = (gangOf s v).map (·.phase))
    (hx : x.arrived ⊆ y.arrived) {c : Child} (h : memberArrived s x c = true) : memberArrived t y c = true := by
  cases c with
  | waiting => exact h
  | done | failed _ _ => rfl
  | running v =>
    have hm (r : State) : (gangOf r v).map (fun g => decide (g.phase ≠ .running)) =
        ((gangOf r v).map (·.phase)).map (fun p => decide (p ≠ .running)) := by
      rw [Option.map_map]; rfl
    rw [memberArrived_running, hm, hg, ← hm, Bool.or_eq_true]
    rw [memberArrived_running, Bool.or_eq_true] at h
    exact h.imp_left fun hv => List.contains_iff_mem.2 (hx (List.contains_iff_mem.1 hv))

/-! The barrier opens (02 R67) -/

/-- A gang that waits at the barrier acquires, and goes on. -/
def release (l : Nat) (s : State) (u : Nat) : State :=
  onGang u (fun g => { g with barOpen := true, blocked := false }) (acquireFor u l s)
theorem openBarrier_eq (x : Launch) (s : State) : openBarrier x s =
    x.arrived.foldl (release x.level) { s with launches := upd (fun y => y.id = x.id) (fun y => { y with arrived := [] }) s.launches } := rfl

/-- The machine without what the opening of a barrier changes of its gangs. -/
def openKept (s : State) : State :=
  let f (g : Gang) : Gang := { g with view := [], barOpen := false, blocked := false }
  { s with g := f s.g, others := s.others.map f, early := [] }
theorem pcOf_of_openKept {s t : State} (h : openKept t = openKept s) : pcOf t = pcOf s := by
  have hg := congrArg State.g h
  have hpaths : t.g.paths = s.g.paths := (congrArg Gang.paths hg :)
  have hact : t.g.act = s.g.act := (congrArg Gang.act hg :)
  simp only [pcOf, path, hpaths, hact]
theorem release_kept (l : Nat) (s : State) (u : Nat) : openKept (release l s u) = openKept s := by
  let f (g : Gang) : Gang := { g with view := [], barOpen := false, blocked := false }
  have hon (F : Gang → Gang) (hF : ∀ g, f (F g) = f g) (s : State) : openKept (onGang u F s) = openKept s := by
    have hg : f (if s.g.uid = u && s.g.phase ≠ .free then F s.g else s.g) = f s.g := by
      split
      · exact hF _
      · rfl
    simp only [onGang, openKept]
    exact congrArg₂ (fun a b => { s with g := a, others := b, early := [] }) hg (upd_map_keeps hF s.others)
  exact (hon _ (by intros; rfl) _).trans
    ((congrArg (fun t : State => { t with early := [] }) (hon (fun g => { g with view := acquired s l g }) (by intros; rfl) s) :))
theorem gangOf_release (l : Nat) (s : State) (u v : Nat) : gangOf (release l s u) v =
    (gangOf s v).map (fun g => if v = u then { g with view := acquired s l g, barOpen := true, blocked := false } else g) := by
  let take (g : Gang) : Gang := { g with view := acquired s l g }
  let free (g : Gang) : Gang := { g with barOpen := true, blocked := false }
  calc gangOf (release l s u) v = (gangOf (onGangAny u take s) v).map (fun g => if v = u then free g else g) :=
        gangOf_onGangAny u v free _ fun _ => ⟨rfl, rfl⟩
    _ = ((gangOf s v).map (fun g => if v = u then take g else g)).map (fun g => if v = u then free g else g) :=
        congrArg _ (gangOf_onGangAny u v take s fun _ => ⟨rfl, rfl⟩)
    _ = _ := by
        rw [Option.map_map]
        congr 1
        funext g
        simp only [Function.comp]
        split <;> rfl
theorem releaseAll_kept (l : Nat) (us : List Nat) (s : State) : openKept (us.foldl (release l) s) = openKept s :=
  foldl_keeps openKept (release_kept l) us s

/-- A gang goes on at its barrier, with at least the view `v`. -/
structure GoesOn (v : Cells Nat) (h : Gang) : Prop where
  barOpen : h.barOpen = true
  blocked : h.blocked = false
  view : ViewLe v h.view

/-- Further releases leave a gang that goes on. -/
theorem releaseAll_goesOn {l v : Nat} {a : Cells Nat} : ∀ (us : List Nat) {s : State} {g : Gang}, gangOf s v = some g → GoesOn a g →
    ∃ h, gangOf (us.foldl (release l) s) v = some h ∧ GoesOn a h
  | [], _, g, hg, ha => ⟨g, hg, ha⟩
  | u :: us, s, g, hg, ha => by
    refine releaseAll_goesOn us (gangOf_release l s u v |>.trans (congrArg _ hg)) ?_
    split
    · exact ⟨rfl, rfl, ha.view.trans ((viewLe_takenIn s l g).trans (takenIn_le_acquired s l g))⟩
    · exact ha
theorem gangOf_release_same {s : State} {v : Nat} {g : Gang} (l : Nat) (hg : gangOf s v = some g) :
    ∃ h, gangOf (release l s v) v = some h ∧ GoesOn (takenIn s l g) h := by
  refine ⟨_, (gangOf_release l s v v).trans (congrArg _ hg), ?_⟩
  simp only [if_true]
  exact ⟨rfl, rfl, takenIn_le_acquired s l g⟩
theorem gangOf_release_other {s : State} {u v : Nat} (l : Nat) (huv : v ≠ u) : gangOf (release l s u) v = gangOf s v := by
  rw [gangOf_release]
  simp only [if_neg huv, Option.map_id']
theorem takenIn_release (s : State) (l u : Nat) (g : Gang) : takenIn (release l s u) l g = takenIn s l g :=
  takenIn_congr (congrArg State.pubs (release_kept l s u) :) (congrArg State.jobs (release_kept l s u) :) l g
/-- Each gang that waits acquires and goes on. -/
theorem releaseAll_releases {l v : Nat} {g : Gang} {us : List Nat} (hv : v ∈ us) {s : State} (hg : gangOf s v = some g) :
    ∃ h, gangOf (us.foldl (release l) s) v = some h ∧ GoesOn (takenIn s l g) h := by
  induction us generalizing s with
  | nil => simp at hv
  | cons u us ih =>
    by_cases huv : v = u
    · obtain ⟨h, hh, ho⟩ := gangOf_release_same l hg
      exact huv ▸ releaseAll_goesOn us hh ho
    · rw [← takenIn_release s l u g]
      exact ih ((List.mem_cons.1 hv).resolve_left huv) ((gangOf_release_other l huv).trans hg)

/-- The state in which no gang waits at the barrier of launch `i` any more. -/
def emptied (i : Nat) (s : State) : State := { s with launches := upd (fun y => y.id = i) (fun y => { y with arrived := [] }) s.launches }

/-- What opening a barrier does: no gang waits there any more, and each that did goes on with what it could acquire. -/
theorem openBarrier_spec {s : State} {i : Nat} {x : Launch} (hl : launchOf s i = some x) :
    openKept (openBarrier x s) = openKept (emptied i s) ∧
    (∃ y, launchOf (openBarrier x s) i = some y ∧ y.arrived = []) ∧
    ∀ u ∈ x.arrived, ∀ g, gangOf s u = some g → ∃ h, gangOf (openBarrier x s) u = some h ∧ GoesOn (takenIn s x.level g) h := by
  have hi : x.id = i := by simpa using List.find?_some hl
  have hk : openKept (openBarrier x s) = openKept (emptied i s) := by
    rw [openBarrier_eq, releaseAll_kept, hi]
    rfl
  refine ⟨hk, ⟨{ x with arrived := [] }, ?_, rfl⟩, fun u hu g hg => ?_⟩
  · have hls : (openBarrier x s).launches = (emptied i s).launches := (congrArg State.launches hk :)
    have h2 := launchOf_upd s i (f := fun y => { y with arrived := [] }) (by intros; rfl)
    rw [hl] at h2
    rw [launchOf, hls]
    exact h2
  · obtain ⟨h, hh, ho⟩ := releaseAll_releases (l := x.level) (s := emptied i s) hu hg
    rw [openBarrier_eq, hi]
    exact ⟨h, hh, takenIn_congr (s := s) (t := emptied i s) rfl rfl x.level g ▸ ho⟩

/-! `bar` -/

theorem barTrap_scope {s : State} {l : Nat} (h : barTrap s l = none) (hl : l ≠ 0) {x : Launch} (hx : launchOf s s.g.launch = some x) : x.level = l := by
  unfold barTrap at h
  rw [hx] at h
  by_contra hne
  simp [firstTrap, hl, hne] at h
theorem barTrap_group {s : State} (hp : pathCount s.g ≠ 1) : barTrap s 0 = some ⟨0x2E, 0, 0⟩ := by
  simp [barTrap, firstTrap, hp, cDivBarrier]

/-- The state in which a gang that has published stands at its barrier. -/
def atBarrier (s : State) : State :=
  { s with launches := upd (fun x => x.id = s.g.launch) (fun x => { x with arrived := x.arrived ++ [s.g.uid] }) s.launches }
/-- How a gang goes on that has just arrived: through the open barrier, or not. -/
def passBarrier (t : State) : State := if t.g.barOpen then next { t with g := { t.g with barOpen := false } } else block t

section Bar

variable {s : State} {l : Level} (ht : barTrap s l.code = none)
include ht

theorem exec_bar_group (hl : l = .g) : exec (.bar l) s = .next (next (acquire 0 (publish 0 s))) := by
  subst hl
  have hc : Level.code .g = 0 := rfl
  show execBar .g s = _
  rw [execBar, ht, orTrap_none, if_pos hc]
variable (hl : l ≠ .g)
include hl
theorem exec_bar_open (ho : s.g.barOpen = true) : exec (.bar l) s = .next (next { s with g := { s.g with barOpen := false } }) := by
  have hc : l.code ≠ 0 := fun h => hl (by cases l <;> simp_all [Level.code])
  show execBar l s = _
  rw [execBar, ht, orTrap_none, if_neg hc, if_pos ho]
theorem exec_bar_arrives (ho : s.g.barOpen = false) {x : Launch} (hx : launchOf s s.g.launch = some x) (hn : s.g.uid ∉ x.arrived) :
    exec (.bar l) s = .next (passBarrier (tryOpen (publish l.code s).g.launch (atBarrier (publish l.code s)))) := by
  have hc : l.code ≠ 0 := fun h => hl (by cases l <;> simp_all [Level.code])
  have hb : ¬ s.g.barOpen = true := by simp [ho]
  have ha : ¬ ((launchOf s s.g.launch).map (fun x => x.arrived.contains s.g.uid)).getD false = true := by simp [hx, hn]
  show execBar l s = _
  rw [execBar, ht, orTrap_none, if_neg hc, if_neg hb, if_neg ha]
  generalize publish l.code s = q
  rfl

end Bar

section Arrived

variable {s : State} {x : Launch}

/-- A gang that stands at its barrier has arrived there. -/
theorem launchOf_atBarrier (hx : launchOf s s.g.launch = some x) :
    launchOf (atBarrier s) s.g.launch = some { x with arrived := x.arrived ++ [s.g.uid] } := by
  have h := launchOf_upd s s.g.launch (f := fun x => { x with arrived := x.arrived ++ [s.g.uid] }) (by intros; rfl)
  rw [hx] at h
  exact h
/-- While a running member has not arrived, the barrier stays shut. -/
theorem tryOpen_atBarrier_shut (hx : launchOf s s.g.launch = some x) {v : Nat} {h : Gang} (hc : .running v ∈ x.children) (hv : v ≠ s.g.uid)
    (ha : v ∉ x.arrived) (hh : gangOf s v = some h) (hp : h.phase = .running) : tryOpen s.g.launch (atBarrier s) = atBarrier s := by
  refine tryOpen_waits (launchOf_atBarrier hx) hc ?_
  rw [memberArrived_running, show gangOf (atBarrier s) v = some h from hh]
  simp [ha, hv, hp]
/-- Where it is the last to arrive, the barrier opens and the gang acquires. -/
theorem tryOpen_atBarrier_opens (hx : launchOf s s.g.launch = some x) (hp : s.g.phase = .running)
    (hall : ∀ c ∈ x.children, c = .running s.g.uid ∨ memberArrived s x c = true) :
    let t := tryOpen s.g.launch (atBarrier s)
    openKept t = openKept (emptied s.g.launch (atBarrier s)) ∧ (∃ y, launchOf t s.g.launch = some y ∧ y.arrived = []) ∧
      GoesOn (takenIn s x.level s.g) t.g := by
  have hopen : tryOpen s.g.launch (atBarrier s) = openBarrier { x with arrived := x.arrived ++ [s.g.uid] } (atBarrier s) := by
    refine tryOpen_opens (launchOf_atBarrier hx) (by simp) fun c hc => ?_
    obtain rfl | h := hall c hc
    · rw [memberArrived_running]
      simp
    · exact memberArrived_mono (t := atBarrier s) (fun _ => rfl) (List.subset_append_left _ _) h
  rw [hopen]
  obtain ⟨hk, hy, hg⟩ := openBarrier_spec (launchOf_atBarrier hx)
  refine ⟨hk, hy, ?_⟩
  have hself (t : State) (hu : t.g.uid = s.g.uid) (hr : t.g.phase = .running) : gangOf t s.g.uid = some t.g :=
    List.find?_cons_of_pos (by simp [hu, hr])
  obtain ⟨h, hh, ho⟩ := hg s.g.uid (by simp) s.g (hself (atBarrier s) rfl hp)
  have hkg := congrArg State.g hk
  rw [hself (openBarrier { x with arrived := x.arrived ++ [s.g.uid] } (atBarrier s)) (congrArg Gang.uid hkg :)
    ((congrArg Gang.phase hkg :).trans hp)] at hh
  rw [Option.some.inj hh]
  exact takenIn_congr (s := s) (t := atBarrier s) rfl rfl x.level s.g ▸ ho

end Arrived

/-- What publishing leaves of a launch's barrier. -/
theorem memberArrived_publish (l : Nat) (s : State) {x : Launch} {c : Child} (h : memberArrived s x c = true) :
    memberArrived (publish l s) x c = true := by
  refine memberArrived_mono (fun v => ?_) (List.Subset.refl _) h
  have hk := congrArg (Option.map Gang.phase) (gangOf_of_kept (publish_kept l s) v)
  rwa [Option.map_map, Option.map_map] at hk

/-- Settles O42: an arrival publishes and adds itself, and the last one opens the barrier, whose gangs go on one after another with what they acquire. -/
theorem barriersOpen : Obligations.BarriersOpen := by
  intro s l
  refine ⟨fun k hdel ht => runs_of_raise hdel ?_, fun hp hl => hl ▸ barTrap_group hp, exec_bar_group, exec_bar_open,
    fun ht hl ho x hx hn => ?_, fun ht hl ho hp x hx hn hall => ?_, fun i x hx ha hall => ?_⟩
  · show execBar l s = _
    rw [execBar, ht, orTrap_some]
  · rintro ⟨_, hc, v, rfl, hv, ha, h, hh, hp⟩
    refine ⟨_, exec_bar_arrives ht hl ho hx hn, ?_⟩
    have hq := publish_kept l.code s
    generalize publish l.code s = q at hq ⊢
    have hgk := gangKept_of_kept hq
    have hx' : launchOf q q.g.launch = some x := by
      rw [launch_of_kept hgk, launchOf, launches_of_kept hq]
      exact hx
    obtain ⟨h', hh', hk'⟩ := Option.map_eq_some_iff.1 ((gangOf_of_kept hq v).trans (congrArg _ hh))
    have hshut := tryOpen_atBarrier_shut hx' hc (by rwa [uid_of_kept hgk]) ha hh' ((phase_of_kept hk').trans hp)
    have hbar : q.g.barOpen = false := (barOpen_of_kept hgk).trans ho
    rw [hshut, passBarrier, if_neg (by simp [show (atBarrier q).g.barOpen = false from hbar])]
    refine ⟨waits_block hgk, rfl, rfl, rfl, { x with arrived := x.arrived ++ [q.g.uid] }, ?_, by rw [uid_of_kept hgk]⟩
    exact launch_of_kept hgk ▸ launchOf_atBarrier hx'
  · refine ⟨_, exec_bar_arrives ht hl ho hx hn, ?_⟩
    have hq := publish_kept l.code s
    have hm : ∀ c ∈ x.children, c = .running s.g.uid ∨ memberArrived (publish l.code s) x c = true := fun c hc =>
      (hall c hc).imp_right (memberArrived_publish l.code s)
    rw [← barTrap_scope ht (fun h => hl (by cases l <;> simp_all [Level.code])) hx] at *
    generalize publish x.level s = q at hq hm ⊢
    have hgk := gangKept_of_kept hq
    have hx' : launchOf q q.g.launch = some x := by
      rw [launch_of_kept hgk, launchOf, launches_of_kept hq]
      exact hx
    obtain ⟨hk, hy, hg⟩ := tryOpen_atBarrier_opens hx' ((phase_of_kept hgk).trans hp) (by rwa [uid_of_kept hgk])
    rw [passBarrier, if_pos hg.barOpen]
    have hpc : pcOf (tryOpen q.g.launch (atBarrier q)) = pcOf q := (pcOf_of_openKept hk :)
    refine ⟨(pcOf_next _).trans (congrArg (· + 4) (hpc.trans (pcOf_of_kept hq))), rfl, (congrArg State.pubs hk :),
      (congrArg State.mem hk :), hg.view, ?_⟩
    rw [← launch_of_kept hgk]
    exact hy
  · refine ⟨_, congrArg Host.Outcome.next (tryOpen_opens hx ha hall), ?_⟩
    obtain ⟨hk, hy, hg⟩ := openBarrier_spec hx
    refine ⟨(congrArg State.mem hk :), hy, fun u hu g hgo => ?_⟩
    obtain ⟨h, hh, ho⟩ := hg u hu g hgo
    exact ⟨h, hh, ho.barOpen, ho.blocked, ho.view⟩

end Sys2Proof.Proofs
end

section
/-! Prefetches, drains and fences (02 R80, R81, 04 R133, R150, 12 R371 to R373). -/

namespace Sys2Proof.Proofs

open Sys2Proof.Machine Sys2Proof.Claims Sys2Proof.Laws

/-! A drain of stores that meet no error -/

theorem mem_insertNat_iff {m n : Nat} : ∀ {l : List Nat}, m ∈ insertNat n l ↔ m = n ∨ m ∈ l
  | [] => by simp [insertNat]
  | a :: l => by
    unfold insertNat
    split
    · simp
    · rw [List.mem_cons, mem_insertNat_iff, List.mem_cons, or_left_comm]
theorem mem_sortNat_iff {m : Nat} : ∀ {l : List Nat}, m ∈ sortNat l ↔ m ∈ l
  | [] => Iff.rfl
  | a :: l => (mem_insertNat_iff (n := a) (l := sortNat l)).trans ((or_congr_right (mem_sortNat_iff (l := l))).trans List.mem_cons.symm)

theorem firstByte_none {p : ByteWrite → Bool} {bs : List ByteWrite} (h : ∀ b ∈ bs, p b = false) : firstByte p bs = none := by
  have hf : bs.filter p = [] := List.filter_eq_nil_iff.2 fun b hb => by simp [h b hb]
  rw [firstByte, hf]
  rfl

/-- A store that meets no error at its homes: each byte may be written, has a path and has not failed. -/
def CleanStore (s : State) (r : StoreReq) : Prop :=
  r.err = none ∧ ∀ b ∈ r.bytes, b.w = true ∧ poisoned s b.loc = false ∧ hasPath s r.at_.pkg (locPkg b.loc) = true
theorem cleanStore_of_kept {s t : State} (h : serveKept t = serveKept s) (r : StoreReq) : CleanStore t r ↔ CleanStore s r := by
  have hp (l : Nat) : poisoned t l = poisoned s l := (congrArg (poisoned · l) h :)
  have hh (p q : Nat) : hasPath t p q = hasPath s p q := (congrArg (hasPath · p q) h :)
  simp only [CleanStore, hp, hh]
/-- Its test finds nothing, and its bytes enter their homes. -/
theorem testStore_clean {s : State} {r : StoreReq} (h : CleanStore s r) : testStore r s = ({ r with tested := true }, s) := by
  unfold testStore
  cases ht : r.tested with
  | true => simp [← ht]
  | false => rw [firstByte_none fun b hb => by simp [(h.2 b hb).1]]; rfl
theorem storeHome_clean {s : State} {r : StoreReq} (h : CleanStore s r) : storeHome r s = storeBytes r s := by
  have he : homeError r s = none := by
    rw [homeError, h.1, firstByte_none fun b hb => by simp [(h.2 b hb).2.1]]
  rw [storeHome, he]
/-- Such a store leaves no record. -/
theorem deliverStore_clean {s : State} {r : StoreReq} (h : CleanStore s r) :
    (deliverStore r s).stores = s.stores.filter (fun x => x.id ≠ r.id) ∧ (deliverStore r s).faults = s.faults := by
  have hd : deliverStore r s = storeBytes { r with tested := true } { s with stores := s.stores.filter (fun x => x.id ≠ r.id) } := by
    rw [deliverStore, testStore_clean h]
    exact storeHome_clean h
  have hk := storeBytes_kept { r with tested := true } { s with stores := s.stores.filter (fun x => x.id ≠ r.id) }
  rw [← hd] at hk
  exact ⟨(congrArg State.stores hk :), (congrArg State.faults hk :)⟩
theorem serveId_clean {s : State} (h : ∀ r ∈ s.stores, CleanStore s r) (i : Nat) :
    (serveId i s).stores = s.stores.filter (fun x => x.id ≠ i) ∧ (serveId i s).faults = s.faults := by
  cases hf : s.stores.find? (fun r => r.id = i) with
  | some r =>
    have hi : r.id = i := by simpa using List.find?_some hf
    have hc := h r (List.mem_of_find?_eq_some hf)
    have ht : storeTimeout (fun b => !hasPath s r.at_.pkg (locPkg b.loc)) r s = s := by
      rw [storeTimeout, firstByte_none fun b hb => by simp [(hc.2 b hb).2.2]]
    have hs : serveId i s = deliverStore r s := by
      simp only [serveId, hf, ht]
    rw [hs, ← hi]
    exact deliverStore_clean hc
  | none =>
    have hk : atomKept (serveId i s) = atomKept s := by
      simp only [serveId, hf]
      split
      · split
        · exact serveRequest_kept _ s
        · exact atomTimeout_kept _ s
      · rfl
    refine ⟨(congrArg State.stores hk :).trans (List.filter_eq_self.2 fun r hr => ?_).symm, (congrArg State.faults hk :)⟩
    simpa using List.find?_eq_none.1 hf r hr
theorem serveIds_clean : ∀ (is : List Nat) {s : State}, (∀ r ∈ s.stores, CleanStore s r) →
    let t := is.foldl (fun s i => serveId i s) s
    t.stores = s.stores.filter (fun x => x.id ∉ is) ∧ t.faults = s.faults
  | [], s, _ => by simp
  | i :: is, s, h => by
    obtain ⟨hs, hf⟩ := serveId_clean h i
    obtain ⟨hs', hf'⟩ := serveIds_clean is (s := serveId i s) fun r hr =>
      (cleanStore_of_kept (serveId_kept i s) r).2 (h r (List.mem_of_mem_filter (hs ▸ hr)))
    refine ⟨?_, hf'.trans hf⟩
    rw [List.foldl_cons, hs', hs, List.filter_filter]
    refine List.filter_congr fun r _ => ?_
    simp [Bool.and_comm]
/-- A gang whose stores meet no error has none on their way after a drain, and no record comes of it. -/
theorem drainOwn_clean {s : State} (h : ∀ r ∈ s.stores, CleanStore s r) (u : Nat) :
    (∀ r ∈ (drainOwn u s).stores, r.uid ≠ u) ∧ (drainOwn u s).faults = s.faults := by
  obtain ⟨hs, hf⟩ := serveIds_clean (onWay s u) h
  refine ⟨fun r hr hu => ?_, hf⟩
  obtain ⟨hm, hn⟩ := List.mem_filter.1 (hs ▸ hr : r ∈ s.stores.filter _)
  have hway : r.id ∈ onWay s u :=
    mem_sortNat_iff.2 (List.mem_append_left _ (List.mem_map.2 ⟨r, List.mem_filter.2 ⟨hm, by simp [hu]⟩, rfl⟩))
  exact (of_decide_eq_true hn) hway

/-! The wait for stores -/

section FenceStores

variable {s : State} (k : State → State)

theorem fenceStores_goes (h : (∀ f ∈ (drainOwn s.g.uid s).faults, f.uid ≠ (drainOwn s.g.uid s).g.uid) ∨ (drainOwn s.g.uid s).g.inh = true) :
    fenceStores k s = k (drainOwn s.g.uid s) := by
  unfold fenceStores
  generalize drainOwn s.g.uid s = u at h ⊢
  rcases h with hf | hi
  · have hq : (faultQueueOf u (unitOf 1 u.g.at_)).find? (fun f => f.uid = u.g.uid) = none :=
      List.find?_eq_none.2 fun f hm => by simpa using hf f (List.mem_of_mem_filter (List.mem_of_mem_take hm))
    have ha : u.faults.any (fun f => f.uid = u.g.uid) = false := List.any_eq_false.2 fun f hm => by simpa using hf f hm
    simp [hq, ha]
  · simp [hi]
theorem fenceStores_traps {f : StoreFault} (hi : (drainOwn s.g.uid s).g.inh = false)
    (hf : (faultQueueOf (drainOwn s.g.uid s) (unitOf 1 (drainOwn s.g.uid s).g.at_)).find? (fun f => f.uid = (drainOwn s.g.uid s).g.uid) = some f) :
    fenceStores k s = deliverFault f (pcOf (drainOwn s.g.uid s)) (drainOwn s.g.uid s) := by
  simp [fenceStores, hi, hf]
theorem fenceStores_stalls {f : StoreFault} (hi : (drainOwn s.g.uid s).g.inh = false) (hm : f ∈ (drainOwn s.g.uid s).faults)
    (hu : f.uid = (drainOwn s.g.uid s).g.uid)
    (hq : ∀ k ∈ faultQueueOf (drainOwn s.g.uid s) (unitOf 1 (drainOwn s.g.uid s).g.at_), k.uid ≠ (drainOwn s.g.uid s).g.uid) :
    fenceStores k s = stall (drainOwn s.g.uid s) := by
  have hn : (faultQueueOf (drainOwn s.g.uid s) (unitOf 1 (drainOwn s.g.uid s).g.at_)).find? (fun f => f.uid = (drainOwn s.g.uid s).g.uid) = none :=
    List.find?_eq_none.2 fun f hm => by simpa using hq f hm
  have ha : (drainOwn s.g.uid s).faults.any (fun f => f.uid = (drainOwn s.g.uid s).g.uid) = true := List.any_eq_true.2 ⟨f, hm, by simpa using hu⟩
  simp [fenceStores, hi, hn, ha]

end FenceStores

theorem entered_deliverFault {s : State} (h : Delivers s) (f : StoreFault) : Entered f.cause f.addr f.info (pcOf s) s (deliverFault f (pcOf s) s) := by
  have h' := entered_raise (s := { s with faults := s.faults.erase f }) h ⟨f.cause, f.addr, f.info⟩
  exact h'

/-- How each instruction goes on that waits for the gang's stores. -/
def afterStores (l : Level) : Instr → State → State
  | .fencePub _ => fun s => next (publish (scopeOf s l) s)
  | .fenceAr _ => fun s => next (acquire (scopeOf s l) (publish (scopeOf s l) s))
  | _ => next
theorem exec_fences (s : State) (l : Level) : ∀ i ∈ [Instr.fencePub l, .fenceAr l, .drain], exec i s = .next (fenceStores (afterStores l i) s) := by
  have hp : exec (.fencePub l) s = execFencePub l s := rfl
  have ha : exec (.fenceAr l) s = execFenceAr l s := rfl
  have hd : exec .drain s = execDrain s := rfl
  simp only [List.forall_mem_cons, hp, ha, hd]
  exact ⟨rfl, rfl, rfl, by simp⟩

theorem fencesPublishAndAcquire : Claims.FencesPublishAndAcquire := by
  intro s l u lv
  have hex := exec_fences s l
  refine ⟨rfl, fun h => ⟨?_, ?_⟩, fun f hf hd i hi => ?_, fun f hm hu hi hq i hin => ?_⟩
  · rw [hex (.fencePub l) (by simp), fenceStores_goes _ h]
    rfl
  · rw [hex (.fenceAr l) (by simp), fenceStores_goes _ h]
    rfl
  · refine ⟨deliverFault f (pcOf u) u, ?_, entered_deliverFault hd f⟩
    rw [hex i hi, fenceStores_traps _ hd.1 hf]
  · rw [hex i hin, fenceStores_stalls _ hi hm hu hq]

/-! `pfence` -/

/-- What a `pfence` fixes for one location of the view. -/
def fixPath (m : BitVec 4) (f : Cells Nat) (e : Nat × Nat) : Cells Nat :=
  [1, 2, 3].foldl (fun f p => if m.getLsbD p then cset 0 f (e.1 * 4 + p) (max e.2 (cget 0 f (e.1 * 4 + p))) else f) f

theorem fixPaths_eq (m : BitVec 4) (v f : Cells Nat) : fixPaths m v f = v.foldl (fixPath m) f := rfl
/-- A read that is not the default comes from an entry. -/
theorem mem_of_cget : ∀ {v : Cells Nat} {l : Nat}, cget 0 v l ≠ 0 → (l, cget 0 v l) ∈ v
  | [], _, h => absurd rfl h
  | (j, x) :: r, l, h => by
    by_cases hj : j = l
    · simp [cget, hj]
    · simp only [cget, if_neg hj] at h ⊢
      exact List.mem_cons_of_mem _ (mem_of_cget h)
theorem viewLe_fixOne (m : BitVec 4) (e : Nat × Nat) (f : Cells Nat) (p : Nat) :
    ViewLe f (if m.getLsbD p then cset 0 f (e.1 * 4 + p) (max e.2 (cget 0 f (e.1 * 4 + p))) else f) := by
  split
  · rw [max_comm]
    exact viewLe_cset_max f _ _
  · exact ViewLe.refl f
/-- Every selected path is fixed at what the view holds (04 R150). -/
theorem le_fixPaths {m : BitVec 4} {p : Nat} (h1 : 1 ≤ p) (h3 : p ≤ 3) (hm : m.getLsbD p = true) (v f : Cells Nat) (l : Nat) :
    cget 0 v l ≤ cget 0 (fixPaths m v f) (l * 4 + p) := by
  rcases Nat.eq_zero_or_pos (cget 0 v l) with h0 | hpos
  · rw [h0]
    exact Nat.zero_le _
  · rw [fixPaths_eq]
    refine le_foldl_of_mem (fun f e => viewLe_foldl (viewLe_fixOne m e) _ f) (fun f => ?_) (mem_of_cget hpos.ne') f
    refine le_foldl_of_mem (viewLe_fixOne m _) (x := p) (fun f => ?_) (by simp; omega) f
    rw [if_pos hm, max_comm]
    exact le_cget_cset_max f _ _ _

theorem exec_pref {s : State} (a : Reg) {f : AddrForm} (h : Holds s.g (addrRegs f)) : exec (.pref a f) s = .next (done [] s) := by
  show execPref a f s = _
  rw [execPref, blockTrap_none _ _ h]
  rfl
theorem drain_clean {s : State} (hf : s.faults = []) (hs : ∀ r ∈ s.stores, CleanStore s r) :
    Runs .drain s (fun t => (∀ r ∈ t.stores, r.uid ≠ s.g.uid) ∧ pcOf t = pcOf s + 4 ∧ t.g.s = s.g.s) := by
  obtain ⟨hst, hfa⟩ := drainOwn_clean hs s.g.uid
  have hk := drainOwn_kept s.g.uid s
  refine ⟨next (drainOwn s.g.uid s), congrArg _ (fenceStores_goes _ (.inl fun f hm => ?_)), hst,
    (pcOf_next _).trans (congrArg (· + 4) (pcOf_of_kept hk)), (congrArg Gang.s (gangKept_of_kept hk) :)⟩
  simp [hfa, hf] at hm
theorem exec_pfence {m : BitVec 4} (hm : m.getLsbD 0 = false) (s : State) : exec (.pfence m) s = .next (next (refresh m s)) := by
  show execPfence m s = _
  rw [execPfence, hm]
  rfl
theorem refresh_latches {m : BitVec 4} (h2 : m.getLsbD 2 = true) {s : State} {q : Latch} (hq : q ∈ (refresh m s).latches)
    (ha : q.at_ = unitOf 2 s.g.at_) : q.valid = false := by
  simp only [refresh, h2, if_true] at hq
  obtain ⟨x, _, rfl⟩ := List.mem_map.1 hq
  by_cases hx : x.at_ = unitOf 2 s.g.at_
  · rw [if_pos (decide_eq_true hx)]
  · rw [if_neg (by simpa using hx)] at ha
    exact absurd ha hx
theorem refresh_latches_stay {m : BitVec 4} (h2 : m.getLsbD 2 = false) (s : State) : (refresh m s).latches = s.latches := by
  simp only [refresh, h2]
  rfl

theorem fencesAndPrefetches : Claims.FencesAndPrefetches := by
  intro s a f m
  refine ⟨exec_pref a, drain_clean, fun hm => ⟨_, exec_pfence hm s, rfl, rfl, rfl, pcOf_next _, fun l p _ h1 h3 hp => ?_, fun h2 q => ?_, fun h2 => ?_⟩⟩
  · exact le_fixPaths h1 h3 hp _ _ l
  · exact refresh_latches h2
  · exact refresh_latches_stay h2 s

/-- Settles O44: a drain serves every store of the gang, after which a fence goes on, traps or waits as the records say, and
a `pfence` only raises what is fixed. -/
theorem fencesOrderMemory : Obligations.FencesOrderMemory := ⟨fencesAndPrefetches, fencesPublishAndAcquire⟩

end Sys2Proof.Proofs
end

section
/-! SUPPORT. Launches that lie beneath others, children that complete, and what a cancel reaches (02 R59, R85 to R88). -/

namespace Sys2Proof.Proofs

open Sys2Proof.Machine Sys2Proof.Claims Sys2Proof.Laws

/-! The launches beneath a set of launches -/

/-- Whether a launch was issued directly beneath a set of launches to which it does not belong. -/
def justBeneath (ids : List Nat) (l : Launch) : Bool := match l.parent with
  | some p => ids.contains p && !ids.contains l.id
  | none => false
theorem subtree_succ (ls : List Launch) (n : Nat) (ids : List Nat) :
    subtree ls (n + 1) ids = subtree ls n (ids ++ (ls.filter (justBeneath ids)).map (·.id)) := rfl
theorem justBeneath_iff {ids : List Nat} {l : Launch} : justBeneath ids l = true ↔ ∃ p ∈ ids, l.parent = some p ∧ l.id ∉ ids := by
  unfold justBeneath
  cases l.parent <;> simp

theorem subset_subtree (ls : List Launch) : ∀ (n : Nat) (ids : List Nat), ids ⊆ subtree ls n ids
  | 0, _ => List.Subset.refl _
  | n + 1, _ => List.Subset.trans (List.subset_append_left _ _) (subset_subtree ls n _)
theorem subtree_of_closed {ls : List Launch} {ids : List Nat} (h : ls.filter (justBeneath ids) = []) : ∀ n, subtree ls n ids = ids
  | 0 => rfl
  | n + 1 => by rw [subtree_succ, h, List.map_nil, List.append_nil, subtree_of_closed h n]

/-- The launches that do not belong to a set. -/
def outside (ls : List Launch) (ids : List Nat) : List Launch := ls.filter (fun l => !ids.contains l.id)
theorem outside_append (ls : List Launch) (ids new : List Nat) : outside ls (ids ++ new) = (outside ls ids).filter (fun l => !new.contains l.id) := by
  rw [outside, outside, List.filter_filter]
  exact List.filter_congr fun l _ => by simp [Bool.and_comm]
theorem mem_outside_of_justBeneath {ls : List Launch} {ids : List Nat} {l : Launch} (h : l ∈ ls.filter (justBeneath ids)) : l ∈ outside ls ids := by
  obtain ⟨hl, hj⟩ := List.mem_filter.1 h
  obtain ⟨_, _, _, hn⟩ := justBeneath_iff.1 hj
  exact List.mem_filter.2 ⟨hl, by simpa using hn⟩
/-- With as many rounds as launches stand outside, every launch that was issued beneath one of the set belongs to it. -/
theorem subtree_closed {ls : List Launch} :
    ∀ {n : Nat} {ids : List Nat}, (outside ls ids).length ≤ n → ls.filter (justBeneath (subtree ls n ids)) = []
  | n, ids, h => by
    cases hf : ls.filter (justBeneath ids) with
    | nil => rw [subtree_of_closed hf, hf]
    | cons x xs =>
      have hx : x ∈ outside ls ids := mem_outside_of_justBeneath (hf ▸ List.mem_cons_self)
      cases n with
      | zero => exact absurd hx (by simp [List.eq_nil_of_length_eq_zero (Nat.le_zero.1 h)])
      | succ n =>
        rw [subtree_succ]
        refine subtree_closed (Nat.le_of_lt_succ (lt_of_lt_of_le ?_ h))
        rw [outside_append, List.length_filter_lt_length_iff_exists]
        exact ⟨x, hx, by simp [hf]⟩
/-- A cancel of launches reaches every launch that was issued beneath them (02 R85). -/
theorem mem_subtree {ls : List Launch} {ids : List Nat} {i j : Nat} (hi : i ∈ ids)
    (h : Relation.ReflTransGen (fun i j => ∃ y ∈ ls, y.id = j ∧ y.parent = some i) i j) : j ∈ subtree ls ls.length ids := by
  induction h with
  | refl => exact subset_subtree ls _ ids hi
  | tail _ hstep ih =>
    obtain ⟨y, hy, rfl, hp⟩ := hstep
    by_contra hn
    have hm := List.mem_filter.2 ⟨hy, justBeneath_iff.2 ⟨_, ih, hp, hn⟩⟩
    rw [subtree_closed (List.length_filter_le _ _)] at hm
    exact List.not_mem_nil hm

/-! What a cancel and a completed child leave -/

/-- The machine without what the cancels and the ends of children change. -/
def treeKept (s : State) : State :=
  { s with g := {}, others := [], images := [], scratch := [], launches := [], rgetQ := [], poolQ := [], qwaits := [], tickets := [] }

/-- A launch that has not completed, later: the same one, with no further child to start. -/
structure Later (x y : Launch) : Prop where
  id : y.id = x.id
  completed : y.completed = x.completed
  cancelled : y.cancelled = x.cancelled
  waiting : .waiting ∈ y.children → .waiting ∈ x.children
theorem Later.refl (x : Launch) : Later x x := ⟨rfl, rfl, rfl, fun h => h⟩
theorem Later.trans {x y z : Launch} (h : Later x y) (k : Later y z) : Later x z :=
  ⟨k.id.trans h.id, k.completed.trans h.completed, k.cancelled.trans h.cancelled, h.waiting ∘ k.waiting⟩

/-- What children that end keep of the machine: the running gang that issues, the launches that have not completed, and no other gang or
launch comes. -/
structure Ends (s t : State) : Prop where
  kept : treeKept t = treeKept s
  g : s.g.phase = .running → t.g = s.g
  others : t.others ⊆ s.others
  launch : ∀ x ∈ s.launches, x.completed = false → ∃ y ∈ t.launches, Later x y
  ids : ∀ y ∈ t.launches, ∃ x ∈ s.launches, y.id = x.id
theorem Ends.refl (s : State) : Ends s s :=
  ⟨rfl, fun _ => rfl, List.Subset.refl _, fun x hx _ => ⟨x, hx, Later.refl x⟩, fun y hy => ⟨y, hy, rfl⟩⟩
theorem Ends.trans {s t u : State} (h : Ends s t) (k : Ends t u) : Ends s u where
  kept := k.kept.trans h.kept
  g hr := (k.g (by rwa [h.g hr])).trans (h.g hr)
  others := List.Subset.trans k.others h.others
  launch x hx hc := by
    obtain ⟨y, hy, hxy⟩ := h.launch x hx hc
    obtain ⟨z, hz, hyz⟩ := k.launch y hy (hxy.completed.trans hc)
    exact ⟨z, hz, hxy.trans hyz⟩
  ids z hz := by
    obtain ⟨y, hy, e⟩ := k.ids z hz
    obtain ⟨x, hx, e'⟩ := h.ids y hy
    exact ⟨x, hx, e.trans e'⟩
theorem Ends.foldl {α : Type} {f : State → α → State} (hf : ∀ s a, Ends s (f s a)) : ∀ (l : List α) (s : State), Ends s (l.foldl f s)
  | [], s => Ends.refl s
  | a :: l, s => (hf s a).trans (Ends.foldl hf l _)
/-- Launches change one by one, and each is still itself. -/
theorem Ends.of_map {s t : State} {f : Launch → Launch} (hf : ∀ x, Later x (f x)) (hk : treeKept t = treeKept s) (hg : t.g = s.g)
    (ho : t.others = s.others) (hl : t.launches = s.launches.map f) : Ends s t where
  kept := hk
  g _ := hg
  others := ho ▸ List.Subset.refl _
  launch x hx _ := ⟨f x, hl ▸ List.mem_map_of_mem hx, hf x⟩
  ids y hy := by
    obtain ⟨x, hx, rfl⟩ := List.mem_map.1 (hl ▸ hy)
    exact ⟨x, hx, (hf x).id⟩
theorem ends_dropWaits (u : Nat) (s : State) : Ends s (dropWaits u s) :=
  Ends.of_map (f := fun l => { l with arrived := l.arrived.filter (fun v => v ≠ u) }) (fun _ => ⟨rfl, rfl, rfl, fun h => h⟩) rfl rfl rfl rfl

/-- Whether a gang issued a launch. -/
def issuedBy (u : Nat) (l : Launch) : Bool := (l.issuer.map (·.1)) = some u
/-- Whether the child that gang `g` leads completes. -/
def canClose (s : State) (g : Gang) : Bool :=
  g.phase = .ended && !(s.launches.any (fun l => issuedBy g.uid l && !l.completed)) && !(s.carts.any (fun c => c.uid = g.uid))
/-- How the fate of gang `g`'s child enters its launch, with the writes `sub` of its subtree. -/
def enterFate (g : Gang) (fate : Child) (sub : List (Nat × Coords × Cells Nat)) (x : Launch) : Launch :=
  { x with children := x.children.set g.child fate, sub := x.sub ++ sub }
/-- The launches once the child of gang `g` has completed: those that it issued are gone. -/
def closedLaunches (g : Gang) (s : State) : List Launch :=
  let gone := s.launches.filter (issuedBy g.uid)
  upd (fun x => x.id = g.launch) (enterFate g (childFate s g) ((g.uid, g.at_, g.own) :: gone.flatMap (·.sub)))
    ((s.launches.filter (fun l => !issuedBy g.uid l)).map (reparent gone))
/-- The machine once the child that gang `g` leads has completed. -/
def closed (g : Gang) (s : State) : State :=
  let own (w : Scratch) : Bool := w.launch = g.launch && w.child = g.child
  { s with
    g := if s.g.uid = g.uid then {} else s.g
    others := s.others.filter (fun h => h.uid ≠ g.uid)
    scratch := s.scratch.filter (fun w => !own w)
    images := s.images.map (fun i => { i with spad := i.spad.filter (fun w => !own w.1) })
    launches := closedLaunches g s }

theorem uid_of_gangOf {s : State} {u : Nat} {g : Gang} (h : gangOf s u = some g) : g.uid = u ∧ g.phase ≠ .free := by
  simpa using List.find?_some h
theorem closeChild_eq (u : Nat) (s : State) :
    closeChild u s = ((gangOf s u).map (fun g => if canClose s g then closed g s else s)).getD s := by
  unfold closeChild
  cases hg : gangOf s u with
  | none => rfl
  | some g =>
    obtain ⟨rfl, _⟩ := uid_of_gangOf hg
    have hc : (g.phase ≠ .ended || s.launches.any (fun l => issuedBy g.uid l && !l.completed) || s.carts.any (fun c => c.uid = g.uid)) =
        !canClose s g := by
      simp [canClose, Bool.not_and]
    simp only [Option.map_some, Option.getD_some]
    cases hk : canClose s g with
    | true => exact if_neg (by rw [hk] at hc; exact Bool.not_eq_true _ ▸ hc)
    | false => exact if_pos (hc.trans (by rw [hk]; rfl))

theorem childFate_ne (s : State) (g : Gang) : childFate s g ≠ .waiting := by
  unfold childFate
  split
  · exact Child.noConfusion
  · split <;> exact Child.noConfusion
theorem later_reparent (gone : List Launch) (x : Launch) : Later x (reparent gone x) := by
  unfold reparent
  split <;> exact ⟨rfl, rfl, rfl, fun h => h⟩
theorem later_enterFate (g : Gang) {fate : Child} (hf : fate ≠ .waiting) (sub : List (Nat × Coords × Cells Nat)) (x : Launch) :
    Later x (enterFate g fate sub x) :=
  ⟨rfl, rfl, rfl, fun h => (List.mem_or_eq_of_mem_set h).resolve_right hf.symm⟩
theorem later_upd {p : Launch → Bool} {f : Launch → Launch} (hf : ∀ x, Later x (f x)) (x : Launch) : Later x (if p x then f x else x) := by
  split
  · exact hf x
  · exact Later.refl x
/-- One launch that stays as the child of gang `g` completes. -/
def closeLaunch (g : Gang) (s : State) (x : Launch) : Launch :=
  let gone := s.launches.filter (issuedBy g.uid)
  let y := reparent gone x
  if decide (y.id = g.launch) then enterFate g (childFate s g) ((g.uid, g.at_, g.own) :: gone.flatMap (·.sub)) y else y
theorem closedLaunches_eq (g : Gang) (s : State) :
    closedLaunches g s = (s.launches.filter (fun l => !issuedBy g.uid l)).map (closeLaunch g s) := List.map_map
theorem later_closeLaunch (g : Gang) (s : State) (x : Launch) : Later x (closeLaunch g s x) :=
  (later_reparent _ x).trans (later_upd (p := fun y => y.id = g.launch) (later_enterFate g (childFate_ne s g) _) _)
theorem ends_closed {s : State} {g : Gang} (hg : s.g.phase = .running → s.g.uid ≠ g.uid) (hc : canClose s g = true) : Ends s (closed g s) := by
  have hls : (closed g s).launches = _ := closedLaunches_eq g s
  refine ⟨rfl, fun hr => if_neg (hg hr), fun h hh => List.mem_of_mem_filter hh, fun x hx hn => ?_, fun y hy => ?_⟩
  · have hmine : issuedBy g.uid x = false := by
      simp only [canClose, Bool.and_eq_true, Bool.not_eq_true', List.any_eq_false] at hc
      simpa [hn] using hc.1.2 x hx
    rw [hls]
    exact ⟨_, List.mem_map_of_mem (List.mem_filter.2 ⟨hx, by simp [hmine]⟩), later_closeLaunch g s x⟩
  · obtain ⟨x, hx, rfl⟩ := List.mem_map.1 (hls ▸ hy)
    exact ⟨x, List.mem_of_mem_filter hx, (later_closeLaunch g s x).id⟩
theorem ends_closeChild (u : Nat) (s : State) : Ends s (closeChild u s) := by
  rw [closeChild_eq]
  cases hg : gangOf s u with
  | none => exact Ends.refl s
  | some g =>
    show Ends s (if canClose s g then closed g s else s)
    split
    · next hc =>
      refine ends_closed (fun hr he => ?_) hc
      have hs : gangOf s u = some s.g := List.find?_cons_of_pos (by simp [hr, he, (uid_of_gangOf hg).1])
      have hend : g.phase = .ended := by
        simp only [canClose, Bool.and_eq_true, decide_eq_true_eq] at hc
        exact hc.1.1
      rw [Option.some.inj (hg.symm.trans hs), hr] at hend
      exact absurd hend (by decide)
    · exact Ends.refl s

/-- A completed launch of one of the gangs `us` frees its record. -/
def freeRecord (us : List Nat) (l : Launch) : Launch :=
  if l.completed && (l.issuer.map (fun i => us.contains i.1)).getD false then { l with record := false } else l
theorem ends_closeDead (us : List Nat) (s : State) : Ends s (closeDead us s) := by
  unfold closeDead
  refine Ends.trans ?_ (Ends.foldl (fun s u => ends_closeChild u s) us _)
  exact Ends.of_map (f := freeRecord us) (later_upd fun _ => ⟨rfl, rfl, rfl, fun h => h⟩) rfl rfl rfl rfl

/-! What a cancel reaches -/

/-- Whether a launch has something left that a cancel stops: a child that has not started, or a leader that runs. -/
def HasOpen (s : State) (x : Launch) : Prop :=
  .waiting ∈ x.children ∨ ∃ u g, .running u ∈ x.children ∧ gangOf s u = some g ∧ g.phase = .running
theorem stoppable_of_hasOpen {s : State} {x : Launch} (saved : List Gang) (hx : x ∈ s.launches) (hc : x.completed = false) (ho : HasOpen s x) :
    stoppable s saved x = true := by
  have hin : x.id ∈ subtree s.launches s.launches.length [x.id] := subset_subtree _ _ _ List.mem_cons_self
  refine List.any_eq_true.2 ⟨x, List.mem_filter.2 ⟨hx, by simp [hin, hc]⟩, List.any_eq_true.2 ?_⟩
  obtain hw | ⟨u, g, hu, hg, hr⟩ := ho
  · exact ⟨_, hw, rfl⟩
  · exact ⟨_, hu, by simp [hg, hr]⟩

/-- A launch that has been cancelled as far as it could be: no child is left to start, and it counts as cancelled if a cancel found something to stop. -/
structure Stopped (s : State) (x y : Launch) : Prop where
  id : y.id = x.id
  completed : y.completed = false
  waiting : .waiting ∉ y.children
  cancelled : HasOpen s x → y.cancelled = true
theorem Stopped.later {s : State} {x y z : Launch} (h : Stopped s x y) (k : Later y z) : Stopped s x z :=
  ⟨k.id.trans h.id, k.completed.trans h.completed, h.waiting ∘ k.waiting, fun ho => k.cancelled.trans (h.cancelled ho)⟩

/-- The machine without what a cancel changes. -/
def cancelKept (s : State) : State := { treeKept s with queues := [] }
theorem cancelKept_of_treeKept {s t : State} (h : treeKept t = treeKept s) : cancelKept t = cancelKept s :=
  congrArg (fun u : State => { u with queues := [] }) h
/-- What a cancel of launches reaches: those of `p`, with their gangs; the rest of the machine is as before. -/
structure Cancels (s t : State) (p : Launch → Prop) : Prop where
  kept : cancelKept t = cancelKept s
  launch : ∀ x ∈ s.launches, p x → x.completed = false → ∃ y ∈ t.launches, Stopped s x y
  others : ∀ x ∈ s.launches, p x → ∀ g ∈ t.others, g.launch = x.id → g.phase = .running → g.cancelled = true

section CancelLaunches

variable (ids0 : List Nat) (s : State)

/-- The launches that a cancel covers. -/
def cancelIds : List Nat := subtree s.launches s.launches.length ids0
/-- The gangs in save images that a cancel reaches. -/
def cancelSaved : List Gang :=
  s.images.flatMap (fun i => i.gangs.filter (fun g => (cancelIds ids0 s).contains g.launch && !i.stopped.contains g.uid))
/-- A launch once a cancel has marked it, if it covers it. -/
def markLaunch (l : Launch) : Launch :=
  if (cancelIds ids0 s).contains l.id && !l.completed && stoppable s (cancelSaved ids0 s) l then cancelOne l else l
/-- A gang once a cancel has marked it, if it covers its launch. -/
def markGang (g : Gang) : Gang :=
  if inSlot g && (cancelIds ids0 s).contains g.launch then { g with cancelled := true, stopping := false } else g
/-- The machine once a cancel has marked the launches, and no gang of them waits any more. -/
def marked : State :=
  ((gangs s).filter (fun g => g.phase = .running && (cancelIds ids0 s).contains g.launch)).foldl (fun t g => dropWaits g.uid t)
    { s with launches := s.launches.map (markLaunch ids0 s) }
/-- The machine once a cancel has marked launches and gangs, and saved gangs of them have ended. -/
def struck : State :=
  { onGangs (markGang ids0 s) (marked ids0 s) with
    others := (onGangs (markGang ids0 s) (marked ids0 s)).others ++ (cancelSaved ids0 s).map (fun g => deadGang (cCancelled, g.level) g)
    images := s.images.map (fun i => { i with
      stopped := i.stopped ++ ((i.gangs.filter (fun g => (cancelIds ids0 s).contains g.launch && !i.stopped.contains g.uid))).map (·.uid) }) }
theorem cancelLaunches_eq : cancelLaunches ids0 s = closeDead ((cancelSaved ids0 s).map (·.uid)) (struck ids0 s) := rfl

variable {ids0 s}

theorem marked_gangs : (marked ids0 s).g = s.g ∧ (marked ids0 s).others = s.others :=
  ⟨foldl_keeps State.g (by intros; rfl) _ _, foldl_keeps State.others (by intros; rfl) _ _⟩
theorem ends_marked : Ends { s with launches := s.launches.map (markLaunch ids0 s) } (marked ids0 s) :=
  Ends.foldl (fun t (g : Gang) => ends_dropWaits g.uid t) _ _
theorem stopped_markLaunch {x : Launch} (hx : x ∈ s.launches) (hi : x.id ∈ cancelIds ids0 s) (hc : x.completed = false) :
    Stopped s x (markLaunch ids0 s x) := by
  unfold markLaunch
  split
  · have he : cancelOne x = { x with cancelled := true, children := (cancelOne x).children } := by simp [cancelOne, hc]
    have hw : .waiting ∉ (cancelOne x).children := by
      simp only [cancelOne, hc, Bool.false_eq_true, if_false, List.mem_map, not_exists, not_and]
      intro c _
      cases c <;> exact Child.noConfusion
    rw [he]
    exact ⟨rfl, hc, hw, fun _ => rfl⟩
  · next hn =>
    have hno : ¬ HasOpen s x := fun ho => hn (by simp [hi, hc, stoppable_of_hasOpen _ hx hc ho])
    exact ⟨rfl, hc, fun hw => hno (.inl hw), fun ho => absurd ho hno⟩
theorem id_markLaunch (x : Launch) : (markLaunch ids0 s x).id = x.id := by
  unfold markLaunch cancelOne
  split
  · split <;> rfl
  · rfl
theorem cancelled_markGang {g : Gang} (hr : g.phase = .running) (hl : g.launch ∈ cancelIds ids0 s) :
    markGang ids0 s g = { g with cancelled := true, stopping := false } := by
  simp [markGang, inSlot, hr, hl]
theorem markGang_keeps (g : Gang) : (markGang ids0 s g).phase = g.phase ∧ (markGang ids0 s g).launch = g.launch := by
  unfold markGang
  split <;> exact ⟨rfl, rfl⟩
theorem deadGang_phase (f : Nat × Nat) (g : Gang) : (deadGang f g).phase = .ended := rfl

/-- A gang that runs after a cancel, with a launch that it covers, is marked. -/
theorem struck_others {g : Gang} (hg : g ∈ (struck ids0 s).others) (hr : g.phase = .running) (hl : g.launch ∈ cancelIds ids0 s) :
    g.cancelled = true := by
  obtain hm | hd := List.mem_append.1 hg
  · obtain ⟨h, _, rfl⟩ := List.mem_map.1 hm
    obtain ⟨hp, hla⟩ := markGang_keeps (ids0 := ids0) (s := s) h
    rw [cancelled_markGang (hp ▸ hr) (hla ▸ hl)]
  · obtain ⟨h, _, rfl⟩ := List.mem_map.1 hd
    exact absurd hr (by rw [deadGang_phase]; decide)
theorem ends_cancelLaunches : Ends (struck ids0 s) (cancelLaunches ids0 s) := ends_closeDead _ _

theorem cancelLaunches_kept : treeKept (cancelLaunches ids0 s) = treeKept s :=
  (ends_cancelLaunches (ids0 := ids0)).kept.trans (ends_marked (ids0 := ids0) (s := s)).kept
theorem cancelLaunches_cancels {p : Launch → Prop} (hp : ∀ x ∈ s.launches, p x → x.id ∈ cancelIds ids0 s) :
    Cancels s (cancelLaunches ids0 s) p := by
  have he : Ends (struck ids0 s) (cancelLaunches ids0 s) := ends_cancelLaunches
  have hm : Ends _ (marked ids0 s) := ends_marked
  refine ⟨cancelKept_of_treeKept cancelLaunches_kept, fun x hx hpx hc => ?_, fun x hx hpx g hg hl hr => ?_⟩
  · have hs := stopped_markLaunch hx (hp x hx hpx) hc
    obtain ⟨y, hy, hxy⟩ := hm.launch _ (List.mem_map_of_mem hx) hs.completed
    obtain ⟨z, hz, hyz⟩ := he.launch y hy (hxy.completed.trans hs.completed)
    exact ⟨z, hz, (hs.later hxy).later hyz⟩
  · exact struck_others (he.others hg) hr (hl ▸ hp x hx hpx)
theorem cancelLaunches_g (hr : s.g.phase = .running) (hl : s.g.launch ∈ cancelIds ids0 s) :
    (cancelLaunches ids0 s).g = { s.g with cancelled := true, stopping := false } := by
  have hg : (struck ids0 s).g = { s.g with cancelled := true, stopping := false } := by
    exact (congrArg (markGang ids0 s) marked_gangs.1).trans (cancelled_markGang hr hl)
  have he : Ends (struck ids0 s) (cancelLaunches ids0 s) := ends_cancelLaunches
  exact (he.g (by rw [hg]; exact hr)).trans hg
/-- A cancel makes no new launch. -/
theorem cancelLaunches_ids {y : Launch} (hy : y ∈ (cancelLaunches ids0 s).launches) : ∃ x ∈ s.launches, y.id = x.id := by
  obtain ⟨z, hz, e⟩ := ends_cancelLaunches.ids y hy
  obtain ⟨w, hw, e'⟩ := ends_marked.ids z hz
  obtain ⟨x, hx, rfl⟩ := List.mem_map.1 hw
  exact ⟨x, hx, (e.trans e').trans (id_markLaunch x)⟩

end CancelLaunches

section CancelWhole

variable {pkg job : Nat} {graph : Option Nat} {s : State}

/-- A launch or record of a package and a graph is of the job's part that a cancel names. -/
def Named (pkg : Nat) (graph : Option Nat) (p gr : Nat) : Prop := p = pkg ∧ ∀ k, graph = some k → gr = k
/-- Whether a cancel of a whole job or graph covers what stands on a package, in a graph. -/
def wholeHit (pkg job : Nat) (graph : Option Nat) (s : State) (p gr : Nat) : Bool := match graph with
  | some k => k = gr && p = pkg
  | none => sameJob s job pkg p
theorem wholeHit_of_named {p gr : Nat} (h : Named pkg graph p gr) : wholeHit pkg job graph s p gr = true := by
  obtain ⟨rfl, hk⟩ := h
  cases graph with
  | none => simp [wholeHit, sameJob]
  | some k => simp [wholeHit, hk k rfl]
/-- The launches that a cancel of a whole job or graph starts from. -/
def wholeRoots (pkg job : Nat) (graph : Option Nat) (s : State) : List Nat :=
  (s.launches.filter (fun l => l.job = job && wholeHit pkg job graph s l.pkg l.graph)).map (·.id)
theorem mem_wholeRoots {x : Launch} (hx : x ∈ s.launches) (hj : x.job = job) (hn : Named pkg graph x.pkg x.graph) :
    x.id ∈ cancelIds (wholeRoots pkg job graph s) s :=
  subset_subtree _ _ _ (List.mem_map_of_mem (List.mem_filter.2 ⟨hx, by simp [hj, wholeHit_of_named hn]⟩))
/-- A queue once a cancel of a whole job or graph has marked its records. -/
def wholeQueue (pkg job : Nat) (graph : Option Nat) (s : State) (q : LQueue) : LQueue :=
  { q with recs := upd (fun r => wholeHit pkg job graph s q.pkg r.graph) (fun r => { r with cancelled := true }) q.recs }
theorem cancelWhole_eq : cancelWhole pkg job graph s = { cancelLaunches (wholeRoots pkg job graph s) s with
    queues := upd (fun q => q.job = job) (wholeQueue pkg job graph s) s.queues } := rfl
theorem cancelWhole_cancels : Cancels s (cancelWhole pkg job graph s) (fun x => x.job = job ∧ Named pkg graph x.pkg x.graph) := by
  obtain ⟨hk, hl, ho⟩ := cancelLaunches_cancels (s := s) (ids0 := wholeRoots pkg job graph s)
    (p := fun x => x.job = job ∧ Named pkg graph x.pkg x.graph) fun x hx h => mem_wholeRoots hx h.1 h.2
  rw [cancelWhole_eq]
  exact ⟨hk, hl, ho⟩
theorem cancelWhole_g (hr : s.g.phase = .running) {x : Launch} (hx : x ∈ s.launches) (hi : x.id = s.g.launch) (hj : x.job = job)
    (hn : Named pkg graph x.pkg x.graph) : (cancelWhole pkg job graph s).g = { s.g with cancelled := true, stopping := false } :=
  cancelLaunches_g hr (hi ▸ mem_wholeRoots hx hj hn)
theorem cancelWhole_queues {q : LQueue} (hq : q ∈ (cancelWhole pkg job graph s).queues) (hj : q.job = job) {c : QRec} (hc : c ∈ q.recs)
    (hn : Named pkg graph q.pkg c.graph) : c.cancelled = true := by
  rw [cancelWhole_eq] at hq
  obtain ⟨r, _, rfl⟩ := List.mem_map.1 hq
  by_cases hr : r.job = job
  · rw [if_pos (decide_eq_true hr)] at hc hn
    obtain ⟨d, _, rfl⟩ := List.mem_map.1 hc
    by_cases hd : wholeHit pkg job graph s r.pkg d.graph = true
    · rw [if_pos hd]
    · rw [if_neg hd] at hn
      exact absurd (wholeHit_of_named hn) hd
  · rw [if_neg (by simpa using hr)] at hj
    exact absurd hj hr

end CancelWhole

end Sys2Proof.Proofs
end

section
/-! The cancels (02 R85 to R88). -/

namespace Sys2Proof.Proofs

open Sys2Proof.Machine Sys2Proof.Claims Sys2Proof.Laws

/-- The issuing gang ends, or goes on: the launches stay as a cancel has left them. -/
theorem ends_stopSelf (s : State) : treeKept (stopSelf s) = treeKept s ∧ (stopSelf s).others = s.others ∧
    ∀ x ∈ s.launches, x.completed = false → ∃ y ∈ (stopSelf s).launches, Later x y := by
  unfold stopSelf
  split
  · exact ⟨rfl, rfl, (ends_dropWaits s.g.uid s).launch⟩
  · exact ⟨rfl, rfl, (Ends.refl s).launch⟩
theorem stopSelf_cancels {s t : State} {p : Launch → Prop} (h : Cancels s t p) : Cancels s (stopSelf t) p := by
  obtain ⟨hk, ho, hl⟩ := ends_stopSelf t
  refine ⟨(cancelKept_of_treeKept hk).trans h.kept, fun x hx hp hc => ?_, fun x hx hp g hg => h.others x hx hp g (ho ▸ hg)⟩
  obtain ⟨y, hy, hs⟩ := h.launch x hx hp hc
  obtain ⟨z, hz, hyz⟩ := hl y hy hs.completed
  exact ⟨z, hz, hs.later hyz⟩
/-- A gang that a cancel has reached ends as cancelled (02 R87). -/
theorem stopSelf_endsWith {s t : State} (hk : cancelKept t = cancelKept s) (hg : t.g = { s.g with cancelled := true, stopping := false }) :
    EndsWith 0x41 s (stopSelf t) := by
  have hs : stopSelf t = { dropWaits t.g.uid t with g := endGang (some (cCancelled, t.g.level)) t.g } := if_pos (by rw [hg])
  rw [hs, hg]
  refine ⟨rfl, ?_, pathCount_endGang _ _, (congrArg State.mem hk :), (congrArg State.stores hk :)⟩
  show (match s.g.fail with | some x => some x | none => some (cCancelled, s.g.level)) = _
  cases s.g.fail <;> rfl

/-- What the cancels promise of the launches that they cover. -/
def Stops (s t : State) (p : Launch → Prop) : Prop := ∀ x ∈ s.launches, p x → x.completed = false →
  ∃ y ∈ t.launches, y.id = x.id ∧ .waiting ∉ y.children ∧ (.waiting ∈ x.children → y.cancelled = true) ∧
    (∀ u g, .running u ∈ x.children → gangOf s u = some g → g.phase = .running → y.cancelled = true) ∧
    ∀ g ∈ t.others, g.launch = x.id → g.phase = .running → g.cancelled = true
theorem Cancels.stops {s t : State} {p q : Launch → Prop} (h : Cancels s t p) (hq : ∀ x, q x → p x) : Stops s t q := by
  intro x hx hpx hc
  obtain ⟨y, hy, hs⟩ := h.launch x hx (hq x hpx) hc
  exact ⟨y, hy, hs.id, hs.waiting, fun hw => hs.cancelled (.inl hw),
    fun u g hu hg hr => hs.cancelled (.inr ⟨u, g, hu, hg, hr⟩), h.others x hx (hq x hpx)⟩

/-- What `cancel.l` does with the launch that its handle names, if the gang holds it. -/
def cancelOf (s : State) : Option Launch → State
  | none => raise ⟨cHandle, 0, 0⟩ s
  | some l => if l.completed then next s else stopSelf (cancelLaunches [l.id] s)
theorem exec_cancelL (a : Reg) (s : State) : exec (.cancelL a) s = .next (cancelOf s
    (s.launches.find? (fun l => l.handle = sreg s.g a && (l.issuer.map (·.1)) = some s.g.uid))) := by
  show execCancelL a s = _
  unfold execCancelL
  cases s.launches.find? (fun l => l.handle = sreg s.g a && (l.issuer.map (·.1)) = some s.g.uid) <;> rfl
theorem exec_cancelG {s : State} {r : Launch} (h : launchOf s s.g.launch = some r) :
    exec .cancelG s = .next (stopSelf (cancelWhole r.pkg s.g.job (some r.graph) s)) := by
  show execCancelG s = _
  rw [execCancelG, h]
theorem queues_stopSelf (s : State) : (stopSelf s).queues = s.queues := by
  unfold stopSelf
  split <;> rfl

/-- Settles O45: a cancel marks the launches of the closure and their gangs, and what then completes or ends only takes launches away that
had completed. -/
theorem cancelsReachTheirLaunches : Obligations.CancelsReachTheirLaunches := by
  intro s a stops mine
  have hex {m : Option Launch} (hm : mine = m) : exec (.cancelL a) s = .next (cancelOf s m) := hm ▸ exec_cancelL a s
  refine ⟨fun hm hd => runs_of_raise (t := ⟨cHandle, 0, 0⟩) hd (hex hm), fun l hm hc => (hex hm).trans ?_, fun l hm hc => ?_, fun r hr => ?_, ?_⟩
  · rw [cancelOf, if_pos hc]
    rfl
  · have hcan := stopSelf_cancels (cancelLaunches_cancels (s := s) (ids0 := [l.id]) fun _ _ h => mem_subtree List.mem_cons_self h)
    refine ⟨stopSelf (cancelLaunches [l.id] s), ?_, (congrArg State.mem hcan.kept :), hcan.stops fun _ h => h⟩
    rw [hex hm, cancelOf, if_neg (by simp [hc])]
  · have hcan := cancelWhole_cancels (pkg := r.pkg) (job := s.g.job) (graph := some r.graph) (s := s)
    have hstop := stopSelf_cancels hcan
    have hid : r.id = s.g.launch := by simpa using List.find?_some hr
    refine ⟨_, exec_cancelG hr, (congrArg State.mem hstop.kept :), hstop.stops fun x ⟨hj, hp, hg⟩ => ⟨hj, hp, by simp [hg]⟩,
      fun hj hrun => ?_, fun q hq hj hp c hc hg => ?_⟩
    · exact stopSelf_endsWith hcan.kept (cancelWhole_g hrun (List.mem_of_find?_eq_some hr) hid hj ⟨rfl, by simp⟩)
    · exact cancelWhole_queues (queues_stopSelf _ ▸ hq) hj hc ⟨hp, by simp [hg]⟩
  · have hcan := cancelWhole_cancels (pkg := s.g.at_.pkg) (job := s.g.job) (graph := none) (s := s)
    have hstop := stopSelf_cancels hcan
    refine ⟨_, rfl, (congrArg State.mem hstop.kept :), hstop.stops fun x ⟨hj, hp⟩ => ⟨hj, hp, by simp⟩,
      fun r hr hid hj hp hrun => ?_, fun q hq hj hp c hc => ?_⟩
    · exact stopSelf_endsWith hcan.kept (cancelWhole_g hrun hr hid hj ⟨hp, by simp⟩)
    · exact cancelWhole_queues (queues_stopSelf _ ▸ hq) hj hc ⟨hp, by simp⟩

end Sys2Proof.Proofs
end

section
/-! Children start (02 R51 to R54). -/

namespace Sys2Proof.Proofs

open Sys2Proof.Machine Sys2Proof.Claims Sys2Proof.Laws

/-! The gang that starts -/

/-- The tile record of a child (02 R52). -/
def startTile (l : Launch) (k : Nat) : List Word :=
  if l.issuer.isNone then l.tile.set 0 (wd (fld (rw l.tile 0) 31 0)) else childTile l.tile l.children.length k
/-- The words with which a gang starts: its tile record, its level, its index, the number of children, the root level and the depth. -/
def startWords (l : Launch) (k : Nat) : List Word :=
  startTile l k ++ [wd (childLevel l), wd k, wd l.children.length, wd l.root, wd l.depth]
theorem length_startTile (l : Launch) (k : Nat) : (startTile l k).length = l.tile.length := by
  unfold startTile
  split <;> simp
theorem sregAt_freshGang (s : State) (l : Launch) (k : Nat) (c : Coords) {n : Nat} (hn : n < 128) :
    sregAt (freshGang s l k c) 0 n = ((startWords l k)[n]?).getD 0 := by
  have hs : (freshGang s l k c).s = ⟨((List.range 128).map (fun i => ((startWords l k)[i]?).getD 0)).toArray, by simp⟩ := rfl
  simp [sregAt, hs, hn]
theorem sregAt_high (g : Gang) {n : Nat} (hn : 128 ≤ n) : sregAt g 0 n = 0 := by
  have h : g.s[n]? = none := by simp [hn]
  simp [sregAt, h]
theorem startTile_word {l : Launch} {k n : Nat} (hn : n < 8) (hlen : l.tile.length = 8) : ((startTile l k)[n]?).getD 0 =
    if l.issuer = none ∧ n ≠ 0 then rw l.tile n else if l.issuer = none then BitVec.ofNat 64 (fld (rw l.tile 0) 31 0)
      else rw (childTile l.tile l.children.length k) n := by
  unfold startTile
  cases l.issuer with
  | some i => simp [rw]
  | none =>
    rcases Nat.eq_zero_or_pos n with rfl | hp
    · simp [hlen, wd]
    · simp [rw, hp.ne', hp.ne]

/-- The gang that starts as child `k`, with the view of its start acquire. -/
def startedGang (s : State) (l : Launch) (k : Nat) (c : Coords) : Gang :=
  { freshGang s l k c with view :=
      if l.issuer.isNone then hostView s (acquired s l.startLevel (freshGang s l k c)) else acquired s l.startLevel (freshGang s l k c) }

/-- Child `k` of a launch has started in slot `c`, as 02 R52 says. -/
def Started (l : Launch) (k : Nat) (c : Coords) (s t : State) : Prop :=
  ∃ g ∈ t.others, g.at_ = c ∧ g.phase = .running ∧ g.job = l.job ∧ g.level = l.level - 1 ∧ g.launch = l.id ∧ g.child = k ∧
    g.uid = s.nextId ∧ (path g).lanes = 0xFFFFFFFF ∧ (path g).exec = 0xFFFFFFFF ∧ (path g).pc = l.func ∧ pathCount g = 1 ∧
    g.view = (let v := acquired s l.startLevel { g with view := [] }; if l.issuer = none then hostView s v else v) ∧
    g.prio = l.prio ∧ g.xvec = l.xvec ∧ g.fpcsr = 0x2000 ∧ g.blocks = 0 ∧ g.window = 0 ∧
    sregAt g 0 8 = BitVec.ofNat 64 (l.level - 1) ∧ sregAt g 0 9 = BitVec.ofNat 64 k ∧
    sregAt g 0 10 = BitVec.ofNat 64 l.children.length ∧ sregAt g 0 11 = BitVec.ofNat 64 l.root ∧ sregAt g 0 12 = BitVec.ofNat 64 l.depth ∧
    (∀ n, 13 ≤ n → sregAt g 0 n = 0) ∧
    (∀ n < 8, sregAt g 0 n = if l.issuer = none ∧ n ≠ 0 then rw l.tile n else if l.issuer = none then BitVec.ofNat 64 (fld (rw l.tile 0) 31 0)
      else rw (childTile l.tile l.children.length k) n)
theorem pathCount_startedGang (s : State) (l : Launch) (k : Nat) (c : Coords) : pathCount (startedGang s l k c) = 1 := by
  rfl
theorem started_startedGang {s t : State} {l : Launch} (k : Nat) (c : Coords) (hlen : l.tile.length = 8) (hm : startedGang s l k c ∈ t.others) :
    Started l k c s t := by
  have hreg {n : Nat} (hn : n < 128) : sregAt (startedGang s l k c) 0 n = ((startWords l k)[n]?).getD 0 := sregAt_freshGang s l k c hn
  have hlow {n : Nat} (hn : n < 8) : (startWords l k)[n]? = (startTile l k)[n]? :=
    List.getElem?_append_left (by rw [length_startTile, hlen]; exact hn)
  have hhigh {n : Nat} (hn : 8 ≤ n) : (startWords l k)[n]? = [wd (childLevel l), wd k, wd l.children.length, wd l.root, wd l.depth][n - 8]? := by
    rw [startWords, List.getElem?_append_right (by rw [length_startTile, hlen]; exact hn), length_startTile, hlen]
  refine ⟨_, hm, rfl, rfl, rfl, rfl, rfl, rfl, rfl, rfl, rfl, rfl, pathCount_startedGang s l k c, ?_,
    rfl, rfl, rfl, rfl, rfl, ?_, ?_, ?_, ?_, ?_, fun n hn => ?_, fun n hn => ?_⟩
  · have hv : (startedGang s l k c).view = if l.issuer.isNone then hostView s (acquired s l.startLevel (freshGang s l k c))
        else acquired s l.startLevel (freshGang s l k c) := rfl
    rw [hv, show { startedGang s l k c with view := [] } = freshGang s l k c from rfl]
    simp only [Option.isNone_iff_eq_none]
  iterate 5
    · rw [hreg (by decide), hhigh (by decide)]
      rfl
  · rcases lt_or_ge n 128 with h | h
    · rw [hreg h, hhigh (by omega), List.getElem?_eq_none (by simp; omega)]
      rfl
    · exact sregAt_high _ h
  · rw [hreg (by omega), hlow hn]
    exact startTile_word hn hlen

theorem startChild_others (l : Launch) (k : Nat) (c : Coords) (b : Nat) (s : State) :
    (startChild l k c b s).others = s.others ++ [startedGang s l k c] := rfl
theorem launchOf_startChild {s : State} {x : Launch} (l : Launch) (k : Nat) (c : Coords) (b : Nat) (hx : launchOf s l.id = some x) :
    launchOf (startChild l k c b s) l.id = some { x with children := x.children.set k (.running s.nextId) } := by
  have h := launchOf_upd s l.id (f := fun x => { x with children := x.children.set k (.running s.nextId) }) (by intros; rfl)
  rw [hx] at h
  exact h

/-! One child starts -/

section OneChild

variable {s : State} {l : Launch} {k : Nat}

/-- Where a child of a launch without costart may start: its launch stands, and no lower child goes first. -/
structure MayStart (s : State) (l : Launch) (k : Nat) : Prop where
  launch : launchOf s l.id = some l
  waiting : l.children[k]? = some .waiting
  cancelled : l.cancelled = false
  issuer : l.issuer ≠ none

theorem exec_reeveChildStart (hm : MayStart s l k) : exec (.reeveChildStart l.id k) s = .next
    (if l.level = 1 && (rw l.tile 7).getLsbD 2 then
      if freeBlocks s l.inst < l.reserved * (waitingKids l).length then s else (startAll l.id (waitingKids l) s).getD s
    else if l.level = 1 && (waitingKids l).head? ≠ some k then s
    else if (waitingKids l).any (fun j => j < k && (placeFor s l j).isSome) then s
    else ((placeFor s l k).map (fun p => startChild l k p.1 p.2 s)).getD s) := by
  obtain ⟨hl, hw, hc, hi⟩ := hm
  show execReeveChildStart l.id k s = _
  unfold execReeveChildStart
  rw [hl]
  have hg : ((l.children[k]?) ≠ some .waiting || l.cancelled || l.issuer.isNone) = false := by
    simp [hw, hc, Option.isNone_eq_false_iff, Option.isSome_iff_ne_none, hi]
  simp only [hg]
  cases placeFor s l k <;> rfl

end OneChild

/-! All children of a costart launch start together (02 R54) -/

/-- The launch `y` is `x` with children that have started: those of `ks` are led by gangs of `gs` on the launch's core. -/
structure StartedOn (x y : Launch) (ks : List Nat) (gs : List Gang) : Prop where
  length : y.children.length = x.children.length
  other : ∀ j, j ∉ ks → y.children[j]? = x.children[j]?
  kid : ∀ j ∈ ks, j < x.children.length → ∃ u, y.children[j]? = some (.running u) ∧
    ∃ g ∈ gs, g.uid = u ∧ g.launch = x.id ∧ g.child = j ∧ g.phase = .running ∧ unitOf 1 g.at_ = unitOf 1 x.inst

theorem unitOf_slot (c : Coords) (i : Nat) : unitOf 1 { c with slot := i } = unitOf 1 c := rfl
theorem freeSlot_unit {s : State} {p : Bool} {core c : Coords} (h : freeSlot s p core = some c) : unitOf 1 c = unitOf 1 core := by
  obtain ⟨i, _, rfl⟩ := List.mem_map.1 (List.mem_of_find?_eq_some h)
  rfl
theorem childCores_one {l : Launch} (h : l.level = 1) (k : Nat) : childCores l k = [unitOf 1 l.inst] := by
  simp [childCores, h]
theorem placeFor_unit {s : State} {l : Launch} {k b : Nat} {c : Coords} (hl : l.level = 1) (h : placeFor s l k = some (c, b)) :
    unitOf 1 c = unitOf 1 l.inst := by
  unfold placeFor at h
  rw [childCores_one hl, List.findSome?_singleton] at h
  cases hc : freeSlot s ((rw l.tile 7).getLsbD 1) (unitOf 1 l.inst) with
  | none => simp only [hc, ite_self, reduceCtorEq] at h
  | some c' =>
    cases hb : scratchBase s (unitOf 1 l.inst) (scratchNeed s l (unitOf 1 l.inst).pkg) with
    | none => simp only [hc, hb, ite_self, reduceCtorEq] at h
    | some b' =>
      simp only [hc, hb, Option.ite_none_left_eq_some, Option.some.injEq, Prod.mk.injEq] at h
      obtain ⟨_, rfl, _⟩ := h
      exact freeSlot_unit hc

/-- One child more has started. -/
theorem StartedOn.cons {x y : Launch} {k u : Nat} {ks : List Nat} {gs : List Gang} (hk : k ∉ ks)
    (h : StartedOn { x with children := x.children.set k (.running u) } y ks gs)
    (hg : ∃ g ∈ gs, g.uid = u ∧ g.launch = x.id ∧ g.child = k ∧ g.phase = .running ∧ unitOf 1 g.at_ = unitOf 1 x.inst) :
    StartedOn x y (k :: ks) gs where
  length := h.length.trans (List.length_set ..)
  other j hj := by
    obtain ⟨hne, hj⟩ := not_or.1 (List.mem_cons.not.1 hj)
    exact (h.other j hj).trans (List.getElem?_set_ne (Ne.symm hne))
  kid j hj hlt := by
    obtain rfl | hm := List.mem_cons.1 hj
    · exact ⟨u, (h.other j hk).trans (List.getElem?_set_self hlt), hg⟩
    · exact h.kid j hm (by simpa using hlt)

theorem startAll_cons {i k : Nat} {ks : List Nat} {s : State} {x : Launch} (hx : launchOf s i = some x) :
    startAll i (k :: ks) s = (placeFor s x k).bind (fun p => startAll i ks (startChild x k p.1 p.2 s)) := by
  cases hp : placeFor s x k <;> simp [startAll, hx, hp]

theorem startAll_starts {i : Nat} {ks : List Nat} {s t : State} {x : Launch} (hn : ks.Nodup) (hx : launchOf s i = some x) (hl : x.level = 1)
    (h : startAll i ks s = some t) : t.mem = s.mem ∧ s.others ⊆ t.others ∧ ∃ y, launchOf t i = some y ∧ StartedOn x y ks t.others := by
  induction ks generalizing s x with
  | nil =>
    obtain rfl := Option.some.inj h
    exact ⟨rfl, List.Subset.refl _, x, hx, rfl, fun _ _ => rfl, fun _ h => absurd h List.not_mem_nil⟩
  | cons k ks ih =>
    obtain ⟨hk, hn⟩ := List.nodup_cons.1 hn
    obtain rfl : x.id = i := by simpa using List.find?_some hx
    rw [startAll_cons hx] at h
    obtain ⟨⟨c, b⟩, hp, h⟩ := Option.bind_eq_some_iff.1 h
    obtain ⟨hmem, hsub, y, hy, hon⟩ := ih hn (launchOf_startChild x k c b hx) hl h
    rw [startChild_others] at hsub
    refine ⟨hmem, fun g hg => hsub (List.mem_append_left _ hg), y, hy, hon.cons hk ?_⟩
    exact ⟨startedGang s x k c, hsub (List.mem_append_right _ List.mem_cons_self), rfl, rfl, rfl, rfl, placeFor_unit hl hp⟩

theorem nodup_waitingKids (l : Launch) : (waitingKids l).Nodup := List.nodup_range.filter _
theorem oneChildStarts {s : State} {l : Launch} {k b : Nat} {c : Coords} (hm : MayStart s l k) (hlen : l.tile.length = 8)
    (hone : l.level = 1 → (rw l.tile 7).getLsbD 2 = false ∧ (waitingKids l).head? = some k)
    (hlow : ∀ j ∈ waitingKids l, j < k → placeFor s l j = none) (hp : placeFor s l k = some (c, b)) :
    Runs (.reeveChildStart l.id k) s (fun t => Started l k c s t ∧ t.mem = s.mem ∧
      ∃ x, launchOf t l.id = some x ∧ x.children = l.children.set k (.running s.nextId)) := by
  refine ⟨startChild l k c b s, ?_, started_startedGang k c hlen (List.mem_append_right _ List.mem_cons_self), rfl,
    _, launchOf_startChild l k c b hm.launch, rfl⟩
  have hany : (waitingKids l).any (fun j => j < k && (placeFor s l j).isSome) = false := by
    refine List.any_eq_false.2 fun j hj hb => ?_
    simp only [Bool.and_eq_true, decide_eq_true_eq] at hb
    rw [hlow j hj hb.1] at hb
    exact absurd hb.2 (by decide)
  have h1 : (l.level = 1 && (rw l.tile 7).getLsbD 2) = false := by
    by_cases h : l.level = 1
    · rw [(hone h).1, Bool.and_false]
    · rw [decide_eq_false h, Bool.false_and]
  have h2 : (l.level = 1 && (waitingKids l).head? ≠ some k) = false := by
    by_cases h : l.level = 1
    · simp [(hone h).2]
    · rw [decide_eq_false h, Bool.false_and]
  rw [exec_reeveChildStart hm, h1, h2, hany, hp]
  rfl
theorem costartStarts {s : State} {l : Launch} {k : Nat} (hm : MayStart s l k) (hl : l.level = 1) (hco : (rw l.tile 7).getLsbD 2 = true) :
    (freeBlocks s l.inst < l.reserved * (waitingKids l).length ∨ startAll l.id (waitingKids l) s = none →
      exec (.reeveChildStart l.id k) s = .next s) ∧
    (l.reserved * (waitingKids l).length ≤ freeBlocks s l.inst → startAll l.id (waitingKids l) s ≠ none →
      Runs (.reeveChildStart l.id k) s (fun t => t.mem = s.mem ∧ ∃ x, launchOf t l.id = some x ∧ StartedOn l x (waitingKids l) t.others)) := by
  have hex := exec_reeveChildStart hm
  rw [if_pos (by simp [hl, hco])] at hex
  refine ⟨fun h => ?_, fun hroom hall => ?_⟩
  · rw [hex]
    obtain h | h := h
    · rw [if_pos h]
    · rw [h, Option.getD_none, ite_self]
  · obtain ⟨t, ht⟩ := Option.ne_none_iff_exists'.1 hall
    obtain ⟨hmem, _, x, hx, hon⟩ := startAll_starts (nodup_waitingKids l) hm.launch hl ht
    exact ⟨t, by rw [hex, if_neg (Nat.not_lt.2 hroom), ht]; rfl, hmem, x, hx, hon⟩

end Sys2Proof.Proofs
end

section
/-! SUPPORT. What reports of launches leave: completion records, messages, and the counters of graphs (02 R82 to R84, 17 R451, R463). -/

namespace Sys2Proof.Proofs

open Sys2Proof.Machine Sys2Proof.Claims Sys2Proof.Laws

/-! Messages (17 R451) -/

/-- A job without the messages that it holds. -/
def jobPlain (j : Job) : Job := { j with heldMsgs := [] }
/-- A queue without its records' cancel marks. -/
def queuePlain (q : LQueue) : LQueue := { q with recs := q.recs.map (fun r => { r with cancelled := false }) }
/-- The machine without what a message changes, and what the cancel changes that an overflow of held messages brings about. -/
def sendKept (s : State) : State :=
  { treeKept s with queues := s.queues.map queuePlain, jobs := s.jobs.map jobPlain, out := [], fresh := 0 }

theorem queuePlain_wholeQueue (pkg job : Nat) (graph : Option Nat) (s : State) (q : LQueue) :
    queuePlain (wholeQueue pkg job graph s q) = queuePlain q := by
  have h := upd_map_keeps (F := fun r : QRec => { r with cancelled := false }) (p := fun r => wholeHit pkg job graph s q.pkg r.graph)
    (f := fun r => { r with cancelled := true }) (by intros; rfl) q.recs
  simp only [queuePlain, wholeQueue, h]
theorem cancelWhole_sendKept (pkg job : Nat) (graph : Option Nat) (s : State) : sendKept (cancelWhole pkg job graph s) = sendKept s := by
  have hk := cancelLaunches_kept (ids0 := wholeRoots pkg job graph s) (s := s)
  have hq := upd_map_keeps (F := queuePlain) (p := fun q => q.job = job) (queuePlain_wholeQueue pkg job graph s) s.queues
  have h := congrArg (fun u : State => { u with queues := s.queues.map queuePlain, jobs := u.jobs.map jobPlain, out := [], fresh := 0 }) hk
  rw [cancelWhole_eq]
  refine Eq.trans ?_ h
  unfold sendKept
  rw [← hq]
  rfl
theorem sendMessage_kept (pkg : Nat) (m : Message) (s : State) : sendKept (sendMessage pkg m s) = sendKept s := by
  unfold sendMessage
  split
  · rfl
  · split
    · rfl
    · split
      · have hj := upd_map_keeps (F := jobPlain) (p := fun x => x.pkg = pkg && x.id = m.job)
          (f := fun x => { x with heldMsgs := x.heldMsgs ++ [m] }) (by intros; rfl) s.jobs
        simp only [sendKept, hj]
        rfl
      · exact cancelWhole_sendKept _ _ _ _
/-- A message makes no new launch. -/
theorem sendMessage_ids {pkg : Nat} {m : Message} {s : State} {y : Launch} (hy : y ∈ (sendMessage pkg m s).launches) :
    ∃ x ∈ s.launches, y.id = x.id := by
  unfold sendMessage at hy
  split at hy
  · exact ⟨y, hy, rfl⟩
  · split at hy
    · exact ⟨y, hy, rfl⟩
    · split at hy
      · exact ⟨y, hy, rfl⟩
      · exact cancelLaunches_ids hy

/-! The number of a root launch completes (02 R82, 17 R463) -/

/-- A change of one graph of a job. -/
def onGraphOf (pkg job graph : Nat) (f : Graph → Graph) (s : State) : State :=
  { s with jobs := upd (fun j => j.pkg = pkg && j.id = job) (fun j => { j with graphs := upd (fun x => x.idx = graph) f j.graphs }) s.jobs }
/-- The graphs of the job `job` of package `pkg`, of every job that has these numbers first. -/
def graphsOf (s : State) (pkg job : Nat) : Option (List Graph) := (jobOn s pkg job).map (·.graphs)

theorem find?_upd_same {α : Type} {p : α → Bool} {f : α → α} (hf : ∀ x, p x = true → p (f x) = true) (l : List α) :
    (upd p f l).find? p = (l.find? p).map f := by
  have hp : (p ∘ fun x => if p x = true then f x else x) = p := by
    funext x
    simp only [Function.comp]
    split
    · next h => rw [hf x h, h]
    · rfl
  rw [upd, List.find?_map, hp]
  cases h : l.find? p with
  | none => rfl
  | some x => exact congrArg some (if_pos (List.find?_some h))
theorem jobOn_onGraphOf (pkg job graph : Nat) (f : Graph → Graph) (s : State) :
    jobOn (onGraphOf pkg job graph f s) pkg job = (jobOn s pkg job).map (fun j => { j with graphs := upd (fun x => x.idx = graph) f j.graphs }) :=
  find?_upd_same (p := fun j : Job => j.pkg = pkg && j.id = job) (f := fun j => { j with graphs := upd (fun x => x.idx = graph) f j.graphs })
    (fun _ h => h) s.jobs
theorem graphsOf_of_jobs {s t : State} (h : t.jobs.map jobPlain = s.jobs.map jobPlain) (pkg job : Nat) : graphsOf t pkg job = graphsOf s pkg job := by
  have hf (u : State) : graphsOf u pkg job = ((u.jobs.map jobPlain).find? (fun x => x.pkg = pkg && x.id = job)).map (·.graphs) := by
    rw [List.find?_map, Option.map_map]
    rfl
  rw [hf, hf, h]

/-- What a report leaves: memory and the queues' records stay, no launch comes, and the graphs of a job become others as `R` says. -/
structure Reported (pkg job : Nat) (R : Graph → Graph → Prop) (s t : State) : Prop where
  mem : t.mem = s.mem
  queues : t.queues.map queuePlain = s.queues.map queuePlain
  ids : ∀ y ∈ t.launches, ∃ x ∈ s.launches, y.id = x.id
  graphs : ∀ gs, graphsOf s pkg job = some gs → ∃ ks, graphsOf t pkg job = some ks ∧ ∀ x ∈ gs, ∃ y ∈ ks, R x y

theorem Reported.trans {pkg job : Nat} {Q R : Graph → Graph → Prop} {s t u : State} (h : Reported pkg job Q s t) (k : Reported pkg job R t u) :
    Reported pkg job (fun x z => ∃ y, Q x y ∧ R y z) s u where
  mem := k.mem.trans h.mem
  queues := k.queues.trans h.queues
  ids z hz := by
    obtain ⟨y, hy, e⟩ := k.ids z hz
    obtain ⟨x, hx, e'⟩ := h.ids y hy
    exact ⟨x, hx, e.trans e'⟩
  graphs gs hg := by
    obtain ⟨ks, hk, hxy⟩ := h.graphs gs hg
    obtain ⟨ls, hl, hyz⟩ := k.graphs ks hk
    refine ⟨ls, hl, fun x hx => ?_⟩
    obtain ⟨y, hy, hq⟩ := hxy x hx
    obtain ⟨z, hz, hr⟩ := hyz y hy
    exact ⟨z, hz, y, hq, hr⟩
theorem Reported.mono {pkg job : Nat} {Q R : Graph → Graph → Prop} {s t : State} (h : Reported pkg job Q s t) (hr : ∀ x y, Q x y → R x y) :
    Reported pkg job R s t where
  mem := h.mem
  queues := h.queues
  ids := h.ids
  graphs gs hg := by
    obtain ⟨ks, hk, hxy⟩ := h.graphs gs hg
    refine ⟨ks, hk, fun x hx => ?_⟩
    obtain ⟨y, hy, hq⟩ := hxy x hx
    exact ⟨y, hy, hr x y hq⟩
theorem reported_onGraphOf (pkg job graph : Nat) (f : Graph → Graph) (s : State) :
    Reported pkg job (fun x y => y = if x.idx = graph then f x else x) s (onGraphOf pkg job graph f s) where
  mem := rfl
  queues := rfl
  ids y hy := ⟨y, hy, rfl⟩
  graphs gs hg := by
    obtain ⟨j, hj, rfl⟩ := Option.map_eq_some_iff.1 hg
    refine ⟨_, by rw [graphsOf, jobOn_onGraphOf, hj]; rfl, fun x hx => ⟨_, List.mem_map_of_mem hx, ?_⟩⟩
    simp only [decide_eq_true_eq]
theorem reported_of_sendKept {s t : State} (hk : sendKept t = sendKept s) (hi : ∀ y ∈ t.launches, ∃ x ∈ s.launches, y.id = x.id) (pkg job : Nat) :
    Reported pkg job Eq s t where
  mem := (congrArg State.mem hk :)
  queues := congrArg State.queues hk
  ids := hi
  graphs gs hg := ⟨gs, (graphsOf_of_jobs (congrArg State.jobs hk) pkg job).trans hg, fun x hx => ⟨x, hx, rfl⟩⟩
theorem sendMessages_ids {α : Type} (pkg : Nat) (m : α → Message) (ds : List α) (s : State) :
    ∀ y ∈ (ds.foldl (fun s d => sendMessage pkg (m d) s) s).launches, ∃ x ∈ s.launches, y.id = x.id := by
  induction ds generalizing s with
  | nil => exact fun y hy => ⟨y, hy, rfl⟩
  | cons d ds ih =>
    intro z hz
    obtain ⟨y, hy, e⟩ := ih _ z hz
    obtain ⟨x, hx, e'⟩ := sendMessage_ids hy
    exact ⟨x, hx, e.trans e'⟩
theorem reported_sendMessages {α : Type} (p : Nat) (m : α → Message) (ds : List α) (s : State) (pkg job : Nat) :
    Reported pkg job Eq s (ds.foldl (fun s d => sendMessage p (m d) s) s) :=
  reported_of_sendKept (foldl_keeps sendKept (fun s d => sendMessage_kept p (m d) s) ds s) (sendMessages_ids p m ds s) pkg job

/-- A graph once the number of a root launch of it has completed. -/
def Counts (graph number : Nat) (failed : Bool) (x y : Graph) : Prop :=
  x.idx = graph → y.idx = graph ∧ y.done = number :: x.done ∧ (failed = true → y.failed = number :: x.failed)
/-- Whether a root launch with a status word counts as failed. -/
def statusFailed (w : Word) : Bool := fld w 15 0 ≠ 0 || w.getLsbD 48
/-- The number of a root launch enters its graph, with its completion record. -/
def enterNumber (number queue : Nat) (tag status : Word) (x : Graph) : Graph :=
  { x with done := number :: x.done, failed := if statusFailed status then number :: x.failed else x.failed
           ready := x.ready ++ [(number, tag, status, queue)] }

theorem counts_enterNumber {graph number queue : Nat} {tag status : Word} {x y : Graph}
    (h : y = if x.idx = graph then enterNumber number queue tag status x else x) : Counts graph number (statusFailed status) x y := by
  intro hx
  rw [if_pos hx] at h
  subst h
  exact ⟨hx, rfl, fun hf => if_pos hf⟩
theorem rootDone_reports (pkg job graph number queue : Nat) (tag status : Word) (s : State) :
    Reported pkg job (Counts graph number (statusFailed status)) s (rootDone pkg job graph number queue tag status s) := by
  have h1 := reported_onGraphOf pkg job graph (enterNumber number queue tag status) s
  unfold rootDone
  simp only
  split
  · have hk (m : Message) (n : Nat) (u : State) : sendKept (sendMessage pkg m { u with fresh := n }) = sendKept u := sendMessage_kept pkg m _
    have h2 (m : Message) (n : Nat) (u : State) : Reported pkg job Eq u (sendMessage pkg m { u with fresh := n }) :=
      reported_of_sendKept (hk m n u) (fun y hy => sendMessage_ids (s := { u with fresh := n }) hy) pkg job
    exact (h1.trans (h2 _ _ _)).mono fun x z ⟨y, hy, hz⟩ => hz ▸ counts_enterNumber hy
  · next g _ =>
    have h2 := reported_onGraphOf pkg job graph (fun x => { x with ready := x.ready.filter (fun r => countFrom g.done g.accepted 0 < r.1) })
      (onGraphOf pkg job graph (enterNumber number queue tag status) s)
    refine ((h1.trans h2).trans (reported_sendMessages pkg _ _ _ pkg job)).mono fun x w ⟨z, ⟨y, hy, hz⟩, hw⟩ hx => ?_
    obtain ⟨hi, hd, hf⟩ := counts_enterNumber hy hx
    rw [if_pos hi] at hz
    subst hw hz
    exact ⟨hi, hd, hf⟩

end Sys2Proof.Proofs
end

section
/-! Root launches start, and gangs and launches complete (02 R59, R63, R64, R83, 10 R311, 17 R459, R462). -/

namespace Sys2Proof.Proofs

open Sys2Proof.Machine Sys2Proof.Claims Sys2Proof.Laws

/-! Root launches (02 R83, 17 R459, R462) -/

section Root

/-- The graph that a queue record waits for. -/
def waitedGraph (s : State) (pkg job : Nat) (r : QRec) : Option Graph :=
  (jobOn s pkg job).bind (fun j => j.graphs.find? (fun x => x.idx = fld (rw r.words 3) 63 48))
/-- The value that a queue record waits for. -/
def waitValue (r : QRec) : Nat := fld (rw r.words 3) 47 0
/-- Whether the counter that a record waits for is short. -/
def waitShort (s : State) (pkg job : Nat) (r : QRec) : Prop :=
  waitValue r ≠ 0 ∧ ∀ x, waitedGraph s pkg job r = some x → countFrom x.done x.accepted 0 < waitValue r
/-- Whether a failed dependency skips a record. -/
def waitSkips (s : State) (pkg job : Nat) (r : QRec) : Prop :=
  waitValue r ≠ 0 ∧ (rw r.words 0).getLsbD 18 = true ∧ ∃ x, waitedGraph s pkg job r = some x ∧ ∃ n ∈ x.failed, n ≤ waitValue r

/-- Whether the wait of a record is met, as ROOT_LAUNCH_START tests it. -/
def waitMet (s : State) (pkg job : Nat) (r : QRec) : Bool :=
  waitValue r = 0 || ((waitedGraph s pkg job r).map (fun x => decide (waitValue r ≤ countFrom x.done x.accepted 0))).getD false
/-- Whether a launch up to the awaited one has failed. -/
def waitFailed (s : State) (pkg job : Nat) (r : QRec) : Bool :=
  waitValue r ≠ 0 && ((waitedGraph s pkg job r).map (fun x => x.failed.any (fun n => n ≤ waitValue r))).getD false
theorem waitMet_iff {s : State} {pkg job : Nat} {r : QRec} : waitMet s pkg job r = false ↔ waitShort s pkg job r := by
  unfold waitMet waitShort
  cases waitedGraph s pkg job r <;> simp
theorem waitFailed_iff {s : State} {pkg job : Nat} {r : QRec} :
    (waitFailed s pkg job r && (rw r.words 0).getLsbD 18) = true ↔ waitSkips s pkg job r := by
  unfold waitFailed waitSkips
  cases waitedGraph s pkg job r with
  | none => simp
  | some x => 
    simp only [Option.map_some, Option.getD_some, Option.some.injEq, exists_eq_left', Bool.and_eq_true, decide_eq_true_eq, List.any_eq_true]
    tauto

variable {s : State} {pkg q : Nat} {lq : LQueue} {r : QRec} {rest : List QRec}

/-- The head of a queue has left it. -/
def popped (pkg q : Nat) (rest : List QRec) (s : State) : State :=
  { s with queues := upd (fun x => x.pkg = pkg && x.q = q) (fun x => { x with recs := rest }) s.queues }
/-- A record whose dependency has failed completes without a gang. -/
def skipped (pkg q job : Nat) (r : QRec) (rest : List QRec) (s : State) : State :=
  rootDone pkg job r.graph r.number q (rw r.words 5) (rootStatus cDependency (recRoot r.words) false) (popped pkg q rest s)
/-- The root launch of a record starts where it has a place. -/
def rootStarted (pkg q job : Nat) (r : QRec) (rest : List QRec) (s : State) : State :=
  let l := rootOf s pkg q job r
  match placeFor s l 0 with
  | none => s
  | some (c, b) => startChild l 0 c b { popped pkg q rest s with launches := s.launches ++ [l], nextId := s.nextId + 1 }

theorem exec_rootLaunchStart (hq : s.queues.find? (fun x => x.pkg = pkg && x.q = q) = some lq) (hr : lq.recs = r :: rest) (hc : r.cancelled = false)
    (hp : ∀ p ∈ [pkg, (recCore r.words).pkg], ckptBusy s p = false ∧ isOut s p = false) :
    exec (.rootLaunchStart pkg q) s = .next (if !waitMet s pkg lq.job r then s
      else if waitFailed s pkg lq.job r && (rw r.words 0).getLsbD 18 then skipped pkg q lq.job r rest s else rootStarted pkg q lq.job r rest s) := by
  have hany : [pkg, (recCore r.words).pkg].any (fun p => ckptBusy s p || isOut s p) = false :=
    List.any_eq_false.2 fun p hm => by simp [hp p hm]
  show execRootLaunchStart pkg q s = _
  unfold execRootLaunchStart
  simp only [hq, hr, hc, hany, Bool.or_false, Bool.false_eq_true, if_false]
  rfl

theorem find?_popped (hq : s.queues.find? (fun x => x.pkg = pkg && x.q = q) = some lq) (rest : List QRec) :
    (popped pkg q rest s).queues.find? (fun x => x.pkg = pkg && x.q = q) = some { lq with recs := rest } := by
  have h := find?_upd_same (p := fun x : LQueue => x.pkg = pkg && x.q = q) (f := fun x => { x with recs := rest }) (fun _ h => h) s.queues
  rw [hq] at h
  exact h
/-- Queues that agree but for cancel marks have the same records' numbers. -/
theorem numbers_of_plain {t u : State} (h : t.queues.map queuePlain = u.queues.map queuePlain)
    (hq : u.queues.find? (fun x => x.pkg = pkg && x.q = q) = some lq) :
    ∃ x, t.queues.find? (fun x => x.pkg = pkg && x.q = q) = some x ∧ x.recs.map (·.number) = lq.recs.map (·.number) := by
  have hf (v : State) : (v.queues.map queuePlain).find? (fun x => x.pkg = pkg && x.q = q) =
      (v.queues.find? (fun x => x.pkg = pkg && x.q = q)).map queuePlain := by
    rw [List.find?_map]
    rfl
  have hn (x : LQueue) : (queuePlain x).recs.map (·.number) = x.recs.map (·.number) := by simp [queuePlain, Function.comp_def]
  have hx := (hf t).symm.trans ((congrArg (List.find? _) h).trans (hf u))
  rw [hq] at hx
  obtain ⟨x, hx, he⟩ := Option.map_eq_some_iff.1 hx
  exact ⟨x, hx, by rw [← hn x, he, hn]⟩
theorem statusFailed_rootStatus {cause origin : Nat} : statusFailed (rootStatus cause origin false) = true := by
  have hone : fld (rootStatus cause origin false) 15 0 = 1 := by
    simp only [fld, rootStatus, wd, BitVec.toNat_ofNat, Bool.false_eq_true, if_false]
    omega
  simp [statusFailed, hone]

/-- The completion of a root launch's number, as the claims say it. -/
theorem graphs_of_reported {t u : State} {job g n : Nat} {f : Bool} (h : Reported pkg job (Counts g n f) u t) {j : Job} (hj : jobOn u pkg job = some j) :
    ∃ k, jobOn t pkg job = some k ∧ ∀ x ∈ j.graphs, x.idx = g → ∃ y ∈ k.graphs, y.idx = g ∧ y.done = n :: x.done ∧
      (f = true → y.failed = n :: x.failed) := by
  obtain ⟨_, hks, hxy⟩ := h.graphs j.graphs (congrArg (Option.map _) hj)
  obtain ⟨k, hk, rfl⟩ := Option.map_eq_some_iff.1 hks
  refine ⟨k, hk, fun x hx hi => ?_⟩
  obtain ⟨y, hy, hc⟩ := hxy x hx
  exact ⟨y, hy, hc hi⟩
theorem skipped_reports (pkg q job : Nat) (r : QRec) (rest : List QRec) (s : State) :
    Reported pkg job (Counts r.graph r.number true) (popped pkg q rest s) (skipped pkg q job r rest s) := by
  have h := rootDone_reports pkg job r.graph r.number q (rw r.words 5) (rootStatus cDependency (recRoot r.words) false) (popped pkg q rest s)
  rw [statusFailed_rootStatus] at h
  exact h
theorem rootStarted_starts {job b : Nat} {c : Coords} (hlen : r.words.length = 16) (hp : placeFor s (rootOf s pkg q job r) 0 = some (c, b)) :
    Started (rootOf s pkg q job r) 0 c { s with nextId := s.nextId + 1 } (rootStarted pkg q job r rest s) := by
  have ht : (rootOf s pkg q job r).tile.length = 8 := by simp [rootOf, hlen]
  refine started_startedGang 0 c ht ?_
  have hs : rootStarted pkg q job r rest s = startChild (rootOf s pkg q job r) 0 c b
      { popped pkg q rest s with launches := s.launches ++ [rootOf s pkg q job r], nextId := s.nextId + 1 } := by
    simp only [rootStarted, hp]
  rw [hs, startChild_others]
  exact List.mem_append_right _ List.mem_cons_self

end Root

theorem childrenStart : Claims.ChildrenStart := by
  refine ⟨fun s l k c b hl hw hc hi hlen hone hlow hp => oneChildStarts ⟨hl, hw, hc, hi⟩ hlen hone hlow hp,
    fun s l k hl hw hc hi hlev hco => ?_, ?_⟩
  · obtain ⟨hno, hyes⟩ := costartStarts ⟨hl, hw, hc, hi⟩ hlev hco
    refine ⟨hno, fun hroom hall => ?_⟩
    obtain ⟨t, ht, hmem, x, hx, hon⟩ := hyes hroom hall
    refine ⟨t, ht, hmem, x, hx, hon.length, fun j hj => ?_⟩
    split
    · next hm => exact hon.kid j hm hj
    · next hm => exact hon.other j hm
  · intro s pkg q lq r rest hq hr hc hp wv waited short skips
    have hex := exec_rootLaunchStart hq hr hc hp
    have hshort : waitMet s pkg lq.job r = false ↔ short := waitMet_iff
    have hskip : (waitFailed s pkg lq.job r && (rw r.words 0).getLsbD 18) = true ↔ skips := waitFailed_iff
    have hmet (h : ¬ short) : ¬ (!waitMet s pkg lq.job r) = true := by simpa using mt hshort.1 h
    refine ⟨fun h => ?_, fun h hs => ⟨skipped pkg q lq.job r rest s, ?_, ?_⟩,
      fun h hs hlen c b hpl => ⟨rootStarted pkg q lq.job r rest s, ?_, rootStarted_starts hlen hpl, ?_⟩⟩
    · rw [hex, hshort.2 h]
      rfl
    · rw [hex, if_neg (hmet h), if_pos (hskip.2 hs)]
    · have hrep := skipped_reports pkg q lq.job r rest s
      refine ⟨hrep.mem, numbers_of_plain hrep.queues (find?_popped hq rest), fun j hj => ?_⟩
      obtain ⟨k, hk, hg⟩ := graphs_of_reported hrep hj
      refine ⟨k, hk, fun x hx hi => ?_⟩
      obtain ⟨y, hy, hyi, hd, hf⟩ := hg x hx hi
      exact ⟨y, hy, hyi, hd, hf rfl⟩
    · rw [hex, if_neg (hmet h), if_neg (fun h => hs (hskip.1 h))]
    · simp only [rootStarted, hpl]
      exact ⟨rfl, _, find?_popped hq rest, rfl⟩

end Sys2Proof.Proofs
end

section
/-! Gangs and launches complete (02 R56, R59, R63, R64, 10 R311, 17 R463). -/

namespace Sys2Proof.Proofs

open Sys2Proof.Machine Sys2Proof.Claims Sys2Proof.Laws

/-! A gang ends (10 R311) -/

section GangEnd

/-- The fate that a gang has which ends: its own failure, or the cause of its store-fault record. -/
def endFail (t : State) (g : Gang) : Option (Nat × Nat) :=
  match g.fail, t.faults.find? (fun f => f.uid = g.uid) with
  | some f, _ => some f
  | none, some r => some (r.cause, g.level)
  | none, none => none
/-- A gang that has ended and drained. -/
def endedGang (f : Option (Nat × Nat)) (h : Gang) : Gang :=
  { h with phase := .ended, fail := f, pend := [], deferred := [], inflight := [], flags := Vector.replicate 12 0 }
/-- The machine once the update-only lines of a gang have been combined, and it waits no more. -/
def quiet (g : Gang) (s : State) : State := dropWaits g.uid (combineLines (fun r => r.uids.contains g.uid) s)
/-- The machine once a drained gang has ended, before its child completes. -/
def gangEnded (g : Gang) (s : State) : State :=
  onGang g.uid (endedGang (endFail (quiet g s) g)) { quiet g s with
    faults := (quiet g s).faults.filter (fun f => f.uid ≠ g.uid)
    launches := upd (fun l => (l.issuer.map (·.1)) = some g.uid && l.completed) (fun l => { l with record := false }) (quiet g s).launches }

variable {s : State} {c : Coords} {g : Gang}

theorem exec_gangEnd (hat : gangAt s c = some g) (hp : g.phase = .draining) (hk : ∀ k ∈ s.kiln, k.uid ≠ g.uid) (hd : drained s g = true) :
    exec (.gangEnd c) s = .next (closeChild g.uid (gangEnded g s)) := by
  have hf : faultedMmas s g.uid = [] := List.filter_eq_nil_iff.2 fun k hm => by simp [hk k hm]
  show execGangEnd c s = _
  unfold execGangEnd
  simp only [hat, hp, hf, hd]
  rfl

theorem quiet_kept (g : Gang) (s : State) : atomKept { quiet g s with launches := [], rgetQ := [], poolQ := [], qwaits := [], tickets := [] } =
    atomKept { s with launches := [], rgetQ := [], poolQ := [], qwaits := [], tickets := [] } :=
  congrArg (fun u : State => { u with launches := [], rgetQ := [], poolQ := [], qwaits := [], tickets := [] })
    (combineLines_kept (fun r => r.uids.contains g.uid) s)
theorem quiet_launches (g : Gang) (s : State) :
    (quiet g s).launches = s.launches.map (fun l => { l with arrived := l.arrived.filter (fun u => u ≠ g.uid) }) :=
  congrArg (List.map _) (congrArg State.launches (combineLines_kept (fun r => r.uids.contains g.uid) s) :)
/-- A launch when gang `g` ends: it waits there no more, and the record of a completed launch of its own is free. -/
def endLaunch (g : Gang) (l : Launch) : Launch :=
  let x := { l with arrived := l.arrived.filter (fun u => u ≠ g.uid) }
  if (x.issuer.map (·.1)) = some g.uid && x.completed then { x with record := false } else x
theorem endLaunch_keeps (g : Gang) (l : Launch) :
    (endLaunch g l).id = l.id ∧ (endLaunch g l).issuer = l.issuer ∧ (endLaunch g l).children = l.children := by
  unfold endLaunch
  simp only
  split <;> exact ⟨rfl, rfl, rfl⟩
theorem gangEnded_launches (g : Gang) (s : State) : (gangEnded g s).launches = s.launches.map (endLaunch g) := by
  show upd _ _ (quiet g s).launches = _
  rw [quiet_launches, upd, List.map_map]
  rfl
theorem gangEnded_carts (g : Gang) (s : State) : (gangEnded g s).carts = s.carts := (congrArg State.carts (quiet_kept g s) :)
/-- A change that leaves a gang its number and a slot shows in the gang that is found. -/
theorem gangOf_onGang_in (u : Nat) {f : Gang → Gang} (hf : ∀ g, (f g).uid = g.uid ∧ (f g).phase ≠ .free) (s : State) :
    gangOf (onGang u f s) u = (gangOf s u).map f :=
  find?_upd_same (p := fun g : Gang => g.uid = u && g.phase ≠ .free) (fun g h => by
    simp only [Bool.and_eq_true, decide_eq_true_eq] at h
    simp [hf g, h.1]) (s.g :: s.others)
theorem gangOf_gangEnded (hg : gangOf s g.uid = some g) :
    ∃ h, gangKept h = gangKept g ∧ gangOf (gangEnded g s) g.uid = some (endedGang (endFail (quiet g s) g) h) := by
  have hk := gangOf_of_kept (serveKept_of_atomKept (combineLines_kept (fun r => r.uids.contains g.uid) s)) g.uid
  rw [hg] at hk
  obtain ⟨h, hh, he⟩ := Option.map_eq_some_iff.1 hk
  refine ⟨h, he, (gangOf_onGang_in g.uid (f := endedGang (endFail (quiet g s) g)) (fun _ => ⟨rfl, by simp [endedGang]⟩) _).trans ?_⟩
  exact congrArg (Option.map _) (hh : gangOf (quiet g s) g.uid = some h)

/-- No launch that stands was issued by the gang. -/
theorem issuedBy_gangEnded (hl : ∀ l ∈ s.launches, l.issuer.map (·.1) ≠ some g.uid) :
    ∀ l ∈ (gangEnded g s).launches, issuedBy g.uid l = false := by
  intro l hm
  rw [gangEnded_launches] at hm
  obtain ⟨x, hx, rfl⟩ := List.mem_map.1 hm
  rw [issuedBy, (endLaunch_keeps g x).2.1]
  exact decide_eq_false (hl x hx)
theorem gangOf_closed (h : Gang) (s : State) : gangOf (closed h s) h.uid = none := by
  refine List.find?_eq_none.2 fun x hx => ?_
  simp only [Bool.and_eq_true, decide_eq_true_eq, not_and]
  intro hu
  obtain rfl | hm := List.mem_cons.1 hx
  · by_cases he : s.g.uid = h.uid
    · simp [closed, he]
    · exact absurd hu (by simp [closed, he])
  · exact absurd hu (of_decide_eq_true (List.mem_filter.1 hm).2)

/-- The fate of a child whose leader issued no launch that stands. -/
def fateOf : Option (Nat × Nat) → Child
  | some f => .failed f.1 f.2
  | none => .done
theorem childFate_alone {e : Gang} {s : State} (h : s.launches.filter (issuedBy e.uid) = []) : childFate s e = fateOf e.fail := by
  have hf : s.launches.filter (fun l => (l.issuer.map (·.1)) = some e.uid) = [] := h
  unfold childFate fateOf
  split
  · next hc => rw [hc]
  · next hc => rw [hf, hc]; rfl
theorem closeLaunch_alone {e : Gang} {s : State} {x : Launch} (h : s.launches.filter (issuedBy e.uid) = []) (hx : x.id = e.launch) :
    (closeLaunch e s x).children = x.children.set e.child (fateOf e.fail) := by
  rw [← childFate_alone h]
  simp only [closeLaunch, h]
  exact congrArg Launch.children (if_pos (decide_eq_true hx))
theorem endFail_quiet (hf : ∀ f ∈ s.faults, f.uid ≠ g.uid) : endFail (quiet g s) g = g.fail := by
  have hfa : (quiet g s).faults = s.faults := (congrArg State.faults (quiet_kept g s) :)
  have hn : (quiet g s).faults.find? (fun f => f.uid = g.uid) = none := by
    rw [hfa]
    exact List.find?_eq_none.2 fun f hm => by simpa using hf f hm
  unfold endFail
  rw [hn]
  cases g.fail <;> rfl

/-- The child of a gang that has ended and drained is done or failed, and the gang has left its slot (02 R59, R63, 10 R311). -/
theorem gangEnd_closes (hg : gangOf s g.uid = some g) (hd : drained s g = true) (hl : ∀ l ∈ s.launches, l.issuer.map (·.1) ≠ some g.uid)
    (hf : ∀ f ∈ s.faults, f.uid ≠ g.uid) : let t := closeChild g.uid (gangEnded g s)
    gangOf t g.uid = none ∧ ∀ x ∈ s.launches, x.id = g.launch → ∃ y ∈ t.launches, y.id = x.id ∧
      y.children = x.children.set g.child (fateOf g.fail) := by
  obtain ⟨h, hk, hh⟩ := gangOf_gangEnded hg
  have hiss := issuedBy_gangEnded hl
  have huid : (endedGang (endFail (quiet g s) g) h).uid = g.uid := (uid_of_kept hk :)
  have hcan : canClose (gangEnded g s) (endedGang (endFail (quiet g s) g) h) = true := by
    have hcarts : (gangEnded g s).carts.any (fun x => x.uid = g.uid) = false := by
      simp only [drained, Bool.and_eq_true, Bool.not_eq_true'] at hd
      rw [gangEnded_carts]
      exact hd.1.1.1.2
    have hany : (gangEnded g s).launches.any (fun l => issuedBy g.uid l && !l.completed) = false :=
      List.any_eq_false.2 fun l hm => by simp [hiss l hm]
    rw [canClose, huid, hcarts, hany]
    rfl
  have hclose : closeChild g.uid (gangEnded g s) = closed (endedGang (endFail (quiet g s) g) h) (gangEnded g s) := by
    rw [closeChild_eq, hh, Option.map_some, Option.getD_some, if_pos hcan]
  rw [hclose]
  refine ⟨huid ▸ gangOf_closed (endedGang (endFail (quiet g s) g) h) (gangEnded g s), fun x hx hid => ?_⟩
  have hgone : (gangEnded g s).launches.filter (issuedBy g.uid) = [] := List.filter_eq_nil_iff.2 fun l hm => by simp [hiss l hm]
  have hm : endLaunch g x ∈ (gangEnded g s).launches := by
    rw [gangEnded_launches]
    exact List.mem_map_of_mem hx
  obtain ⟨hi, _, hch⟩ := endLaunch_keeps g x
  refine ⟨closeLaunch (endedGang (endFail (quiet g s) g) h) (gangEnded g s) (endLaunch g x), ?_, ?_, ?_⟩
  · show _ ∈ closedLaunches _ _
    rw [closedLaunches_eq, huid]
    exact List.mem_map_of_mem (List.mem_filter.2 ⟨hm, by simp [hiss _ hm]⟩)
  · exact (later_closeLaunch _ _ _).id.trans hi
  · have hla : (endedGang (endFail (quiet g s) g) h).launch = g.launch := (launch_of_kept hk :)
    have hchild : (endedGang (endFail (quiet g s) g) h).child = g.child := (child_of_kept hk :)
    rw [closeLaunch_alone (huid ▸ hgone) (hi.trans (hid.trans hla.symm)), hch, hchild]
    rw [← endFail_quiet hf]
    rfl

end GangEnd

/-! A launch completes (02 R59, R64, 17 R463) -/

section LaunchComplete

/-- A launch that has completed: its record is free unless an issuer that still runs joins it. -/
def completeLaunch (i : Nat) (ended : Bool) (s : State) (pubs : List Pub) : State :=
  { s with
    pubs := pubs
    launches := upd (fun x => x.id = i) (fun x => { x with completed := true, record := x.record && !x.cancelled && !ended }) s.launches }

variable {s : State} {l : Launch}

/-- The machine without a launch. -/
def withoutLaunch (i : Nat) (t : State) : State := { t with launches := t.launches.filter (fun x => x.id ≠ i) }
/-- What follows once a launch has completed: its issuer's end, or the report of a root launch. -/
def afterLaunch (l : Launch) (t : State) : State :=
  match l.issuer with
  | some (u, _) => if orphan t u then dropOrphan l t else closeChild u t
  | none => rootDone l.pkg l.job l.graph l.number l.queue l.tag (statusWord l) (withoutLaunch l.id t)

theorem closeKids_none (hl : launchOf s l.id = some l) (hc : ∀ c ∈ l.children, c ≠ .waiting ∧ ∀ u, c ≠ .running u) : closeKids l.id s = s := by
  unfold closeKids
  rw [hl]
  simp only
  clear hl
  generalize l.children = cs at hc
  induction cs with
  | nil => rfl
  | cons c cs ih =>
    rw [List.foldl_cons]
    have hcs := ih fun d hd => hc d (List.mem_cons_of_mem c hd)
    cases c with
    | running u => exact absurd rfl ((hc _ List.mem_cons_self).2 u)
    | waiting | done | failed _ _ => exact hcs
theorem exec_launchComplete (hl : launchOf s l.id = some l) (hn : l.completed = false)
    (hc : ∀ c ∈ l.children, c ≠ .waiting ∧ ∀ u, c ≠ .running u) :
    ∃ e ps, exec (.launchComplete l.id) s = .next (afterLaunch l (completeLaunch l.id e s ps)) := by
  have hopen : l.children.any Child.isOpen = false := List.any_eq_false.2 fun c hm => by
    cases c with
    | waiting => exact absurd rfl (hc _ hm).1
    | running u => exact absurd rfl ((hc _ hm).2 u)
    | done | failed _ _ => exact Bool.false_ne_true
  have hex : exec (.launchComplete l.id) s = execLaunchComplete l.id s := rfl
  rw [hex]
  unfold execLaunchComplete
  simp only [closeKids_none hl hc, hl, hn, hopen]
  exact ⟨_, _, rfl⟩
theorem launchOf_completeLaunch (hl : launchOf s l.id = some l) (e : Bool) (ps : List Pub) :
    launchOf (completeLaunch l.id e s ps) l.id = some { l with completed := true, record := l.record && !l.cancelled && !e } := by
  have h := launchOf_upd s l.id (f := fun x => { x with completed := true, record := x.record && !x.cancelled && !e }) (by intros; rfl)
  rw [hl] at h
  exact h
/-- A launch of a gang that runs completes, and no more. -/
theorem afterLaunch_runs {t : State} {u : Nat} {p : Coords} {g : Gang} (hi : l.issuer = some (u, p)) (hg : gangOf t u = some g) (hr : g.phase = .running) :
    afterLaunch l t = t := by
  have ho : orphan t u = false := by simp [orphan, hg]
  have hc : canClose t g = false := by simp [canClose, hr]
  simp only [afterLaunch, hi, ho]
  rw [closeChild_eq, hg, Option.map_some, Option.getD_some, hc]
  rfl

theorem afterLaunch_root {t : State} (hi : l.issuer = none) :
    afterLaunch l t = rootDone l.pkg l.job l.graph l.number l.queue l.tag (statusWord l) (withoutLaunch l.id t) := by
  simp only [afterLaunch, hi]

end LaunchComplete

/-- A gang whose wait is over tries its instruction again. -/
def unblocked (g : Gang) : Gang := { g with blocked := false }
/-- The oldest `lnch` that waits on a pool has the record that a grant gives it (02 R56). -/
def granted (tk : Ticket) (s : State) : State :=
  onGang tk.uid unblocked { s with poolQ := upd (fun u => u = tk) (fun u => { u with granted := true }) s.poolQ }
theorem gangOf_granted {s : State} {tk : Ticket} {g : Gang} (hg : gangOf s tk.uid = some g) : gangOf (granted tk s) tk.uid = some (unblocked g) :=
  (Laws.gangOf_onGang tk.uid unblocked _ fun _ => ⟨rfl, rfl⟩).trans (congrArg (Option.map unblocked) hg)

theorem gangsAndLaunchesComplete : Claims.GangsAndLaunchesComplete := by
  refine ⟨fun s c g hat hg hp hd hl hk hf => ⟨_, exec_gangEnd hat hp hk hd, gangEnd_closes hg hd hl hf⟩,
    fun s l hl hn hc => ?_, fun s l c tk g hg ht => ?_⟩
  · obtain ⟨e, ps, hex⟩ := exec_launchComplete hl hn hc
    have hx := launchOf_completeLaunch hl e ps
    refine ⟨fun u p g hi hg hr => ⟨completeLaunch l.id e s ps, ?_, rfl, _, hx, rfl, rfl⟩, fun hi => ⟨_, hex, ?_⟩⟩
    · rw [hex, afterLaunch_runs (t := completeLaunch l.id e s ps) hi hg hr]
    · rw [afterLaunch_root hi]
      have hrep := rootDone_reports l.pkg l.job l.graph l.number l.queue l.tag (statusWord l) (withoutLaunch l.id (completeLaunch l.id e s ps))
      refine ⟨hrep.mem, ?_, fun j hj => ?_⟩
      · refine List.find?_eq_none.2 fun y hy => ?_
        obtain ⟨x, hx, he⟩ := hrep.ids y hy
        rw [he]
        simpa using (List.mem_filter.1 hx).2
      · obtain ⟨k, hk, hg⟩ := graphs_of_reported hrep hj
        refine ⟨k, hk, fun x hx hi => ?_⟩
        obtain ⟨y, hy, hyi, hd, _⟩ := hg x hx hi
        exact ⟨y, hy, hyi, hd⟩
  · refine ⟨granted tk s, ?_, rfl, rfl, _, gangOf_granted hg, rfl, rfl, rfl⟩
    show execPoolRecordGrant l c s = _
    unfold execPoolRecordGrant
    rw [ht]
    rfl

/-- Settles O46: a child starts with its fresh gang, a record's head starts or is skipped by its wait, and the ends of
gangs and launches enter what was issued above. -/
theorem launchesRunTheirChildren : Obligations.LaunchesRunTheirChildren := ⟨childrenStart, gangsAndLaunchesComplete⟩

end Sys2Proof.Proofs
end

section
/-! A host write where a location has two key entries (17 R453, 01 R36). -/

namespace Sys2Proof.Proofs

open Sys2Proof.Machine Sys2Proof.Claims Sys2Proof.Laws

/-- A confirmed session whose next command is number 1. -/
def writerSess : Session := ⟨0, 3, (1, 2), true, 1, 0, 0, 0, 0, [], false⟩
/-- A package with every function ready. -/
def writerPkg : Package :=
  { pkg := 0, ready := (List.range 4).map Func.die ++ (List.range 12).map Func.stack ++ (List.range 4).map Func.granary ++ [.baseDie, .security, .morcy] }
/-- Job 1 with a transfer key, whose addresses map to HBM by its range entry, under a key slot that holds no key. -/
def keyless : State :=
  { State.reset.withFetchWord 32 0 with sessions := [writerSess], pkgs := [writerPkg], jobs := [{ bootJob with transfer := some 9 }] }
/-- The location to which the job's address 0x400000 maps. -/
def strayLoc : Nat := hbmLoc 0 0x400000
/-- Two entries for one location in the map of keys: a write of the empty key takes the first away and uncovers the second. -/
def strayKeys : State := { keyless with keys := [(strayLoc, some 5), (strayLoc, some 6)] }
def strayCmd : Cmd := ⟨0, 3, 1⟩
/-- The write of one byte at the job's address 0x400000. -/
def strayWrite : Instr := .memWrite strayCmd 1 0x400000 [7]
/-- The key of a location in the state that a step leaves. -/
def keyAfter (l : Nat) : Out → Option Key
  | .next t => some (memKey t l)
  | .fault _ | .refused _ => none

theorem strayKeys_next : NextOf strayCmd strayKeys := ⟨writerSess, by decide +kernel⟩
theorem strayKeys_serves : Serves strayKeys strayCmd strayWrite := by
  unfold Serves
  decide +kernel
/-- The byte that the job's address 0x400000 maps to. -/
def strayHit : Hit := ⟨strayLoc, 15, none, 2 ^ 56⟩
theorem strayKeys_hits : hostHits strayKeys 0 1 permW false 0x400000 1 = some [strayHit] := by decide +kernel
theorem strayKeys_left : keyAfter strayLoc (exec strayWrite strayKeys) = some (some 6) := by decide +kernel

/-- Refutes O59: MemWrite of a byte under the empty key at a location that has two entries in the map of keys, which the statement does not
suppose to be canonical, leaves the second entry's key there. -/
theorem not_jobsAndTheirMemory : ¬ Obligations.JobsAndTheirMemory := by
  rintro ⟨_, _, hmem, _⟩
  obtain ⟨_, hwrite, _⟩ := hmem strayKeys strayCmd 1 0x400000 [7] strayKeys_next (by decide +kernel)
  obtain ⟨_, hanswer⟩ := hwrite strayKeys_serves (by decide +kernel) (by decide +kernel) (by decide +kernel) (by decide +kernel)
  obtain ⟨t, hexec, _, _, _, hbytes, _⟩ := hanswer _ strayKeys_hits (by decide +kernel)
  obtain ⟨_, hkey, _⟩ := hbytes (strayHit, 7) (by decide)
  have hleft := strayKeys_left
  rw [show exec strayWrite strayKeys = .next t from hexec, keyAfter, show memKey t strayLoc = none from hkey] at hleft
  exact absurd hleft (by decide)

end Sys2Proof.Proofs
end

section
/-! A Save of a gang whose pending result waits for an atomic but asks, by its mark, nothing outside the core (18 R486, R495). -/

namespace Sys2Proof.Proofs

open Sys2Proof.Machine Sys2Proof.Claims Sys2Proof.Laws

/-- A pending result that waits for one reply, and is not marked as one that asks anything outside the core. -/
def unmarkedPend : Pend := { id := 1, flag := 3, left := 1, ws := [], trap := [], sent := 0, far := [], away := false }
/-- The stopped gang of job 1 that has this pending result. -/
def unmarkedGang : Gang :=
  let g := (State.reset.withFetchWord 32 0).g
  { g with stopping := true, pend := [unmarkedPend], flags := g.flags.set 3 1 }
/-- The image of a Save of job 1 that waits for its gangs. -/
def openImage : SaveImage :=
  { job := 1, pkg := 0, base := 0xBC00200000, mode := 0, state := 0, cmd := strayCmd, deadline := 300, t0 := 0, t1 := 0
    gangs := [], saved := 0, fresh := 0
    stopped := [], kiln := [], granary := [], spad := [], faults := [], windows := [], acc := [], tiles := [], resuming := none }
/-- The gang's atomic addition, whose reply enters lane 3 of v8. -/
def unmarkedAtom : AtomReq :=
  { id := 20, op := .atom .add, size := 4, loc := hbmLoc 0 0x100000, x := 5, count := 1, uid := unmarkedGang.uid, lane := 3, pend := 1, dst := 8
    va := 0x100000, job := 1, key := none, at_ := unmarkedGang.at_, sent := 0, route := [], queued := none }
/-- The machine in which this atomic is on its way to a word that is 7, as the Save completes. -/
def unmarkedSave : State :=
  { poke (hbmLoc 0 0x100000) [7] keyless with g := unmarkedGang, images := [openImage], atoms := [unmarkedAtom], cycle := 299 }

/-- Lane 3 of v8 of the saved gangs in the state that a step leaves. -/
def savedLanes : Out → Option (List W32)
  | .next t => (imageOf t 0 1).map (fun k => k.gangs.map (fun u => lane (u.v[8]) 3))
  | .fault _ | .refused _ => none

theorem unmarkedSave_writes : savedLanes (exec (.saveComplete 1 0) unmarkedSave) = some [7] := by decide +kernel
theorem unmarkedGang_lane : lane (unmarkedGang.v[8]) 3 ≠ 7 := by decide +kernel

/-- The job that the Save is for. -/
def savedJob : Job := { bootJob with transfer := some 9 }
theorem unmarkedSave_image : imageOf unmarkedSave 0 1 = some openImage := rfl
theorem unmarkedSave_job : jobOn unmarkedSave 0 1 = some savedJob := rfl
theorem unmarkedSave_ready : saveReady unmarkedSave openImage = true := by decide +kernel
theorem unmarkedSave_gang : gangOf unmarkedSave unmarkedGang.uid = some unmarkedGang := List.find?_cons_of_pos (by decide +kernel)
theorem unmarkedGang_inSlot : inSlot unmarkedGang = true := by decide +kernel
theorem unmarkedGang_pend : ∀ p ∈ unmarkedGang.pend, p.left ≠ 0 ∨ p.away = true := by decide +kernel

/-- Refutes O60: the Save's publish serves the gang's atomic request, whose reply then enters v8 before the gang is in the image, since the
pending result is not marked as one that asks anything outside the core. -/
theorem not_submitsSavesAndResumes : ¬ Obligations.SubmitsSavesAndResumes := by
  rintro ⟨_, ⟨_, hcomplete⟩, _⟩
  obtain ⟨_, hsave, _⟩ := hcomplete unmarkedSave 0 1 openImage savedJob unmarkedSave_image unmarkedSave_job rfl
  obtain ⟨t, hexec, _, k, hk, _, _, hall⟩ := hsave (by decide) rfl unmarkedSave_ready
  obtain ⟨_, u, hu, _, _, _, hv, _⟩ := hall unmarkedGang unmarkedSave_gang rfl rfl unmarkedGang_inSlot rfl rfl unmarkedGang_pend
  have hlanes := unmarkedSave_writes
  rw [hexec, savedLanes, hk, Option.map_some, Option.some.injEq] at hlanes
  have hmem : lane (u.v[8]) 3 ∈ k.gangs.map (fun u => lane (u.v[8]) 3) := List.mem_map_of_mem hu
  rw [hlanes, List.mem_singleton, hv] at hmem
  exact unmarkedGang_lane hmem

end Sys2Proof.Proofs
end

section
/-! SUPPORT. What a step does with the agenda's move: the gang in focus issues the word at its pc, or goes on from a clause header (03 R103, R111,
09 R263). -/

namespace Sys2Proof.Proofs

open Sys2Proof Sys2Proof.Machine Sys2Proof.Claims Sys2Proof.Laws

theorem focus_self {s : State} (h : inSlot s.g = true) : focus s.g.at_ s = s := by
  simp [focus, h]
theorem inSlot_of_mayIssue {s : State} {g : Gang} (h : mayIssue s g = true) : inSlot g = true := by
  simp only [mayIssue, Bool.and_eq_true, decide_eq_true_eq] at h
  simp [inSlot, h.1.1]
theorem mayIssue_of_mayGo {s : State} {g : Gang} (h : mayGo s g = true) : mayIssue s g = true := by
  simp only [mayGo, Bool.and_eq_true] at h
  exact h.1
theorem wakeDue_none {s : State} (h : s.g.hold = .none) : wakeDue s = s := by
  unfold wakeDue
  rw [h]
theorem setHold_none {s : State} (h : s.g.hold = .none) : { s with g := { s.g with hold := .none } } = s := by
  rw [← h]

/-- A gang with nothing before its next instruction at this boundary, at a body word of a clause, issues that word (03 R99, R103, R110). -/
theorem issueNext_at_body {s : State} {hdr : Word} (hhold : s.g.hold = .none) (hc : s.g.cancelled = false) (hd : dueDeferred s s.g = none)
    (hf : dueFault s s.g = none) (hsave : isSaving s s.g = false) (hage : ageDue s.g = false) (hdrain : s.g.drainFlags = false)
    (hskid : skidFull s s.g = false) (hmark : codeMark s s.g (path s.g).pc = 2) (hback : hdrBack s s.g 5 (path s.g).pc = some hdr) :
    issueNext s = issueBody hdr s := by
  unfold issueNext
  simp only [wakeDue_none hhold, setHold_none hhold]
  simp only [hc, hd, hf, hsave, hage, hdrain, hskid, Bool.false_and, Bool.false_eq_true, if_false, hmark, hback]

/-- A step whose agenda names the gang in focus, and what it runs where that gang issues an instruction (03 R111, log 3, 39). -/
theorem step_of_issue {s t : State} {r : List Move} {i : Instr} (ha : s.agenda = .issue s.g.at_ :: r)
    (hgo : mayGo { s with agenda := r } s.g = true) (hi : issueNext { s with agenda := r } = .run i t) :
    step s = exec i (if isTile i && !isPicked { s with agenda := r } s.g then
      { t with slots := t.iss.slots, iss := { t.iss with enters := true } } else t) := by
  have hfocus : focus s.g.at_ { s with agenda := r } = { s with agenda := r } :=
    focus_self (s := { s with agenda := r }) (inSlot_of_mayIssue (mayIssue_of_mayGo hgo))
  simp only [step, plan, ha, byAgenda, goOn, hfocus, hgo, hi, decide_true, Bool.and_self, if_true]

/-- Settles O4. -/
theorem stepRunsTheDecodedInstruction : Obligations.StepRunsTheDecodedInstruction := by
  intro s r h w j ha ws i g s1 hag hgo hhold hcan hdef hflt hsav hage hdrain hskid hmark hback ix hws hh hw hj flag hflag hgate free hcyc hfree
    hdec hdist out
  have hfull : (decide (flag < 12) && decide (flagCount g flag = 15)) = false := by
    rcases hflag with h | h <;> simp [h]
  have hpower : (isGated s1 g.at_.pkg && (decide (opOf w / 16 = 2) || decide (opOf w / 16 = 3))) = false := by
    rcases hgate with h | ⟨h2, h3⟩
    · rw [show isGated s1 g.at_.pkg = false from h, Bool.false_and]
    · simp [h2, h3]
  have hroom : (!free && !tileWord w) = false := by
    rcases hfree with h | h <;> simp [h]
  have hjump : (decide (opOf w = 3) && decide (hDist h (ix + 1) ≠ 0)) = false := by
    by_cases h3 : opOf w = 3
    · simp [hdist h3]
    · simp [h3]
  have hnext : issueNext s1 = .run i { s1 with
      g := atIssue s.cycle w h ix g
      iss := { hdr := ha, flag := flag, yield := hYield h && lastBody w h ix, enters := tileWord w && !free, aged := agedBy g
               count := g.icount, last := g.lastIssue, slots := s.slots, notBefore := g.notBefore, memHold := g.memHold
               took := g.tookOver }
      slots := if free then takeSlot s1 g.at_ (pipeOf w) else s.slots } := by
    refine (issueNext_at_body (s := s1) hhold hcan hdef hflt hsav hage hdrain hskid hmark hback).trans ?_
    subst hh hw
    unfold issueBody
    simp only [show fetchWords s1 s1.g (((path s1.g).pc - ha).toNat / 4 - 1 + 2) ha = .ok ws from hws]
    refine (if_neg (ne_true_of_eq_false hfull)).trans ((if_neg (ne_true_of_eq_false hpower)).trans ((if_neg (Nat.not_lt.2 hcyc)).trans ((if_neg (ne_true_of_eq_false hroom)).trans ?_)))
    rw [show (if opOf (ws.getLastD 0) = 3 then fetchWord s1 s1.g ((path s1.g).pc + 4) else .ok 0) = .ok j from hj]
    simp only [hdec]
    exact if_neg (ne_true_of_eq_false hjump)
  rw [step_of_issue hag hgo hnext]
  show exec i (if out then _ else _) = _
  cases out <;> cases free <;> rfl

end Sys2Proof.Proofs
end

section
/-! Traps that enter the handler, and traps that escalate (10 R315 to R318, 18 R474 to R478). -/

namespace Sys2Proof.Proofs

open Sys2Proof Sys2Proof.Machine Sys2Proof.Claims Sys2Proof.Laws

/-- A trap that is delivered enters the handler, with the address to which it returns. -/
theorem entered_enterTrap {s : State} (h : Delivers s) (t : Trap) (xpc : Word) :
    Entered t.cause t.addr t.info xpc s (enterTrap t xpc s) := by
  obtain ⟨hi, hv, hc⟩ := h
  rw [enterTrap_delivers t xpc hi hv hc]
  refine ⟨rfl, rfl, rfl, rfl, rfl, rfl, ?_, rfl, rfl, rfl, rfl, rfl, rfl, rfl⟩
  simp [path]

theorem trapInstructionsEnterTheHandler : Claims.TrapInstructionsEnterTheHandler := by
  intro s i w h
  exact ⟨⟨_, rfl, entered_enterTrap h ⟨cSoftware, 0, i.setWidth 64⟩ _⟩, ⟨_, rfl, entered_enterTrap h ⟨cBreakpoint, 0, 0⟩ _⟩,
    ⟨_, rfl, entered_enterTrap h ⟨cIllegal, pcOf s, w.setWidth 64⟩ _⟩⟩

/-- A job with a session is sent a message at once (17 R451). -/
theorem sendMessage_of_sess {s : State} {m : Message} {pkg p n : Nat} {j : Job} (hj : jobOn s pkg m.job = some j) (hs : j.sess = some (p, n)) :
    sendMessage pkg m s = { s with out := s.out ++ [.message p n m] } := by
  simp only [sendMessage, hj, hs]

theorem undeliveredTrapsEscalate : Claims.UndeliveredTrapsEscalate := by
  intro s i h j p n hj hp
  refine ⟨_, rfl, ?_⟩
  rw [enterTrap_escalates _ _ h, escalate, sendMessage_of_sess (j := j) hj hp]
  refine ⟨⟨rfl, ?_, pathCount_endGang _ _, rfl, rfl⟩, _, rfl, rfl, rfl, rfl, rfl⟩
  show (match s.g.fail with | some x => some x | none => _) = _
  cases s.g.fail <;> rfl

/-- Settles O15. -/
theorem trapsEnterTheHandler : Obligations.TrapsEnterTheHandler := ⟨trapInstructionsEnterTheHandler, undeliveredTrapsEscalate⟩

end Sys2Proof.Proofs
end

section
/-! Special registers (10 R297 to R300, 05 R171 to R174). -/

namespace Sys2Proof.Proofs

open Sys2Proof Sys2Proof.Machine Sys2Proof.Claims Sys2Proof.Laws

/-- The fields of `%xctl` stand at different bits (10 R300). -/
theorem xctl_eq (g : Gang) :
    xctl g = BitVec.ofNat 64 ((if g.inh then 128 else 0) + (if g.prec then 64 else 0) + (if g.pair then 32 else 0) + if g.pme then 1 else 0) := by
  unfold xctl
  cases g.inh <;> cases g.prec <;> cases g.pair <;> cases g.pme <;> rfl

theorem specialRegistersRead : Claims.SpecialRegistersRead := by
  intro s d
  refine ⟨rfl, rfl, rfl, rfl, rfl, rfl, rfl, rfl, rfl, rfl, rfl, rfl, rfl, rfl, rfl, rfl, rfl, rfl, rfl, rfl, rfl, rfl, rfl, rfl, rfl, ?_, rfl⟩
  rw [← xctl_eq]
  rfl

/-- Bits [10:8] of a word, the rounding mode that a write would place (05 R171). -/
theorem fld_mode (x : Word) : fld x 10 8 = x.toNat / 256 % 8 := rfl
/-- A write that places no reserved rounding mode completes (10 R298). -/
theorem sprWrite_legal {n : BitVec 8} {x : Word} (h : n = 0x10 → x.toNat / 256 % 8 < 5) (s : State) :
    sprWrite n x s = .next (next { s with g := writeSpr n.toNat x s.g }) := by
  have hlegal : (decide (n = 0x10) && decide (5 ≤ fld x 10 8)) = false := by
    rw [fld_mode, Bool.and_eq_false_iff, decide_eq_false_iff_not, decide_eq_false_iff_not, Nat.not_le]
    exact or_iff_not_imp_left.2 fun hn => h (not_not.1 hn)
  rw [sprWrite, hlegal]
  rfl
/-- A write that places a reserved rounding mode traps (05 R172, 10 R299). -/
theorem sprWrite_reserved {x : Word} (h : 5 ≤ x.toNat / 256 % 8) (s : State) :
    sprWrite 0x10 x s = .next (raise ⟨cOperand, 0, 0⟩ s) := by
  have hbad : (decide ((0x10 : BitVec 8) = 0x10) && decide (5 ≤ fld x 10 8)) = true := by simp [fld_mode, h]
  rw [sprWrite, hbad]
  rfl

theorem writeSpr_fpcsr (g : Gang) (x : Word) : writeSpr (0x10 : BitVec 8).toNat x g =
    { g with fpcsr := (x.setWidth 32 &&& 0x373F) ||| (g.fpcsr &&& 0xFFFFC8C0) ||| g.orNow.setWidth 32 } := by
  have hmask : ~~~csrMask = 0xFFFFC8C0 := by decide
  rw [← hmask]
  rfl
theorem writeSpr_ovf (g : Gang) (x : Word) : writeSpr (0x12 : BitVec 8).toNat x g =
    { g with ovf := (x &&& 0xFFFF) ||| (g.ovf &&& 0xFFFFFFFFFFFF0000) } := by
  have hmask : ~~~(0xFFFF : Word) = 0xFFFFFFFFFFFF0000 := by decide
  rw [← hmask]
  rfl

theorem specialRegistersAreWritten : Claims.SpecialRegistersAreWritten := by
  intro s a g ways
  have hways (n : BitVec 8) (old : Word) (ok : Word → Prop) (f : Word → Gang) (hold : readSpr s n.toNat = old)
      (hok : ∀ x, ok x → n = 0x10 → x.toNat / 256 % 8 < 5) (hf : ∀ x, writeSpr n.toNat x s.g = f x) : ways n old ok f := by
    subst hold
    have hw (x : Word) (hx : ok x) : sprWrite n x s = .next (next { s with g := f x }) := by rw [sprWrite_legal (hok x hx), hf]
    exact ⟨hw _, hw _, hw _⟩
  have hplain (n : BitVec 8) (old : Word) (f : Word → Gang) (hn : n ≠ 0x10) (hold : readSpr s n.toNat = old)
      (hf : ∀ x, writeSpr n.toNat x s.g = f x) : ways n old (fun _ => True) f := hways n old (fun _ => True) f hold (fun _ _ h => absurd h hn) hf
  clear_value ways
  exact ⟨hplain 0x00 _ _ (by decide) (by rfl) (by intro; rfl), hways 0x10 _ _ _ (by rfl) (fun _ h _ => h) (writeSpr_fpcsr s.g),
    hplain 0x11 _ _ (by decide) (by rfl) (by intro; rfl), hplain 0x12 _ _ (by decide) (by rfl) (writeSpr_ovf s.g),
    hplain 0x14 _ _ (by decide) (by rfl) (by intro; rfl), hplain 0x15 _ _ (by decide) (by rfl) (by intro; rfl),
    hplain 0x16 _ _ (by decide) (by rfl) (by intro; rfl), hplain 0x17 _ _ (by decide) (by rfl) (by intro; rfl),
    hplain 0x20 _ _ (by decide) (by rfl) (by intro; rfl), hplain 0x25 _ _ (by decide) (by rfl) (by intro; rfl),
    hplain 0x26 _ _ (by decide) (by rfl) (by intro; rfl)⟩

theorem reservedRoundingModeTraps : Claims.ReservedRoundingModeTraps := by
  intro s a h
  have htraps (x : Word) (hx : 5 ≤ x.toNat / 256 % 8) {i : Instr} (hi : exec i s = sprWrite 0x10 x s) :
      Runs i s (Entered 0x02 0 0 (pcOf s) s) :=
    ⟨_, hi.trans (sprWrite_reserved hx s), entered_raise h ⟨cOperand, 0, 0⟩⟩
  exact ⟨fun hx => htraps _ hx rfl, fun hx => htraps _ hx rfl, fun hx => htraps _ hx rfl⟩

/-- Settles O21. -/
theorem specialRegistersAreReadAndWritten : Obligations.SpecialRegistersAreReadAndWritten :=
  ⟨specialRegistersRead, specialRegistersAreWritten, reservedRoundingModeTraps⟩

end Sys2Proof.Proofs
end

section
/-! The results on their way: their order, when each is read, and what they leave alone (03 R103, R106, 09 R263). -/

namespace Sys2Proof.Proofs

open Sys2Proof Sys2Proof.Machine Sys2Proof.Claims Sys2Proof.Laws

/-- The results on their way stand in the order in which they are due (03 R106). -/
abbrev DueOrder (l : List Inflight) : Prop := l.Pairwise (fun a b => a.due ≤ b.due)

theorem mem_insertDue {i x : Inflight} : ∀ {l : List Inflight}, x ∈ insertDue i l ↔ x = i ∨ x ∈ l
  | [] => by simp [insertDue]
  | j :: r => by
    rw [insertDue]
    split
    · simp only [List.mem_cons, mem_insertDue (l := r)]
      tauto
    · simp only [List.mem_cons]
theorem insertDue_order (i : Inflight) : ∀ {l : List Inflight}, DueOrder l → DueOrder (insertDue i l)
  | [], _ => by simp [insertDue]
  | j :: r, h => by
    obtain ⟨hj, hr⟩ := List.pairwise_cons.1 h
    rw [insertDue]
    split
    case isTrue hle =>
      refine List.pairwise_cons.2 ⟨fun x hx => ?_, insertDue_order i hr⟩
      rcases mem_insertDue.1 hx with rfl | hx
      · simp at hle
        omega
      · exact hj x hx
    case isFalse hgt =>
      have hij : i.due ≤ j.due := by
        simp at hgt
        omega
      refine List.pairwise_cons.2 ⟨fun x hx => ?_, h⟩
      rcases List.mem_cons.1 hx with rfl | hx
      · exact hij
      · exact hij.trans (hj x hx)
theorem settleList_cons (t : Nat) (i : Inflight) (r : List Inflight) (g : Gang) :
    settleList t (i :: r) g = if i.due ≤ t then settleList t r (applyW g i.w) else { g with inflight := i :: r } := rfl
/-- What is due takes effect, and what stays is due later. -/
theorem settleList_order (t : Nat) : ∀ {l : List Inflight} (g : Gang), DueOrder l →
    DueOrder (settleList t l g).inflight ∧ ∀ i ∈ (settleList t l g).inflight, t < i.due
  | [], g, _ => by simp [settleList]
  | i :: r, g, h => by
    obtain ⟨hi, hr⟩ := List.pairwise_cons.1 h
    rw [settleList]
    split
    · exact settleList_order t _ hr
    case isFalse hlt =>
      refine ⟨h, fun x hx => ?_⟩
      rcases List.mem_cons.1 hx with rfl | hx
      · omega
      · have := hi x hx
        omega
theorem settle_order (t : Nat) {g : Gang} (h : DueOrder g.inflight) : DueOrder (settle t g).inflight := (settleList_order t g h).1
theorem fixed_order (lat : Nat) (w : RegWrite) {s : State} (h : DueOrder s.g.inflight) : DueOrder (fixed lat w s).g.inflight :=
  insertDue_order _ h

theorem resultsStayInOrder : Claims.ResultsStayInOrder := fun s lat t w h => ⟨fixed_order lat w h, settleList_order t s.g h⟩

/-- A scalar result goes behind every result that is due no later. -/
theorem insertDue_s (due n : Nat) (x : Word) (j : Inflight) (r : List Inflight) :
    insertDue ⟨due, .s n x⟩ (j :: r) = if j.due ≤ due then j :: insertDue ⟨due, .s n x⟩ r else ⟨due, .s n x⟩ :: j :: r := by
  rw [insertDue]
  congr 1
  simp [writesFirst]
  omega

/-- The scalar result that is due last of those of its cycle stands in its register then. -/
theorem settleList_reads (due : Nat) {n : Nat} (x : Word) (hn : n < 128) : ∀ (l : List Inflight) (g : Gang),
    (settleList due (insertDue ⟨due, .s n x⟩ l) g).s[n]? = some x
  | [], g => by simp [insertDue, settleList, applyW, hn]
  | j :: r, g => by
    rw [insertDue_s]
    split
    case isTrue hj =>
      rw [settleList, if_pos hj]
      exact settleList_reads due x hn r _
    case isFalse hj =>
      rw [settleList, if_pos (le_refl _), settleList, if_neg hj]
      simp [applyW, hn]
theorem applyW_s (w : RegWrite) {g h : Gang} (hs : g.s = h.s) : (applyW g w).s = (applyW h w).s := by
  cases w <;> simp only [applyW, hs]
theorem settleList_s (t : Nat) : ∀ (l : List Inflight) {g h : Gang}, g.s = h.s → (settleList t l g).s = (settleList t l h).s
  | [], _, _, hs => hs
  | j :: r, _, _, hs => by
    rw [settleList_cons, settleList_cons]
    split
    · exact settleList_s t r (applyW_s j.w hs)
    · exact hs
/-- A result that is not due yet leaves what is due before it as it is. -/
theorem settleList_before {t due : Nat} (n : Nat) (x : Word) (ht : t < due) : ∀ (l : List Inflight) (g : Gang),
    settleList t (insertDue ⟨due, .s n x⟩ l) g = { settleList t l g with inflight := (settleList t (insertDue ⟨due, .s n x⟩ l) g).inflight }
  | [], g => by
    rw [insertDue, settleList_cons, if_neg (Nat.not_le.2 ht)]
    rfl
  | j :: r, g => by
    rw [insertDue_s]
    split
    · rw [settleList_cons, settleList_cons]
      split
      · exact settleList_before n x ht r _
      · rfl
    case isFalse hj =>
      have hj' : ¬j.due ≤ t := by omega
      rw [settleList_cons, if_neg (Nat.not_le.2 ht), settleList_cons, if_neg hj']

/-- Two gangs with the same registers but for one scalar register. -/
def AgreeBut (n : Nat) (g h : Gang) : Prop := (∀ m, m ≠ n → g.s[m]? = h.s[m]?) ∧ g.v = h.v ∧ g.k = h.k

theorem applyW_agree {n : Nat} {g h : Gang} (w : RegWrite) (hgh : AgreeBut n g h) : AgreeBut n (applyW g w) (applyW h w) := by
  obtain ⟨hs, hv, hk⟩ := hgh
  cases w with
  | s i x =>
    refine ⟨fun m hm => ?_, hv, hk⟩
    simp only [applyW, Vector.getElem?_setIfInBounds, hs m hm]
  | sPart i k x =>
    refine ⟨fun m hm => ?_, hv, hk⟩
    simp only [applyW, Vector.getElem?_setIfInBounds]
    split
    · subst i
      rw [hs m hm]
    · exact hs m hm
  | v i m xs => exact ⟨hs, by simp only [applyW, vabs, hv], hk⟩
  | k i x => exact ⟨hs, hv, by simp only [applyW, hk]⟩
  | sh _ _ => exact ⟨hs, hv, hk⟩
  | fp _ => exact ⟨hs, hv, hk⟩
  | ovfOr _ => exact ⟨hs, hv, hk⟩
  | ovfSet _ => exact ⟨hs, hv, hk⟩
  | lscale _ => exact ⟨hs, hv, hk⟩
theorem write_agree {n : Nat} {g h : Gang} (x : Word) (hgh : AgreeBut n g h) : AgreeBut n (applyW g (.s n x)) h := by
  obtain ⟨hs, hv, hk⟩ := hgh
  refine ⟨fun m hm => ?_, hv, hk⟩
  simp only [applyW, Vector.getElem?_setIfInBounds, if_neg (Ne.symm hm), hs m hm]
theorem settleList_agree {n : Nat} (t : Nat) : ∀ (l : List Inflight) {g h : Gang}, AgreeBut n g h →
    AgreeBut n (settleList t l g) (settleList t l h)
  | [], _, _, hgh => hgh
  | j :: r, _, _, hgh => by
    rw [settleList_cons, settleList_cons]
    split
    · exact settleList_agree t r (applyW_agree j.w hgh)
    · exact hgh
/-- A scalar result changes no register but its own, whenever it is due. -/
theorem settleList_insert_agree {n : Nat} (t due : Nat) (x : Word) : ∀ (l : List Inflight) {g h : Gang}, AgreeBut n g h →
    AgreeBut n (settleList t (insertDue ⟨due, .s n x⟩ l) g) (settleList t l h)
  | [], g, h, hgh => by
    rw [insertDue, settleList_cons]
    split
    · exact write_agree x hgh
    · exact hgh
  | j :: r, g, h, hgh => by
    rw [insertDue_s]
    split
    case isTrue hj =>
      rw [settleList_cons, settleList_cons]
      split
      · exact settleList_insert_agree t due x r (applyW_agree j.w hgh)
      · exact hgh
    case isFalse hj =>
      rw [settleList_cons]
      split
      · exact settleList_agree t (j :: r) (write_agree x hgh)
      case isFalse ht =>
        have hj' : ¬j.due ≤ t := fun h => hj (h.trans (Nat.le_of_not_le ht))
        rw [settleList_cons, if_neg hj']
        exact hgh

theorem resultsAreReadAfterTheirLatency : Claims.ResultsAreReadAfterTheirLatency := by
  intro s lat n x _ hn
  have hagree (t : Nat) := settleList_insert_agree (n := n) t (s.cycle + lat) x s.g.inflight
    (g := (fixed lat (.s n x) s).g) (h := s.g) ⟨fun _ _ => rfl, rfl, rfl⟩
  refine ⟨settleList_reads _ x hn s.g.inflight _, fun t ht => ?_, fun t => (hagree t).1, fun t => (hagree t).2⟩
  exact (congrArg Gang.s (settleList_before n x ht s.g.inflight _)).trans (settleList_s t s.g.inflight rfl)

theorem foldl_fixed_eq : ∀ (ws : List (Nat × RegWrite)) (s : State), ws.foldl (fun s w => fixed w.1 w.2 s) s =
    { s with g := { s.g with inflight := (ws.foldl (fun s w => fixed w.1 w.2 s) s).g.inflight } }
  | [], _ => rfl
  | w :: ws, s => foldl_fixed_eq ws (fixed w.1 w.2 s)
/-- What an instruction whose results are on their way leaves alone. -/
theorem done_eq (ws : List (Nat × RegWrite)) (s : State) : done ws s =
    { s with g := { s.g with inflight := (done ws s).g.inflight, paths := s.g.paths.set s.g.act { path s.g with pc := pcOf s + 4 } } } := by
  unfold done
  rw [foldl_fixed_eq ws s]
  rfl
theorem resultsChangeNothingElse : Claims.ResultsChangeNothingElse := by
  intro s ws rs left
  refine ⟨fun t ht => ?_, ?_, rfl⟩
  · have hpaths : t.g.paths = s.g.paths.set s.g.act { path s.g with pc := pcOf s + 4 } ∧ t.g.act = s.g.act := by
      rcases ht with rfl | rfl
      · rw [done_eq]
        exact ⟨rfl, rfl⟩
      · exact ⟨rfl, rfl⟩
    obtain ⟨hset, hact⟩ := hpaths
    have hpath : path t.g = { path s.g with pc := pcOf s + 4 } ∧ ∀ i, i ≠ s.g.act → t.g.paths[i] = s.g.paths[i] := by
      constructor
      · simp [path, hset, hact]
      · intro i hi
        rw [hset]
        exact Vector.getElem_set_ne _ _ (fun h => hi (Fin.ext h.symm))
    rcases ht with rfl | rfl
    · refine ⟨?_, ?_, ?_, ?_, ?_, ?_, ?_, ?_, hpath⟩ <;> rw [done_eq]
    · exact ⟨rfl, rfl, rfl, rfl, rfl, rfl, rfl, rfl, hpath⟩
  · rw [done_eq]

/-- Settles O22. -/
theorem resultsTakeTheirLatency : Obligations.ResultsTakeTheirLatency :=
  ⟨resultsAreReadAfterTheirLatency, resultsStayInOrder, resultsChangeNothingElse⟩

end Sys2Proof.Proofs
end

section
/-! Registers outside the gang's blocks (03 R115, 09 R276). -/

namespace Sys2Proof.Proofs

open Sys2Proof Sys2Proof.Machine Sys2Proof.Claims Sys2Proof.Laws

/-- A vector instruction that names a register outside the gang's blocks raises the register-block trap of one of them. -/
theorem vecOp_traps {rs : List Reg} {s : State} (hd : Delivers s) (k : State → State) (hq : ∃ q ∈ rs, held s.g (vnum s.g q) = false) :
    ∃ t, vecOp (rs.map (fun q => (q, 1))) k s = .next t ∧
      ∃ q ∈ rs, held s.g (vnum s.g q) = false ∧ Entered 0x03 0 (BitVec.ofNat 64 (vnum s.g q % 256)) (pcOf s) s t := by
  have hmem (n : Nat) : n ∈ missing s.g (rs.map (fun q => (q, 1))) ↔ ∃ q ∈ rs, vnum s.g q = n ∧ held s.g n = false := by
    simp [mem_missing]
    tauto
  have hne : missing s.g (rs.map (fun q => (q, 1))) ≠ [] := by
    obtain ⟨q, hqr, hqh⟩ := hq
    exact List.ne_nil_of_mem ((hmem (vnum s.g q)).2 ⟨q, hqr, rfl, hqh⟩)
  obtain ⟨n, hn, htrap⟩ := blockTrapOf_some _ hne
  obtain ⟨q, hqr, rfl, hqh⟩ := (hmem n).1 hn
  have hblock : blockTrap s.g (rs.map (fun q => (q, 1))) = some ⟨cRegBlock, 0, wd (vnum s.g q % 256)⟩ := htrap
  exact ⟨_, by simp only [vecOp, hblock], q, hqr, hqh, entered_raise hd ⟨cRegBlock, 0, wd (vnum s.g q % 256)⟩⟩

/-- A meaning is a vector operation on the registers of `rs` (09 R279). -/
def OnRegs (rs : List (Reg × Nat)) (r : State → Out) : Prop := ∃ f, r = vecOp rs f

section Forms

variable (d a b : Reg) (r : Route)

theorem routedInt_onRegs (n : Nat) (f : W32 → W32 → W32) : OnRegs ([(d, 1), (a, 1)] ++ routedRegs b r) (routedInt n f d a b r) := ⟨_, rfl⟩
theorem routedFp_onRegs (f : Rnd → FVal → FVal → FVal → FVal × Fl) : OnRegs ([(d, 1), (a, 1)] ++ routedRegs b r) (routedFp f d a b r) :=
  ⟨_, rfl⟩
theorem packedBf_onRegs (f : Rnd → FVal → FVal → FVal → FVal × Fl) : OnRegs ([(d, 1), (a, 1)] ++ routedRegs b r) (packedBf f d a b r) :=
  ⟨_, rfl⟩
theorem execFdot2_onRegs : OnRegs ([(d, 1), (a, 1)] ++ routedRegs b r) (execFdot2 d a b r) := ⟨_, rfl⟩
theorem execFrng_onRegs (u : Bool) : OnRegs [(d, 1)] (execFrng d u) := ⟨_, rfl⟩
theorem execFclass_onRegs (m : ClassFmt) : OnRegs [(d, 1), (a, 1)] (execFclass d a m) := ⟨_, rfl⟩
theorem execVmovS_onRegs : OnRegs [(d, 1)] (execVmov (.s d a)) := ⟨_, rfl⟩
theorem execVvote_onRegs (m : VVoteOp) : OnRegs [(a, 1)] (execVvote d a m) := ⟨_, rfl⟩
theorem execVredl_onRegs (o : VRedlOp) : OnRegs [(a, 1)] (execVredl d a o) := ⟨_, rfl⟩
theorem execVcmp_onRegs (k : BitVec 3) (x : Bool) (m : CmpOp) : OnRegs ([(a, 1)] ++ sRegs b x) (execVcmp k a b x m) := ⟨_, rfl⟩

end Forms

/-- The vector registers of a routed instruction, as fields. -/
theorem routedRegs_map (d a b : Reg) (r : Route) :
    [(d, 1), (a, 1)] ++ routedRegs b r = (if r = .scalar then [d, a] else [d, a, b]).map (fun q => (q, 1)) := by
  unfold routedRegs
  split <;> rfl
theorem sRegs_map (a b : Reg) (x : Bool) : [(a, 1)] ++ sRegs b x = (if x then [a] else [a, b]).map (fun q => (q, 1)) := by
  cases x <;> rfl

/-- Settles O28: each of the instructions is a vector operation on its registers (`OnRegs`), which checks them first. -/
theorem registersOutsideTheBlocksTrap : Obligations.RegistersOutsideTheBlocksTrap := by
  intro s d a b r x o m k hd traps
  have htraps {rs : List Reg} {i : Instr} (hi : OnRegs (rs.map (fun q => (q, 1))) (exec i)) : traps rs i := by
    intro hq
    obtain ⟨f, hf⟩ := hi
    obtain ⟨t, ht, h⟩ := vecOp_traps hd f hq
    exact ⟨t, (congrFun hf s).trans ht, h⟩
  have hrouted {i : Instr} (hi : OnRegs ([(d, 1), (a, 1)] ++ routedRegs b r) (exec i)) :
      traps (if r = .scalar then [d, a] else [d, a, b]) i := htraps (by rwa [← routedRegs_map])
  clear_value traps
  have hcmp : traps (if x then [a] else [a, b]) (.vcmp k a b x m) := htraps (by rw [← sRegs_map]; exact execVcmp_onRegs a b k x m)
  refine ⟨?_, htraps (execVmovS_onRegs d a), htraps (rs := [d]) (execFrng_onRegs d x), htraps (rs := [d, a]) (execFclass_onRegs d a .fp32),
    htraps (rs := [a]) (execVvote_onRegs d a .any), htraps (rs := [a]) (execVredl_onRegs d a o), hcmp⟩
  simp only [List.forall_mem_cons]
  have hint := routedInt_onRegs d a b r
  have hfp := routedFp_onRegs d a b r
  have hbf := packedBf_onRegs d a b r
  refine ⟨hrouted (hint 2 (· + ·)), hrouted (hint 2 (· - ·)), hrouted (hint 4 (· * ·)), hrouted (hint 2 (· &&& ·)),
    hrouted (hint 2 (· ||| ·)), hrouted (hint 2 (· ^^^ ·)), hrouted (hfp (fun m x y _ => sumVal m [x, y])),
    hrouted (hfp (fun m x y _ => sumVal m [x, negVal y])), hrouted (hfp (fun _ x y _ => mulVal x y)), hrouted (hfp fmaVal),
    hrouted (hbf (fun m x y _ => sumVal m [x, y])), hrouted (hbf (fun _ x y _ => mulVal x y)), hrouted (hbf fmaVal),
    hrouted (execFdot2_onRegs d a b r), fun _ h => absurd h List.not_mem_nil⟩

end Sys2Proof.Proofs
end

section
/-! Replies to flagged instructions (03 R102, R103, 18 R495). -/

namespace Sys2Proof.Proofs

open Sys2Proof Sys2Proof.Machine Sys2Proof.Claims Sys2Proof.Laws

/-- The registers of a gang after writes: nothing but registers and results on their way differs. -/
theorem foldl_applyW_keeps {β : Type} (F : Gang → β) (hw : ∀ g w, F (applyW g w) = F g) (ws : List RegWrite) (g : Gang) :
    F (ws.foldl applyW g) = F g := foldl_keeps F hw ws g
/-- Writes outside the gang's own pipes are its writes, and flags among them count as ORed in (05 R174). -/
theorem foldl_applyReply : ∀ (ws : List RegWrite) (g : Gang) (m : BitVec 6),
    ∃ n, ws.foldl applyReply { g with orNow := m } = { ws.foldl applyW g with orNow := n }
  | [], _, m => ⟨m, rfl⟩
  | w :: ws, g, m => by
    obtain ⟨n, hn⟩ : ∃ n, applyReply { g with orNow := m } w = { applyW g w with orNow := n } := by
      cases w <;> exact ⟨_, rfl⟩
    rw [List.foldl_cons, hn]
    exact foldl_applyReply ws (applyW g w) n

/-- A pending result that is written: its registers, its flag and its trap (03 R103, 18 R495). -/
theorem finishPend_eq (p : Pend) (g : Gang) : ∃ n, finishPend p g = { p.ws.foldl applyW g with
    orNow := n
    pend := g.pend.filter (fun q => q.id ≠ p.id)
    flags := g.flags.setIfInBounds p.flag (flagCount g p.flag - 1)
    deferred := if g.stopping = true ∧ g.deferred ≠ [] then g.deferred else g.deferred ++ p.trap.map (fun d => { d with inh := p.inh }) } := by
  obtain ⟨n, hn⟩ := foldl_applyReply p.ws g g.orNow
  have hn : p.ws.foldl applyReply g = { p.ws.foldl applyW g with orNow := n } := hn
  have hpend : (p.ws.foldl applyW g).pend = g.pend := foldl_applyW_keeps (·.pend) (fun _ w => by cases w <;> rfl) _ _
  have hflags : (p.ws.foldl applyW g).flags = g.flags := foldl_applyW_keeps (·.flags) (fun _ w => by cases w <;> rfl) _ _
  have hdef : (p.ws.foldl applyW g).deferred = g.deferred := foldl_applyW_keeps (·.deferred) (fun _ w => by cases w <;> rfl) _ _
  have hstop : (p.ws.foldl applyW g).stopping = g.stopping := foldl_applyW_keeps (·.stopping) (fun _ w => by cases w <;> rfl) _ _
  have hcond : ((p.ws.foldl applyW g).stopping && !(p.ws.foldl applyW g).deferred.isEmpty) = decide (g.stopping = true ∧ g.deferred ≠ []) := by
    rw [hstop, hdef]
    cases g.stopping <;> cases g.deferred <;> rfl
  refine ⟨n, ?_⟩
  unfold finishPend addTraps
  simp only [hn]
  rw [hcond]
  by_cases h : g.stopping = true ∧ g.deferred ≠ []
  · rw [if_pos (decide_eq_true h), if_pos h]
    simp only [flagCount, hpend, hflags, hdef]
  · rw [if_neg (by rw [decide_eq_false h]; decide), if_neg h]
    simp only [flagCount, hpend, hflags, hdef]

/-- The pending count of a flag after one of them has changed (03 R104). -/
theorem flagCount_set {g h : Gang} {f k n : Nat} (hh : h.flags = g.flags.setIfInBounds k n) (hf : f < 12) :
    flagCount h f = if f = k then n else flagCount g f := by
  simp only [flagCount, hh, Vector.getElem?_setIfInBounds]
  by_cases hk : f = k
  · subst hk
    simp [hf]
  · simp only [if_neg hk, if_neg (Ne.symm hk)]

/-- The gang after the reply of a pending result, which a handler that waits for flags begins 4 cycles after (03 R103, R110, 16 R426). -/
def replied (now : Nat) (p : Pend) (g : Gang) : Gang :=
  { finishPend p g with notBefore := if g.drainFlags then max (finishPend p g).notBefore (now + 4) else (finishPend p g).notBefore }

/-- Settles O32: a reply writes its gang as `replied` says, which is the result's writes and its flag and trap (`finishPend_eq`). -/
theorem repliesWriteTheirRegisters : Obligations.RepliesWriteTheirRegisters := by
  intro s c g p hg hp
  have hphase : g.phase ≠ .free := by
    have h := List.find?_some hg
    intro hfree
    simp [inSlot, hfree] at h
  have hexec : exec (.loadReply c p.id) s = .next (onGang g.uid (replied s.cycle p) s) := by
    show execLoadReply c p.id s = _
    simp only [execLoadReply, hg, hp]
    rfl
  have hkeeps (h : Gang) : (replied s.cycle p h).at_ = h.at_ ∧ (replied s.cycle p h).phase = h.phase := by
    obtain ⟨n, hn⟩ := finishPend_eq p h
    simp only [replied, hn]
    exact ⟨foldl_applyW_keeps (·.at_) (fun _ w => by cases w <;> rfl) _ _, foldl_applyW_keeps (·.phase) (fun _ w => by cases w <;> rfl) _ _⟩
  have hat : gangAt (onGang g.uid (replied s.cycle p) s) c = some (replied s.cycle p g) := by
    rw [gangAt_onGang c g.uid (replied s.cycle p) s hkeeps, hg]
    simp [hphase]
  obtain ⟨n, hn⟩ := finishPend_eq p g
  refine ⟨_, hexec, rfl, rfl, replied s.cycle p g, hat, ?_⟩
  simp only [replied, hn]
  refine ⟨trivial, trivial, trivial, trivial, trivial, fun f hf => ?_, ?_⟩
  · rw [flagCount_set (g := g) rfl hf]
    exact ite_congr rfl (fun h => by rw [h]) (fun _ => rfl)
  · exact foldl_applyW_keeps (·.paths) (fun _ w => by cases w <;> rfl) _ _

end Sys2Proof.Proofs
end

section
/-! Register blocks: `rget`, `rput`, `winb`, and the `rget`s that wait (03 R114 to R118, 10 R319, R320). -/

namespace Sys2Proof.Proofs

open Sys2Proof Sys2Proof.Machine Sys2Proof.Claims Sys2Proof.Laws

theorem entry_fin (g : Gang) (i : Fin 16) : entry g i = g.paths[i] := by simp [entry]

/-- The only path is the active one. -/
theorem free_of_pathCount_one {g : Gang} (h1 : pathCount g = 1) (ha : (path g).state ≠ .free) {i : Fin 16} (hi : i ≠ g.act) :
    (g.paths[i]).state = .free := by
  obtain ⟨k, hk⟩ := List.length_eq_one_iff.1 h1
  have hone (j : Fin 16) (hj : (g.paths[j]).state ≠ .free) : j.val = k := by
    have hmem : j.val ∈ (List.range 16).filter (fun i => (entry g i).state ≠ .free) := by
      simp only [List.mem_filter, List.mem_range, decide_eq_true_eq, entry_fin]
      exact ⟨j.isLt, hj⟩
    rw [hk] at hmem
    exact List.mem_singleton.1 hmem
  by_contra hne
  exact hi (Fin.ext ((hone i hne).trans (hone g.act ha).symm))
/-- With one path there is none that the active one can give way to (03 R99). -/
theorem readyOthers_of_one {g : Gang} (h1 : pathCount g = 1) (ha : (path g).state ≠ .free) : readyOthers g = [] := by
  rw [List.eq_nil_iff_forall_not_mem]
  intro i hi
  simp only [readyOthers, List.mem_filter, List.mem_finRange, true_and, Bool.and_eq_true, decide_eq_true_eq] at hi
  rw [free_of_pathCount_one h1 ha hi.1] at hi
  exact absurd hi.2 (by decide)
theorem canGiveWay_of_one {g : Gang} (h1 : pathCount g = 1) (ha : (path g).state ≠ .free) : canGiveWay g = false := by
  rw [canGiveWay, readyBest_isSome, readyOthers_of_one h1 ha]
  simp

/-- An instruction that blocks where no other path goes on waits at its start (03 R99). -/
theorem block_of_stays {s : State} (h : canGiveWay s.g = false) : block s = { unissue s with g := { triedGang s with blocked := true } } := by
  have hcan : canGiveWay (triedGang s) = false := (canGiveWay_unissue s).trans h
  rw [block_eq, (giveWay_act (triedGang s)).1 hcan, canGiveWay_unissue, h]
  rfl

/-- The registers of the blocks that an acquire gives, and those that it leaves (03 R116, log 6). -/
theorem vabs_freshBlocks {g h : Gang} {n fresh r : Nat} (hv : h.v = freshBlocks n fresh g.v) (hr : r < 256) :
    vabs h r = if 64 ≤ r ∧ r < 64 * (n + 1) then mkLanes (fun l => Config.freeWord (fresh + 32 * r + l)) else vabs g r := by
  simp [vabs, hv, freshBlocks, hr]

theorem registerBlocksAreTaken : Claims.RegisterBlocksAreTakenAndReleased := by
  intro s n b h1
  refine ⟨fun hb hn hq => ?_, ?_, ?_⟩
  · have hexec : exec (.rget n) s = .next (next { s with
        g := { grantBlocks n.toNat s.fresh s.g with notBefore := max s.g.notBefore (s.cycle + 4) }, fresh := s.fresh + 8192 }) := by
      show execRget n s = _
      simp only [execRget, h1, hb, hq, hn, List.any_nil]
      simp
    refine ⟨_, hexec, rfl, path_setPath _ _, rfl, rfl, rfl, fun r hr => ?_, fun r l h64 hrn hr hl => ?_⟩
    · rw [vabs_freshBlocks (g := s.g) rfl (by omega), if_neg (by omega)]
    · rw [vabs_freshBlocks (g := s.g) rfl hr, if_pos ⟨h64, hrn⟩, lane_mkLanes _ hl]
  · have hexec : exec .rput s = .next (next { s with g := { s.g with blocks := 0 } }) := by
      show execRput s = _
      simp only [execRput, h1]
      rfl
    exact ⟨_, hexec, rfl, rfl, path_setPath _ _⟩
  · have hexec : exec (.winb b) s = .next (next { s with g := { s.g with window := b.toNat } }) := by
      show execWinb b s = _
      simp only [execWinb, h1]
      rfl
    exact ⟨_, hexec, rfl, rfl, path_setPath _ _⟩

theorem registerBlocksWaitOrTrap : Claims.RegisterBlocksWaitOrTrap := by
  intro s n b
  refine ⟨fun h1 ha hb hres hfree hq => ?_, fun hd h1 => ?_, fun hd h1 hb => ?_⟩
  · have hexec : exec (.rget n) s = .next (block { s with rgetQ := [⟨s.g.uid, s.g.at_, n.toNat, false, s.g.act, s.iss.yield⟩] }) := by
      show execRget n s = _
      simp only [execRget, h1, hb, hq]
      simp [hres, hfree, Nat.not_le.2]
    have hcan : canGiveWay ({ s with rgetQ := [⟨s.g.uid, s.g.at_, n.toNat, false, s.g.act, s.iss.yield⟩] } : State).g = false :=
      canGiveWay_of_one h1 ha
    refine ⟨_, hexec, ?_⟩
    rw [block_of_stays hcan]
    refine ⟨rfl, rfl, hb, ?_, rfl⟩
    show ((unAge s.iss.aged s.g).paths[s.g.act]).pc = pcOf s
    rw [paths_unAge]
    split <;> rfl
  · have hne : ¬ pathCount s.g = 1 := h1
    have htraps := entered_raise hd ⟨cDivergent, 0, 0⟩
    refine ⟨⟨raise ⟨cDivergent, 0, 0⟩ s, ?_, htraps⟩, ⟨raise ⟨cDivergent, 0, 0⟩ s, ?_, htraps⟩, ⟨raise ⟨cDivergent, 0, 0⟩ s, ?_, htraps⟩⟩
    · exact congrArg Host.Outcome.next (if_pos hne)
    · exact congrArg Host.Outcome.next (if_pos hne)
    · exact congrArg Host.Outcome.next (if_pos hne)
  · have hexec : exec (.rget n) s = .next (raise ⟨cRegBlock, 0, (Config.freeByte s.fresh).setWidth 64⟩ { s with fresh := s.fresh + 1 }) := by
      show execRget n s = _
      simp only [execRget, h1]
      exact congrArg Host.Outcome.next (if_pos hb)
    have hent := entered_raise (s := { s with fresh := s.fresh + 1 }) hd ⟨cRegBlock, 0, (Config.freeByte s.fresh).setWidth 64⟩
    refine ⟨_, hexec, (Config.freeByte s.fresh).toNat, (Config.freeByte s.fresh).isLt, ?_⟩
    rw [BitVec.ofNat_toNat]
    exact hent

/-! A waiting `rget` is served (03 R117) -/

/-- Two gangs with the same scalar registers and the same base block. -/
def AgreeLow (g h : Gang) : Prop := g.s = h.s ∧ ∀ r < 64, g.v[r]? = h.v[r]?

theorem applyW_agreeLow {g h : Gang} (w : RegWrite) (hgh : AgreeLow g h) : AgreeLow (applyW g w) (applyW h w) := by
  obtain ⟨hs, hv⟩ := hgh
  cases w with
  | v n m xs =>
    refine ⟨hs, fun r hr => ?_⟩
    simp only [applyW, Vector.getElem?_setIfInBounds]
    split
    · next h =>
      subst h
      simp only [vabs, hv n hr]
    · exact hv r hr
  | s n x => exact ⟨applyW_s _ hs, hv⟩
  | sPart n m x => exact ⟨applyW_s _ hs, hv⟩
  | k _ _ => exact ⟨hs, hv⟩
  | sh _ _ => exact ⟨hs, hv⟩
  | fp _ => exact ⟨hs, hv⟩
  | ovfOr _ => exact ⟨hs, hv⟩
  | ovfSet _ => exact ⟨hs, hv⟩
  | lscale _ => exact ⟨hs, hv⟩
theorem settleList_agreeLow (t : Nat) : ∀ (l : List Inflight) {g h : Gang}, AgreeLow g h → AgreeLow (settleList t l g) (settleList t l h)
  | [], _, _, hgh => hgh
  | j :: r, _, _, hgh => by
    rw [settleList_cons, settleList_cons]
    split
    · exact settleList_agreeLow t r (applyW_agreeLow j.w hgh)
    · exact hgh

theorem ageBut_eq (k : Nat) (g : Gang) : ageBut k g = { g with paths := (ageBut k g).paths } := by
  unfold ageBut
  split <;> rfl
theorem ageBut_pc (k : Nat) (g : Gang) (i : Fin 16) : ((ageBut k g).paths[i]).pc = (g.paths[i]).pc := by
  unfold ageBut
  split
  · rfl
  · simp only [Fin.getElem_fin, Vector.getElem_mk, List.getElem_toArray, List.getElem_map, List.getElem_finRange]
    split <;> rfl

/-- What the completion of a waiting instruction leaves of its gang (03 R99, R100, R105, R109). -/
theorem completeWait_spec (now k : Nat) (y : Bool) (g : Gang) (hk : k < 16) :
    let h := completeWait now k y g
    h.blocks = g.blocks ∧ (entry h k).pc = (entry g k).pc + 4 ∧ (k = g.act → h.blocked = false) ∧ h.act = g.act ∧ h.lastIssue = now ∧
      h.icount = g.icount + 1 ∧ h.uid = g.uid ∧ h.phase = g.phase ∧ (y = true → now + 2 ≤ h.notBefore) := by
  have hb : (settle now (ageBut k g)).blocks = g.blocks :=
    (settle_keeps (·.blocks) (fun _ w => by cases w <;> rfl) (fun _ _ => rfl) now _).trans (by rw [ageBut_eq])
  have hi : (settle now (ageBut k g)).icount = g.icount :=
    (settle_keeps (·.icount) (fun _ w => by cases w <;> rfl) (fun _ _ => rfl) now _).trans (by rw [ageBut_eq])
  have hu : (settle now (ageBut k g)).uid = g.uid :=
    (settle_keeps (·.uid) (fun _ w => by cases w <;> rfl) (fun _ _ => rfl) now _).trans (by rw [ageBut_eq])
  have hp : (settle now (ageBut k g)).phase = g.phase := (settle_phase now _).trans (by rw [ageBut_eq])
  have ha : (settle now (ageBut k g)).act = g.act := (settle_act now _).trans (by rw [ageBut_eq])
  have hpc : (entry (settle now (ageBut k g)) k).pc = (entry g k).pc := by
    have hps : (settle now (ageBut k g)).paths = (ageBut k g).paths := settle_paths now _
    rw [show k = (⟨k, hk⟩ : Fin 16).val from rfl, entry_fin, entry_fin, hps, ageBut_pc]
  refine ⟨hb, ?_, fun h => ?_, ha, rfl, congrArg (· + 1) hi, hu, hp, fun h => ?_⟩
  · rw [← hpc]
    simp [completeWait, entry, hk]
  · exact if_pos (by rw [ha, h])
  · simp only [completeWait, h, if_true]
    exact le_max_right _ _

/-- The gang of a waiting `rget` that RGET_GRANT serves (03 R117). -/
def withBlocks (s : State) (t : Ticket) (g : Gang) : Gang := completeWait s.cycle t.path t.yield (grantBlocks t.n s.fresh g)

theorem waitingRgetIsServed : Claims.WaitingRgetIsServed := by
  intro s c t g ht hn hg hp
  have hexec : exec (.rgetGrant c) s = .next { onGang t.uid (withBlocks s t) s with
      rgetQ := s.rgetQ.filter (fun u => u.uid ≠ t.uid), fresh := s.fresh + 8192 } := by
    show execRgetGrant c s = _
    simp only [execRgetGrant, ht, if_neg (Nat.not_lt.2 hn)]
    rfl
  have hspec (g : Gang) := completeWait_spec s.cycle t.path t.yield (grantBlocks t.n s.fresh g) hp
  have hgang : gangOf (onGang t.uid (withBlocks s t) s) t.uid = some (withBlocks s t g) := by
    rw [gangOf_onGang _ _ _ fun g => ?_, hg]
    · rfl
    · obtain ⟨-, -, -, -, -, -, hu, hph, -⟩ := hspec g
      exact ⟨hu, hph⟩
  have hlow : AgreeLow (settle s.cycle (ageBut t.path (grantBlocks t.n s.fresh g))) (settle s.cycle g) := by
    rw [settle, settle, show (ageBut t.path (grantBlocks t.n s.fresh g)).inflight = g.inflight by rw [ageBut_eq]; rfl]
    refine settleList_agreeLow _ _ ⟨by rw [ageBut_eq]; rfl, fun r hr => ?_⟩
    rw [ageBut_eq]
    show (freshBlocks t.n s.fresh g.v)[r]? = g.v[r]?
    have h1 : r < 256 := by omega
    have h2 : ¬ 64 ≤ r := by omega
    simp [freshBlocks, h1, h2]
  obtain ⟨hs, hv⟩ := hlow
  obtain ⟨hblocks, hpc, hblocked, hact, hlast, hcount, -, -, hyield⟩ := hspec g
  refine ⟨_, hexec, rfl, withBlocks s t g, hgang, hblocks, hpc, hblocked, hact, hlast, hcount, fun r hr => ?_, hs, hyield⟩
  exact congrArg (fun x : Option Lanes => x.getD (Vector.replicate 32 0)) (hv r hr)

/-- Settles O17. -/
theorem registerBlocksAreTakenAndReleased : Obligations.RegisterBlocksAreTakenAndReleased :=
  ⟨registerBlocksAreTaken, registerBlocksWaitOrTrap, waitingRgetIsServed⟩

end Sys2Proof.Proofs
end

section
/-! SUPPORT. The path table: entries after a write, the path that goes on next, the merge of a frame (03 R92 to R100). -/

namespace Sys2Proof.Proofs

open Sys2Proof Sys2Proof.Machine Sys2Proof.Claims Sys2Proof.Laws

/-! Entries -/

theorem getElem_set_fin {α : Type} (ps : Vector α 16) (i j : Fin 16) (e : α) : (ps.set i e)[j] = if i = j then e else ps[j] := by
  simp only [Fin.getElem_fin, Vector.getElem_set, Fin.val_inj]

/-- What an entry says of its path. -/
def pathPart (e : PathEntry) := (e.lanes, e.exec, e.state, e.frameV, e.frame, e.pc, e.age)
/-- What an entry says of the frame that it holds. -/
def framePart (e : PathEntry) := (e.joinV, e.members, e.join, e.parentV, e.parent)
/-- Two path tables with the same paths. -/
def SamePaths (ps qs : Vector PathEntry 16) : Prop := ∀ i : Fin 16, pathPart ps[i] = pathPart qs[i]

theorem pathPart_eq {e f : PathEntry} : pathPart e = pathPart f ↔
    e.lanes = f.lanes ∧ e.exec = f.exec ∧ e.state = f.state ∧ e.frameV = f.frameV ∧ e.frame = f.frame ∧ e.pc = f.pc ∧ e.age = f.age := by
  simp [pathPart]
theorem framePart_eq {e f : PathEntry} : framePart e = framePart f ↔
    e.joinV = f.joinV ∧ e.members = f.members ∧ e.join = f.join ∧ e.parentV = f.parentV ∧ e.parent = f.parent := by
  simp [framePart]
/-- A write of an entry that changes the frame alone leaves the paths. -/
theorem samePaths_set {ps : Vector PathEntry 16} {f : Fin 16} {e : PathEntry} (h : pathPart e = pathPart ps[f]) : SamePaths (ps.set f e) ps := by
  intro i
  rw [getElem_set_fin]
  split
  · next hi => rw [h, hi]
  · rfl

/-! How many paths there are -/

theorem pathCount_eq_zero {g : Gang} : pathCount g = 0 ↔ ∀ i : Fin 16, (g.paths[i]).state = .free := by
  rw [pathCount, List.length_eq_zero_iff, List.filter_eq_nil_iff]
  constructor
  · intro h i
    have hi := h i.val (List.mem_range.2 i.isLt)
    rw [entry_fin] at hi
    simpa using hi
  · intro h i hi
    have hlt := List.mem_range.1 hi
    rw [show entry g i = g.paths[(⟨i, hlt⟩ : Fin 16)] from entry_fin g ⟨i, hlt⟩]
    simpa using h ⟨i, hlt⟩
theorem pathCount_ne_zero {g : Gang} {i : Fin 16} (h : (g.paths[i]).state = .ready) : pathCount g ≠ 0 := by
  intro h0
  have := pathCount_eq_zero.1 h0 i
  rw [h] at this
  cases this
/-! The best of the ready paths -/

/-- The choice between the best path so far and the next one (03 R99). -/
def olderPath (g : Gang) (b : Option (Fin 16)) (i : Fin 16) : Option (Fin 16) :=
  match b with
  | none => some i
  | some j => if (g.paths[j]).age < (g.paths[i]).age then some i else some j
/-- The ready paths. -/
def readyAll (g : Gang) : List (Fin 16) := (List.finRange 16).filter (fun i => (g.paths[i]).state = .ready)

theorem readyBest_eq (g : Gang) : readyBest g = (readyOthers g).foldl (olderPath g) none := rfl
theorem bestReady_eq (g : Gang) : bestReady g = (readyAll g).foldl (olderPath g) none := rfl
theorem mem_readyAll {g : Gang} {i : Fin 16} : i ∈ readyAll g ↔ (g.paths[i]).state = .ready := by simp [readyAll]
theorem mem_readyOthers {g : Gang} {i : Fin 16} : i ∈ readyOthers g ↔ i ≠ g.act ∧ (g.paths[i]).state = .ready := by simp [readyOthers]

/-- The path that is chosen is one of the list, and no path of the list is older. -/
theorem foldl_older (g : Gang) : ∀ (l : List (Fin 16)) (b : Option (Fin 16)) (k : Fin 16), l.foldl (olderPath g) b = some k →
    (k ∈ l ∨ b = some k) ∧ (∀ i ∈ l, (g.paths[i]).age ≤ (g.paths[k]).age) ∧ ∀ j, b = some j → (g.paths[j]).age ≤ (g.paths[k]).age
  | [], b, k, h => ⟨.inr h, by simp, fun j hj => by rw [List.foldl_nil] at h; rw [h] at hj; cases hj; exact le_refl _⟩
  | i :: l, b, k, h => by
    rw [List.foldl_cons] at h
    obtain ⟨hmem, hall, hb⟩ := foldl_older g l _ k h
    cases b with
    | none =>
      have hi := hb i rfl
      refine ⟨.inl ?_, ?_, by simp⟩
      · rcases hmem with hmem | hmem
        · exact List.mem_cons_of_mem _ hmem
        · cases hmem
          exact List.mem_cons_self
      · simp only [List.forall_mem_cons]
        exact ⟨hi, hall⟩
    | some j =>
      by_cases hlt : (g.paths[j]).age < (g.paths[i]).age
      · have ho : olderPath g (some j) i = some i := if_pos hlt
        rw [ho] at hmem hb
        have hi := hb i rfl
        refine ⟨.inl ?_, ?_, ?_⟩
        · rcases hmem with hmem | hmem
          · exact List.mem_cons_of_mem _ hmem
          · cases hmem
            exact List.mem_cons_self
        · simp only [List.forall_mem_cons]
          exact ⟨hi, hall⟩
        · intro m hm
          cases hm
          exact hlt.le.trans hi
      · have ho : olderPath g (some j) i = some j := if_neg hlt
        rw [ho] at hmem hb
        have hj := hb j rfl
        refine ⟨hmem.imp_left (List.mem_cons_of_mem _), ?_, hb⟩
        simp only [List.forall_mem_cons]
        exact ⟨(Nat.le_of_not_lt hlt).trans hj, hall⟩
theorem foldl_older_some (g : Gang) : ∀ (l : List (Fin 16)) (b : Option (Fin 16)), l ≠ [] ∨ b.isSome = true → (l.foldl (olderPath g) b).isSome = true
  | [], b, h => h.resolve_left (by simp)
  | i :: l, b, _ => by
    refine foldl_older_some g l _ (.inr ?_)
    cases b with
    | none => rfl
    | some j =>
      unfold olderPath
      simp only
      split <;> rfl
/-- Which path is chosen depends on the states and ages of the paths alone. -/
theorem foldl_older_congr {g h : Gang} : ∀ (l : List (Fin 16)) (b : Option (Fin 16)), (∀ i ∈ l, (h.paths[i]).age = (g.paths[i]).age) →
    (∀ j, b = some j → (h.paths[j]).age = (g.paths[j]).age) → l.foldl (olderPath h) b = l.foldl (olderPath g) b
  | [], _, _, _ => rfl
  | i :: l, b, hl, hb => by
    have hi := hl i List.mem_cons_self
    have ho : olderPath h b i = olderPath g b i := by
      cases b with
      | none => rfl
      | some j => simp only [olderPath, hi, hb j rfl]
    rw [List.foldl_cons, List.foldl_cons, ho]
    refine foldl_older_congr l _ (fun k hk => hl k (List.mem_cons_of_mem _ hk)) (fun k hk => ?_)
    cases b with
    | none =>
      cases hk
      exact hi
    | some j =>
      unfold olderPath at hk
      simp only at hk
      split at hk
      · cases hk
        exact hi
      · cases hk
        exact hb _ rfl

/-- Where the active path has ended or parked, the best ready path is the best of the others before (03 R99). -/
theorem bestReady_of_others {g h : Gang} (ha : (h.paths[g.act]).state ≠ .ready)
    (ho : ∀ i, i ≠ g.act → ((h.paths[i]).state = .ready ↔ (g.paths[i]).state = .ready) ∧ (h.paths[i]).age = (g.paths[i]).age) :
    bestReady h = readyBest g := by
  have hl : readyAll h = readyOthers g := by
    unfold readyAll readyOthers
    refine List.filter_congr fun i _ => ?_
    by_cases hi : i = g.act
    · subst hi
      simp [ha, -Fin.getElem_fin]
    · simp [hi, (ho i hi).1, -Fin.getElem_fin]
  rw [bestReady_eq, readyBest_eq, hl]
  exact foldl_older_congr _ _ (fun i hi => (ho i (mem_readyOthers.1 hi).1).2) (by simp)
/-- The only ready path is the one that goes on. -/
theorem bestReady_unique {g : Gang} {e : Fin 16} (he : (g.paths[e]).state = .ready) (hu : ∀ i, (g.paths[i]).state = .ready → i = e) :
    bestReady g = some e := by
  have hs := foldl_older_some g (readyAll g) none (.inl (List.ne_nil_of_mem (mem_readyAll.2 he)))
  obtain ⟨k, hk⟩ := Option.isSome_iff_exists.1 hs
  have hmem := (foldl_older g _ _ k hk).1.resolve_right (by simp)
  rw [bestReady_eq, hk, hu k (mem_readyAll.1 hmem)]
/-- A younger path does not go on before an older one. -/
theorem bestReady_ne_of_older {g : Gang} {e i : Fin 16} (hi : (g.paths[i]).state = .ready) (hlt : (g.paths[e]).age < (g.paths[i]).age) :
    bestReady g ≠ some e := by
  intro h
  have := (foldl_older g _ _ e h).2.1 i (mem_readyAll.2 hi)
  omega
theorem bestReady_isSome {g : Gang} {i : Fin 16} (hi : (g.paths[i]).state = .ready) : ∃ k, bestReady g = some k :=
  Option.isSome_iff_exists.1 (foldl_older_some g (readyAll g) none (.inl (List.ne_nil_of_mem (mem_readyAll.2 hi))))

/-! The path that takes over -/

theorem activate_paths (i j : Fin 16) (g : Gang) : (activate i g).paths[j] = if i = j then { g.paths[j] with age := 0 } else g.paths[j] := by
  rw [activate, getElem_set_fin]
  split
  · next h => rw [h]
  · rfl
/-- Outside a handler the best ready path takes over (03 R99). -/
theorem takeOver_of_best {g : Gang} {i : Fin 16} (hi : g.inh = false) (hb : bestReady g = some i) :
    takeOver g = { activate i g with notBefore := max g.notBefore (g.lastIssue + 4) } := by
  simp only [takeOver, hi, hb]
/-- A takeover changes the ages of paths, the active path and the earliest cycle of the next instruction alone. -/
theorem takeOver_eq (g : Gang) : takeOver g =
    { g with paths := (takeOver g).paths, act := (takeOver g).act, notBefore := (takeOver g).notBefore } := by
  unfold takeOver
  split <;> rfl
theorem takeOver_paths (g : Gang) (j : Fin 16) : ∃ n, (takeOver g).paths[j] = { g.paths[j] with age := n } ∧ n ≤ (g.paths[j]).age := by
  unfold takeOver
  split
  · next i _ _ =>
    show ∃ n, (activate i g).paths[j] = _ ∧ _
    rw [activate_paths]
    split
    · exact ⟨0, rfl, Nat.zero_le _⟩
    · exact ⟨_, rfl, le_refl _⟩
  · exact ⟨_, rfl, le_refl _⟩

end Sys2Proof.Proofs
end

section
/-! SUPPORT. The merge of a frame's parked paths, and the lanes that leave a frame (03 R95, R96). -/

namespace Sys2Proof.Proofs

open Sys2Proof Sys2Proof.Machine Sys2Proof.Claims Sys2Proof.Laws

/-- Entry `i` holds a path that is parked at the join of frame `f`. -/
def Merging (f : Fin 16) (g : Gang) (i : Fin 16) : Prop := (g.paths[i]).state = .parked ∧ (g.paths[i]).frameV = true ∧ (g.paths[i]).frame = f
/-- The entries that merge, in ascending order. -/
def mergers (f : Fin 16) (g : Gang) : List (Fin 16) :=
  (List.finRange 16).filter (fun i => (g.paths[i]).state = .parked && (g.paths[i]).frameV && (g.paths[i]).frame = f)
theorem mem_mergers {f : Fin 16} {g : Gang} {i : Fin 16} : i ∈ mergers f g ↔ Merging f g i := by
  simp [mergers, Merging, and_assoc, -Fin.getElem_fin]

theorem inMask_foldl_or {ι : Type} (F : ι → W32) (l : Nat) : ∀ (xs : List ι) (m : W32),
    inMask (xs.foldl (fun m j => m ||| F j) m) l = (inMask m l || xs.any (fun j => inMask (F j) l))
  | [], m => by simp
  | x :: xs, m => by
    rw [List.foldl_cons, inMask_foldl_or F l xs]
    simp only [inMask, BitVec.getLsbD_or, List.any_cons, Bool.or_assoc]
/-- The lanes that are parked at a frame's join (03 R95). -/
theorem parkedLanes_eq (f : Fin 16) (g : Gang) : parkedLanes f g = (mergers f g).foldl (fun m j => m ||| (g.paths[j]).lanes) 0 := by
  rw [parkedLanes, mergers, List.foldl_filter]
/-- They depend on the paths alone. -/
theorem mergers_congr {f : Fin 16} {g h : Gang} (hp : SamePaths h.paths g.paths) : mergers f h = mergers f g := by
  unfold mergers
  refine List.filter_congr fun i _ => ?_
  obtain ⟨-, -, hs, hv, hf, -⟩ := pathPart_eq.1 (hp i)
  rw [hs, hv, hf]
theorem parkedLanes_congr {f : Fin 16} {g h : Gang} (hp : SamePaths h.paths g.paths) : parkedLanes f h = parkedLanes f g := by
  rw [parkedLanes_eq, parkedLanes_eq, mergers_congr hp]
  congr 1
  funext m j
  rw [(pathPart_eq.1 (hp j)).1]
theorem exists_merging_of_parked {f : Fin 16} {g : Gang} (h : parkedLanes f g ≠ 0) : ∃ i, Merging f g i := by
  by_contra hno
  have hnil : mergers f g = [] := List.eq_nil_iff_forall_not_mem.2 fun i hi => hno ⟨i, mem_mergers.1 hi⟩
  rw [parkedLanes_eq, hnil] at h
  exact h rfl

/-- An entry whose path has ended. -/
def freedPath (e : PathEntry) : PathEntry := { e with lanes := 0, exec := 0, state := .free, frameV := false, frame := 0, pc := 0, age := 0 }
theorem foldl_freed (i : Fin 16) : ∀ (l : List (Fin 16)) (ps : Vector PathEntry 16),
    (l.foldl (fun ps j => ps.set j (freedPath ps[j])) ps)[i] = if i ∈ l then freedPath ps[i] else ps[i]
  | [], ps => by simp
  | j :: l, ps => by
    rw [List.foldl_cons, foldl_freed i l, getElem_set_fin]
    by_cases hij : j = i
    · subst hij
      simp only [if_true, List.mem_cons, true_or]
      split <;> rfl
    · have hne : ¬ i = j := fun h => hij h.symm
      simp only [if_neg hij, List.mem_cons, hne, false_or]

theorem clearFrame_paths (f i : Fin 16) (g : Gang) : (clearFrame f g).paths[i] =
    if f = i then { g.paths[i] with joinV := false, members := 0, join := 0, parentV := false, parent := 0 } else g.paths[i] := by
  rw [clearFrame, getElem_set_fin]
  split
  · next h => rw [h]
  · rfl
theorem clearFrame_samePaths (f : Fin 16) (g : Gang) : SamePaths (clearFrame f g).paths g.paths := samePaths_set rfl

/-- The table after a merge, but for the frame that is gone: `e` holds the merged path, the entries of `rest` are free. -/
def mergedPaths (f e : Fin 16) (rest : List (Fin 16)) (g : Gang) : Vector PathEntry 16 :=
  let ps := rest.foldl (fun ps j => ps.set j (freedPath ps[j])) g.paths
  ps.set e { ps[e] with
    lanes := (g.paths[f]).members, exec := (e :: rest).foldl (fun m j => m ||| (g.paths[j]).exec) 0, state := .ready
    frameV := (g.paths[f]).parentV, frame := (g.paths[f]).parent, age := 0 }
theorem mergeFrame_cons {f e : Fin 16} {rest : List (Fin 16)} {g : Gang} (h : mergers f g = e :: rest) :
    mergeFrame f g = (some e, clearFrame f { g with paths := mergedPaths f e rest g }) := by
  have h' : (List.finRange 16).filter (fun i => (g.paths[i]).state = .parked && (g.paths[i]).frameV && (g.paths[i]).frame = f) = e :: rest := h
  unfold mergeFrame
  simp only [h']
  rfl
theorem mergeFrame_nil {f : Fin 16} {g : Gang} (h : mergers f g = []) : mergeFrame f g = (none, clearFrame f g) := by
  have h' : (List.finRange 16).filter (fun i => (g.paths[i]).state = .parked && (g.paths[i]).frameV && (g.paths[i]).frame = f) = [] := h
  unfold mergeFrame
  simp only [h']

/-- The merge of a frame with parked paths: the lowest of their entries holds the merged path, the others are free, every other path is as
before, and the frame is gone (03 R95). -/
structure Merged (f e : Fin 16) (g h : Gang) : Prop where
  merging : Merging f g e
  lowest : ∀ i, Merging f g i → e ≤ i
  onlyPaths : h = { g with paths := h.paths }
  lanes : (h.paths[e]).lanes = (g.paths[f]).members
  state : (h.paths[e]).state = .ready
  frameV : (h.paths[e]).frameV = (g.paths[f]).parentV
  frame : (h.paths[e]).frame = (g.paths[f]).parent
  pc : (h.paths[e]).pc = (g.paths[e]).pc
  age : (h.paths[e]).age = 0
  exec : ∀ l, inMask (h.paths[e]).exec l = true ↔ ∃ i, Merging f g i ∧ inMask (g.paths[i]).exec l = true
  freed : ∀ i, Merging f g i → i ≠ e → (h.paths[i]).state = .free ∧ (h.paths[i]).lanes = 0 ∧ (h.paths[i]).exec = 0
  others : ∀ i, ¬ Merging f g i → pathPart h.paths[i] = pathPart g.paths[i]
  gone : (h.paths[f]).joinV = false

theorem mergeFrame_merged {f : Fin 16} {g : Gang} (hm : ∃ i, Merging f g i) : ∃ e h, mergeFrame f g = (some e, h) ∧ Merged f e g h := by
  obtain ⟨e, rest, hes⟩ := List.exists_cons_of_ne_nil (List.ne_nil_of_mem (mem_mergers.2 hm.choose_spec))
  have hmem (i : Fin 16) : Merging f g i ↔ i = e ∨ i ∈ rest := by rw [← mem_mergers, hes, List.mem_cons]
  have hsorted : (mergers f g).Pairwise (· < ·) := (List.pairwise_lt_finRange 16).filter _
  rw [hes, List.pairwise_cons] at hsorted
  have hrest : e ∉ rest := fun h => absurd (hsorted.1 e h) (lt_irrefl e)
  have hclear := clearFrame_samePaths f { g with paths := mergedPaths f e rest g }
  have hpart (i : Fin 16) : pathPart (clearFrame f { g with paths := mergedPaths f e rest g }).paths[i] = pathPart (mergedPaths f e rest g)[i] :=
    hclear i
  have hat (i : Fin 16) (hi : i ≠ e) : (mergedPaths f e rest g)[i] = if i ∈ rest then freedPath g.paths[i] else g.paths[i] := by
    rw [mergedPaths, getElem_set_fin, if_neg (Ne.symm hi), foldl_freed]
  obtain ⟨hl, hx, hs, hv, hfr, hpc, hage⟩ := pathPart_eq.1 (hpart e)
  have he : (mergedPaths f e rest g)[e] = { g.paths[e] with
      lanes := (g.paths[f]).members, exec := (e :: rest).foldl (fun m j => m ||| (g.paths[j]).exec) 0, state := .ready
      frameV := (g.paths[f]).parentV, frame := (g.paths[f]).parent, age := 0 } := by
    rw [mergedPaths, getElem_set_fin, if_pos rfl, foldl_freed, if_neg hrest]
  rw [he] at hl hx hs hv hfr hpc hage
  refine ⟨e, _, mergeFrame_cons hes, (hmem e).2 (.inl rfl), fun i hi => ?_, rfl, hl, hs, hv, hfr, hpc, hage, fun l => ?_, fun i hi hne => ?_,
    fun i hi => ?_, ?_⟩
  · rcases (hmem i).1 hi with rfl | hi
    · exact le_refl _
    · exact (hsorted.1 i hi).le
  · rw [hx, inMask_foldl_or]
    have h0 : inMask 0 l = false := by simp [inMask]
    simp only [h0, Bool.false_or, List.any_eq_true, hmem, List.mem_cons]
  · obtain ⟨hl, hx, hs, -⟩ := pathPart_eq.1 (hpart i)
    rw [hat i hne, if_pos (((hmem i).1 hi).resolve_left hne)] at hl hx hs
    exact ⟨hs, hl, hx⟩
  · have hno := mt (hmem i).2 hi
    rw [hpart, hat i fun h => hno (.inl h), if_neg fun h => hno (.inr h)]
  · rw [clearFrame_paths, if_pos rfl]

end Sys2Proof.Proofs
end

section
/-! PROOF. `brd` and `join` (03 R93 to R95, 10 R308 to R310). -/

namespace Sys2Proof.Proofs

open Sys2Proof Sys2Proof.Machine Sys2Proof.Claims Sys2Proof.Laws

/-! `brd` -/

theorem goesTo_jump (a : Word) (s : State) : GoesTo a s (jump a s) := ⟨⟨rfl, rfl⟩, rfl, rfl, rfl⟩

/-- What a write of an entry leaves of it, it leaves of the whole table. -/
theorem table_keeps {β : Type} (F : PathEntry → β) (ps : Vector PathEntry 16) (i k : Fin 16) (e : PathEntry) (h : F e = F ps[i]) :
    F (ps.set i e)[k] = F ps[k] := by
  rw [getElem_set_fin]
  split
  · next hi => rw [h, hi]
  · rfl
/-- A frame that moves leaves the lanes, the mask of every path, and whether it is in a frame (03 R93). -/
theorem moveFrame_path (i j k : Fin 16) (ps : Vector PathEntry 16) :
    ((moveFrame i j ps)[k]).lanes = ps[k].lanes ∧ ((moveFrame i j ps)[k]).exec = ps[k].exec ∧
      ((moveFrame i j ps)[k]).frameV = ps[k].frameV := by
  have hkeep {β : Type} (F : PathEntry → β) (hframe : ∀ e a b c d f, F { e with joinV := a, members := b, join := c, parentV := d, parent := f } = F e)
      (hrefs : ∀ e a b, F { e with frame := a, parent := b } = F e) : F (moveFrame i j ps)[k] = F ps[k] := by
    refine (table_keeps F _ _ _ _ (hframe ..)).trans ((table_keeps F _ _ _ _ (hframe ..)).trans ?_)
    rw [Fin.getElem_fin, Vector.getElem_map]
    exact hrefs ..
  exact ⟨hkeep _ (fun _ _ _ _ _ _ => rfl) fun _ _ _ => rfl, hkeep _ (fun _ _ _ _ _ _ => rfl) fun _ _ _ => rfl,
    hkeep _ (fun _ _ _ _ _ _ => rfl) fun _ _ _ => rfl⟩

/-- The path table in which a split writes its two paths: the frame that the path's entry held has moved (log 15). -/
def unframed (q : Fin 16) (g : Gang) : Vector PathEntry 16 :=
  if (path g).joinV then moveFrame g.act (frameHome g.paths q) g.paths else g.paths
theorem unframed_path (q : Fin 16) (g : Gang) : ((unframed q g)[g.act]).lanes = (path g).lanes ∧
    ((unframed q g)[g.act]).exec = (path g).exec ∧ ((unframed q g)[g.act]).frameV = (path g).frameV := by
  unfold unframed
  split
  · exact moveFrame_path _ _ _ _
  · exact ⟨rfl, rfl, rfl⟩
/-- The path that goes on at the target (03 R93). -/
def takenPath (q : Fin 16) (t : W32) (target joinAddr : Word) (g : Gang) : PathEntry :=
  let p := (unframed q g)[g.act]
  { p with
    lanes := t, exec := p.exec &&& t, pc := target, frameV := true, frame := g.act
    joinV := true, members := p.lanes, join := joinAddr, parentV := p.frameV, parent := if p.frameV then p.frame else 0 }
theorem splitPath_act {q : Fin 16} {g : Gang} (hq : q ≠ g.act) (t f : W32) (target joinAddr fall : Word) :
    (splitPath q t f target joinAddr fall g).paths[g.act] = takenPath q t target joinAddr g := by
  show (Vector.set _ q _)[g.act] = _
  rw [getElem_set_fin, if_neg hq, getElem_set_fin, if_pos rfl]
  rfl
/-- The path that goes on after the J word, in the new entry (03 R93). -/
theorem splitPath_new (q : Fin 16) (t f : W32) (target joinAddr fall : Word) (g : Gang) : ∃ e : PathEntry,
    (splitPath q t f target joinAddr fall g).paths[q] =
      { e with lanes := f, exec := (path g).exec &&& f, state := .ready, pc := fall, frameV := true, frame := g.act, age := 0 } := by
  obtain ⟨-, hx, -⟩ := unframed_path q g
  rw [← hx]
  refine ⟨((unframed q g).set g.act (takenPath q t target joinAddr g))[q], ?_⟩
  show (Vector.set _ q _)[q] = _
  rw [getElem_set_fin, if_pos rfl]
  rfl

theorem brdSplitsThePath : Claims.BrdSplitsThePath := by
  intro s k o j target joinAt_ p T F ht hj hjoin
  have hto : relTarget s o = target := relTarget_eq s o
  have hjo : relTarget s j = joinAt_ := relTarget_eq s j
  have hbrd : exec (.brd k o j) s = .next (if F = 0 then jump target s else if T = 0 then setPc (pcOf s + 8) s
      else match freeEntry s.g with
        | none => raise ⟨cPathOverflow, 0, 0⟩ s
        | some q => jump target { s with g := splitPath q T F target joinAt_ (pcOf s + 8) s.g }) := by
    show execBrd k o j s = _
    simp only [execBrd, hto, hjo, ht, hj, orTrap_none, hjoin, Bool.not_true, Bool.false_eq_true, if_false]
    rfl
  refine ⟨fun hF => ?_, fun hF hT => ?_, fun q hF hT hq hne => ?_⟩
  · exact ⟨_, hbrd.trans (congrArg Host.Outcome.next (if_pos hF)), goesTo_jump _ _⟩
  · refine ⟨_, hbrd.trans (congrArg Host.Outcome.next ((if_neg hF).trans (if_pos hT))), ⟨rfl, rfl⟩, rfl, ?_⟩
    simp only [setPc, path, setPath, getElem_set_fin, if_true]
    rfl
  · simp only [if_neg hF, if_neg hT, hq] at hbrd
    obtain ⟨hl, hx, hv⟩ := unframed_path q s.g
    obtain ⟨e, he⟩ := splitPath_new q T F target joinAt_ (pcOf s + 8) s.g
    have hact : (splitPath q T F target joinAt_ (pcOf s + 8) s.g).paths[s.g.act] = takenPath q T target joinAt_ s.g := splitPath_act hne ..
    have hpath : path (jump target { s with g := splitPath q T F target joinAt_ (pcOf s + 8) s.g }).g = takenPath q T target joinAt_ s.g := by
      show (Vector.set _ s.g.act _)[s.g.act] = _
      rw [getElem_set_fin, if_pos rfl]
      show { (splitPath q T F target joinAt_ (pcOf s + 8) s.g).paths[s.g.act] with pc := target } = _
      rw [hact]
      rfl
    have hnew : (jump target { s with g := splitPath q T F target joinAt_ (pcOf s + 8) s.g }).g.paths[q] =
        { e with lanes := F, exec := p.exec &&& F, state := .ready, pc := pcOf s + 8, frameV := true, frame := s.g.act, age := 0 } := by
      show (Vector.set _ s.g.act _)[q] = _
      rw [getElem_set_fin, if_neg hne.symm]
      exact he
    refine ⟨_, hbrd, ⟨rfl, rfl⟩, rfl, ?_⟩
    rw [hpath, hnew]
    refine ⟨rfl, congrArg (· &&& T) hx, rfl, rfl, rfl, rfl, hl, rfl, hv, fun hp => ?_, rfl, rfl, rfl, rfl, rfl, rfl, rfl⟩
    have hsame : unframed q s.g = s.g.paths := if_neg (by rw [show (path s.g).joinV = false from hp]; simp)
    simp only [takenPath, hsame]
    rfl

theorem brdTrapsBeforeItSplits : Claims.BrdTrapsBeforeItSplits := by
  intro s k o j hd target joinAt_ ht hj
  have hto : relTarget s o = target := relTarget_eq s o
  have hjo : relTarget s j = joinAt_ := relTarget_eq s j
  refine ⟨fun hjoin => ⟨_, ?_, entered_raise hd ⟨cBadJoin, joinAt_, 0⟩⟩, fun hjoin hT hF hq => ⟨_, ?_, entered_raise hd ⟨cPathOverflow, 0, 0⟩⟩⟩
  · show execBrd k o j s = _
    simp only [execBrd, hto, hjo, ht, hj, orTrap_none, hjoin, Bool.not_false, if_true]
  · show execBrd k o j s = _
    simp only [execBrd, hto, hjo, ht, hj, orTrap_none, hjoin, Bool.not_true, Bool.false_eq_true, if_false, if_neg hT, if_neg hF, hq]

/-! `join` -/

/-- Of a gang, only the paths, the active path and the earliest cycle of the next instruction differ. -/
def PathsMove (g h : Gang) : Prop := h = { g with paths := h.paths, act := h.act, notBefore := h.notBefore }
theorem PathsMove.trans {g h k : Gang} (a : PathsMove g h) (b : PathsMove h k) : PathsMove g k := by
  have b' : k = { h with paths := k.paths, act := k.act, notBefore := k.notBefore } := b
  rw [show h = { g with paths := h.paths, act := h.act, notBefore := h.notBefore } from a] at b'
  exact b'
theorem PathsMove.of_paths {g h : Gang} (a : h = { g with paths := h.paths }) : PathsMove g h := by
  unfold PathsMove
  rw [a]
theorem onlyPaths_of_move {s : State} {h : Gang} (a : PathsMove s.g h) : OnlyPaths s { s with g := h } := ⟨rfl, a⟩

/-- The gang after the last path of a frame has parked: the merged path `e` goes on, or an older one (03 R95, R99). -/
def resumeMerged (e : Fin 16) (h : Gang) : Gang := if h.inh || bestReady h = some e then { h with act := e } else takeOver h
theorem resumeMerged_move (e : Fin 16) (h : Gang) : PathsMove h (resumeMerged e h) := by
  unfold resumeMerged
  split
  · rfl
  · exact takeOver_eq h
theorem resumeMerged_paths (e : Fin 16) (h : Gang) (j : Fin 16) :
    ∃ n, (resumeMerged e h).paths[j] = { h.paths[j] with age := n } ∧ n ≤ (h.paths[j]).age := by
  unfold resumeMerged
  split
  · exact ⟨_, rfl, le_refl _⟩
  · exact takeOver_paths h j
theorem resumeMerged_act_of_best {e : Fin 16} {h : Gang} (hb : h.inh = true ∨ bestReady h = some e) : (resumeMerged e h).act = e := by
  unfold resumeMerged
  rw [if_pos (by simpa using hb)]
theorem resumeMerged_act_ne {e i : Fin 16} {h : Gang} (hi : h.inh = false) (hr : (h.paths[i]).state = .ready)
    (ho : (h.paths[e]).age < (h.paths[i]).age) : (resumeMerged e h).act ≠ e := by
  have hne := bestReady_ne_of_older hr ho
  obtain ⟨k, hk⟩ := bestReady_isSome hr
  unfold resumeMerged
  rw [if_neg (by simp [hi, hne]), takeOver_of_best hi hk]
  exact fun h => hne (h ▸ hk)

/-- The active path parked at its join. -/
def parkPath (a : Word) (g : Gang) : Gang := setPath g { path g with state := .parked, pc := a }
theorem parkPath_other {a : Word} {g : Gang} {i : Fin 16} (h : i ≠ g.act) : (parkPath a g).paths[i] = g.paths[i] := by
  show (Vector.set _ g.act _)[i] = _
  rw [getElem_set_fin, if_neg h.symm]
theorem parkPath_act (a : Word) (g : Gang) : (parkPath a g).paths[g.act] = { path g with state := .parked, pc := a } := by
  show (Vector.set _ g.act _)[g.act] = _
  rw [getElem_set_fin, if_pos rfl]
theorem parkPath_frame (a : Word) (g : Gang) (f : Fin 16) : framePart (parkPath a g).paths[f] = framePart g.paths[f] := by
  by_cases h : f = g.act
  · rw [h, parkPath_act]
    rfl
  · rw [parkPath_other h]

theorem execJoin_parks {s : State} (hv : (path s.g).frameV = true) (hj : (s.g.paths[(path s.g).frame]).join = s.iss.hdr)
    (hm : (s.g.paths[(path s.g).frame]).members &&& ~~~(parkedLanes (path s.g).frame (parkPath (pcOf s + 4) s.g)) ≠ 0) :
    exec .join s = .next { s with g := takeOver (parkPath (pcOf s + 4) s.g) } := by
  obtain ⟨-, hmem, -⟩ := framePart_eq.1 (parkPath_frame (pcOf s + 4) s.g (path s.g).frame)
  rw [← hmem] at hm
  show Host.Outcome.next { s with g := joinPath s.iss.hdr (pcOf s + 4) s.g } = _
  have : joinPath s.iss.hdr (pcOf s + 4) s.g = takeOver (parkPath (pcOf s + 4) s.g) := by
    unfold joinPath
    rw [if_neg (by simp [hv, hj, -Fin.getElem_fin])]
    exact if_neg hm
  rw [this]
theorem execJoin_merges {s : State} {e : Fin 16} {h : Gang} (hv : (path s.g).frameV = true)
    (hj : (s.g.paths[(path s.g).frame]).join = s.iss.hdr)
    (hm : (s.g.paths[(path s.g).frame]).members &&& ~~~(parkedLanes (path s.g).frame (parkPath (pcOf s + 4) s.g)) = 0)
    (hh : mergeFrame (path s.g).frame (parkPath (pcOf s + 4) s.g) = (some e, h)) :
    exec .join s = .next { s with g := resumeMerged e h } := by
  obtain ⟨-, hmem, -⟩ := framePart_eq.1 (parkPath_frame (pcOf s + 4) s.g (path s.g).frame)
  rw [← hmem] at hm
  show Host.Outcome.next { s with g := joinPath s.iss.hdr (pcOf s + 4) s.g } = _
  have : joinPath s.iss.hdr (pcOf s + 4) s.g = resumeMerged e h := by
    unfold joinPath
    rw [if_neg (by simp [hv, hj, -Fin.getElem_fin])]
    refine (if_pos hm).trans ?_
    show (match mergeFrame (path s.g).frame (parkPath (pcOf s + 4) s.g) with
      | (some i, h) => if h.inh || bestReady h = some i then { h with act := i } else takeOver h
      | (none, h) => h) = _
    rw [hh]
    rfl
  rw [this]

theorem joinParksOrMerges : Claims.JoinParksOrMerges := by
  intro s p f parked merging
  have hother {i : Fin 16} (h : i ≠ s.g.act) : parked.paths[i] = s.g.paths[i] := parkPath_other h
  refine ⟨fun h => ?_, fun hv hj hm => execJoin_parks hv hj hm, fun hv hj hm => ?_⟩
  · show Host.Outcome.next { s with g := joinPath s.iss.hdr (pcOf s + 4) s.g } = _
    have : joinPath s.iss.hdr (pcOf s + 4) s.g = setPath s.g { path s.g with pc := pcOf s + 4 } := by
      unfold joinPath
      rw [if_pos (by simpa [-Fin.getElem_fin] using h)]
    rw [this]
    rfl
  · have hself : merging s.g.act := by
      show (parkPath (pcOf s + 4) s.g).paths[s.g.act].state = .parked ∧ _
      rw [show parked = parkPath (pcOf s + 4) s.g from rfl, parkPath_act]
      exact ⟨rfl, hv, rfl⟩
    obtain ⟨e, h, hh, hmerged⟩ := mergeFrame_merged (f := f) (g := parked) ⟨_, hself⟩
    have hage (i : Fin 16) := resumeMerged_paths e h i
    have honly : h = { parked with paths := h.paths } := hmerged.onlyPaths
    have hinh : h.inh = s.g.inh := by rw [honly]; rfl
    have hact : h.act = s.g.act := by rw [honly]; rfl
    obtain ⟨-, hmem, -, hpv, hpar⟩ := framePart_eq.1 (parkPath_frame (pcOf s + 4) s.g f)
    refine ⟨_, execJoin_merges hv hj hm hh, onlyPaths_of_move ?_, ?_, e, hmerged.merging, hmerged.lowest, ?_⟩
    · have hpark : PathsMove s.g parked := rfl
      exact hpark.trans ((PathsMove.of_paths honly).trans (resumeMerged_move e h))
    · obtain ⟨n, hn, -⟩ := hage f
      rw [hn]
      exact hmerged.gone
    · show (resumeMerged e h).paths[e].lanes = _ ∧ _
      obtain ⟨n, hn, hle⟩ := hage e
      have h0 : n = 0 := Nat.le_zero.1 (hle.trans (le_of_eq hmerged.age))
      subst h0
      rw [hn]
      refine ⟨hmerged.lanes.trans hmem, hmerged.state, hmerged.frameV.trans hpv, hmerged.frame.trans hpar, rfl, hmerged.pc,
        fun l _ => hmerged.exec l, fun i hi hne => ?_, fun hq => ?_, fun i hi hne hr ha => ?_⟩
      · obtain ⟨m, hm, -⟩ := hage i
        show ((resumeMerged e h).paths[i]).state = _ ∧ _
        rw [hm]
        exact hmerged.freed i hi hne
      · refine resumeMerged_act_of_best ?_
        rcases hq with hq | hq
        · exact .inl (hinh.trans hq)
        · refine .inr (bestReady_unique hmerged.state fun i hi => ?_)
          by_contra hne
          by_cases hmi : Merging f parked i
          · rw [(hmerged.freed i hmi hne).1] at hi
            cases hi
          · obtain ⟨-, -, hs, -⟩ := pathPart_eq.1 (hmerged.others i hmi)
            have hia : i ≠ s.g.act := fun h => hmi (h ▸ hself)
            rw [hs, hother hia] at hi
            have hsome := foldl_older_some s.g (readyOthers s.g) none (.inl (List.ne_nil_of_mem (mem_readyOthers.2 ⟨hia, hi⟩)))
            rw [← readyBest_eq, hq] at hsome
            cases hsome
      · have hnm : ¬ Merging f parked i := fun ⟨hp, _⟩ => by
          rw [hother hne, hr] at hp
          cases hp
        obtain ⟨-, -, hs, -, -, -, hg⟩ := pathPart_eq.1 (hmerged.others i hnm)
        rw [hother hne] at hs hg
        refine resumeMerged_act_ne (i := i) (hinh.trans hi) (hs.trans hr) ?_
        rw [hmerged.age, hg]
        exact ha

/-- Settles O13. -/
theorem pathsSplitAndJoin : Obligations.PathsSplitAndJoin := ⟨brdSplitsThePath, brdTrapsBeforeItSplits, joinParksOrMerges⟩

end Sys2Proof.Proofs
end

section
/-! PROOF. How paths and gangs end, and how paths take turns (03 R96, R99, R100, 10 R311 to R314). -/

namespace Sys2Proof.Proofs

open Sys2Proof Sys2Proof.Machine Sys2Proof.Claims Sys2Proof.Laws

/-! The lanes of an ended path leave its frames -/

/-- Lanes leave the members of one frame. -/
def lessMembers (lanes : W32) (f : Fin 16) (g : Gang) : Gang :=
  { g with paths := g.paths.set f { g.paths[f] with members := (g.paths[f]).members &&& ~~~lanes } }
/-- Lanes leave one frame, which is gone with its last lane and merges where all that remain are parked (03 R96). -/
def leaveFrame (lanes : W32) (f : Fin 16) (g : Gang) : Gang :=
  if (g.paths[f]).members &&& ~~~lanes = 0 then clearFrame f (lessMembers lanes f g)
  else if (g.paths[f]).members &&& ~~~lanes &&& ~~~(parkedLanes f (lessMembers lanes f g)) = 0 then (mergeFrame f (lessMembers lanes f g)).2
  else lessMembers lanes f g
theorem leaveFrames_last {lanes : W32} {f : Fin 16} {g : Gang} (n : Nat) (h : (g.paths[f]).parentV = false) :
    leaveFrames lanes (n + 1) f g = leaveFrame lanes f g :=
  if_neg (by simpa using h)
theorem leaveFrames_parent {lanes : W32} {f : Fin 16} {g : Gang} (n : Nat) (h : (g.paths[f]).parentV = true) :
    leaveFrames lanes (n + 1) f g = leaveFrames lanes n (g.paths[f]).parent (leaveFrame lanes f g) :=
  if_pos h

theorem lessMembers_samePaths (lanes : W32) (f : Fin 16) (g : Gang) : SamePaths (lessMembers lanes f g).paths g.paths := samePaths_set rfl
theorem lessMembers_self (lanes : W32) (f : Fin 16) (g : Gang) :
    (lessMembers lanes f g).paths[f] = { g.paths[f] with members := (g.paths[f]).members &&& ~~~lanes } := by
  show (Vector.set _ f _)[f] = _
  rw [getElem_set_fin, if_pos rfl]
theorem lessMembers_other (lanes : W32) {f i : Fin 16} (h : i ≠ f) (g : Gang) : (lessMembers lanes f g).paths[i] = g.paths[i] := by
  show (Vector.set _ f _)[i] = _
  rw [getElem_set_fin, if_neg h.symm]
theorem leaveFrame_running {lanes : W32} {f : Fin 16} {g : Gang} (h : (g.paths[f]).members &&& ~~~lanes &&& ~~~(parkedLanes f g) ≠ 0) :
    leaveFrame lanes f g = lessMembers lanes f g := by
  unfold leaveFrame
  rw [if_neg fun h0 => h (by rw [h0]; exact BitVec.zero_and), if_neg (by rwa [parkedLanes_congr (lessMembers_samePaths lanes f g)])]
theorem leaveFrame_merging {lanes : W32} {f : Fin 16} {g : Gang} (h0 : (g.paths[f]).members &&& ~~~lanes ≠ 0)
    (h : (g.paths[f]).members &&& ~~~lanes &&& ~~~(parkedLanes f g) = 0) :
    leaveFrame lanes f g = (mergeFrame f (lessMembers lanes f g)).2 := by
  unfold leaveFrame
  rw [if_neg h0, if_pos (by rwa [parkedLanes_congr (lessMembers_samePaths lanes f g)])]
theorem leaveFrame_empty {lanes : W32} {f : Fin 16} {g : Gang} (h0 : (g.paths[f]).members &&& ~~~lanes = 0) :
    leaveFrame lanes f g = clearFrame f (lessMembers lanes f g) := if_pos h0

/-- Where a gang has no path, no frame brings one back. -/
theorem leaveFrame_free {lanes : W32} {f : Fin 16} {g : Gang} (h : ∀ i : Fin 16, (g.paths[i]).state = .free) :
    SamePaths (leaveFrame lanes f g).paths g.paths ∧ leaveFrame lanes f g = { g with paths := (leaveFrame lanes f g).paths } := by
  have hl := lessMembers_samePaths lanes f g
  have hclear : SamePaths (clearFrame f (lessMembers lanes f g)).paths g.paths := fun i => (clearFrame_samePaths f _ i).trans (hl i)
  have hnil : mergers f (lessMembers lanes f g) = [] := by
    rw [mergers_congr hl, List.eq_nil_iff_forall_not_mem]
    intro i hi
    have hp := (mem_mergers.1 hi).1
    rw [h i] at hp
    cases hp
  unfold leaveFrame
  rw [mergeFrame_nil hnil]
  split
  · exact ⟨hclear, rfl⟩
  · split
    · exact ⟨hclear, rfl⟩
    · exact ⟨hl, rfl⟩
theorem leaveFrames_free {lanes : W32} : ∀ (n : Nat) (f : Fin 16) (g : Gang), (∀ i : Fin 16, (g.paths[i]).state = .free) →
    SamePaths (leaveFrames lanes n f g).paths g.paths ∧ leaveFrames lanes n f g = { g with paths := (leaveFrames lanes n f g).paths }
  | 0, _, g, _ => ⟨fun _ => rfl, rfl⟩
  | n + 1, f, g, h => by
    have hone := leaveFrame_free (lanes := lanes) (f := f) h
    by_cases hp : (g.paths[f]).parentV = true
    · rw [leaveFrames_parent n hp]
      obtain ⟨hs, ho⟩ := hone
      have hfree (i : Fin 16) : ((leaveFrame lanes f g).paths[i]).state = .free := by
        obtain ⟨-, -, hst, -⟩ := pathPart_eq.1 (hs i)
        rw [hst, h i]
      obtain ⟨hs', ho'⟩ := leaveFrames_free n (g.paths[f]).parent _ hfree
      refine ⟨fun i => (hs' i).trans (hs i), ?_⟩
      generalize leaveFrames lanes n (g.paths[f]).parent (leaveFrame lanes f g) = k at ho'
      rw [ho] at ho'
      exact ho'
    · rw [leaveFrames_last n (by simpa using hp)]
      exact hone

/-! The end of the active path -/

/-- The gang whose active path has ended, before its lanes leave their frames. -/
def endedPath (g : Gang) : Gang := setPath g (freedPath (path g))
/-- The gang after they have left. -/
def leftFrames (g : Gang) : Gang := if (path g).frameV then leaveFrames (path g).lanes 16 (path g).frame (endedPath g) else endedPath g
theorem endPath_eq (g : Gang) : endPath g = if pathCount (leftFrames g) = 0 then endGang none (leftFrames g) else takeOver (leftFrames g) := rfl
theorem endedPath_act (g : Gang) : (endedPath g).paths[g.act] = freedPath (path g) := by
  show (Vector.set _ g.act _)[g.act] = _
  rw [getElem_set_fin, if_pos rfl]
theorem endedPath_other {g : Gang} {i : Fin 16} (h : i ≠ g.act) : (endedPath g).paths[i] = g.paths[i] := by
  show (Vector.set _ g.act _)[i] = _
  rw [getElem_set_fin, if_neg h.symm]
theorem endedPath_frame (g : Gang) (f : Fin 16) : framePart (endedPath g).paths[f] = framePart g.paths[f] := by
  by_cases h : f = g.act
  · rw [h, endedPath_act]
    rfl
  · rw [endedPath_other h]

theorem execExit_eq {s : State} (hi : s.g.inh = false) : exec .exit s = .next { s with g := endPath s.g } := by
  show Host.Outcome.next _ = _
  rw [if_neg (by rw [hi]; simp)]

theorem ready_of_readyBest {g : Gang} {i : Fin 16} (hb : readyBest g = some i) : i ≠ g.act ∧ (g.paths[i]).state = .ready :=
  mem_readyOthers.1 ((foldl_older g _ _ i hb).1.resolve_right (by simp))
theorem readyBest_none {g : Gang} (hb : readyBest g = none) {i : Fin 16} (hi : i ≠ g.act) : (g.paths[i]).state ≠ .ready := by
  intro hr
  have hsome := foldl_older_some g (readyOthers g) none (.inl (List.ne_nil_of_mem (mem_readyOthers.2 ⟨hi, hr⟩)))
  rw [← readyBest_eq, hb] at hsome
  cases hsome

/-- With another path ready and no merge, that path goes on (03 R96, R99). -/
theorem exit_goesOn {s : State} {i : Fin 16} {h : Gang} (hi : s.g.inh = false) (hb : readyBest s.g = some i) (hl : leftFrames s.g = h)
    (ho : h = { s.g with paths := h.paths }) (hp : SamePaths h.paths (endedPath s.g).paths) :
    ∃ t, exec .exit s = .next t ∧ OnlyPaths s t ∧ t.g.act = i ∧ t.g.paths[i] = { h.paths[i] with age := 0 } ∧
      (∀ j, j ≠ i → t.g.paths[j] = h.paths[j]) ∧ i ≠ s.g.act ∧ (t.g.paths[s.g.act]).lanes = 0 ∧ (t.g.paths[s.g.act]).state = .free := by
  obtain ⟨hne, hr⟩ := ready_of_readyBest hb
  have hinh : h.inh = false := by rw [ho]; exact hi
  have hpart (j : Fin 16) (hj : j ≠ s.g.act) : (h.paths[j]).state = (s.g.paths[j]).state ∧ (h.paths[j]).age = (s.g.paths[j]).age := by
    obtain ⟨-, -, hs, -, -, -, ha⟩ := pathPart_eq.1 (hp j)
    rw [endedPath_other hj] at hs ha
    exact ⟨hs, ha⟩
  have hbest : bestReady h = some i := by
    refine (bestReady_of_others (g := s.g) ?_ fun j hj => ?_).trans hb
    · obtain ⟨-, -, hs, -⟩ := pathPart_eq.1 (hp s.g.act)
      rw [hs, endedPath_act]
      simp [freedPath]
    · rw [(hpart j hj).1]
      exact ⟨Iff.rfl, (hpart j hj).2⟩
  have hcount : pathCount h ≠ 0 := pathCount_ne_zero (i := i) ((hpart i hne).1.trans hr)
  have hothers (j : Fin 16) (hj : j ≠ i) : (activate i h).paths[j] = h.paths[j] := by rw [activate_paths, if_neg hj.symm]
  obtain ⟨hl0, -, hs0, -⟩ := pathPart_eq.1 (hp s.g.act)
  rw [endedPath_act] at hl0 hs0
  refine ⟨{ s with g := { activate i h with notBefore := max h.notBefore (h.lastIssue + 4) } }, ?_, onlyPaths_of_move ?_, rfl, ?_, hothers, hne,
    (congrArg PathEntry.lanes (hothers _ hne.symm)).trans hl0, (congrArg PathEntry.state (hothers _ hne.symm)).trans hs0⟩
  · rw [execExit_eq hi, endPath_eq, hl, if_neg hcount, takeOver_of_best hinh hbest]
  · exact (PathsMove.of_paths ho).trans rfl
  · show (activate i h).paths[i] = _
    rw [activate_paths, if_pos rfl]

theorem exitEndsThePath : Claims.ExitEndsThePath := by
  intro s hi hstate
  refine ⟨fun i hv hb => ?_, fun h1 => ?_⟩
  · obtain ⟨t, ht, hop, hact, hpi, -, hne, hl0, hs0⟩ := exit_goesOn (h := endedPath s.g) hi hb (if_neg (by simpa using hv)) rfl fun _ => rfl
    exact ⟨t, ht, hop, hact, hpi.trans (by rw [endedPath_other hne]), hs0, hl0⟩
  · have hfree (i : Fin 16) : ((endedPath s.g).paths[i]).state = .free := by
      by_cases h : i = s.g.act
      · rw [h, endedPath_act]
        rfl
      · rw [endedPath_other h]
        exact free_of_pathCount_one h1 hstate h
    have hleft : SamePaths (leftFrames s.g).paths (endedPath s.g).paths ∧ leftFrames s.g = { endedPath s.g with paths := (leftFrames s.g).paths } := by
      unfold leftFrames
      split
      · exact leaveFrames_free 16 _ _ hfree
      · exact ⟨fun _ => rfl, rfl⟩
    obtain ⟨hs, ho⟩ := hleft
    have hcount : pathCount (leftFrames s.g) = 0 := pathCount_eq_zero.2 fun i => by
      obtain ⟨-, -, hst, -⟩ := pathPart_eq.1 (hs i)
      rw [hst, hfree i]
    refine ⟨{ s with g := endGang none (leftFrames s.g) }, ?_, rfl, rfl, ?_, pathCount_endGang _ _, rfl⟩
    · rw [execExit_eq hi, endPath_eq, if_pos hcount]
    · have hfail : (leftFrames s.g).fail = s.g.fail := by rw [ho]; rfl
      show (match (leftFrames s.g).fail with
        | some x => some x
        | none => none) = _
      rw [hfail]
      cases s.g.fail <;> rfl

theorem exitLeavesItsFrame : Claims.ExitLeavesItsFrame := by
  intro s hi hv p f u left merging freed
  have hleave : leftFrames s.g = leaveFrames p.lanes 16 f u := if_pos hv
  have hframe (q : Fin 16) : framePart u.paths[q] = framePart s.g.paths[q] := endedPath_frame s.g q
  obtain ⟨hjoinV, hmem, -, hparV, hpar⟩ := framePart_eq.1 (hframe f)
  have hleft : (u.paths[f]).members &&& ~~~p.lanes = left := congrArg (· &&& ~~~p.lanes) hmem
  have hless (q : Fin 16) (g : Gang) := lessMembers_samePaths p.lanes q g
  have hlast (hpv : (s.g.paths[f]).parentV = false) : leftFrames s.g = leaveFrame p.lanes f u :=
    hleave.trans (leaveFrames_last (f := f) 15 (hparV.trans hpv))
  have hfreed {t : State} (hop : OnlyPaths s t) (hl0 : (t.g.paths[s.g.act]).lanes = 0) (hs0 : (t.g.paths[s.g.act]).state = .free) : freed t := by
    refine ⟨hop, ?_, ?_⟩ <;> rw [entry_fin]
    · exact hl0
    · exact hs0
  clear_value freed
  have hkept {t : State} {h : Gang} {i : Fin 16} {β : Type} (F : PathEntry → β) (hF : ∀ e n, F { e with age := n } = F e)
      (hpi : t.g.paths[i] = { h.paths[i] with age := 0 }) (hother : ∀ j, j ≠ i → t.g.paths[j] = h.paths[j]) (j : Fin 16) :
      F t.g.paths[j] = F h.paths[j] := by
    by_cases hj : j = i
    · rw [hj, hpi, hF]
    · rw [hother j hj]
  refine ⟨fun i hb hrun => ⟨fun hpv => ?_, fun q hpv hq hne hqv hrun' => ?_⟩, fun h0 hpark hpv => ?_, fun i hb h0 hpv => ?_⟩
  · have hl : leftFrames s.g = lessMembers p.lanes f u := (hlast hpv).trans (leaveFrame_running (by rwa [hleft]))
    obtain ⟨t, ht, hop, hact, hpi, hother, hne, hl0, hs0⟩ := exit_goesOn hi hb hl rfl (hless f u)
    obtain ⟨hlanes, -, -, -, -, hpc, -⟩ := pathPart_eq.1 (hless f u i)
    have hui : u.paths[i] = s.g.paths[i] := endedPath_other hne
    rw [hui] at hlanes hpc
    have hmemf := hkept (·.members) (fun _ _ => rfl) hpi hother f
    have hjoinf := hkept (·.joinV) (fun _ _ => rfl) hpi hother f
    rw [lessMembers_self] at hmemf hjoinf
    refine ⟨t, ht, hfreed hop hl0 hs0, hmemf.trans hleft, hjoinf.trans hjoinV, hact, ?_, ?_, ?_⟩
    · rw [hpi]
    · rw [hpi]
      exact hpc
    · rw [hpi]
      exact hlanes
  · have huq : (lessMembers p.lanes f u).paths[q] = u.paths[q] := lessMembers_other _ hne _
    obtain ⟨-, hmemq, -, hparVq, -⟩ := framePart_eq.1 (hframe q)
    have hl : leftFrames s.g = lessMembers p.lanes q (lessMembers p.lanes f u) := by
      rw [hleave, show leaveFrames p.lanes 16 f u = _ from leaveFrames_parent 15 (hparV.trans hpv), leaveFrame_running (by rwa [hleft]),
        hpar.trans hq, leaveFrames_last 14 (by rw [huq, hparVq, hqv]), leaveFrame_running]
      rw [huq, hmemq, parkedLanes_congr (hless f u)]
      exact hrun'
    obtain ⟨t, ht, hop, hact, hpi, hother, -, hl0, hs0⟩ := exit_goesOn hi hb hl rfl fun j => (hless q _ j).trans (hless f u j)
    have hmemf := hkept (·.members) (fun _ _ => rfl) hpi hother f
    have hmemq' := hkept (·.members) (fun _ _ => rfl) hpi hother q
    rw [lessMembers_other _ hne.symm, lessMembers_self] at hmemf
    rw [lessMembers_self, huq] at hmemq'
    exact ⟨t, ht, hfreed hop hl0 hs0, hmemf.trans hleft, hmemq'.trans (congrArg (· &&& ~~~p.lanes) hmemq), hact⟩
  · have hpark' : parkedLanes f (lessMembers p.lanes f u) ≠ 0 := by
      rw [parkedLanes_congr (hless f u)]
      intro hz
      rw [hz] at hpark
      exact h0 ((BitVec.and_allOnes (x := left)).symm.trans hpark)
    obtain ⟨e, h, hh, hm⟩ := mergeFrame_merged (exists_merging_of_parked hpark')
    have hl : leftFrames s.g = h := by
      rw [hlast hpv, leaveFrame_merging (by rwa [hleft]) (by rwa [hleft]), hh]
    have hmi (i : Fin 16) : Merging f (lessMembers p.lanes f u) i ↔ merging i := by
      obtain ⟨-, -, hs, hfv, hfr, -⟩ := pathPart_eq.1 (hless f u i)
      unfold Merging
      rw [hs, hfv, hfr]
    have hna {i : Fin 16} (hi : merging i) : u.paths[i] = s.g.paths[i] := by
      refine endedPath_other fun hia => ?_
      have hst := hi.1
      rw [hia, show u.paths[s.g.act] = _ from endedPath_act s.g] at hst
      cases hst
    have hone : h = { s.g with paths := h.paths } := hm.onlyPaths
    have hcount : pathCount h ≠ 0 := pathCount_ne_zero hm.state
    have hself := lessMembers_self p.lanes f u
    have hme : merging e := (hmi e).1 hm.merging
    have hage (i : Fin 16) := takeOver_paths h i
    refine ⟨{ s with g := takeOver h }, ?_, onlyPaths_of_move ((PathsMove.of_paths hone).trans (takeOver_eq h)), ?_, e, hme,
      fun i hi => hm.lowest i ((hmi i).2 hi), ?_⟩
    · rw [execExit_eq hi, endPath_eq, hl, if_neg hcount]
    · obtain ⟨n, hn, -⟩ := hage f
      show ((takeOver h).paths[f]).joinV = false
      rw [hn]
      exact hm.gone
    · obtain ⟨n, hn, hle⟩ := hage e
      have hn0 : n = 0 := Nat.le_zero.1 (hle.trans (le_of_eq hm.age))
      subst hn0
      obtain ⟨-, -, -, -, -, hpc, -⟩ := pathPart_eq.1 (hless f u e)
      show ((takeOver h).paths[e]).lanes = _ ∧ ((takeOver h).paths[e]).state = _ ∧ ((takeOver h).paths[e]).frameV = _ ∧
        ((takeOver h).paths[e]).age = _ ∧ ((takeOver h).paths[e]).pc = _ ∧ (∀ l < 32, inMask ((takeOver h).paths[e]).exec l = true ↔ _) ∧ _
      rw [hn]
      refine ⟨?_, hm.state, ?_, rfl, ?_, fun l _ => ?_, fun i hi hne => ?_, fun hq => ?_⟩
      · rw [hm.lanes, hself]
        exact hleft
      · rw [hm.frameV, hself]
        exact hparV.trans hpv
      · rw [hm.pc, hpc, hna hme]
      · rw [hm.exec l]
        refine exists_congr fun i => ?_
        rw [hmi i]
        refine and_congr_right fun hi => ?_
        obtain ⟨-, hx, -⟩ := pathPart_eq.1 (hless f u i)
        rw [hx, hna hi]
      · obtain ⟨m, hm', -⟩ := hage i
        obtain ⟨hst, hla, -⟩ := hm.freed i ((hmi i).2 hi) hne
        show ((takeOver h).paths[i]).state = _ ∧ ((takeOver h).paths[i]).lanes = _
        rw [hm']
        exact ⟨hst, hla⟩
      · have hbest : bestReady h = some e := bestReady_unique hm.state fun i hi => by
          by_contra hne
          by_cases hmg : Merging f (lessMembers p.lanes f u) i
          · rw [(hm.freed i hmg hne).1] at hi
            cases hi
          · obtain ⟨-, -, hs, -⟩ := pathPart_eq.1 (hm.others i hmg)
            obtain ⟨-, -, hs', -⟩ := pathPart_eq.1 (hless f u i)
            rw [hs, hs'] at hi
            have hia : i ≠ s.g.act := fun hia => by
              rw [hia, show u.paths[s.g.act] = _ from endedPath_act s.g] at hi
              cases hi
            rw [show u.paths[i] = _ from endedPath_other hia] at hi
            exact readyBest_none hq hia hi
        show (takeOver h).act = e
        rw [takeOver_of_best (by rw [hone]; exact hi) hbest]
        rfl
  · have hl : leftFrames s.g = clearFrame f (lessMembers p.lanes f u) := (hlast hpv).trans (leaveFrame_empty (hleft.trans h0))
    obtain ⟨t, ht, hop, hact, hpi, hother, -, hl0, hs0⟩ :=
      exit_goesOn hi hb hl rfl fun j => (clearFrame_samePaths f _ j).trans (hless f u j)
    have hjoinf := hkept (·.joinV) (fun _ _ => rfl) hpi hother f
    rw [clearFrame_paths, if_pos rfl] at hjoinf
    exact ⟨t, ht, hfreed hop hl0 hs0, hjoinf, hact⟩

theorem termEndsTheGang : Claims.TermEndsTheGang := by
  intro s
  refine ⟨⟨_, rfl, rfl, rfl, ?_, pathCount_endGang _ _, rfl, rfl⟩, fun hi => ?_⟩
  · show (match s.g.fail with
      | some x => some x
      | none => some (s.g.xcause.toNat, s.g.level)) = _
    cases s.g.fail <;> rfl
  · exact congrArg Host.Outcome.next (if_pos hi)

/-! Turns -/

theorem readyBest_congr {g h : Gang} (ha : h.act = g.act)
    (hp : ∀ i, i ≠ g.act → (h.paths[i]).state = (g.paths[i]).state ∧ (h.paths[i]).age = (g.paths[i]).age) : readyBest h = readyBest g := by
  have hl : readyOthers h = readyOthers g := by
    unfold readyOthers
    refine List.filter_congr fun i _ => ?_
    rw [ha]
    by_cases hi : i = g.act
    · simp [hi]
    · rw [(hp i hi).1]
  rw [readyBest_eq, readyBest_eq, hl]
  exact foldl_older_congr _ _ (fun i hi => (hp i (mem_readyOthers.1 hi).1).2) (by simp)
theorem giveWay_none {g : Gang} (h : g.inh = true ∨ readyBest g = none) : giveWay g = g := by
  unfold giveWay
  rcases h with h | h
  · rw [h]
  · rw [h]
    cases g.inh <;> rfl
/-- The active path gives way to path `i` and stays ready with age 0. -/
def switchTo (i : Fin 16) (g : Gang) : Gang := activate i (setPath g { path g with age := 0 })
theorem switchTo_paths (i j : Fin 16) (g : Gang) :
    (switchTo i g).paths[j] = if i = j ∨ g.act = j then { g.paths[j] with age := 0 } else g.paths[j] := by
  have hset : (setPath g { path g with age := 0 }).paths[j] = if g.act = j then { g.paths[j] with age := 0 } else g.paths[j] := by
    show (Vector.set _ g.act _)[j] = _
    rw [getElem_set_fin]
    by_cases h : g.act = j
    · rw [if_pos h, if_pos h, ← h]
      rfl
    · rw [if_neg h, if_neg h]
  rw [switchTo, activate_paths, hset]
  by_cases hi : i = j <;> by_cases hj : g.act = j
  · rw [if_pos hi, if_pos hj, if_pos (.inl hi)]
  · rw [if_pos hi, if_neg hj, if_pos (.inl hi)]
  · rw [if_neg hi, if_pos hj, if_pos (.inr hj)]
  · rw [if_neg hi, if_neg hj, if_neg (not_or.2 ⟨hi, hj⟩)]
theorem giveWay_some {g : Gang} {i : Fin 16} (hi : g.inh = false) (hb : readyBest g = some i) :
    giveWay g = { switchTo i g with notBefore := max g.notBefore (g.lastIssue + 4) } := by
  simp only [giveWay, hi, hb, switchTo]
theorem giveWay_move (g : Gang) : PathsMove g (giveWay g) := by
  unfold giveWay
  split <;> rfl
theorem readyBest_yield (s : State) : readyBest (skipCycle (next s)).g = readyBest s.g := by
  refine readyBest_congr rfl fun i hi => ?_
  have : (skipCycle (next s)).g.paths[i] = s.g.paths[i] := by
    show (Vector.set _ s.g.act _)[i] = _
    rw [getElem_set_fin, if_neg hi.symm]
  rw [this]
  exact ⟨rfl, rfl⟩
theorem next_paths (s : State) (j : Fin 16) :
    (next s).g.paths[j] = if s.g.act = j then { path s.g with pc := pcOf s + 4 } else s.g.paths[j] := getElem_set_fin _ _ _ _

theorem yieldGivesWay : Claims.YieldGivesWay := by
  intro s
  refine ⟨⟨_, rfl, ⟨rfl, rfl⟩, ?_, rfl, le_max_right _ _⟩, fun h => ?_, fun i hi hb => ?_⟩
  · show (next s).g.paths[s.g.act] = _
    rw [next_paths, if_pos rfl]
  · show Host.Outcome.next { skipCycle (next s) with g := giveWay (skipCycle (next s)).g } = _
    rw [giveWay_none (h.imp id (readyBest_yield s).trans)]
    rfl
  · obtain ⟨hne, -⟩ := ready_of_readyBest hb
    have hb' := (readyBest_yield s).trans hb
    have hnext (j : Fin 16) : (skipCycle (next s)).g.paths[j] = _ := next_paths s j
    have hyield : PathsMove s.g (skipCycle (next s)).g := rfl
    have hgives := giveWay_some (g := (skipCycle (next s)).g) hi hb'
    have hway (j : Fin 16) : (giveWay (skipCycle (next s)).g).paths[j] = _ :=
      (congrArg (fun h : Gang => h.paths[j]) hgives).trans (switchTo_paths i j (skipCycle (next s)).g)
    refine ⟨{ skipCycle (next s) with g := giveWay (skipCycle (next s)).g }, rfl, ⟨rfl, hyield.trans (giveWay_move _)⟩,
      congrArg Gang.act hgives, ?_, ?_⟩
    · refine (hway i).trans ?_
      rw [if_pos (.inl rfl), hnext, if_neg hne.symm]
    · refine (hway s.g.act).trans ?_
      rw [if_pos (.inr rfl), hnext, if_pos rfl]

theorem ageOver_keeps (g : Gang) : (ageOver g).at_ = g.at_ ∧ (ageOver g).phase = g.phase := by
  unfold ageOver
  split <;> exact ⟨rfl, rfl⟩
/-- What the ageing of paths does to the gang in a slot (03 R100). -/
theorem gangAt_ageing {s : State} {c : Coords} {g : Gang} (hg : gangAt s c = some g) (hr : g.phase = .running) :
    ∃ t, exec (.pathAgeingTakeover c) s = .next t ∧ gangAt t c = some (ageOver g) ∧ t.mem = s.mem := by
  refine ⟨onGang g.uid ageOver s, ?_, ?_, rfl⟩
  · show execPathAgeingTakeover c s = _
    simp only [execPathAgeingTakeover, hg, if_pos hr]
  · rw [gangAt_onGang c g.uid ageOver s ageOver_keeps, hg, Option.map_some, if_pos (by simp [hr])]

theorem agedPathTakesOver : Claims.AgedPathTakesOver := by
  intro s c g hg hr
  obtain ⟨t, ht, hat, hm⟩ := gangAt_ageing hg hr
  refine ⟨fun h => ⟨t, ht, ?_, hm⟩, fun i hi ho hh ha => ⟨t, ht, _, hat, ?_⟩⟩
  · have hnot : ageDue g = false := by
      rcases h with h | h | h <;> simp [ageDue, h]
    rw [hat, ageOver, hnot]
  · have hne : i ≠ g.act := by
      have := List.find?_some ha
      simp only [Bool.and_eq_true, decide_eq_true_eq] at this
      exact this.1.1
    have hdue : ageDue g = true := by simp [ageDue, hi, ho, hh, ha]
    have hover : ageOver g = { switchTo i g with tookOver := true, blocked := false, notBefore := max g.notBefore (g.lastIssue + 4) } := by
      simp only [ageOver, hdue, ha, switchTo]
    have hpaths (j : Fin 16) : (ageOver g).paths[j] = _ := (congrArg (fun h : Gang => h.paths[j]) hover).trans (switchTo_paths i j g)
    have hact := (hpaths g.act).trans (if_pos (.inr rfl))
    refine ⟨congrArg Gang.act hover, congrArg Gang.tookOver hover, (hpaths i).trans (if_pos (.inl rfl)), ?_, ?_, (congrArg Gang.s hover).trans rfl,
      (congrArg Gang.v hover).trans rfl⟩
    · rw [hact]
    · rw [hact]

/-- Settles O14. -/
theorem pathsEndAndTakeTurns : Obligations.PathsEndAndTakeTurns :=
  ⟨exitEndsThePath, exitLeavesItsFrame, termEndsTheGang, yieldGivesWay, agedPathTakesOver⟩

end Sys2Proof.Proofs
end

section
/-! PROOF. Timelines: waits and reads, sleeps and promises (04 R154 to R157, 12 R380). -/

namespace Sys2Proof.Proofs

open Sys2Proof Sys2Proof.Machine Sys2Proof.Claims Sys2Proof.Laws

/-! The flags of the covered operations -/

/-- Flags of one operation reach the gang that issued it (05 R174). -/
def flagTo (s : State) (f : Nat × Nat × Fl) : State := onGangAny f.2.1 (fun g => applyReply g (.fp f.2.2)) s
theorem takeFlags_eq (e : Engine) (job n : Nat) (s : State) : takeFlags e job n s =
    if (timelineOf s e job).flags.any (fun f => f.1 ≤ n) then
      onTimeline e job (fun t => { t with flags := t.flags.filter (fun f => n < f.1) })
        (((timelineOf s e job).flags.filter (fun f => f.1 ≤ n)).foldl flagTo s)
    else ((timelineOf s e job).flags.filter (fun f => f.1 ≤ n)).foldl flagTo s := rfl
/-- What neither the fold over the flags nor the timelines touch. -/
theorem takeFlags_keeps {β : Type} (F : State → β) (hf : ∀ s f, F (flagTo s f) = F s)
    (ht : ∀ (s : State) l, F { s with timelines := l } = F s) (e : Engine) (job n : Nat) (s : State) : F (takeFlags e job n s) = F s := by
  rw [takeFlags_eq]
  split
  · rw [onTimeline_eq, ht, foldl_keeps F hf]
  · exact foldl_keeps F hf _ _
theorem flagTo_g_keeps {β : Type} (F : Gang → β) (hF : ∀ g f, F (applyReply g (.fp f)) = F g) (s : State) (f : Nat × Nat × Fl) :
    F (flagTo s f).g = F s.g := by
  show F (if s.g.uid = f.2.1 && s.g.phase ≠ .free then applyReply s.g (.fp f.2.2) else s.g) = F s.g
  split
  · exact hF _ _
  · rfl
theorem takeFlags_g_keeps {β : Type} (F : Gang → β) (hF : ∀ g f, F (applyReply g (.fp f)) = F g) (e : Engine) (job n : Nat) (s : State) :
    F (takeFlags e job n s).g = F s.g :=
  takeFlags_keeps (fun s => F s.g) (flagTo_g_keeps F hF) (fun _ _ => rfl) e job n s
theorem takeFlags_fpcsr (e : Engine) (job n : Nat) (s : State) :
    (takeFlags e job n s).g.fpcsr = (((timelineOf s e job).flags.filter (fun f => f.1 ≤ n)).foldl flagTo s).g.fpcsr := by
  rw [takeFlags_eq]
  split
  · rw [onTimeline_eq]
  · rfl
/-- The timeline's faults stay. -/
theorem takeFlags_faults (e : Engine) (job n : Nat) (s : State) :
    (timelineOf (takeFlags e job n s) e job).faults = (timelineOf s e job).faults := by
  have hfold (l : List (Nat × Nat × Fl)) : (l.foldl flagTo s).timelines = s.timelines := foldl_keeps State.timelines (f := flagTo) (fun _ _ => rfl) l s
  rw [takeFlags_eq]
  split
  · rw [timelineOf_onTimeline_same _ _ (fun t => { t with flags := t.flags.filter (fun f => n < f.1) }) _ fun _ => ⟨rfl, rfl⟩, timelineOf, timelineOf, hfold]
  · rw [timelineOf, hfold]
    rfl

/-- A register with flags ORed in shows them, and those that it showed before. -/
theorem or_covers {a b x : W32} (h : a &&& x = x ∨ b &&& x = x) : (a ||| b) &&& x = x := by
  apply BitVec.eq_of_getLsbD_eq
  intro i hi
  have hi' := h.imp (congrArg (fun v : W32 => v.getLsbD i)) (congrArg (fun v : W32 => v.getLsbD i))
  simp only [BitVec.getLsbD_and, BitVec.getLsbD_or] at hi' ⊢
  cases hx : x.getLsbD i
  · exact Bool.and_false _
  · simp only [hx, Bool.and_true] at hi' ⊢
    rcases hi' with h | h <;> simp [h]
theorem flagTo_covers {s : State} {x : W32} (f : Nat × Nat × Fl) (h : s.g.fpcsr &&& x = x) : (flagTo s f).g.fpcsr &&& x = x := by
  show (if s.g.uid = f.2.1 && s.g.phase ≠ .free then applyReply s.g (.fp f.2.2) else s.g).fpcsr &&& x = x
  split
  · exact or_covers (.inl h)
  · exact h
theorem foldl_flagTo_covers {x : W32} : ∀ (l : List (Nat × Nat × Fl)) (s : State), s.g.phase ≠ .free →
    (s.g.fpcsr &&& x = x ∨ ∃ f ∈ l, f.2.1 = s.g.uid ∧ f.2.2.setWidth 32 = x) → (l.foldl flagTo s).g.fpcsr &&& x = x
  | [], _, _, h => h.elim id fun ⟨_, hf, _⟩ => absurd hf (by simp)
  | f :: l, s, hp, h => by
    have hstay := flagTo_g_keeps (fun g => (g.phase, g.uid)) (fun _ _ => rfl) s f
    obtain ⟨hphase, huid⟩ := Prod.mk.inj hstay
    refine foldl_flagTo_covers l (flagTo s f) (hphase ▸ hp) ?_
    rw [huid]
    rcases h with h | ⟨k, hk, hu, hx⟩
    · exact .inl (flagTo_covers f h)
    · rcases List.mem_cons.1 hk with rfl | hk
      · refine .inl ?_
        show (if s.g.uid = k.2.1 && s.g.phase ≠ .free then applyReply s.g (.fp k.2.2) else s.g).fpcsr &&& x = x
        rw [if_pos (by simp [hu, hp])]
        refine or_covers (.inr ?_)
        rw [hx, BitVec.and_self]
      · exact .inr ⟨k, hk, hu, hx⟩

/-! `tlwait` -/

theorem waitTl_unbound {s : State} {t : BitVec 3} (n : Nat) (h : (tlh s.g t).eng = none) :
    waitTl t n s = raise ⟨cTimeline, 0, t.setWidth 64⟩ s := by
  simp only [waitTl, h]
theorem waitTl_late {s : State} {t : BitVec 3} {n : Nat} {e : Engine} (h : (tlh s.g t).eng = some e)
    (hn : (timelineOf s e s.g.job).last < n) : waitTl t n s = raise ⟨cTimeline, 0, t.setWidth 64⟩ s := by
  simp only [waitTl, h, if_pos hn]
theorem waitTl_blocks {s : State} {t : BitVec 3} {n : Nat} {e : Engine} (h : (tlh s.g t).eng = some e)
    (hn : n ≤ (timelineOf s e s.g.job).last) (hs : coveredSusp s s.g e n = none) (hc : tlCount (timelineOf s e s.g.job) < n) :
    waitTl t n s = block s := by
  simp only [waitTl, h, if_neg (Nat.not_lt.2 hn), hs, if_pos hc]
/-- The state of a wait that ends: what the engine has done is seen, and the flags are taken. -/
def waitedTl (e : Engine) (n : Nat) (s : State) : State := takeFlags e s.g.job n (acquire (engLevel e) s)
theorem waitTl_goesOn {s : State} {t : BitVec 3} {n : Nat} {e : Engine} (h : (tlh s.g t).eng = some e)
    (hn : n ≤ (timelineOf s e s.g.job).last) (hs : coveredSusp s s.g e n = none) (hc : n ≤ tlCount (timelineOf s e s.g.job))
    (hf : ∀ f ∈ (timelineOf s e s.g.job).faults, n < f.1) : waitTl t n s = next (waitedTl e n s) := by
  have hnone : (timelineOf (waitedTl e n s) e s.g.job).faults.find? (fun f => f.1 ≤ n) = none := by
    rw [waitedTl, takeFlags_faults, List.find?_eq_none]
    intro f hm
    have := hf f hm
    simpa using this
  simp only [waitTl, h, if_neg (Nat.not_lt.2 hn), hs, if_neg (Nat.not_lt.2 hc)]
  rw [show takeFlags e s.g.job n (acquire (engLevel e) s) = waitedTl e n s from rfl,
    show (timelineOf (waitedTl e n s) e (waitedTl e n s).g.job) = timelineOf (waitedTl e n s) e s.g.job from
      congrArg (timelineOf _ e) (takeFlags_g_keeps Gang.job (fun _ _ => rfl) _ _ _ _), hnone]

theorem timelineWaits : Claims.TimelineWaits := by
  intro s tl r p hp n
  have hexec : exec p.1 s = .next (waitTl tl n s) := by
    simp only [List.mem_cons, List.not_mem_nil, or_false] at hp
    rcases hp with rfl | rfl <;> rfl
  refine ⟨fun h hd => ⟨_, hexec.trans (congrArg _ (waitTl_unbound n h)), entered_raise hd ⟨cTimeline, 0, tl.setWidth 64⟩⟩, fun e he => ?_⟩
  intro x
  refine ⟨fun hn hd => ⟨_, hexec.trans (congrArg _ (waitTl_late he hn)), entered_raise hd ⟨cTimeline, 0, tl.setWidth 64⟩⟩, fun hn hs hc => ?_,
    fun hn hs hc hf hp => ?_⟩
  · have hg {β : Type} (F : Gang → β) (hF : ∀ (g : Gang) ps a b, F { g with paths := ps, act := a, notBefore := b } = F g) :
        F (giveWay (triedGang s)) = F (triedGang s) := by
      have := giveWay_move (triedGang s)
      rw [show giveWay (triedGang s) = _ from this, hF]
    exact ⟨_, hexec.trans (congrArg _ (waitTl_blocks he hn hs hc)), waits_block rfl, hg Gang.s fun _ _ _ _ => rfl,
      hg Gang.view fun _ _ _ _ => rfl, rfl, rfl⟩
  · have hacq : (acquire (engLevel e) s).g.phase ≠ .free := hp
    have hfp := takeFlags_fpcsr e s.g.job n (acquire (engLevel e) s)
    have hpath : path (waitedTl e n s).g = path s.g := takeFlags_g_keeps path (fun _ _ => rfl) _ _ _ _
    refine ⟨_, hexec.trans (congrArg _ (waitTl_goesOn he hn hs hc hf)), ?_, ?_, fun f hm hle hu => ?_, fun hno => ?_, ?_, ?_, ?_⟩
    · rw [show path (next (waitedTl e n s)).g = { path (waitedTl e n s).g with pc := pcOf (waitedTl e n s) + 4 } from
        (next_paths (waitedTl e n s) (waitedTl e n s).g.act).trans (if_pos rfl), pcOf, hpath]
      rfl
    · exact takeFlags_g_keeps Gang.view (fun _ _ => rfl) e s.g.job n (acquire (engLevel e) s)
    · show (waitedTl e n s).g.fpcsr &&& _ = _
      rw [waitedTl, hfp]
      exact foldl_flagTo_covers _ _ hacq (.inr ⟨f, List.mem_filter.2 ⟨hm, by simpa using hle⟩, hu, rfl⟩)
    · have hnil : (timelineOf (acquire (engLevel e) s) e s.g.job).flags.filter (fun f => f.1 ≤ n) = [] :=
        List.filter_eq_nil_iff.2 fun f hm => by simpa using hno f hm
      show (waitedTl e n s).g.fpcsr = _
      rw [waitedTl, hfp, hnil]
      rfl
    · exact takeFlags_g_keeps Gang.s (fun _ _ => rfl) e s.g.job n (acquire (engLevel e) s)
    · exact takeFlags_g_keeps Gang.v (fun _ _ => rfl) e s.g.job n (acquire (engLevel e) s)
    · exact takeFlags_keeps State.mem (fun _ _ => rfl) (fun _ _ => rfl) e s.g.job n (acquire (engLevel e) s)

/-! `tlread` -/

/-- The count is the last of the numbers that have all completed (04 R154). -/
theorem countFrom_spec (done : List Nat) : ∀ f n, n ≤ countFrom done f n ∧ countFrom done f n ≤ n + f ∧
    (∀ j, n < j → j ≤ countFrom done f n → j ∈ done) ∧ (countFrom done f n < n + f → countFrom done f n + 1 ∉ done)
  | 0, n => ⟨le_refl _, le_refl _, fun j h h' => absurd h' (Nat.not_le.2 h), fun h => absurd h (lt_irrefl n)⟩
  | f + 1, n => by
    unfold countFrom
    split
    · next h =>
      obtain ⟨hlo, hhi, hall, hlast⟩ := countFrom_spec done f (n + 1)
      refine ⟨by omega, by omega, fun j hj hle => ?_, fun hlt => hlast (by omega)⟩
      rcases Nat.lt_or_ge (n + 1) j with h1 | h1
      · exact hall j h1 hle
      · rw [show j = n + 1 by omega]
        exact List.contains_iff_mem.1 h
    · next h => exact ⟨le_refl _, by omega, fun j hj hle => absurd hle (Nat.not_le.2 hj), fun _ hm => h (List.contains_iff_mem.2 hm)⟩

theorem timelineReads : Claims.TimelineReads := by
  intro s d tl h
  have hcnt : exec (.tlreadCnt d tl) s = .next (flagged [.s d.toNat (wd (match (tlh s.g tl).eng with
    | some e => tlCount (timelineOf s e s.g.job)
    | none => 0))] 0 s) := rfl
  refine ⟨rfl, rfl, fun he => ?_, fun e he => ⟨tlCount (timelineOf s e s.g.job), ?_, ?_⟩⟩
  · rw [hcnt, show (tlh s.g tl).eng = none from he]
    rfl
  · rw [hcnt, show (tlh s.g tl).eng = some e from he]
    rfl
  · obtain ⟨-, hhi, hall, hlast⟩ := countFrom_spec (timelineOf s e s.g.job).done (timelineOf s e s.g.job).last 0
    rw [Nat.zero_add] at hhi hlast
    exact ⟨hhi, fun j h1 hj => hall j h1 hj, hlast⟩

/-! `sleept` and promises -/

theorem wakeUp_path (g : Gang) : path (wakeUp g) = { path g with pc := (path g).pc + 4 } := by
  show (Vector.set _ g.act _)[g.act] = _
  rw [getElem_set_fin, if_pos rfl]

/-- A promise that has run out waits as a trap for a gang that has asked for it (04 R157). -/
def missPromise (o : OpId) (g : Gang) : Gang :=
  if g.pme then { g with deferred := g.deferred ++ [⟨cPromise, 0, wd o.n, true, g.inh⟩] } else g
theorem missPromise_keeps {β : Type} (F : Gang → β) (hF : ∀ (g : Gang) l, F { g with deferred := l } = F g) (o : OpId) (g : Gang) :
    F (missPromise o g) = F g := by
  unfold missPromise
  split
  · exact hF _ _
  · rfl
/-- The copy and the job count the promise as missed. -/
def countMissed (o : OpId) (pkg : Nat) (s : State) : State :=
  { s with
    carts := upd (fun x => x.id = o) (fun x => { x with missed := true }) s.carts
    jobs := upd (fun j => j.id = o.job && j.pkg = pkg) (fun j => { j with missed := j.missed + 1 }) s.jobs }
theorem expirePromise_missed {s : State} {o : OpId} {c : CartOp} (hc : s.carts.find? (fun c => c.id = o) = some c) (hm : c.missed = false)
    (hp : c.promise ≤ match s.pkgs.find? (fun p => p.pkg = c.at_.pkg) with
      | some p => s.cycle - p.resetAt
      | none => s.cycle) :
    expirePromise o s = onGangAny c.uid (missPromise o) (countMissed o c.at_.pkg s) := by
  simp only [expirePromise, hc, hm, Bool.false_or, decide_eq_true_eq]
  exact if_neg (Nat.not_lt.2 hp)
/-- The job after a promise that it has missed. -/
theorem jobOn_missed {s : State} {p n : Nat} {j : Job} (h : jobOn s p n = some j) :
    ∃ k, (upd (fun j => j.id = n && j.pkg = p) (fun j : Job => { j with missed := j.missed + 1 }) s.jobs).find?
      (fun x => x.pkg = p && x.id = n) = some k ∧ k.missed = j.missed + 1 := by
  have hj := List.find?_some h
  simp only [Bool.and_eq_true, decide_eq_true_eq] at hj
  have hp : ((fun x : Job => (x.pkg = p && x.id = n : Bool)) ∘ fun x => if (x.id = n && x.pkg = p : Bool) = true then { x with missed := x.missed + 1 } else x)
      = fun x => (x.pkg = p && x.id = n : Bool) := by
    funext x
    simp only [Function.comp]
    split <;> rfl
  refine ⟨{ j with missed := j.missed + 1 }, ?_, rfl⟩
  rw [upd, List.find?_map, hp, show s.jobs.find? _ = _ from h, Option.map_some, if_pos (by simp [hj])]

theorem sleepsAndPromises : Claims.SleepsAndPromises := by
  intro s a
  refine ⟨fun h => congrArg Host.Outcome.next (if_pos h), fun h => congrArg Host.Outcome.next (if_neg (Nat.not_le.2 h)),
    fun c g t hg hh ht hr hs => ⟨onGang g.uid wakeUp s, ?_, rfl, wakeUp g, ?_, rfl, wakeUp_path g, rfl⟩, fun o c hc hm hp => ?_⟩
  · show execSleepEnd c s = _
    simp only [execSleepEnd, hg, hh, hr, hs, ht, decide_true, Bool.not_false, Bool.and_self, if_true]
  · rw [gangAt_onGang c g.uid wakeUp s fun _ => ⟨rfl, rfl⟩, hg, Option.map_some, if_pos (by simp [hr])]
  · have hgang : exec (.promiseExpiry o) s = .next (onGangAny c.uid (missPromise o) (countMissed o c.at_.pkg s)) := by
      refine congrArg Host.Outcome.next (expirePromise_missed hc hm ?_)
      cases hpk : s.pkgs.find? (fun p => p.pkg = c.at_.pkg) with
      | none => simpa only [hpk, Option.map_none, Option.getD_none, Nat.sub_zero] using hp
      | some k => simpa only [hpk, Option.map_some, Option.getD_some] using hp
    refine ⟨_, hgang, rfl, rfl, fun j hj => jobOn_missed hj, fun g hg => ⟨missPromise o g, ?_, ?_⟩⟩
    · have hu : gangOf (countMissed o c.at_.pkg s) c.uid = some g := hg
      rw [gangOf_onGangAny c.uid c.uid (missPromise o) _ fun g => ⟨missPromise_keeps Gang.uid (fun _ _ => rfl) o g, missPromise_keeps Gang.phase (fun _ _ => rfl) o g⟩,
        hu, Option.map_some, if_pos rfl]
    · unfold missPromise
      split <;> rfl

/-- Settles O39. -/
theorem timelinesAreReadAndWaitedFor : Obligations.TimelinesAreReadAndWaitedFor := ⟨timelineWaits, timelineReads, sleepsAndPromises⟩

end Sys2Proof.Proofs
end

section
/-! PROOF. Queue operations: acceptance, waiting and delivery (08 R255 to R260, 12 R389). -/

namespace Sys2Proof.Proofs

open Sys2Proof Sys2Proof.Machine Sys2Proof.Claims Sys2Proof.Laws

/-! The unit -/

/-- What a record's way to its ring slot leaves of the machine. -/
def pileKept (s : State) := (s.g, s.others, s.units, s.qwaits, s.pubs, s.cycle)
theorem homeWrite_pileKept (bs : List (Nat × Byte)) (k : Key) (s : State) : pileKept (homeWrite bs k s) = pileKept s :=
  (foldl_keeps pileKept (by intros; rfl) _ _).trans rfl
theorem writeElems_pileKept : ∀ (hs : List Hit) (r : List W32) (s : State), pileKept (writeElems hs r s) = pileKept s
  | _, [], _ => rfl
  | hs, e :: r, s => (writeElems_pileKept (hs.drop 4) r _).trans (homeWrite_pileKept _ _ s)

/-- What a pushed record changes of its unit (08 R257). -/
theorem pushRec_unit (r : List W32) (us : QUnit × State) :
    (pushRec r us).1 = { us.1 with recs := (pushRec r us).1.recs, tail := us.1.tail + 1, failed := (pushRec r us).1.failed } ∧
    (us.1.recs.length < 32 → us.1.head + us.1.recs.length = us.1.tail → (pushRec r us).1.recs = us.1.recs ++ [(us.1.tail, r)]) ∧
    pileKept (pushRec r us).2 = pileKept us.2 := by
  obtain ⟨u, s⟩ := us
  unfold pushRec
  simp only
  split
  · exact ⟨rfl, fun _ _ => rfl, rfl⟩
  · next h =>
    have hfull : ¬ (u.recs.length < 32 ∧ u.head + u.recs.length = u.tail) := by
      have h' := h
      simp only [Bool.and_eq_true, decide_eq_true_eq] at h'
      exact h'
    split
    · exact ⟨rfl, fun h1 h2 => absurd ⟨h1, h2⟩ hfull, writeElems_pileKept _ _ _⟩
    · exact ⟨rfl, fun h1 h2 => absurd ⟨h1, h2⟩ hfull, rfl⟩
theorem pushes_unit : ∀ (rs : List (List W32)) (us : QUnit × State), let v := rs.foldl (fun us r => pushRec r us) us
    v.1 = { us.1 with recs := v.1.recs, tail := us.1.tail + rs.length, failed := v.1.failed } ∧
    (us.1.head + us.1.recs.length = us.1.tail → us.1.recs.length + rs.length ≤ 32 →
      v.1.recs = us.1.recs ++ (List.range' us.1.tail rs.length).zip rs) ∧
    pileKept v.2 = pileKept us.2
  | [], us => ⟨rfl, fun _ _ => (List.append_nil _).symm, rfl⟩
  | r :: rs, us => by
    obtain ⟨hu, hr, hs⟩ := pushRec_unit r us
    obtain ⟨hus, hrs, hss⟩ := pushes_unit rs (pushRec r us)
    have hhead : (pushRec r us).1.head = us.1.head := (congrArg QUnit.head hu).trans rfl
    have htail : (pushRec r us).1.tail = us.1.tail + 1 := (congrArg QUnit.tail hu).trans rfl
    refine ⟨?_, fun h1 h2 => ?_, hss.trans hs⟩
    · rw [List.foldl_cons]
      generalize rs.foldl (fun us r => pushRec r us) (pushRec r us) = v at hus
      rw [hus, htail, hu, List.length_cons, Nat.add_assoc, Nat.add_comm 1]
    · rw [List.length_cons] at h2
      have hone := hr (by omega) h1
      have hlen : (pushRec r us).1.recs.length = us.1.recs.length + 1 := by rw [hone, List.length_append]; rfl
      rw [List.foldl_cons, hrs (by omega) (by omega), hone, htail, List.length_cons, List.append_assoc, List.range'_succ]
      rfl
theorem refill_unit : ∀ (n : Nat) (u : QUnit) (s : State),
    refill n u s = { u with recs := (refill n u s).recs, failed := (refill n u s).failed }
  | 0, _, _ => rfl
  | n + 1, u, s => by
    unfold refill
    simp only
    split
    · split
      · exact refill_unit n _ s
      · rfl
    · rfl

/-- A unit that is put back is the one that its place holds. -/
theorem find?_putUnit {us : List QUnit} {u0 v : QUnit} {a : Coords} {p : Nat} (h : us.find? (fun x => x.at_ = a && x.pile = p) = some u0)
    (ha : v.at_ = a) (hp : v.pile = p) :
    (upd (fun x => x.at_ = v.at_ && x.pile = v.pile) (fun _ => v) us).find? (fun x => x.at_ = a && x.pile = p) = some v := by
  subst ha hp
  have hc : ((fun x : QUnit => (x.at_ = v.at_ && x.pile = v.pile : Bool)) ∘ fun x => if (x.at_ = v.at_ && x.pile = v.pile : Bool) = true then v else x)
      = fun x => (x.at_ = v.at_ && x.pile = v.pile : Bool) := by
    funext x
    simp only [Function.comp]
    split
    · next h => simp [h]
    · rfl
  rw [upd, List.find?_map, hc, h, Option.map_some, if_pos (List.find?_some h)]

/-! The gang -/

/-- Results that come due touch no path, no flag, no pending result and no view. -/
theorem settleList_update (now : Nat) (ps : Vector PathEntry 16) (pd : List Pend) (fl : Vector Nat 12) (vw : Cells Nat) :
    ∀ (l : List Inflight) (g : Gang), settleList now l { g with paths := ps, pend := pd, flags := fl, view := vw } =
      { settleList now l g with paths := ps, pend := pd, flags := fl, view := vw }
  | [], _ => rfl
  | i :: r, g => by
    rw [settleList_cons, settleList_cons]
    split
    · rw [← settleList_update now ps pd fl vw r]
      cases i.w <;> rfl
    · rfl
theorem settle_update (now : Nat) (g : Gang) (ps : Vector PathEntry 16) (pd : List Pend) (fl : Vector Nat 12) (vw : Cells Nat) :
    settle now { g with paths := ps, pend := pd, flags := fl, view := vw } =
      { settle now g with paths := ps, pend := pd, flags := fl, view := vw } := settleList_update now ps pd fl vw g.inflight g
theorem settle_ageBut (now k : Nat) (g : Gang) : settle now (ageBut k g) = { settle now g with paths := (ageBut k g).paths } := by
  rw [ageBut_eq]
  refine (settle_update now g _ g.pend g.flags g.view).trans ?_
  have hp : (settle now g).pend = g.pend := settle_keeps (·.pend) (fun _ w => by cases w <;> rfl) (fun _ _ => rfl) now g
  have hf : (settle now g).flags = g.flags := settle_keeps (·.flags) (fun _ w => by cases w <;> rfl) (fun _ _ => rfl) now g
  have hv : (settle now g).view = g.view := settle_keeps (·.view) (fun _ w => by cases w <;> rfl) (fun _ _ => rfl) now g
  rw [← hp, ← hf, ← hv]

/-- The gang of an accepted operation goes on at the next word: now, where its path issues the instruction, or by the event. -/
def goOnFrom (now : Bool) (cycle : Nat) (w : QWait) (g : Gang) : Gang :=
  if now then advancePath w.path g else completeWait cycle w.path w.yield g
/-- What `goOnFrom` does, against the gang `g0` before the operation (03 R99, R100). -/
def WentOn (now : Bool) (cycle : Nat) (w : QWait) (g h : Gang) : Prop :=
  (entry h w.path).pc = (entry g w.path).pc + 4 ∧
    if now then h.blocked = false ∧ h.s = g.s ∧ h.v = g.v
    else (w.path = g.act → h.blocked = false) ∧ h.s = (settle cycle g).s ∧ h.v = (settle cycle g).v ∧ h.lastIssue = cycle ∧
      h.icount = g.icount + 1 ∧ (w.yield = true → cycle + 2 ≤ h.notBefore)
theorem goOnFrom_keeps (now : Bool) (cycle : Nat) (w : QWait) (g : Gang) :
    (goOnFrom now cycle w g).uid = g.uid ∧ (goOnFrom now cycle w g).phase = g.phase ∧ (goOnFrom now cycle w g).pend = g.pend := by
  unfold goOnFrom
  split
  · exact ⟨rfl, rfl, rfl⟩
  · show (settle cycle (ageBut w.path g)).uid = _ ∧ (settle cycle (ageBut w.path g)).phase = _ ∧ (settle cycle (ageBut w.path g)).pend = _
    rw [settle_ageBut]
    exact ⟨settle_keeps (·.uid) (fun _ w => by cases w <;> rfl) (fun _ _ => rfl) cycle g, settle_phase cycle g,
      settle_keeps (·.pend) (fun _ w => by cases w <;> rfl) (fun _ _ => rfl) cycle g⟩
theorem goOnFrom_wentOn (now : Bool) (cycle : Nat) {w : QWait} (hp : w.path < 16) (g : Gang) (pd : List Pend) (fl : Vector Nat 12) (vw : Cells Nat) :
    WentOn now cycle w g (goOnFrom now cycle w { g with pend := pd, flags := fl, view := vw }) := by
  unfold WentOn goOnFrom
  cases now with
  | true =>
    refine ⟨?_, rfl, rfl, rfl⟩
    simp [advancePath, entry, hp]
  | false =>
    obtain ⟨-, hpc, hblocked, -, hlast, hcount, -, -, hyield⟩ :=
      completeWait_spec cycle w.path w.yield { g with pend := pd, flags := fl, view := vw } hp
    refine ⟨hpc, hblocked, ?_, ?_, hlast, hcount, hyield⟩
    · show (settle cycle (ageBut w.path { g with pend := pd, flags := fl, view := vw })).s = _
      rw [settle_ageBut]
      exact (congrArg Gang.s (settle_update cycle g g.paths pd fl vw)).trans rfl
    · show (settle cycle (ageBut w.path { g with pend := pd, flags := fl, view := vw })).v = _
      rw [settle_ageBut]
      exact (congrArg Gang.v (settle_update cycle g g.paths pd fl vw)).trans rfl

/-! Acceptance -/

/-- The state without the accepted operation's wait. -/
def unqueued (w : QWait) (s : State) : State := { s with qwaits := s.qwaits.filter (fun x => !(x.uid = w.uid && x.path = w.path)) }
/-- A unit is put back in its place. -/
def putUnit (u : QUnit) (s : State) : State := { s with units := upd (fun x => x.at_ = u.at_ && x.pile = u.pile) (fun _ => u) s.units }
/-- The unit that a pop leaves (08 R257, R260). -/
def poppedUnit (o : QOp) (u : QUnit) (s : State) : QUnit :=
  let m := min (opLanes o) (u.tail - u.head)
  refill 32 { u with recs := u.recs.drop m, head := u.head + m } s
/-- The records that a pop takes. -/
def poppedRecs (o : QOp) (u : QUnit) : List (List W32) := (u.recs.take (min (opLanes o) (u.tail - u.head))).map (·.2)

theorem acceptOp_push {w : QWait} (h : w.op.kind = 0) (now : Bool) (u : QUnit) (s : State) :
    acceptOp now w u s = onGang w.uid (goOnFrom now s.cycle w)
      (putUnit (w.op.recs.foldl (fun us r => pushRec r us) (u, unqueued w s)).1 (w.op.recs.foldl (fun us r => pushRec r us) (u, unqueued w s)).2) := by
  simp only [acceptOp, h]
  rfl
/-- The machine after a pop, before its gang goes on: the unit is put back, and the gang has acquired (08 R260). -/
def poppedState (w : QWait) (u : QUnit) (s : State) : State :=
  acquireFor w.uid u.reach (putUnit (poppedUnit w.op u (unqueued w s)) (unqueued w s))
/-- The gang of a pop has seen what its queue's gangs have published (08 R260). -/
def seenGang (w : QWait) (u : QUnit) (s : State) (g : Gang) : Gang :=
  { g with view := acquired (putUnit (poppedUnit w.op u (unqueued w s)) (unqueued w s)) u.reach g }
/-- The gang of a pop goes on with the records as a pending result. -/
def poppedGang (now : Bool) (w : QWait) (u : QUnit) (s : State) (g : Gang) : Gang :=
  goOnFrom now s.cycle w (pendDone s.nextId w.op.flag s.cycle (popWrites w.op (poppedRecs w.op u)) g)
theorem acceptOp_pop {w : QWait} (h : w.op.kind = 1 ∨ w.op.kind = 2) (now : Bool) (u : QUnit) (s : State) :
    acceptOp now w u s = onGang w.uid (poppedGang now w u s) { poppedState w u s with nextId := s.nextId + 1 } := by
  rcases h with h | h <;> · simp only [acceptOp, h]; rfl
theorem acceptOp_close {w : QWait} (h0 : w.op.kind ≠ 0) (h1 : w.op.kind ≠ 1) (h2 : w.op.kind ≠ 2) (now : Bool) (u : QUnit) (s : State) :
    acceptOp now w u s = onGang w.uid (goOnFrom now s.cycle w) (putUnit { u with closed := u.closed + 1 } (unqueued w s)) := by
  obtain ⟨n, hn⟩ : ∃ n, w.op.kind = n + 3 := ⟨w.op.kind - 3, by omega⟩
  simp only [acceptOp, hn]
  rfl

/-- An accepted operation (08 R257 to R260). -/
theorem accepted_acceptOp {s : State} {w : QWait} {u u0 : QUnit} (now : Bool) (hp : w.path < 16)
    (hu : s.units.find? (fun x => x.at_ = u.at_ && x.pile = u.pile) = some u0) :
    Accepted now w u s (acceptOp now w u s) ∧ (acceptOp now w u s).pubs = s.pubs ∧
      (∀ x ∈ (acceptOp now w u s).qwaits, ¬ (x.uid = w.uid ∧ x.path = w.path)) := by
  have hwaits : ∀ x ∈ (unqueued w s).qwaits, ¬ (x.uid = w.uid ∧ x.path = w.path) := by
    intro x hx
    have := (List.mem_filter.1 hx).2
    simpa only [Bool.not_eq_true', Bool.and_eq_false_iff, decide_eq_false_iff_not, ← not_and_or] using this
  have hplain (g : Gang) := goOnFrom_keeps now s.cycle w g
  have hwent (g : Gang) := goOnFrom_wentOn now s.cycle hp g
  by_cases h0 : w.op.kind = 0
  · obtain ⟨hunit, hrecs, hkept⟩ := pushes_unit w.op.recs (u, unqueued w s)
    rw [acceptOp_push h0]
    generalize w.op.recs.foldl (fun us r => pushRec r us) (u, unqueued w s) = v at hunit hrecs hkept
    obtain ⟨hg, ho, hun, hq, hpub, -⟩ : v.2.g = s.g ∧ v.2.others = s.others ∧ v.2.units = s.units ∧
        v.2.qwaits = (unqueued w s).qwaits ∧ v.2.pubs = s.pubs ∧ v.2.cycle = s.cycle := by
      simp only [pileKept, Prod.mk.injEq] at hkept
      exact hkept
    have hq' : (onGang w.uid (goOnFrom now s.cycle w) (putUnit v.1 v.2)).qwaits = (unqueued w s).qwaits := hq
    have hat : v.1.at_ = u.at_ := (congrArg QUnit.at_ hunit).trans rfl
    have hpile : v.1.pile = u.pile := (congrArg QUnit.pile hunit).trans rfl
    refine ⟨⟨hq' ▸ hwaits, fun g hgo => ⟨goOnFrom now s.cycle w g, ?_, (hwent g g.pend g.flags g.view).1, (hwent g g.pend g.flags g.view).2,
      fun _ _ => (hplain g).2.2, fun h => absurd h (by omega)⟩, v.1, ?_, fun _ => ⟨?_, ?_, ?_, hrecs⟩, fun h => absurd h (by omega),
      fun h => absurd h (by omega)⟩, hpub, hq' ▸ hwaits⟩
    · rw [gangOf_onGang _ _ _ fun g => ⟨(hplain g).1, (hplain g).2.1⟩]
      have : gangOf (putUnit v.1 v.2) w.uid = gangOf s w.uid := by
        show (v.2.g :: v.2.others).find? _ = _
        rw [hg, ho]
        rfl
      rw [this, hgo]
      rfl
    · show (putUnit v.1 v.2).units.find? _ = _
      rw [putUnit, hun]
      exact find?_putUnit hu hat hpile
    · exact (congrArg QUnit.tail hunit).trans rfl
    · exact (congrArg QUnit.head hunit).trans rfl
    · exact (congrArg QUnit.closed hunit).trans rfl
  by_cases h12 : w.op.kind = 1 ∨ w.op.kind = 2
  · have hunit := refill_unit 32 { u with recs := u.recs.drop (min (opLanes w.op) (u.tail - u.head)), head := u.head + min (opLanes w.op) (u.tail - u.head) } (unqueued w s)
    rw [show refill 32 _ (unqueued w s) = poppedUnit w.op u (unqueued w s) from rfl] at hunit
    have hexec := acceptOp_pop h12 now u s
    have hkeeps (g : Gang) : (poppedGang now w u s g).uid = g.uid ∧ (poppedGang now w u s g).phase = g.phase :=
      ⟨(hplain (pendDone ..)).1, (hplain (pendDone ..)).2.1⟩
    have hgang (g : Gang) (hgo : gangOf s w.uid = some g) :
        gangOf (acceptOp now w u s) w.uid = some (poppedGang now w u s (seenGang w u s g)) := by
      have hacq : gangOf { poppedState w u s with nextId := s.nextId + 1 } w.uid = some (seenGang w u s g) := by
        refine (gangOf_onGang w.uid (seenGang w u s) (putUnit (poppedUnit w.op u (unqueued w s)) (unqueued w s)) fun _ => ⟨rfl, rfl⟩).trans ?_
        exact congrArg (Option.map _) hgo
      rw [hexec, gangOf_onGang _ _ _ hkeeps, hacq]
      rfl
    refine ⟨⟨?_, fun g hgo => ⟨_, hgang g hgo, (hwent g _ _ _).1, (hwent g _ _ _).2, fun h1 h2 => absurd h12 (by omega),
      fun _ => ⟨_, (hplain _).2.2, rfl, rfl, rfl⟩⟩, poppedUnit w.op u (unqueued w s), ?_, fun h => absurd h (by omega), fun _ => ⟨?_, ?_, ?_⟩,
      fun h => absurd h (by omega)⟩, ?_, ?_⟩
    · rw [hexec]
      exact hwaits
    · rw [hexec]
      exact find?_putUnit hu ((congrArg QUnit.at_ hunit).trans rfl) ((congrArg QUnit.pile hunit).trans rfl)
    · exact (congrArg QUnit.head hunit).trans rfl
    · exact (congrArg QUnit.tail hunit).trans rfl
    · exact (congrArg QUnit.closed hunit).trans rfl
    · rw [hexec]
      rfl
    · rw [hexec]
      exact hwaits
  · rw [acceptOp_close h0 (fun h => h12 (.inl h)) (fun h => h12 (.inr h))]
    refine ⟨⟨hwaits, fun g hgo => ⟨goOnFrom now s.cycle w g, ?_, (hwent g g.pend g.flags g.view).1, (hwent g g.pend g.flags g.view).2,
      fun _ _ => (hplain g).2.2, fun h => absurd h h12⟩, { u with closed := u.closed + 1 }, find?_putUnit hu rfl rfl, fun h => absurd h h0,
      fun h => absurd h h12, fun _ => ⟨rfl, rfl, rfl, rfl⟩⟩, rfl, hwaits⟩
    rw [gangOf_onGang _ _ _ fun g => ⟨(hplain g).1, (hplain g).2.1⟩]
    exact congrArg (Option.map _) hgo

/-! The request at its unit -/

theorem tryAccept_accepts {now : Bool} {w : QWait} {s : State} {g : Gang} {u : QUnit} (hg : gangOf s w.uid = some g)
    (hu : s.units.find? (fun u => u.at_ = w.at_ && u.pile = w.pile) = some u) (ht : unitTrap g u w.op = none) (hr : g.phase = .running)
    (hc : qCondition u w.op = true) (hb : qBehind s w = false) (hf : flagFull g w.op = false) : tryAccept now w s = acceptOp now w u s := by
  simp only [tryAccept, hg, hu, ht, hr, hc, hb, hf, Option.isSome_none, Bool.false_eq_true, if_false, decide_true, Bool.not_false, Bool.and_self,
    if_true]
theorem tryAccept_waits {now : Bool} {w : QWait} {s : State} {g : Gang} {u : QUnit} (hg : gangOf s w.uid = some g)
    (hu : s.units.find? (fun u => u.at_ = w.at_ && u.pile = w.pile) = some u) (ht : unitTrap g u w.op = none)
    (hc : qCondition u w.op = false) : tryAccept now w s = s := by
  simp only [tryAccept, hg, hu, ht, hc, Option.isSome_none, Bool.false_eq_true, if_false, Bool.and_false, Bool.false_and]

theorem refill_good : ∀ (n : Nat) (u : QUnit) (s : State), (refill n u s).failed = false → u.failed = false
  | 0, _, _, h => h
  | n + 1, u, s, h => by
    unfold refill at h
    simp only at h
    split at h
    · split at h
      · exact (refill_good n { u with recs := _ } s h :)
      · cases h
    · exact h
theorem firstTrap_none : ∀ l : List (Bool × Trap), firstTrap l = none ↔ ∀ p ∈ l, p.1 = false
  | [] => by simp [firstTrap]
  | (c, t) :: r => by
    rw [firstTrap, List.forall_mem_cons, ← firstTrap_none r]
    cases c <;> simp
theorem unitTrap_none {g : Gang} {u : QUnit} {o : QOp} : unitTrap g u o = none ↔ sameUnit u.reach g.at_ u.at_ = true ∧
    ¬ (o.kind = 0 ∧ u.closed = u.prod) ∧ ¬ (o.kind = 3 ∧ u.closed = u.prod) ∧ u.failed = false := by
  simp [unitTrap, firstTrap_none]
/-- A woodpile that is not failed once it is bound was not failed before. -/
theorem unitTrap_of_refill {g : Gang} {b : QUnit} {s : State} {o : QOp} (h : unitTrap g (refill 32 b s) o = none) : unitTrap g b o = none := by
  obtain ⟨hs, h0, h3, hf⟩ := unitTrap_none.1 h
  rw [refill_unit] at hs h0 h3
  exact unitTrap_none.2 ⟨hs, h0, h3, refill_good 32 b s hf⟩

/-- The state in which a request leaves: `qpush` and `qclose` publish first (08 R257). -/
def publishedAt (pub : Bool) (n : Nat) (v : State) : State := if pub then publish n v else v
theorem publishedAt_kept (pub : Bool) (n : Nat) (v : State) : serveKept (publishedAt pub n v) = serveKept v := by
  cases pub
  · rfl
  · exact publish_kept n v
theorem mem_addPub (p : Pub) : ∀ l : List Pub, ∃ q ∈ addPub p l, q.by_ = p.by_ ∧ q.level = p.level
  | [] => ⟨p, List.mem_cons_self, rfl, rfl⟩
  | q :: r => by
    unfold addPub
    split
    · next h =>
      simp only [Bool.and_eq_true, decide_eq_true_eq] at h
      exact ⟨_, List.mem_cons_self, h⟩
    · obtain ⟨x, hx, hb⟩ := mem_addPub p r
      exact ⟨x, List.mem_cons_of_mem _ hx, hb⟩
theorem gangOf_self {s : State} (h : s.g.phase ≠ .free) : gangOf s s.g.uid = some s.g := by
  rw [gangOf, List.find?_cons_of_pos (by simp [h])]
/-- What a publish publishes (04 R133). -/
theorem publish_pubs {v : State} (n : Nat) (h : v.g.phase ≠ .free) :
    ∃ p ∈ (publish n v).pubs, p.by_ = some (v.g.uid, v.g.at_) ∧ p.level = n := by
  have hk : serveKept (((drainOwn v.g.uid v).lines.filter (fun r => r.uids.contains v.g.uid)).foldl (fun s r => sendLine r s) (drainOwn v.g.uid v))
      = serveKept v := (foldl_keeps serveKept (fun s r => sendLine_kept r s) _ _).trans (drainOwn_kept v.g.uid v)
  have hgang := gangOf_of_kept hk v.g.uid
  rw [gangOf_self h] at hgang
  obtain ⟨g, hg, hgk⟩ := Option.map_eq_some_iff.1 hgang
  simp only [publish, publishFor, hg]
  obtain ⟨p, hp, hb, hl⟩ := mem_addPub ⟨some (v.g.uid, g.at_), n, vjoin (covered _ g.view) g.own⟩ _
  exact ⟨p, hp, by rw [hb, at_of_kept hgk], hl⟩
theorem pick_first {s : State} (h : s.picks.headD 0 = 0) : Machine.pick s = (0, { s with picks := s.picks.drop 1 }) := by
  have hpick (l : List Nat) (hl : s.picks = l) : Machine.pick { s with picks := l } = (0, { s with picks := l.drop 1 }) := by
    cases l with
    | nil => rfl
    | cons n r =>
      rw [hl] at h
      cases (show n = 0 from h)
      rfl
  exact hpick s.picks rfl

/-- A request that reaches a bound unit at once, with nothing in its way there (08 R258). -/
structure Ready (u : QUnit) (o : QOp) (v : State) : Prop where
  unit : v.units.find? (fun x => x.at_ = u.at_ && x.pile = u.pile) = some u
  trap : unitTrap v.g u o = none
  cond : qCondition u o = true
  room : flagFull v.g o = false
  first : ∀ x ∈ v.qwaits, x.at_ = u.at_ → x.pile = u.pile → x.arrived = true → sameGroup x.op o = false
  fresh : ∀ x ∈ v.qwaits, ¬ (x.uid = v.g.uid ∧ x.path = v.g.act.val)
  running : v.g.phase = .running
/-- The wait of a request. -/
def waitOf (u : QUnit) (o : QOp) (v : State) : QWait := ⟨v.g.uid, v.g.act.val, u.at_, u.pile, true, o, v.iss.yield⟩

/-- The request is at its unit. -/
def sentOp (u : QUnit) (o : QOp) (v : State) : State := { v with picks := v.picks.drop 1, qwaits := v.qwaits ++ [waitOf u o v] }
theorem Ready.of_kept {u : QUnit} {o : QOp} {v r : State} (h : Ready u o v) (hk : serveKept r = serveKept v) : Ready u o r ∧ waitOf u o r = waitOf u o v := by
  have hg := gangKept_of_kept hk
  have hact : r.g.act = v.g.act := (congrArg Gang.act hg :)
  have huid : r.g.uid = v.g.uid := uid_of_kept hg
  have hq : r.qwaits = v.qwaits := (congrArg State.qwaits hk :)
  have hflags : r.g.flags = v.g.flags := (congrArg Gang.flags hg :)
  refine ⟨⟨(congrArg State.units hk :) ▸ h.unit, ?_, h.cond, ?_, hq ▸ h.first, ?_, (phase_of_kept hg).trans h.running⟩, ?_⟩
  · have := unitTrap_none.1 h.trap
    rw [← at_of_kept hg] at this
    exact unitTrap_none.2 this
  · have := h.room
    simp only [flagFull, flagCount, ← hflags] at this ⊢
    exact this
  · rw [hq, huid, hact]
    exact h.fresh
  · simp only [waitOf, huid, hact, iss_of_kept hk]

/-- The request of a ready operation is accepted (08 R258, R259). -/
theorem arrive_accepts {u b : QUnit} {o : QOp} {v : State} (h : Ready u o v) (hb : unitTrap v.g b o = none) (hat : b.at_ = u.at_) (hpile : b.pile = u.pile)
    (hreach : b.reach = u.reach) (hpick : (publishedAt (o.kind = 0 || o.kind = 3) u.reach v).picks.headD 0 = 0) :
    ∃ t, queueInstr.arrive o b v = t ∧ Accepted true (waitOf u o v) u (publishedAt (o.kind = 0 || o.kind = 3) u.reach v) t ∧
      t.pubs = (publishedAt (o.kind = 0 || o.kind = 3) u.reach v).pubs := by
  obtain ⟨hready, hwait⟩ := h.of_kept (publishedAt_kept (o.kind = 0 || o.kind = 3) u.reach v)
  have harrive : queueInstr.arrive o b v =
      let s := publishedAt (o.kind = 0 || o.kind = 3) u.reach v
      let (p, s) := Machine.pick s
      let w : QWait := ⟨s.g.uid, s.g.act.val, u.at_, u.pile, p = 0, o, s.iss.yield⟩
      let s := { s with qwaits := s.qwaits ++ [w] }
      if p ≠ 0 then block s
      else
        let t := tryAccept true w s
        if t.qwaits.any (fun x => x.uid = w.uid && x.path = w.path) then block t else t := by
    rw [queueInstr.arrive, hb, orTrap_none, hat, hpile, hreach]
    rfl
  rw [hwait.symm]
  generalize publishedAt (o.kind = 0 || o.kind = 3) u.reach v = r at hready harrive hpick
  obtain ⟨hacc, hpubs, hnone⟩ := accepted_acceptOp (w := waitOf u o r) (u := u)
    (s := sentOp u o r) true r.g.act.isLt hready.unit
  have hexec : queueInstr.arrive o b v = acceptOp true (waitOf u o r) u (sentOp u o r) := by
    have hbehind : qBehind (sentOp u o r) (waitOf u o r) = false := by
      rw [qBehind, Bool.and_eq_false_iff]
      refine .inr (List.any_eq_false.2 fun x hx => ?_)
      have hme := List.mem_takeWhile_imp hx
      have hmem := (List.takeWhile_subset _ hx : x ∈ r.qwaits ++ [waitOf u o r])
      rcases List.mem_append.1 hmem with hmem | hmem
      · have := hready.first x hmem
        intro hall
        simp only [Bool.and_eq_true, decide_eq_true_eq] at hall
        obtain ⟨⟨⟨h1, h2⟩, h3⟩, h4⟩ := hall
        exact Bool.false_ne_true ((this h2 h3 h1).symm.trans h4)
      · rw [List.mem_singleton.1 hmem] at hme
        simp at hme
    have htry := tryAccept_accepts (now := true) (w := waitOf u o r) (s := sentOp u o r)
      (u := u) (gangOf_self fun h => by cases hready.running.symm.trans h) hready.unit hready.trap hready.running hready.cond hbehind hready.room
    have hany : (acceptOp true (waitOf u o r) u (sentOp u o r)).qwaits.any
        (fun x => x.uid = (waitOf u o r).uid && x.path = (waitOf u o r).path) = false :=
      List.any_eq_false.2 fun x hx => by simpa using hnone x hx
    rw [harrive]
    simp only [pick_first hpick]
    refine (if_neg (fun h => h rfl)).trans ?_
    show (if (tryAccept true (waitOf u o r) (sentOp u o r)).qwaits.any (fun x => x.uid = (waitOf u o r).uid && x.path = (waitOf u o r).path)
      then block (tryAccept true (waitOf u o r) (sentOp u o r)) else tryAccept true (waitOf u o r) (sentOp u o r)) = _
    rw [htry]
    exact if_neg (by rw [hany]; simp)
  exact ⟨_, hexec, hacc, hpubs⟩

/-! The instructions -/

/-- The state in which a queue instruction looks for its woodpile. -/
def drainedAt (pub : Bool) (s : State) : State := if pub then drainOwn s.g.uid s else s
theorem drainedAt_kept (pub : Bool) (s : State) : serveKept (drainedAt pub s) = serveKept s := by
  cases pub
  · rfl
  · exact drainOwn_kept s.g.uid s

theorem find?_own {us : List QUnit} {u : QUnit} {a : Coords} {p : Nat} (h : us.find? (fun x => x.at_ = a && x.pile = p) = some u) :
    us.find? (fun x => x.at_ = u.at_ && x.pile = u.pile) = some u := by
  have hu := List.find?_some h
  simp only [Bool.and_eq_true, decide_eq_true_eq] at hu
  rw [hu.1, hu.2]
  exact h
/-- A descriptor that names a woodpile: the request leaves for it (08 R255, R256). -/
theorem queueInstr_finds {s v : State} {u : QUnit} {o : QOp} {regs : List (Reg × Nat)} (hb : blockTrap s.g regs = none)
    (hw : ∀ x ∈ s.qwaits, ¬ (x.uid = s.g.uid ∧ x.path = s.g.act.val)) (hf : Finds (drainedAt (o.kind = 0 || o.kind = 3) s) o.desc u v) :
    ∃ b, queueInstr regs o s = queueInstr.arrive o b v ∧ (unitTrap v.g u o = none → unitTrap v.g b o = none) ∧ b.at_ = u.at_ ∧
      b.pile = u.pile ∧ b.reach = u.reach ∧ v.units.find? (fun x => x.at_ = u.at_ && x.pile = u.pile) = some u ∧
      serveKept v = serveKept { s with units := v.units } := by
  have hnone : s.qwaits.find? (fun w => w.uid = s.g.uid && w.path = s.g.act.val) = none :=
    List.find?_eq_none.2 fun x hx => by simpa using hw x hx
  have hdrain : (if (decide (o.kind = 0) || decide (o.kind = 3)) = true then drainOwn s.g.uid s else s) = drainedAt (o.kind = 0 || o.kind = 3) s := rfl
  have hkept := drainedAt_kept (o.kind = 0 || o.kind = 3) s
  unfold queueInstr
  simp only [hb, orTrap_none, hnone, hdrain]
  generalize drainedAt (o.kind = 0 || o.kind = 3) s = r at hf hkept
  have hunits (us : List QUnit) : serveKept { r with units := us } = serveKept { s with units := us } :=
    congrArg (fun k : State => { k with units := us }) hkept
  obtain ⟨hs, b, hspan, hbind, ⟨hfind, hloc, hjob, rfl⟩ | ⟨hfind, hreach, rfl, rfl⟩⟩ := hf
  · refine ⟨u, ?_, id, rfl, rfl, rfl, find?_own hfind, hunits _⟩
    simp only [hspan, hbind, hfind, hloc, hjob, ne_eq, not_true, decide_false, Bool.or_self, Bool.false_eq_true, if_false]
  · have hunit := refill_unit 32 b r
    have hat : (refill 32 b r).at_ = b.at_ := (congrArg QUnit.at_ hunit).trans rfl
    have hpile : (refill 32 b r).pile = b.pile := (congrArg QUnit.pile hunit).trans rfl
    refine ⟨b, ?_, unitTrap_of_refill, hat.symm, hpile.symm, ((congrArg QUnit.reach hunit).trans rfl).symm, ?_, hunits _⟩
    · simp only [hspan, hbind, hfind, hreach, Bool.not_true, Bool.false_eq_true, if_false]
      rfl
    · rw [hat, hpile, List.find?_append, hfind, Option.none_or, List.find?_cons_of_pos (by simp [hat, hpile])]

/-- A queue instruction that is accepted at once (08 R257 to R260). -/
theorem queueInstr_accepts {s v : State} {u : QUnit} {o : QOp} {regs : List (Reg × Nat)} (hr : s.g.phase = .running)
    (hb : blockTrap s.g regs = none) (hw : ∀ x ∈ s.qwaits, ¬ (x.uid = s.g.uid ∧ x.path = s.g.act.val))
    (hf : Finds (drainedAt (o.kind = 0 || o.kind = 3) s) o.desc u v) (ht : unitTrap v.g u o = none) (hc : qCondition u o = true)
    (hfull : flagFull s.g o = false) (hfirst : ∀ x ∈ s.qwaits, x.at_ = u.at_ → x.pile = u.pile → x.arrived = true → sameGroup x.op o = false)
    (hpick : (publishedAt (o.kind = 0 || o.kind = 3) u.reach v).picks.headD 0 = 0) :
    ∃ t, queueInstr regs o s = t ∧ Accepted true ⟨s.g.uid, s.g.act.val, u.at_, u.pile, true, o, s.iss.yield⟩ u
        (publishedAt (o.kind = 0 || o.kind = 3) u.reach v) t ∧
      ((o.kind = 0 || o.kind = 3) = true → ∃ p ∈ t.pubs, p.by_ = some (s.g.uid, s.g.at_) ∧ p.level = u.reach) := by
  obtain ⟨b, hexec, hbt, hat, hpile, hreach, hunit, hk⟩ := queueInstr_finds hb hw hf
  have hg := gangKept_of_kept hk
  have hready0 : Ready u o { s with units := v.units } := by
    refine ⟨hunit, ?_, hc, hfull, hfirst, hw, hr⟩
    have := unitTrap_none.1 ht
    rw [at_of_kept hg] at this
    exact unitTrap_none.2 this
  obtain ⟨hready, hwait⟩ := hready0.of_kept hk
  obtain ⟨t, harrive, hacc, hpubs⟩ := arrive_accepts hready (hbt ht) hat hpile hreach hpick
  rw [hwait] at hacc
  refine ⟨t, hexec.trans harrive, hacc, fun hpub => ?_⟩
  have hfree : v.g.phase ≠ .free := fun h => by cases hready.running.symm.trans h
  obtain ⟨p, hp, hby, hl⟩ := publish_pubs u.reach hfree
  refine ⟨p, ?_, ?_, hl⟩
  · rw [hpubs, hpub]
    exact hp
  · rw [hby, uid_of_kept hg, at_of_kept hg]

theorem queueInstructionsAreAccepted : Claims.QueueInstructionsAreAccepted := by
  intro s v d a k u hr hw desc first runs
  have hruns {regs : List (Reg × Nat)} {o : QOp} {i : Instr} (pub : Bool) (hi : exec i s = .next (queueInstr regs o s)) (hd : o.desc = desc)
      (hpub : (o.kind = 0 || o.kind = 3 : Bool) = pub) (hb : blockTrap s.g regs = none) : runs i o pub := by
    intro hf ht hc hfull hfirst hpick
    subst hpub
    obtain ⟨t, hq, hacc, hpubs⟩ := queueInstr_accepts hr hb hw (hd.symm ▸ hf) ht hc hfull hfirst hpick
    exact ⟨t, hi.trans (congrArg Host.Outcome.next hq), hacc, hpubs⟩
  clear_value runs
  have hheld (h : Holds s.g [(d, 8)]) : blockTrap s.g [(d, 8)] = none := blockTrap_none _ _ h
  exact ⟨fun h => hruns true rfl rfl rfl (hheld h), fun h => hruns false rfl rfl rfl (hheld h), hruns false rfl rfl rfl rfl, hruns true rfl rfl rfl rfl⟩

/-! Events -/

theorem lanesOf_nodup (m : W32) : (lanesOf m).Nodup := (lanesOf_sorted m).imp fun h => Nat.ne_of_lt h
/-- `qpop` gives record j to the j-th active lane (08 R260). -/
theorem popWrites_vector (o : QOp) (recs : List (List W32)) (hk : o.kind = 1) :
    ∃ m, ∃ f : Nat → Nat → W32, popWrites o recs = .k o.mask m :: (List.range 8).map (fun n => .v (o.dst + n) m (mkLanes (f n))) ∧
      (∀ {j l : Nat}, (lanesOf o.act)[j]? = some l → (inMask m l = true ↔ j < recs.length)) ∧
      ∀ {j l : Nat}, (lanesOf o.act)[j]? = some l → ∀ i, j < recs.length → f i l = (((recs[j]?).getD [])[i]?).getD 0 := by
  refine ⟨maskOf (fun l => ((lanesOf o.act).take recs.length).contains l),
    fun i l => (((recs[((lanesOf o.act).take recs.length).findIdx (· = l)]?).getD [])[i]?).getD 0, ?_, fun {j l} hl => ?_, fun {j l} hl i hj => ?_⟩
  · simp only [popWrites, hk, if_true]
  · have hlt := (mem_lanesOf o.act l).1 (List.mem_of_getElem? hl)
    obtain ⟨hlen, rfl⟩ := List.getElem?_eq_some_iff.1 hl
    rw [inMask_maskOf _ hlt.1, List.contains_iff_mem, List.mem_take_iff_idxOf_lt (List.getElem_mem hlen), (lanesOf_nodup o.act).idxOf_getElem]
  · obtain ⟨hlen, rfl⟩ := List.getElem?_eq_some_iff.1 hl
    have hjt : j < ((lanesOf o.act).take recs.length).length := by
      rw [List.length_take]
      omega
    have hidx : ((lanesOf o.act).take recs.length).idxOf ((lanesOf o.act).take recs.length)[j] = j :=
      ((lanesOf_nodup o.act).sublist (List.take_sublist _ _)).idxOf_getElem j hjt
    rw [List.getElem_take] at hidx
    exact congrArg (fun n => (((recs[n]?).getD [])[i]?).getD 0) hidx

theorem queueWaitsAndDeliveries : Claims.QueueWaitsAndDeliveries := by
  refine ⟨fun s c g w u hg hgo hp hu ht hr hfull => ⟨fun hfind hc hb => ?_, fun hfind => ?_⟩, fun o recs j l i hk hl hi => ?_, fun o hk => ?_⟩
  · have hexec : exec (.queueOpAccept c) s = .next (tryAccept false w s) := by
      show execQueueOpAccept c s = _
      simp only [execQueueOpAccept, hg, hfind]
    refine ⟨_, hexec.trans (congrArg Host.Outcome.next (tryAccept_accepts hgo hu ht hr hc hb hfull)), ?_⟩
    exact (accepted_acceptOp false hp (u := u) (u0 := u) (find?_own hu)).1
  · intro rest u0
    have hexec : exec (.queueOpArrival c) s = .next (tryAccept false { w with arrived := true } u0) := by
      show execQueueOpArrival c s = _
      simp only [execQueueOpArrival, hg, hfind]
      rfl
    refine ⟨fun hc hb => ?_, fun hc => hexec.trans (congrArg Host.Outcome.next (tryAccept_waits (g := g) hgo hu ht hc))⟩
    exact ⟨_, hexec.trans (congrArg Host.Outcome.next (tryAccept_accepts (g := g) hgo hu ht hr hc hb hfull)),
      (accepted_acceptOp (s := u0) (w := { w with arrived := true }) false hp (u := u) (u0 := u) (find?_own hu)).1⟩
  · obtain ⟨m, f, hpop, hmask, hval⟩ := popWrites_vector o recs hk
    exact ⟨m, f, hpop, hmask hl, hval hl i⟩
  · simp only [popWrites, hk]
    rfl

/-- Settles O38. -/
theorem queuesMoveRecords : Obligations.QueuesMoveRecords := ⟨queueInstructionsAreAccepted, queueWaitsAndDeliveries⟩

end Sys2Proof.Proofs
end

section
/-! PROOF. The events of the kiln: an operation starts, steps, is suspended and goes on (06 R201 to R218). -/

namespace Sys2Proof.Proofs

open Sys2Proof Sys2Proof.Machine Sys2Proof.Claims Sys2Proof.Laws

/-! Entries and tiles -/

theorem find?_upd_id (ks : List KilnEntry) (i : Nat) (f : KilnEntry → KilnEntry) (hf : ∀ k, (f k).id = k.id) :
    (upd (fun k => k.id = i) f ks).find? (fun k => k.id = i) = (ks.find? (fun k => k.id = i)).map f := by
  have hc : ((fun k : KilnEntry => decide (k.id = i)) ∘ fun k => if decide (k.id = i) = true then f k else k) = fun k => decide (k.id = i) := by
    funext k
    simp only [Function.comp]
    split
    · rw [hf]
    · rfl
  rw [upd, List.find?_map, hc]
  cases h : ks.find? (fun k => k.id = i) with
  | none => rfl
  | some k => rw [Option.map_some, Option.map_some, if_pos (List.find?_some h)]
/-- What a change of the entries with a number says of them afterwards. -/
theorem upd_id {ks : List KilnEntry} {i : Nat} {f : KilnEntry → KilnEntry} (hf : ∀ k, (f k).id = k.id) {k : KilnEntry}
    (hk : k ∈ upd (fun k => k.id = i) f ks) (hi : k.id = i) : ∃ x ∈ ks, k = f x := by
  obtain ⟨x, hx, rfl⟩ := List.mem_map.1 hk
  refine ⟨x, hx, if_pos ?_⟩
  by_cases h : x.id = i
  · simpa using h
  · rw [if_neg (by simpa using h)] at hi
    exact absurd hi h
theorem tileStatus_onTile {s : State} (h : CellsWf {} s.tiles) (c : Coords) (t : Nat) (f : TileStatus → TileStatus) :
    tileStatus (onTile c t f s) c t = f (tileStatus s c t) := cget_cset_same _ _ h

theorem mmaStarts {s : State} {e : KilnEntry} {l : Latch} (he : s.kiln.find? (fun k => k.id = e.id) = some e)
    (hl : hitLatch s (unitOf 2 e.at_) e.op.job e.opB e.view = some l) (hc : (chosen s (unitOf 2 e.at_)).map (·.id) = some e.id)
    (hg : isGated s e.at_.pkg = false) (hs : isStopped s e.at_.pkg = false) (ht : CellsWf {} s.tiles) :
    Runs (.mmaStart e.id) s (fun t => t.mem = s.mem ∧ t.acc = s.acc ∧ (tileStatus t e.at_ e.tile).busy = true ∧
      ∃ k, t.kiln.find? (fun k => k.id = e.id) = some k ∧ k.state = 1 ∧ k.weights = l.bytes ∧ k.wscales = l.scales ∧ k.latch = l.idx) := by
  refine ⟨onTile e.at_ e.tile (startStatus e) (useLatch l { s with kiln := upd (fun k => k.id = e.id) (takeWeights l) s.kiln }), ?_, rfl, rfl, ?_,
    takeWeights l e, ?_, rfl, rfl, rfl, rfl⟩
  · show execMmaStart e.id s = _
    simp only [execMmaStart, he, hl, hc, hg, hs, ne_eq, not_true, decide_false, Bool.or_self, Bool.false_eq_true, if_false]
  · exact congrArg TileStatus.busy (tileStatus_onTile (s := useLatch l { s with kiln := upd (fun k => k.id = e.id) (takeWeights l) s.kiln }) ht ..)
  · exact (find?_upd_id s.kiln e.id (takeWeights l) fun _ => rfl).trans (by rw [he]; rfl)

/-! A step -/

section Elements

variable {ι : Type} {key : ι → Nat} (F : ι → W32 → W32)

/-- Each element of a list is replaced by a function of it, one after the other. -/
def mapCells (key : ι → Nat) (F : ι → W32 → W32) (L : List ι) (m : Cells W32) : Cells W32 :=
  L.foldl (fun m e => cset 0 m (key e) (F e (cget 0 m (key e)))) m
theorem cget_mapCells_other {k : Nat} : ∀ {L : List ι}, (∀ e ∈ L, key e ≠ k) → ∀ m : Cells W32, cget 0 (mapCells key F L m) k = cget 0 m k
  | [], _, _ => rfl
  | e :: L, h, m => by
    rw [List.forall_mem_cons] at h
    exact (cget_mapCells_other h.2 _).trans (cget_cset_other _ h.1.symm m)
theorem cget_mapCells : ∀ {L : List ι}, (L.Pairwise fun a b => key a ≠ key b) → ∀ {m : Cells W32}, CellsWf 0 m → ∀ e ∈ L,
    cget 0 (mapCells key F L m) (key e) = F e (cget 0 m (key e))
  | [], _, _, _, e, he => absurd he (by simp)
  | n :: L, hd, m, hm, e, he => by
    obtain ⟨hn, hd⟩ := List.pairwise_cons.1 hd
    rcases List.mem_cons.1 he with rfl | he
    · refine (cget_mapCells_other F (fun x hx => (hn x hx).symm) _).trans (cget_cset_same _ _ hm)
    · refine (cget_mapCells hd (cset_wf _ _ hm) e he).trans ?_
      rw [cget_cset_other _ (hn e he).symm]

end Elements

/-- What one step adds to an element (06 R201). -/
def stepAdd (e : KilnEntry) (st : Nat) (byte : Nat → Nat) (sa j : Nat) : W32 :=
  (stepValue ((List.range 32).map (fun i => kDecode (kFmt e.opA) sa (codeAt (kBits (kFmt e.opA)) (32 * st + i) byte)))
    ((List.range 32).map (fun i => kDecode (kFmt e.opB) (bScale e (kKb0 e.opA + st) j) (bCode e (32 * (kKb0 e.opA + st) + i) j)))
    (kScale (kFmt e.opA) sa) (kScale (kFmt e.opB) (bScale e (kKb0 e.opA + st) j))).1

/-- The elements of the active rows of a step on register operands. -/
def stepElems (e : KilnEntry) : List (Nat × Nat) := (lanesOf e.act).flatMap (fun l => (List.range 256).map (fun j => (l, j)))
theorem mem_stepElems {e : KilnEntry} {l j : Nat} : (l, j) ∈ stepElems e ↔ (l < 32 ∧ inMask e.act l = true) ∧ j < 256 := by
  simp only [stepElems, List.mem_flatMap, mem_lanesOf, List.mem_map, List.mem_range, Prod.mk.injEq]
  constructor
  · rintro ⟨m, hm, i, hi, rfl, rfl⟩
    exact ⟨hm, hi⟩
  · rintro ⟨hl, hj⟩
    exact ⟨l, hl, j, hj, rfl, rfl⟩
theorem stepElems_keys (e : KilnEntry) : (stepElems e).Pairwise fun a b => elemKey e.at_ e.tile a ≠ elemKey e.at_ e.tile b := by
  have hnd : (stepElems e).Nodup := by
    refine List.nodup_flatMap.2 ⟨fun l _ => (List.nodup_range).map fun a b h => (Prod.mk.inj h).2, ?_⟩
    refine (lanesOf_sorted e.act).imp fun {a b} hab x hx hy => ?_
    obtain ⟨j, -, rfl⟩ := List.mem_map.1 hx
    obtain ⟨k, -, hk⟩ := List.mem_map.1 hy
    exact absurd (Prod.mk.inj hk).1 (by omega)
  refine hnd.imp_of_mem fun {a b} ha hb hne hk => hne (elemKey_inj e.at_ e.tile ?_ ?_ hk)
  · exact (mem_stepElems.1 ha).2
  · exact (mem_stepElems.1 hb).2

/-- The bytes of a latched A row, and its scale byte (06 R198). -/
def regByteOf (e : KilnEntry) (l b : Nat) : Nat := ((lane ((e.aRegs[b / 4]?).getD (Vector.replicate 32 0)) l).toNat / 2 ^ (8 * (b % 4))) % 256
def regScaleOf (e : KilnEntry) (l : Nat) : Nat := (lane e.sRegs l).toNat / 2 ^ (8 * e.next) % 256
def regRows (e : KilnEntry) : List (Nat × (Nat → Nat) × Nat) := (lanesOf e.act).map (fun l => (l, regByteOf e l, regScaleOf e l))
theorem stepRows_regs {e : KilnEntry} (h : kKind e.opA = 1) (s : State) : stepRows e s = (regRows e, none, s) := by
  simp only [stepRows, h, if_true]
  rfl
/-- An element after a step. -/
def stepElem (e : KilnEntry) (p : Nat × Nat) (x : W32) : W32 := (addRne x (stepAdd e e.next (regByteOf e p.1) (regScaleOf e p.1) p.2)).1

/-- The first part of a fold whose steps change it by itself. -/
theorem foldl_fst {α β ι : Type} {f : α × β → ι → α × β} {g : α → ι → α} (h : ∀ p i, (f p i).1 = g p.1 i) : ∀ (l : List ι) (p : α × β),
    (l.foldl f p).1 = l.foldl g p.1
  | [], _ => rfl
  | i :: l, p => by rw [List.foldl_cons, List.foldl_cons, foldl_fst h l, h]
theorem rowStep_acc (e : KilnEntry) (l : Nat) (af : Cells W32 × Fl × Bool) :
    (rowStep e e.next l (regByteOf e l) (regScaleOf e l) af).1 =
      mapCells (elemKey e.at_ e.tile) (stepElem e) ((List.range 256).map (fun j => (l, j))) af.1 := by
  rw [mapCells, List.foldl_map, rowStep]
  generalize List.range 256 = js
  exact foldl_fst (fun p j => by simp only [stepElem, stepAdd, elemKey]) js af
theorem regRows_acc (e : KilnEntry) (af : Cells W32 × Fl × Bool) :
    ((regRows e).foldl (fun m r => rowStep e e.next r.1 r.2.1 r.2.2 m) af).1 =
      mapCells (elemKey e.at_ e.tile) (stepElem e) (stepElems e) af.1 := by
  rw [mapCells, stepElems, List.foldl_flatMap, regRows, List.foldl_map]
  exact foldl_fst (f := fun m l => rowStep e e.next l (regByteOf e l) (regScaleOf e l) m)
    (g := fun m l => mapCells (elemKey e.at_ e.tile) (stepElem e) ((List.range 256).map (fun j => (l, j))) m) (fun m l => rowStep_acc e l m) _ af

/-- The tile's status after a step (06 R209). -/
def stepStatus (e : KilnEntry) (r : Cells W32 × Fl × Bool) (x : TileStatus) : TileStatus :=
  { x with
    count := (x.count + 1) % 2 ^ 16, nonfinite := x.nonfinite || r.2.2, busy := !decide (e.steps ≤ e.next + 1)
    resume := if e.steps ≤ e.next + 1 then 0 else e.next + 1 }
/-- The machine with the rows of a step added to the tile. -/
def withRows (e : KilnEntry) (r : Cells W32 × Fl × Bool) (s : State) : State := onTile e.at_ e.tile (stepStatus e r) { s with acc := r.1 }
/-- The machine after a step: the last one completes the number (06 R202). -/
def stepDone (e : KilnEntry) (r : Cells W32 × Fl × Bool) (s : State) : State :=
  if e.steps ≤ e.next + 1 then completeNum e.op (noteFlags e.op e.uid r.2.1 { withRows e r s with kiln := s.kiln.filter (fun k => k.id ≠ e.id) })
  else { withRows e r s with kiln := upd (fun k => k.id = e.id) (fun k => { k with next := e.next + 1, flags := r.2.1 }) s.kiln }
theorem stepDone_eq (e : KilnEntry) (r : Cells W32 × Fl × Bool) (s : State) : stepDone e r s =
    { s with acc := r.1, tiles := (withRows e r s).tiles, timelines := (stepDone e r s).timelines, kiln := (stepDone e r s).kiln } := by
  unfold stepDone
  split
  · rw [completeNum_eq, noteFlags_eq]
    rfl
  · rfl
theorem stepDone_cut (e : KilnEntry) (r : Cells W32 × Fl × Bool) (s : State) : (stepDone e r s).cut = s.cut := by
  rw [stepDone_eq]
/-- A step of an engine in a package that heat has not stopped, where nothing waits for a path. -/
theorem uncut_of {pkg : Nat} {f : State → State} {s t : State} (hs : isStopped s pkg = false) (hf : f { s with cut := false } = t)
    (hc : t.cut = false) : uncut pkg f s = t := by
  simp only [uncut, hf, hs, hc, Bool.or_self, Bool.false_eq_true, if_false]
theorem execStep_regs {s : State} {e : KilnEntry} (he : s.kiln.find? (fun k => k.id = e.id && k.state = 1) = some e)
    (hs : isStopped s e.at_.pkg = false) (hp : s.picks = []) (hk : kKind e.opA = 1) :
    exec (.mmaStepComplete e.id) s =
      .next (stepDone e ((regRows e).foldl (fun m r => rowStep e e.next r.1 r.2.1 r.2.2 m) (s.acc, e.flags, false)) { s with cut := false }) := by
  show execMmaStepComplete e.id s = _
  have hpick : Machine.pick { s with cut := false } = (0, { s with cut := false }) := by
    simp only [Machine.pick, hp]
  simp only [execMmaStepComplete, he]
  refine congrArg Host.Outcome.next (uncut_of hs ?_ (stepDone_cut _ _ _))
  simp only [hpick, stepRows_regs hk, hk, Nat.zero_mod, Nat.zero_ne_one, decide_false, Bool.false_and, Bool.false_eq_true, if_false]
  generalize (regRows e).foldl (fun m r => rowStep e e.next r.1 r.2.1 r.2.2 m) (s.acc, e.flags, false) = r
  rfl

theorem stepDone_tile {s : State} (e : KilnEntry) (r : Cells W32 × Fl × Bool) (ht : CellsWf {} s.tiles) :
    tileStatus (stepDone e r s) e.at_ e.tile = stepStatus e r (tileStatus s e.at_ e.tile) := by
  rw [stepDone_eq]
  exact tileStatus_onTile (s := { s with acc := r.1 }) ht e.at_ e.tile (stepStatus e r)
/-- What a step changes of the entries, the number and the tile (06 R202, R203, R209). -/
theorem stepDone_spec {s : State} (e : KilnEntry) (r : Cells W32 × Fl × Bool) (ht : CellsWf {} s.tiles) :
    (tileStatus (stepDone e r s) e.at_ e.tile).count = ((tileStatus s e.at_ e.tile).count + 1) % 2 ^ 16 ∧
    (e.steps ≤ e.next + 1 → (∀ k ∈ (stepDone e r s).kiln, k.id ≠ e.id) ∧
      e.op.n ∈ (timelineOf (stepDone e r s) e.op.eng e.op.job).done ∧ (tileStatus (stepDone e r s) e.at_ e.tile).busy = false) ∧
    (e.next + 1 < e.steps → (stepDone e r s).kiln.map (·.id) = s.kiln.map (·.id) ∧
      (∀ k ∈ (stepDone e r s).kiln, k.id = e.id → k.next = e.next + 1) ∧ (tileStatus (stepDone e r s) e.at_ e.tile).resume = e.next + 1) := by
  rw [stepDone_tile e r ht]
  refine ⟨rfl, fun hlast => ?_, fun hnext => ?_⟩
  · rw [stepDone, if_pos hlast]
    refine ⟨fun k hk => ?_, mem_done_completeNum _ _, by simp [stepStatus, hlast]⟩
    rw [completeNum_eq, noteFlags_eq] at hk
    simpa using (List.mem_filter.1 hk).2
  · rw [stepDone, if_neg (Nat.not_le.2 hnext)]
    refine ⟨upd_map_keeps (F := KilnEntry.id) (by intros; rfl) s.kiln, fun k hk hid => ?_, if_neg (Nat.not_le.2 hnext)⟩
    obtain ⟨x, -, rfl⟩ := upd_id (by intros; rfl) hk hid
    rfl

theorem mmaSteps {s : State} {e : KilnEntry} (he : s.kiln.find? (fun k => k.id = e.id && k.state = 1) = some e)
    (hs : isStopped s e.at_.pkg = false) (hp : s.picks = []) (hk : kKind e.opA = 1) (ha : CellsWf 0 s.acc) (ht : CellsWf {} s.tiles) :
    Runs (.mmaStepComplete e.id) s (fun t => t.mem = s.mem ∧
      (∀ l < 32, ∀ j < 256, accAt t e.at_ e.tile l j =
        if inMask e.act l then stepElem e (l, j) (accAt s e.at_ e.tile l j) else accAt s e.at_ e.tile l j) ∧
      (∀ k, (∀ l < 32, ∀ j < 256, k ≠ accKey e.at_ e.tile l j) → cget 0 t.acc k = cget 0 s.acc k) ∧
      (tileStatus t e.at_ e.tile).count = ((tileStatus s e.at_ e.tile).count + 1) % 2 ^ 16 ∧
      (e.steps ≤ e.next + 1 → (∀ k ∈ t.kiln, k.id ≠ e.id) ∧ e.op.n ∈ (timelineOf t e.op.eng e.op.job).done ∧
        (tileStatus t e.at_ e.tile).busy = false) ∧
      (e.next + 1 < e.steps → t.kiln.map (·.id) = s.kiln.map (·.id) ∧ (∀ k ∈ t.kiln, k.id = e.id → k.next = e.next + 1) ∧
        (tileStatus t e.at_ e.tile).resume = e.next + 1)) := by
  have hacc := regRows_acc e (s.acc, e.flags, false)
  have hexec := execStep_regs he hs hp hk
  generalize (regRows e).foldl (fun m r => rowStep e e.next r.1 r.2.1 r.2.2 m) (s.acc, e.flags, false) = r at hexec hacc
  have heq := stepDone_eq e r { s with cut := false }
  refine ⟨_, hexec, by rw [heq], fun l hl j hj => ?_, fun k hk => ?_, stepDone_spec (s := { s with cut := false }) e r ht⟩
  · rw [accAt, heq]
    show cget 0 r.1 (elemKey e.at_ e.tile (l, j)) = _
    rw [hacc]
    split
    · next h => exact cget_mapCells _ (stepElems_keys e) ha _ (mem_stepElems.2 ⟨⟨hl, h⟩, hj⟩)
    · next h =>
      refine cget_mapCells_other _ (fun p hp hk => h ?_) _
      have hp' := mem_stepElems.1 (show (p.1, p.2) ∈ stepElems e from hp)
      have := elemKey_inj e.at_ e.tile hp'.2 hj hk
      rw [this] at hp'
      exact hp'.1.2
  · rw [heq]
    show cget 0 r.1 k = _
    rw [hacc]
    refine cget_mapCells_other _ (fun p hp => ?_) _
    have hp' := mem_stepElems.1 (show (p.1, p.2) ∈ stepElems e from hp)
    exact (hk p.1 hp'.1.1 p.2 hp'.2).symm

/-! Suspension and restart -/

/-- A tile's status as the fetch of an operand fails (06 R209, R212). -/
def failStatus (e : KilnEntry) (x : TileStatus) : TileStatus :=
  { startStatus e x with busy := e.began, susp := true, cause := cMemory, resume := e.next, entry := e.slot }
theorem fetchFails {s : State} {e : KilnEntry} {a : Word} (he : s.kiln.find? (fun k => k.id = e.id) = some e) (ht : CellsWf {} s.tiles)
    (hst : e.state = 1 ∨ e.state = 3) (hf : fetchesA e e.next a = true ∨ readsB e e.next a = true) :
    Runs (.operandFetchFailure e.id e.next a) s (fun t => t.mem = s.mem ∧ t.acc = s.acc ∧
      (∀ k ∈ t.kiln, k.id = e.id → k.state = 2 ∧ k.cause = 0x17 ∧ k.addr = a) ∧
      (tileStatus t e.at_ e.tile).susp = true ∧ (tileStatus t e.at_ e.tile).busy = e.began ∧ (tileStatus t e.at_ e.tile).entry = e.slot ∧
      (tileStatus t e.at_ e.tile).resume = e.next ∧ (tileStatus t e.at_ e.tile).cause = 0x17 ∧
      (fetchesA e e.next a = true → t.latches = s.latches) ∧
      (fetchesA e e.next a = false → ∀ l ∈ t.latches, l.at_ = unitOf 2 e.at_ → l.idx = e.latch → l.valid = false)) := by
  have hsusp (t : State) (hk : t.kiln = s.kiln) : suspend e.id a t = onTile e.at_ e.tile (failStatus e)
      { t with kiln := upd (fun k => k.id = e.id) (fun k => { k with state := 2, cause := cMemory, addr := a }) t.kiln } := by
    simp only [suspend, hk, he]
    rfl
  have hkiln (k : KilnEntry) (hk : k ∈ upd (fun k => k.id = e.id) (fun k => { k with state := 2, cause := cMemory, addr := a }) s.kiln)
      (hid : k.id = e.id) : k.state = 2 ∧ k.cause = 0x17 ∧ k.addr = a := by
    obtain ⟨x, -, rfl⟩ := upd_id (by intros; rfl) hk hid
    exact ⟨rfl, rfl, rfl⟩
  have htile (t : State) (hti : t.tiles = s.tiles) : tileStatus (onTile e.at_ e.tile (failStatus e) t) e.at_ e.tile =
      failStatus e (tileStatus t e.at_ e.tile) := tileStatus_onTile (by rw [hti]; exact ht) _ _ _
  have hgo : ¬ (!((e.state = 1 || e.state = 3) && decide True)) = true := by rcases hst with h | h <;> simp [h]
  by_cases hA : fetchesA e e.next a = true
  · refine ⟨suspend e.id a s, ?_, ?_⟩
    · show execOperandFetchFailure e.id e.next a s = _
      simp only [execOperandFetchFailure, he]
      exact congrArg Host.Outcome.next ((if_neg hgo).trans (if_pos hA))
    · rw [hsusp s rfl]
      have h := htile { s with kiln := upd (fun k => k.id = e.id) (fun k => { k with state := 2, cause := cMemory, addr := a }) s.kiln } rfl
      exact ⟨rfl, rfl, hkiln, congrArg TileStatus.susp h, congrArg TileStatus.busy h, congrArg TileStatus.entry h, congrArg TileStatus.resume h,
        congrArg TileStatus.cause h, fun _ => rfl, fun hn => absurd hA (by simp [hn])⟩
  · refine ⟨noteError e.at_.pkg (suspend e.id a (dropLatch e s)), ?_, ?_⟩
    · show execOperandFetchFailure e.id e.next a s = _
      simp only [execOperandFetchFailure, he]
      exact congrArg Host.Outcome.next ((if_neg hgo).trans ((if_neg hA).trans (if_pos (hf.resolve_left hA))))
    · rw [hsusp (dropLatch e s) rfl]
      have h := htile { dropLatch e s with kiln := upd (fun k => k.id = e.id) (fun k => { k with state := 2, cause := cMemory, addr := a }) (dropLatch e s).kiln } rfl
      refine ⟨rfl, rfl, hkiln, congrArg TileStatus.susp h, congrArg TileStatus.busy h, congrArg TileStatus.entry h, congrArg TileStatus.resume h,
        congrArg TileStatus.cause h, fun hy => absurd hy hA, fun _ l hl hat hix => ?_⟩
      obtain ⟨x, -, rfl⟩ := List.mem_map.1 (show l ∈ upd _ _ s.latches from hl)
      by_cases hx : (x.at_ = unitOf 2 e.at_ && x.idx = e.latch : Bool) = true
      · rw [if_pos hx]
      · rw [if_neg hx] at hat hix
        exact absurd (by simp [hat, hix]) hx

/-- An operation that resumes goes on: with its weights, or on a latch that holds them (06 R214, R218). -/
def restarted (e : KilnEntry) (s : State) : State :=
  if isStopped s e.at_.pkg then s
  else if !e.weights.isEmpty then { s with kiln := upd (fun k => k.id = e.id) (fun k => { k with state := 1 }) s.kiln }
  else match hitLatch s (unitOf 2 e.at_) e.op.job e.opB e.view with
    | none => s
    | some l => onTile e.at_ e.tile (fun x => { x with busy := true, susp := false, entry := 0 })
        (useLatch l { s with kiln := upd (fun k => k.id = e.id) (takeWeights l) s.kiln })
theorem execRestart {s : State} {e : KilnEntry} (he : s.kiln.find? (fun k => k.id = e.id) = some e) (h3 : e.state = 3) :
    exec (.mmaRestart e.id) s = .next (restarted e s) := by
  have hfind : s.kiln.find? (fun k => k.id = e.id && k.state = 3) = some e := by
    obtain ⟨hid, as, bs, hs, hno⟩ := List.find?_eq_some_iff_append.1 he
    refine List.find?_eq_some_iff_append.2 ⟨by simp [h3], as, bs, hs, fun x hx => ?_⟩
    have := hno x hx
    simp only [Bool.not_eq_true', decide_eq_false_iff_not] at this
    simp [this]
  show execMmaRestart e.id s = _
  simp only [execMmaRestart, hfind, restarted] <;> rfl

/-- Settles O48. -/
theorem kilnOperationsRun : Obligations.KilnOperationsRun := by
  refine ⟨fun s e l he hl hc hg hs ht => mmaStarts he hl hc hg hs ht, fun s e he hs hp hk ha ht => mmaSteps he hs hp hk ha ht,
    fun s e a he ht => ⟨fun hst hf => fetchFails he ht hst hf, fun hs h3 => ?_, fun hs h3 hw => ?_, fun l hs h3 hw hl => ?_⟩⟩
  · have hex := execRestart he h3
    rw [restarted, if_pos hs] at hex
    exact ⟨s, hex, rfl⟩
  · have hex := execRestart he h3
    rw [restarted, if_neg (by simp [hs]), if_pos (by simpa using hw)] at hex
    refine ⟨_, hex, rfl, rfl, fun k hk hid => ?_⟩
    obtain ⟨x, -, rfl⟩ := upd_id (by intros; rfl) hk hid
    rfl
  · have hex := execRestart he h3
    rw [restarted, if_neg (by simp [hs]), if_neg (by simp [hw])] at hex
    simp only [hl] at hex
    have h := tileStatus_onTile (s := useLatch l { s with kiln := upd (fun k => k.id = e.id) (takeWeights l) s.kiln }) ht e.at_ e.tile
      (fun x => { x with busy := true, susp := false, entry := 0 })
    refine ⟨_, hex, rfl, fun k hk hid => ?_, congrArg TileStatus.busy h, congrArg TileStatus.susp h⟩
    obtain ⟨x, -, rfl⟩ := upd_id (f := takeWeights l) (by intros; rfl) hk hid
    exact ⟨rfl, rfl⟩

end Sys2Proof.Proofs
end

section
/-! PROOF. Weight tiles at the latches: a load that reads the tile's scale bytes through a mapping which its own row reads have changed
does not complete (06 R206, 19 R507). -/

namespace Sys2Proof.Proofs

open Sys2Proof Sys2Proof.Machine Sys2Proof.Claims Sys2Proof.Laws

/-! What the kiln fetches -/

/-- The bytes of a fetch that its package may read. -/
def readable (c : Coords) (job : Nat) (as : List Word) (s : State) : List (Nat × Key) :=
  (as.map (fun a => (a, kilnByte s c job a))).filterMap (fun p => match p.2 with
    | .ok h => if h.perm &&& permR = permR then some (h.loc, h.key) else none
    | .error _ => none)
theorem mem_readable {c : Coords} {job : Nat} {as : List Word} {s : State} {a : Word} {h : Hit} (ha : a ∈ as) (hb : kilnByte s c job a = .ok h)
    (hp : h.perm &&& permR = permR) : (h.loc, h.key) ∈ readable c job as s := by
  refine List.mem_filterMap.2 ⟨(a, kilnByte s c job a), List.mem_map_of_mem ha, ?_⟩
  simp only [hb, if_pos hp]
/-- Mappings do not depend on what the paths have fetched, on the picks, or on what waits. -/
def refetched (s : State) (fs : List (Coords × Cells Nat)) (ps : List Nat) (b : Bool) : State := { s with fetched := fs, picks := ps, cut := b }
section Refetched

variable (s : State) (fs : List (Coords × Cells Nat)) (ps : List Nat) (b : Bool)

theorem findRange_refetched (pkg rtab va : Nat) : ∀ f n, findRange (refetched s fs ps b) pkg rtab va f n = findRange s pkg rtab va f n
  | 0, _ => rfl
  | f + 1, n => by
    rw [findRange, findRange, findRange_refetched pkg rtab va f (n + 1)]
    rfl
theorem walk_refetched (pkg va : Nat) : ∀ n table, walk (refetched s fs ps b) pkg va n table = walk s pkg va n table
  | 0, _ => rfl
  | n + 1, table => by
    rw [walk, walk, walk_refetched pkg va n]
    rfl
theorem translate_refetched (pkg job va : Nat) : Machine.translate (refetched s fs ps b) pkg job va = Machine.translate s pkg job va := by
  unfold Machine.translate
  simp only [findRange_refetched, walk_refetched]
  rfl
theorem mapByte_refetched (c : Coords) (job : Nat) (w : Win) (a : Word) : mapByte (refetched s fs ps b) c job w a = mapByte s c job w a := by
  unfold mapByte
  simp only [translate_refetched]
  rfl
theorem kilnByte_refetched (c : Coords) (job : Nat) (a : Word) : kilnByte (refetched s fs ps b) c job a = kilnByte s c job a := by
  rw [kilnByte, kilnByte, mapByte_refetched]

end Refetched

/-- The machine as the bytes of a fetch are read: the lines that cover them are combined (04 R147). -/
def combinedFor (c : Coords) (job : Nat) (as : List Word) (s : State) : State :=
  combineLines (fun r => (readable c job as s).any (fun h => lineCovers r h.1)) s
/-- Whether one of them has no path, so that the step waits (19 R507). -/
def waitsFor (c : Coords) (job : Nat) (as : List Word) (s : State) : Bool :=
  (reach c.pkg ((readable c job as s).map (·.1)) (combinedFor c job as s)).cut
theorem kilnFetch_state (c : Coords) (job : Nat) (view : Cells Nat) (as : List Word) (s : State) :
    ∃ fs ps, (kilnFetch c job view as s).2.2 = refetched (combinedFor c job as s) fs ps (waitsFor c job as s) := by
  have hreach (p : Nat) (ls : List Nat) (t : State) : reach p ls t = { t with cut := (reach p ls t).cut } := by
    unfold reach
    split <;> rfl
  obtain ⟨fs, h⟩ := pathRead_state (reach c.pkg ((readable c job as s).map (·.1)) (combinedFor c job as s)) (unitOf 2 c) 2 view (readable c job as s)
  refine ⟨fs, (reach c.pkg ((readable c job as s).map (·.1)) (combinedFor c job as s)).picks.drop 1, Eq.trans h ?_⟩
  rw [hreach]
  rfl
theorem reach_cut {p : Nat} {ls : List Nat} {s : State} {l : Nat} (hl : l ∈ ls) (hf : flows s p (locPkg l) = false) : (reach p ls s).cut = true := by
  unfold reach
  rw [if_neg]
  intro h
  have := List.all_eq_true.1 h l hl
  rw [hf] at this
  cases this
theorem surroundings_combineLines (p : RedLine → Bool) (s : State) : surroundings (combineLines p s) = surroundings s :=
  (congrArg surroundings (combineLines_kept p s) :)

/-- A weight tile that a latch takes for an `mldw` (06 R206, R208). -/
def loadFor (i : Nat) (ok : Bool) (m : KilnLoad) (s : State) : State :=
  completeNum m.op (setLatch (loadTile i (!ok) m.at_ m.op.job m.view m.opB s).1 (loadTile i (!ok) m.at_ m.op.job m.view m.opB s).2.2)
theorem loadFor_cut (i : Nat) (ok : Bool) (m : KilnLoad) (s : State) :
    (loadFor i ok m s).cut = (loadTile i (!ok) m.at_ m.op.job m.view m.opB s).2.2.cut := by
  rw [loadFor, completeNum_eq]
  rfl
theorem uncut_waits {pkg : Nat} {f : State → State} {s : State} (h : (f { s with cut := false }).cut = true) : uncut pkg f s = s := by
  simp only [uncut, h, Bool.or_true, if_true]
theorem combineLines_single {p : RedLine → Bool} {r : RedLine} {s : State} (hl : s.lines = [r]) (hp : p r = true) :
    combineLines p s = lineHome r s := by
  rw [combineLines, hl, List.filter_singleton, hp]
  rfl
theorem chosen_none {s : State} (h : s.kiln = []) (cl : Coords) : chosen s cl = none := by
  simp [chosen, h, oldest]
theorem execWeightLatchLoaded_misses {s : State} {c : Coords} {i : Nat} {m : KilnLoad} (ok : Bool) (hk : s.kiln = [])
    (hm : s.mldws.find? (fun m => unitOf 2 m.at_ = unitOf 2 c) = some m) (hv : victim s (unitOf 2 c) = some i)
    (hh : hitLatch s (unitOf 2 c) m.op.job m.opB m.view = none) :
    exec (.weightLatchLoaded c i ok) s = .next (uncut c.pkg (fun _ => loadFor i ok m
      { s with picks := s.picks.drop 1, cut := false, mldws := s.mldws.filter (fun x => x.op ≠ m.op) }) s) := by
  obtain ⟨p, hp⟩ : ∃ p, Machine.pick s = (p, { s with picks := s.picks.drop 1 }) := ⟨_, pick_eq s⟩
  show execWeightLatchLoaded c i ok s = _
  simp only [execWeightLatchLoaded, hk, List.find?_nil, chosen_none hk, Option.bind_none, hm, hp, hv, ne_eq, not_true, if_false]
  refine congrArg (fun f => Host.Outcome.next (uncut c.pkg f s)) (funext fun _ => ?_)
  have hmiss : ¬ (hitLatch s (unitOf 2 c) m.op.job m.opB m.view).isSome = true := by simp [hh]
  exact if_neg hmiss

/-! Where the scale bytes lie after the rows have been read -/

/-- The addresses of a weight tile's rows, and of its scale bytes (06 R196). -/
def tileRows (o : Word × Word) : List Word :=
  (List.range (kRows false o)).flatMap (fun i => (List.range (kRowLen false o)).map (fun b => rowAddr false o i b))
def tileScales (o : Word × Word) : List Word :=
  if kBits (kFmt o) = 16 then [] else (List.range (256 * (kK o / 32))).map (fun i => scaleBase o + wd i)
/-- A scale byte that has no path once the rows have been read makes the load wait (19 R507). -/
theorem loadTile_cut {i job : Nat} {bad : Bool} {c : Coords} {view : Cells Nat} {o : Word × Word} {s : State} {a : Word} {h : Hit}
    (ha : a ∈ tileScales o) (hp : h.perm &&& permR = permR) (hf : flows s c.pkg (locPkg h.loc) = false)
    (hb : kilnByte (combinedFor c job (tileRows o) s) c job a = .ok h) : (loadTile i bad c job view o s).2.2.cut = true := by
  have hne : (tileScales o).isEmpty = false := List.isEmpty_eq_false_iff.2 (List.ne_nil_of_mem ha)
  have hload : (loadTile i bad c job view o s).2.2.cut =
      (kilnFetch c job view (tileScales o) (kilnFetch c job view (tileRows o) s).2.2).2.2.cut := by
    have hsc : (if (tileScales o).isEmpty = true then ([], none, (kilnFetch c job view (tileRows o) s).2.2)
        else kilnFetch c job view (tileScales o) (kilnFetch c job view (tileRows o) s).2.2) = 
        kilnFetch c job view (tileScales o) (kilnFetch c job view (tileRows o) s).2.2 := if_neg (by simp [hne])
    rw [← hsc]
    rfl
  obtain ⟨fs, ps, h1⟩ := kilnFetch_state c job view (tileRows o) s
  obtain ⟨fs', ps', h2⟩ := kilnFetch_state c job view (tileScales o) (kilnFetch c job view (tileRows o) s).2.2
  rw [hload, h2, h1]
  refine reach_cut (List.mem_map_of_mem (mem_readable ha ((kilnByte_refetched _ _ _ _ _ _ _).trans hb) hp)) ?_
  rw [flows_of_surroundings (s := s) ?_, hf]
  exact (surroundings_combineLines _ _).trans (surroundings_combineLines _ _)

theorem loadFor_waits (i : Nat) (ok : Bool) (pkg : Nat) (t : State) {m : KilnLoad} {s : State} {a : Word} {h : Hit}
    (ha : a ∈ tileScales m.opB) (hp : h.perm &&& permR = permR) (hf : flows s m.at_.pkg (locPkg h.loc) = false)
    (hb : kilnByte (combinedFor m.at_ m.op.job (tileRows m.opB) s) m.at_ m.op.job a = .ok h) :
    uncut pkg (fun _ => loadFor i ok m s) t = t :=
  uncut_waits ((loadFor_cut i ok m s).trans (loadTile_cut ha hp hf hb))

/-! A mapping of its own job's tile that changes as a line is combined -/

/-- The weight tile of 32 rows of FP4 codes at address 0, its scale bytes at 256. -/
def tornTile : Word × Word := (0, 6 * 2 ^ 60 + 2 ^ 34 + 32)
def tornAt : Coords := ⟨0, 0, 0, 0, 0⟩
def tornLoad : KilnLoad := ⟨⟨.kiln tornAt, 0, 1⟩, tornAt, 0, tornTile, []⟩
/-- An update-only line on word 2 of the job's range entry 0: it turns the entry's package mode from 0 to 2, package 1 (18 R471). -/
def tornLine : RedLine := ⟨tornAt, 16, .addD, 2 ^ 57, [], none⟩
def tornJob : Job := ⟨0, 0, [0, 0, 0x100000, 0x10000], true, none, [], [], none, 0, [], none, (1, 0)⟩
/-- Two packages of one pod without a link. Range entry 0 of job 0 stands at the start of HBM and maps every address below 2^40 to the HBM of
its own package. -/
def torn : State :=
  { mem := [(7, 0x80), (13, 1), (21, 0x0F), (24, 1)], jobs := [tornJob], pkgs := [{ pkg := 0 }, { pkg := 1 }]
    mldws := [tornLoad], lines := [tornLine] }

theorem findRange_some {s : State} {pkg rtab va : Nat} : ∀ {f n k : Nat}, findRange s pkg rtab va f n = some k →
    k < n + f ∧ (rangeWord s pkg rtab k 0).getLsbD 63 = true
  | 0, _, _, h => by cases h
  | f + 1, n, k, h => by
    rw [findRange] at h
    split at h
    · next hc =>
      cases h
      simp only [Bool.and_eq_true] at hc
      exact ⟨by omega, hc.1.1⟩
    · obtain ⟨hk, hb⟩ := findRange_some h
      exact ⟨by omega, hb⟩
theorem mapRange_pkg {s : State} {pkg rtab n va : Nat} {m : Sys2Proof.Machine.Mapped} (hm : fld (rangeWord s pkg rtab n 2) 57 56 = 0)
    (h : mapRange s pkg rtab n va = some m) : m.pkg = pkg := by
  unfold mapRange at h
  simp only [hm, Nat.zero_ne_one, if_false, if_true] at h
  split at h
  · cases h
  · cases h
    rfl
theorem walk_unset {s : State} {pkg va n table : Nat} (h : ∀ ix < 512, (pageWord s pkg table ix).getLsbD 0 = false) :
    walk s pkg va (n + 1) table = none := by
  rw [walk]
  simp only [h _ (Nat.mod_lt _ (by decide : 0 < 512)), Bool.not_false, Bool.true_or, if_true]

theorem torn_translate {va : Nat} {h : Hit} (hm : Machine.translate torn 0 0 va = some h) : locPkg h.loc = 0 := by
  have hentries : ∀ n < 256, n ≠ 0 → (rangeWord torn 0 0 n 0).getLsbD 63 = false := by decide +kernel
  have hpages : ∀ ix < 512, (pageWord torn 0 0x100000 ix).getLsbD 0 = false := by decide +kernel
  have hmode : fld (rangeWord torn 0 0 0 2) 57 56 = 0 := by decide +kernel
  have hjob : jobOn torn 0 0 = some tornJob := by decide +kernel
  unfold Machine.translate at hm
  simp only [hjob, show (tornJob.words[1]?).getD 0 = 0 from rfl, show (tornJob.words[2]?).getD 0 = 0x100000 from rfl] at hm
  have hpkg (m : Sys2Proof.Machine.Mapped) (hmap : (match findRange torn 0 (0 : Word).toNat va 256 0 with
      | some n => mapRange torn 0 (0 : Word).toNat n va
      | none => if va < 2 ^ 48 then walk torn 0 va 4 (0x100000 : Word).toNat else none) = some m) : m.pkg = 0 := by
    split at hmap
    · next n hn =>
      obtain ⟨hlt, hbit⟩ := findRange_some hn
      have h0 : n = 0 := by
        by_contra hne
        rw [show (0 : Word).toNat = 0 from rfl, hentries n (by omega) hne] at hbit
        cases hbit
      subst h0
      exact mapRange_pkg hmode hmap
    · split at hmap
      · rw [show (0x100000 : Word).toNat = 0x100000 from rfl, walk_unset hpages] at hmap
        cases hmap
      · cases hmap
  split at hm
  · cases hm
  · next m hmap =>
    split at hm
    · next hok =>
      cases hm
      simp only [mapOk, Bool.and_eq_true, decide_eq_true_eq] at hok
      have hlt : m.hbm < Config.hbmBytes := hok.1.1.1.2
      have hsize : Config.hbmBytes = 824633720832 := by decide
      show locPkg (hbmLoc m.pkg m.hbm) = 0
      rw [hpkg m hmap]
      have hloc : hbmLoc 0 m.hbm = m.hbm := by simp [hbmLoc, locOf]
      have hkind : locKind m.hbm = 0 := Nat.div_eq_of_lt (by omega)
      rw [hloc, locPkg, hkind]
      show m.hbm % 2 ^ 60 / 2 ^ 40 = 0
      omega
    · cases hm
theorem ite_error_ne_ok {p : Prop} [Decidable p] {a b : Nat} {h : Hit} :
    (if p then (.error a : Except Nat Hit) else .error b) ≠ .ok h := by
  split <;> · intro hk; cases hk
/-- At first every mapping of the job leads to its own package. -/
theorem torn_mapped {a : Word} {h : Hit} (hm : mapByte torn tornAt 0 noWin a = .ok h) : locPkg h.loc = 0 := by
  have hcluster (o : Nat) : clusterOff torn 0 0 o = none := by
    simp only [clusterOff, show jobOn torn 0 0 = some tornJob by decide +kernel, show (tornJob.words[4]?).getD 0 = 0 from rfl,
      show fld (0 : Word) 31 16 = 0 by decide, show fld (0 : Word) 63 48 = 0 by decide]
    simp
  have hdie (o : Nat) : dieOff torn 0 0 o = none := by
    simp only [dieOff, show jobOn torn 0 0 = some tornJob by decide +kernel, show (tornJob.words[5]?).getD 0 = 0 from rfl,
      show fld (0 : Word) 31 16 = 0 by decide]
    simp
  unfold mapByte at hm
  simp only [show tornAt.pkg = 0 from rfl, hcluster, hdie, Option.map_none, localHit, noWin, Nat.not_lt_zero, if_false] at hm
  split at hm
  · split at hm
    · cases hm
    · split at hm
      · next ht =>
        cases hm
        exact torn_translate ht
      · cases hm
  · exact absurd hm ite_error_ne_ok
  · exact absurd hm ite_error_ne_ok
  · exact absurd hm ite_error_ne_ok
  · exact absurd hm ite_error_ne_ok
  · exact absurd hm ite_error_ne_ok
  · cases hm
  · cases hm

/-- The machine as the load begins. -/
def tornStart : State := { torn with picks := torn.picks.drop 1, cut := false, mldws := torn.mldws.filter (fun x => x.op ≠ tornLoad.op) }
theorem tornStart_combined :
    combinedFor tornLoad.at_ tornLoad.op.job (tileRows tornLoad.opB) tornStart = lineHome tornLine tornStart := by
  have hrow : kilnByte tornStart tornLoad.at_ tornLoad.op.job (wd 16) = .ok ⟨16, 15, none, 2 ^ 56⟩ := by decide +kernel
  have hmem : wd 16 ∈ tileRows tornLoad.opB := by
    rw [tileRows, show kRows false tornLoad.opB = 32 by decide +kernel, show kRowLen false tornLoad.opB = 128 by decide +kernel]
    exact List.mem_flatMap.2 ⟨0, List.mem_range.2 (by omega), List.mem_map.2 ⟨16, List.mem_range.2 (by omega), by decide +kernel⟩⟩
  have hcovers : (readable tornLoad.at_ tornLoad.op.job (tileRows tornLoad.opB) tornStart).any (fun h => lineCovers tornLine h.1) = true :=
    List.any_eq_true.2 ⟨_, mem_readable hmem hrow (by decide), by decide⟩
  exact combineLines_single rfl hcovers
theorem scale_mem_torn : wd 256 ∈ tileScales tornLoad.opB := by
  rw [tileScales, if_neg (by decide +kernel), show 256 * (kK tornLoad.opB / 32) = 256 by decide +kernel]
  exact List.mem_map.2 ⟨0, List.mem_range.2 (by omega), by decide +kernel⟩
theorem torn_waits : uncut tornAt.pkg (fun _ => loadFor 0 true tornLoad tornStart) torn = torn := by
  have hb : kilnByte (lineHome tornLine tornStart) tornLoad.at_ tornLoad.op.job (wd 256) = .ok ⟨2 ^ 40 + 256, 15, none, 2 ^ 56⟩ := by
    decide +kernel
  rw [← tornStart_combined] at hb
  have hflow : flows tornStart tornLoad.at_.pkg (locPkg (2 ^ 40 + 256)) = false := by decide +kernel
  exact loadFor_waits 0 true tornAt.pkg torn scale_mem_torn (by decide) hflow hb

/-- Refutes O49: a load whose tile lies over its job's range table reads the rows, which combines an update-only line on the table; then the
scale bytes have mappings in a package without a path, and the load does not complete. -/
theorem not_kilnInstructionsEnter : ¬ Obligations.KilnInstructionsEnter := by
  unfold Obligations.KilnInstructionsEnter
  rintro ⟨-, hlatched⟩
  have hmiss : hitLatch torn (unitOf 2 tornAt) tornLoad.op.job tornLoad.opB tornLoad.view = none := rfl
  obtain ⟨t, hexec, hgone, -⟩ := hlatched torn tornAt 0 true tornLoad rfl rfl (by decide +kernel) (by decide +kernel) (fun _ a h hm => by
    rw [torn_mapped hm]
    decide +kernel)
  have hstays : exec (.weightLatchLoaded tornAt 0 true) torn = .next torn :=
    (execWeightLatchLoaded_misses (m := tornLoad) true rfl rfl (by decide +kernel) hmiss).trans (congrArg Host.Outcome.next torn_waits)
  rw [hstays] at hexec
  cases hexec
  exact hgone tornLoad List.mem_cons_self rfl

end Sys2Proof.Proofs
end

section
/-! SUPPORT. The results on their way of every gang, in the slots, in the images and in the images that checkpoints keep, stand in the order in
which they fall due (03 R106, log 48): what keeps this of the state's operations, of traps, and of cancels. Each rule is named after its
operation, so that the rule of an instruction is the instruction's own term. -/

namespace Sys2Proof.Proofs

open Sys2Proof Sys2Proof.Machine Sys2Proof.Claims Sys2Proof.Laws

/-- A gang's results on their way stand in the order in which they fall due. -/
def GangInOrder (g : Gang) : Prop := DueOrder g.inflight
/-- The gangs of an image do. -/
def ImageInOrder (i : SaveImage) : Prop := ∀ g ∈ i.gangs, GangInOrder g
/-- The images that the last checkpoint of a package keeps do. -/
def KeptInOrder (p : Package) : Prop := ∀ i ∈ p.kept.2, ImageInOrder i
/-- Every gang's do, in the slots, in the images, and in the images that checkpoints keep. -/
def InOrder (s : State) : Prop :=
  DueOrder s.g.inflight ∧ (∀ g ∈ s.others, GangInOrder g) ∧ (∀ i ∈ s.images, ImageInOrder i) ∧ ∀ p ∈ s.pkgs, KeptInOrder p

variable {s t : State} {g : Gang}

theorem forall_mem_upd {α : Type} {P : α → Prop} {p : α → Bool} {f : α → α} {l : List α} (hl : ∀ x ∈ l, P x) (hf : ∀ x, P x → P (f x)) :
    ∀ x ∈ upd p f l, P x := by
  intro y hy
  obtain ⟨x, hx, rfl⟩ := List.mem_map.1 hy
  split
  · exact hf x (hl x hx)
  · exact hl x hx

/-! Gangs -/

namespace GangInOrder

theorem ite {c : Prop} {d : Decidable c} {a b : Gang} (ha : GangInOrder a) (hb : GangInOrder b) : GangInOrder (if c then a else b) := by
  split
  · exact ha
  · exact hb
theorem fresh : GangInOrder {} := List.Pairwise.nil
theorem applyW {w : RegWrite} (h : GangInOrder g) : GangInOrder (applyW g w) := by
  cases w <;> exact h
theorem foldl {α : Type} {f : Gang → α → Gang} {l : List α} (hf : ∀ g a, GangInOrder g → GangInOrder (f g a)) (h : GangInOrder g) : GangInOrder (l.foldl f g) := by
  induction l generalizing g with
  | nil => exact h
  | cons a l ih => exact ih (hf g a h)
theorem settle {now : Nat} (h : GangInOrder g) : GangInOrder (settle now g) := settle_order now h
theorem applyReply {w : RegWrite} (h : GangInOrder g) : GangInOrder (applyReply g w) := by
  cases w <;> exact h
theorem addTraps {ds : List Deferred} (h : GangInOrder g) : GangInOrder (addTraps ds g) := .ite h h
theorem finishPend {p : Pend} (h : GangInOrder g) : GangInOrder (finishPend p g) :=
  .addTraps (GangInOrder.foldl (f := Machine.applyReply) (fun _ _ h => .applyReply h) h)
theorem showPart {id i : Nat} {m : W32} (h : GangInOrder g) : GangInOrder (showPart id i m g) := by
  unfold Machine.showPart
  split
  · exact h
  · exact GangInOrder.applyW h
theorem steerPend {p : Pend} (h : GangInOrder g) : GangInOrder (steerPend p g) := GangInOrder.finishPend h
theorem settleAll (g : Gang) : GangInOrder (settleAll g) :=
  .foldl (fun _ _ h => .steerPend h) (show GangInOrder { g with inflight := [] } from List.Pairwise.nil)
theorem giveWay (h : GangInOrder g) : GangInOrder (giveWay g) := by
  unfold Machine.giveWay
  split <;> exact h
theorem takeOver (h : GangInOrder g) : GangInOrder (takeOver g) := by
  unfold Machine.takeOver
  split <;> exact h
theorem ageOver (h : GangInOrder g) : GangInOrder (ageOver g) := by
  unfold Machine.ageOver
  split <;> exact h
theorem ageBut {k : Nat} (h : GangInOrder g) : GangInOrder (ageBut k g) := .ite h h
theorem atIssue {t : Nat} {w x : W32} {ix : Nat} (h : GangInOrder g) : GangInOrder (atIssue t w x ix g) :=
  GangInOrder.settle (.ageBut h)
theorem completeWait {now k : Nat} {y : Bool} (h : GangInOrder g) : GangInOrder (completeWait now k y g) :=
  GangInOrder.settle (.ageBut h)
theorem endHold {now : Nat} {y : Bool} (h : GangInOrder g) : GangInOrder (endHold now y g) := GangInOrder.settle (.ageBut h)

end GangInOrder

/-! States -/

namespace InOrder

theorem ite {c : Prop} {d : Decidable c} {a b : State} (ha : InOrder a) (hb : InOrder b) : InOrder (if c then a else b) := by
  split
  · exact ha
  · exact hb
theorem foldl {α : Type} {f : State → α → State} {l : List α} (hf : ∀ s a, InOrder s → InOrder (f s a)) (h : InOrder s) : InOrder (l.foldl f s) := by
  induction l generalizing s with
  | nil => exact h
  | cons a l ih => exact ih (hf s a h)
theorem getD {o : Option State} (h : InOrder s) (ho : ∀ t, o = some t → InOrder t) : InOrder (o.getD s) := by
  cases o with
  | none => exact h
  | some t => exact ho t rfl
/-- Only the focused gang changes, and its results stand in order. -/
theorem gang (h : InOrder s) (ht : (t.others, t.images, t.pkgs) = (s.others, s.images, s.pkgs)) (hg : GangInOrder t.g) : InOrder t := by
  obtain ⟨ho, hi, hp⟩ : t.others = s.others ∧ t.images = s.images ∧ t.pkgs = s.pkgs := by simpa only [Prod.mk.injEq] using ht
  rw [InOrder, ho, hi, hp]
  exact ⟨hg, h.2⟩
/-- Only the gangs in slots change. -/
theorem slots (h : InOrder s) (ht : (t.images, t.pkgs) = (s.images, s.pkgs)) (hg : GangInOrder t.g) (ho : ∀ g ∈ t.others, GangInOrder g) :
    InOrder t := by
  obtain ⟨hi, hp⟩ : t.images = s.images ∧ t.pkgs = s.pkgs := by simpa only [Prod.mk.injEq] using ht
  rw [InOrder, hi, hp]
  exact ⟨hg, ho, h.2.2⟩
/-- Only the images change. -/
theorem images (h : InOrder s) (ht : (t.g, t.others, t.pkgs) = (s.g, s.others, s.pkgs)) (hi : ∀ i ∈ t.images, ImageInOrder i) : InOrder t := by
  obtain ⟨hg, ho, hp⟩ : t.g = s.g ∧ t.others = s.others ∧ t.pkgs = s.pkgs := by simpa only [Prod.mk.injEq] using ht
  rw [InOrder, hg, ho, hp]
  exact ⟨h.1, h.2.1, hi, h.2.2.2⟩
/-- Only the packages change. -/
theorem packages (h : InOrder s) (ht : (t.g, t.others, t.images) = (s.g, s.others, s.images)) (hp : ∀ p ∈ t.pkgs, KeptInOrder p) : InOrder t := by
  obtain ⟨hg, ho, hi⟩ : t.g = s.g ∧ t.others = s.others ∧ t.images = s.images := by simpa only [Prod.mk.injEq] using ht
  rw [InOrder, hg, ho, hi]
  exact ⟨h.1, h.2.1, h.2.2.1, hp⟩
theorem mem {x : Gang} (h : InOrder s) (hx : x ∈ s.g :: s.others) : GangInOrder x :=
  (List.mem_cons.1 hx).elim (fun e => e ▸ h.1) (h.2.1 x)
theorem of_gangs {x : Gang} (h : InOrder s) (hx : x ∈ gangs s) : GangInOrder x := h.mem (List.mem_of_mem_filter hx)
theorem of_gangAt {c : Coords} (h : InOrder s) (hg : gangAt s c = some g) : GangInOrder g := h.mem (List.mem_of_find?_eq_some hg)
theorem of_gangOf {u : Nat} (h : InOrder s) (hg : gangOf s u = some g) : GangInOrder g := h.mem (List.mem_of_find?_eq_some hg)

/-! Changes of single gangs -/

theorem onGang {f : Gang → Gang} {u : Nat} (hf : ∀ g, GangInOrder g → GangInOrder (f g)) (h : InOrder s) : InOrder (onGang u f s) :=
  slots h rfl (.ite (hf _ h.1) h.1) (forall_mem_upd h.2.1 hf)
theorem onGangAny {f : Gang → Gang} {u : Nat} (hf : ∀ g, GangInOrder g → GangInOrder (f g)) (h : InOrder s) : InOrder (onGangAny u f s) := by
  refine images (onGang hf h) rfl fun i hi => ?_
  obtain ⟨j, hj, rfl⟩ := List.mem_map.1 hi
  exact forall_mem_upd (h.2.2.1 j hj) hf
theorem onGangs {f : Gang → Gang} (hf : ∀ g, GangInOrder g → GangInOrder (f g)) (h : InOrder s) : InOrder (onGangs f s) := by
  refine slots h rfl (hf _ h.1) fun x hx => ?_
  obtain ⟨y, hy, rfl⟩ := List.mem_map.1 hx
  exact hf y (h.2.1 y hy)
theorem onPkg {f : Package → Package} {pkg : Nat} (hf : ∀ p, (f p).kept = p.kept) (h : InOrder s) : InOrder (onPkg pkg f s) := by
  refine packages h rfl (forall_mem_upd h.2.2.2 fun p hp => ?_)
  rwa [KeptInOrder, hf p]
theorem onImage {pkg job : Nat} {f : SaveImage → SaveImage} (hf : ∀ i, ImageInOrder i → ImageInOrder (f i)) (h : InOrder s) :
    InOrder (onImage pkg job f s) := images h rfl (forall_mem_upd h.2.2.1 hf)
theorem focus {c : Coords} (h : InOrder s) : InOrder (focus c s) := by
  unfold Machine.focus
  refine ite h ?_
  split
  · next g hg =>
    have hrest : ∀ x ∈ s.others.filter (fun g => !(g.at_ = c && inSlot g)), GangInOrder x := fun x hx => h.2.1 x (List.mem_of_mem_filter hx)
    refine slots h rfl (h.2.1 g (List.mem_of_find?_eq_some hg)) fun x hx => ?_
    change x ∈ (if s.g.phase = .free then _ else _) at hx
    split at hx
    · exact hrest x hx
    · exact (List.mem_cons.1 hx).elim (fun e => e ▸ h.1) (hrest x)
  · exact h

/-! The shared operations -/

theorem setPc {a : Word} (h : InOrder s) : InOrder (setPc a s) := h
theorem next (h : InOrder s) : InOrder (next s) := h
theorem jump {a : Word} (h : InOrder s) : InOrder (jump a s) := h
theorem fixed {lat : Nat} {w : RegWrite} (h : InOrder s) : InOrder (fixed lat w s) := ⟨fixed_order lat w h.1, h.2⟩
theorem addPend {ws : List RegWrite} {n : Nat} {d : List Deferred} {f : List (Word × Nat × Nat)} {a : Bool} (h : InOrder s) :
    InOrder (addPend ws n d s f a) := h
theorem pick (h : InOrder s) : InOrder (Machine.pick s).2 := by
  unfold Machine.pick
  split <;> exact h
theorem unissue (h : InOrder s) : InOrder (unissue s) := h
theorem block (h : InOrder s) : InOrder (block s) :=
  gang h rfl (GangInOrder.giveWay (g := { (Machine.unissue s).g with tried := _ }) h.1)
theorem stall (h : InOrder s) : InOrder (stall s) := h
theorem dropWaits {u : Nat} (h : InOrder s) : InOrder (dropWaits u s) := h

end InOrder

end Sys2Proof.Proofs
end

section
/-! SUPPORT. What keeps the order of the results on their way: completed children, cancels, messages, traps, stores and links. -/

namespace Sys2Proof.Proofs

open Sys2Proof Sys2Proof.Machine Sys2Proof.Claims Sys2Proof.Laws

variable {s t : State} {g : Gang} {r : StoreReq} {tr : Trap} {a pc : Word} {w x : W32} {u i p n l c m pkg job : Nat} {us : List Nat}
  {f : State → State} {b : Byte} {k : Key} {lat : Nat} {d : Reg} {bs : List (Nat × Byte)}

namespace InOrder

/-! Children, cancels, messages and traps -/

theorem closeChild (h : InOrder s) : InOrder (closeChild u s) := by
  unfold Machine.closeChild
  split
  · exact h
  · refine .ite h ⟨GangInOrder.ite .fresh h.1, fun x hx => h.2.1 x (List.mem_of_mem_filter hx), fun i hi => ?_, h.2.2.2⟩
    obtain ⟨j, hj, rfl⟩ := List.mem_map.1 hi
    exact h.2.2.1 j hj
theorem closeDead (h : InOrder s) : InOrder (closeDead us s) := .foldl (fun _ _ h => .closeChild h) h
theorem cancelLaunches (h : InOrder s) : InOrder (cancelLaunches us s) := by
  have hm : InOrder (marked us s) := .foldl (fun _ _ h => .dropWaits h) (s := { s with launches := s.launches.map (markLaunch us s) }) h
  have hu : InOrder (Machine.onGangs (markGang us s) (marked us s)) := .onGangs (fun _ hg => .ite hg hg) hm
  refine .closeDead (s := struck us s) ⟨hu.1, fun x hx => ?_, fun i hi => ?_, hu.2.2.2⟩
  · obtain hx | hx := List.mem_append.1 hx
    · exact hu.2.1 x hx
    · obtain ⟨y, _, rfl⟩ := List.mem_map.1 hx
      exact List.Pairwise.nil
  · obtain ⟨j, hj, rfl⟩ := List.mem_map.1 hi
    exact h.2.2.1 j hj
theorem cancelWhole {graph : Option Nat} (h : InOrder s) : InOrder (cancelWhole pkg job graph s) := InOrder.cancelLaunches h
theorem sendMessage {m : Message} (h : InOrder s) : InOrder (sendMessage pkg m s) := by
  unfold Machine.sendMessage
  split
  · exact h
  · split
    · exact h
    · exact .ite h (.cancelWhole h)
theorem escalate (h : InOrder s) : InOrder (escalate tr pc s) := .sendMessage h
theorem enterTrap (h : InOrder s) : InOrder (enterTrap tr pc s) := .ite (.escalate h) (.ite (.escalate h) h)
theorem raise (h : InOrder s) : InOrder (raise tr s) := .enterTrap h
theorem orTrap {o : Option Trap} (hf : InOrder s → InOrder (f s)) (h : InOrder s) : InOrder (orTrap o f s) := by
  cases o with
  | none => exact hf h
  | some t => exact .raise h
theorem illegal (h : InOrder s) : InOrder (illegal w s) := .raise h
theorem deliverFault {e : StoreFault} (h : InOrder s) : InOrder (deliverFault e pc s) := .enterTrap h

/-! Requests that are served at their homes change of a gang no result on its way -/

theorem serveKept_iff : InOrder (serveKept s) ↔ InOrder s := by
  simp only [InOrder, serveKept, atomKept, KeptInOrder, ImageInOrder, List.forall_mem_map]
  exact Iff.rfl
theorem of_serveKept (hk : serveKept t = serveKept s) (h : InOrder s) : InOrder t :=
  serveKept_iff.1 (hk ▸ serveKept_iff.2 h)
theorem of_atomKept (hk : atomKept t = atomKept s) (h : InOrder s) : InOrder t := of_serveKept (serveKept_of_atomKept hk) h

end InOrder

end Sys2Proof.Proofs
end

section
/-! SUPPORT. Control, scalar and vector instructions go on, and keep the order of the results on their way (10 R302 to R325, 11 R334 to R356). -/

namespace Sys2Proof.Proofs

open Sys2Proof Sys2Proof.Machine Sys2Proof.Claims Sys2Proof.Laws

/-- An instruction or event answers a next state, and in it the results on their way stand in order if they did before. -/
def Goes (s : State) (o : Out) : Prop := ∃ t, o = .next t ∧ (InOrder s → InOrder t)
theorem Goes.next {s t : State} (h : InOrder s → InOrder t) : Goes s (.next t) := ⟨t, rfl, h⟩

variable {s t : State} {g : Gang} {n lat : Nat} {d a b : Reg} {w : W32} {x y : Word} {c : Coords} {f : State → State} {regs : List (Reg × Nat)}
  {r : Route} {k : BitVec 3} {z : Bool}

/-! Control -/

namespace InOrder

theorem braTo (h : InOrder s) : InOrder (braTo x s) := .orTrap .jump h
theorem brcTo (h : InOrder s) : InOrder (brcTo z x s) := .orTrap (fun h => .ite (.jump h) (.next h)) h
theorem callTo (h : InOrder s) : InOrder (callTo x s) := .ite (.raise h) (.orTrap (fun h => .ite (.raise h) (.jump h)) h)

end InOrder

theorem execNop_goes : Goes s (execNop s) := .next .next
theorem execBra_goes {o : BitVec 18} : Goes s (execBra o s) := .next .braTo
theorem execBraIndirect_goes {o : BitVec 18} : Goes s (execBraIndirect a o s) := .next .braTo
theorem execBrcNz_goes {n : BitVec 6} {o : BitVec 18} : Goes s (execBrcNz n o s) := .next .brcTo
theorem execBrcZ_goes {n : BitVec 6} {o : BitVec 18} : Goes s (execBrcZ n o s) := .next .brcTo
theorem execCall_goes {o : BitVec 18} : Goes s (execCall o s) := .next .callTo
theorem execCallIndirect_goes {o : BitVec 18} : Goes s (execCallIndirect a o s) := .next .callTo
theorem execRet_goes : Goes s (execRet s) := .next fun h => .ite (.raise h) (by
  split
  · exact .raise h
  · exact .orTrap (fun h => .jump h) h)
theorem execBrd_goes {o j : BitVec 18} : Goes s (execBrd k o j s) :=
  .next (.orTrap (.orTrap fun h => .ite (.raise h) (.ite (.jump h) (.ite (.setPc h) (by
    split
    · exact .raise h
    · exact .jump h)))))

/-! Paths: an entry of the path table is no result on its way -/

namespace GangInOrder

variable {q : Fin 16}

theorem mergeFrame (h : GangInOrder g) : GangInOrder (mergeFrame q g).2 := by
  unfold Machine.mergeFrame
  simp only
  split <;> exact h
theorem joinPath {e : Word} (h : GangInOrder g) : GangInOrder (joinPath e x g) := by
  refine .ite h (.ite ?_ (.takeOver h))
  have hm := GangInOrder.mergeFrame (q := (path g).frame) (g := setPath g { path g with state := .parked, pc := x }) h
  split
  · next heq => exact .ite (heq ▸ hm :) (.takeOver (heq ▸ hm :))
  · next heq => exact (heq ▸ hm :)
theorem leaveFrame (h : GangInOrder g) : GangInOrder (leaveFrame w q g) := .ite h (.ite (.mergeFrame h) h)
theorem leaveFrames (h : GangInOrder g) : GangInOrder (leaveFrames w n q g) := by
  induction n generalizing q g with
  | zero => exact h
  | succ n ih => exact .ite (ih (.leaveFrame h)) (.leaveFrame h)
theorem endPath (h : GangInOrder g) : GangInOrder (endPath g) :=
  have hl : GangInOrder (leftFrames g) := .ite (.leaveFrames h) h
  .ite hl (.takeOver hl)

end GangInOrder

theorem execJoin_goes : Goes s (execJoin s) := .next fun h => .gang h rfl (.joinPath h.1)
theorem execExit_goes : Goes s (execExit s) := .next fun h => .ite h (.gang h rfl (.endPath h.1))
theorem execTerm_goes : Goes s (execTerm s) := .next fun h => h
theorem execYield_goes : Goes s (execYield s) := .next fun h => h
theorem execYieldPath_goes : Goes s (execYieldPath s) := .next fun h => .gang h rfl (.giveWay h.1)
theorem execTrap_goes {i : BitVec 11} : Goes s (execTrap i s) := .next fun h => .enterTrap h
theorem execBkpt_goes : Goes s (execBkpt s) := .next fun h => .enterTrap h
theorem execTret_goes : Goes s (execTret s) := .next fun h => .ite (.illegal h) (.orTrap (fun h => .ite h (.raise h)) h)
theorem execIllegalInstruction_goes : Goes s (execIllegalInstruction w s) := .next fun h => .illegal h

/-! Register blocks and ageing -/

theorem execRget_goes {n : BitVec 11} : Goes s (execRget n s) :=
  .next fun h => .ite (.raise h) (.ite (.raise h) (.ite (.next h) (.ite (.block h) (.block h))))
theorem execRgetGrant_goes : Goes s (execRgetGrant c s) := .next fun h => by
  split
  · exact h
  · next t _ =>
    have hg : InOrder (onGang t.uid (fun g => completeWait s.cycle t.path t.yield (grantBlocks t.n s.fresh g)) s) :=
      .onGang (fun _ hg => .completeWait hg) h
    exact .ite h hg
theorem execRput_goes : Goes s (execRput s) := .next fun h => .ite (.raise h) (.next h)
theorem execWinb_goes {b : BitVec 11} : Goes s (execWinb b s) := .next fun h => .ite (.raise h) (.next h)
theorem execPathAgeingTakeover_goes : Goes s (execPathAgeingTakeover c s) := .next fun h => by
  split
  · exact .ite (.onGang (fun _ hg => .ageOver hg) h) h
  · exact h

/-! Results that an instruction sends on their way -/

namespace InOrder

theorem putS (h : InOrder s) : InOrder (putS lat d x s) := .fixed h
theorem putK {k : BitVec 3} (h : InOrder s) : InOrder (putK lat k w s) := .fixed h
theorem putV {e : Nat → W32} (h : InOrder s) : InOrder (putV lat d e s) := .fixed h
theorem putVF {e : Nat → W32 × Fl} (h : InOrder s) : InOrder (putVF lat d e s) := .fixed (.putV h)
theorem putGroup {e : Nat → Nat → W32} (h : InOrder s) : InOrder (putGroup lat d e n s) := .foldl (fun _ _ h => .fixed h) h

end InOrder

theorem scal_goes : Goes s (scal d x s) := .next fun h => .next (.putS h)
theorem vecOp_goes (hf : InOrder s → InOrder (f s)) : Goes s (vecOp regs f s) := by
  unfold vecOp
  split
  · exact .next fun h => .raise h
  · exact .next fun h => .next (hf h)

/-! Scalar instructions -/

theorem execSadd_goes {m : SAddOp} : Goes s (execSadd d a b m s) := scal_goes
theorem execSsub_goes {m : SAddOp} : Goes s (execSsub d a b m s) := scal_goes
theorem execSmul_goes {m : SMulOp} : Goes s (execSmul d a b m s) := .next fun h => .next (.putS h)
theorem execSand_goes {m : SLogOp} : Goes s (execSand d a b m s) := scal_goes
theorem execSor_goes {m : SLogOp} : Goes s (execSor d a b m s) := scal_goes
theorem execSxor_goes {m : SLogOp} : Goes s (execSxor d a b m s) := scal_goes
theorem execSshl_goes {m : SShlOp} : Goes s (execSshl d a b m s) := scal_goes
theorem execSshr_goes {m : ShrOp} : Goes s (execSshr d a b m s) := scal_goes
theorem execSminmax_goes {m : MinMaxOp} : Goes s (execSminmax d a b m s) := scal_goes
theorem execScmp_goes {m : CmpOp} : Goes s (execScmp d a b m s) := scal_goes
theorem execSsel_goes {m : SSelOp} : Goes s (execSsel d a b m s) := scal_goes
theorem execSaddi_goes {i : BitVec 11} : Goes s (execSaddi d a i s) := scal_goes
theorem execSlogi_goes {e : SLogiOp} {i : BitVec 8} : Goes s (execSlogi d a e i s) := scal_goes
theorem execSli_goes {i : BitVec 18} : Goes s (execSli d i s) := scal_goes
theorem execSbit_goes {m : SBitOp} : Goes s (execSbit d a b m s) := by
  cases m
  case tok => exact .next fun h => .next (.putK h)
  all_goals exact scal_goes
theorem writeSpr_inOrder (h : GangInOrder g) : GangInOrder (writeSpr n x g) := by
  unfold writeSpr
  split <;> exact h
theorem sprWrite_goes {n : BitVec 8} : Goes s (sprWrite n x s) := by
  unfold sprWrite
  split
  · exact .next fun h => .raise h
  · exact .next fun h => .next (.gang h rfl (writeSpr_inOrder h.1))
theorem execSsprRd_goes {n : BitVec 8} : Goes s (execSsprRd d n s) := scal_goes
theorem execSsprWr_goes {n : BitVec 8} : Goes s (execSsprWr a n s) := sprWrite_goes
theorem execSsprOr_goes {n : BitVec 8} : Goes s (execSsprOr a n s) := sprWrite_goes
theorem execSsprAndn_goes {n : BitVec 8} : Goes s (execSsprAndn a n s) := sprWrite_goes

/-! Vector instructions -/

theorem routedInt_goes {e : W32 → W32 → W32} : Goes s (routedInt lat e d a b r s) := vecOp_goes fun h => .putV h
theorem sFormOp_goes {e : W32 → W32 → W32} : Goes s (sFormOp lat e d a b z s) := vecOp_goes fun h => .putV h
theorem routedFp_goes {e : Rnd → FVal → FVal → FVal → FVal × Fl} : Goes s (routedFp e d a b r s) := vecOp_goes fun h => .putVF h
theorem packedBf_goes {e : Rnd → FVal → FVal → FVal → FVal × Fl} : Goes s (packedBf e d a b r s) := vecOp_goes fun h => .putVF h

theorem execVadd_goes : Goes s (execVadd d a b r s) := routedInt_goes
theorem execVsub_goes : Goes s (execVsub d a b r s) := routedInt_goes
theorem execVmul_goes : Goes s (execVmul d a b r s) := routedInt_goes
theorem execVand_goes : Goes s (execVand d a b r s) := routedInt_goes
theorem execVor_goes : Goes s (execVor d a b r s) := routedInt_goes
theorem execVxor_goes : Goes s (execVxor d a b r s) := routedInt_goes
theorem execVshl_goes {m : SShlOp} : Goes s (execVshl d a b z m s) := sFormOp_goes
theorem execVshr_goes {m : ShrOp} : Goes s (execVshr d a b z m s) := sFormOp_goes
theorem execVminmax_goes {m : MinMaxOp} : Goes s (execVminmax d a b z m s) := sFormOp_goes
theorem execVcmp_goes {m : CmpOp} : Goes s (execVcmp k a b z m s) := vecOp_goes fun h => .putK h
theorem execVsel_goes : Goes s (execVsel d a b z k s) := vecOp_goes fun h => .putV h
theorem execVmov_goes {m : VMovForm} : Goes s (execVmov m s) := by
  unfold execVmov
  split
  case h_5 => exact vecOp_goes fun h => .putS h
  case h_6 => exact vecOp_goes fun h => .fixed h
  all_goals exact vecOp_goes fun h => .putV h
theorem execVperm_goes : Goes s (execVperm d a b z s) := vecOp_goes fun h => .putV h
theorem execVvote_goes {m : VVoteOp} : Goes s (execVvote d a m s) := vecOp_goes fun h => .ite (.putK h) (.putS h)
theorem execVscan_goes {o : VScanOp} : Goes s (execVscan d a z o s) := by
  unfold execVscan
  exact vecOp_goes fun h => .fixed (.putV h)
theorem execVredl_goes {o : VRedlOp} : Goes s (execVredl d a o s) := by
  unfold execVredl
  exact vecOp_goes fun h => .fixed (.putS h)
theorem execFadd_goes : Goes s (execFadd d a b r s) := routedFp_goes
theorem execFsub_goes : Goes s (execFsub d a b r s) := routedFp_goes
theorem execFmul_goes : Goes s (execFmul d a b r s) := routedFp_goes
theorem execFfma_goes : Goes s (execFfma d a b r s) := routedFp_goes
theorem execFminmax_goes {m : FMinMaxOp} : Goes s (execFminmax d a b z m s) := vecOp_goes fun h => .putVF h
theorem execFcmp_goes {m : FCmpOp} : Goes s (execFcmp k a b z m s) := vecOp_goes fun h => .fixed (.putK h)
theorem execFfun_goes {e : FFunOp} : Goes s (execFfun d a e s) := vecOp_goes fun h => .putVF h
theorem execFcvt_goes {m : RndSel} {e : CvtFmt} : Goes s (execFcvt d a m e z s) := vecOp_goes fun h => .putVF h
theorem execFpack_goes {e : PackW} : Goes s (execFpack d a z e s) := by
  unfold execFpack
  exact vecOp_goes fun h => .putGroup h
theorem execHadd2_goes : Goes s (execHadd2 d a b r s) := packedBf_goes
theorem execHmul2_goes : Goes s (execHmul2 d a b r s) := packedBf_goes
theorem execHfma2_goes : Goes s (execHfma2 d a b r s) := packedBf_goes
theorem execFdot2_goes : Goes s (execFdot2 d a b r s) := vecOp_goes fun h => .putVF h
theorem execFclass_goes {m : ClassFmt} : Goes s (execFclass d a m s) := vecOp_goes fun h => .putV h
theorem execFrng_goes : Goes s (execFrng d z s) := vecOp_goes fun h => .putV h
theorem execFscale_goes {e : Bool} : Goes s (execFscale d a b z e s) := vecOp_goes fun h => .putVF h

end Sys2Proof.Proofs
end

section
/-! SUPPORT. Loads, stores, atomic requests, queues and timelines go on, and keep the order of the results on their way (12 R357 to R390). -/

namespace Sys2Proof.Proofs

open Sys2Proof Sys2Proof.Machine Sys2Proof.Claims Sys2Proof.Laws

variable {s t : State} {g : Gang} {n u l m i pkg job pth : Nat} {d a b : Reg} {w : W32} {x : Word} {c : Coords} {f : State → State}
  {r : StoreReq} {q : AtomReq} {z : Size} {v : Bool} {accs : List LaneAcc} {ws : List RegWrite} {view : Cells Nat} {hs : List (Nat × Key)}

/-! Requests that are served at their homes -/

namespace InOrder

theorem combineLines {p : RedLine → Bool} (h : InOrder s) : InOrder (combineLines p s) := .of_atomKept (combineLines_kept _ _) h
theorem recallLines (h : InOrder s) : InOrder (recallLines l n s) := .combineLines h
theorem recallLoad {as : List (List Nat)} (h : InOrder s) : InOrder (recallLoad as s) := InOrder.combineLines h
theorem lineHome {e : RedLine} (h : InOrder s) : InOrder (lineHome e s) := .of_atomKept (lineHome_kept _ _) h
theorem execRequest (h : InOrder s) : InOrder (execRequest q s) := .of_atomKept (execRequest_kept _ _) h
theorem failRequest (h : InOrder s) : InOrder (failRequest q s) := .of_atomKept (failRequest_kept _ _) h
theorem atomTimeout (h : InOrder s) : InOrder (atomTimeout q s) := .of_atomKept (atomTimeout_kept _ _) h
theorem answer {y : Word} {fl : Fl} {e : List Word} (h : InOrder s) : InOrder (answer q y fl e s) := .of_atomKept (answer_kept _ _ _ _ _) h
theorem homeWrite {bs : List (Nat × Byte)} {k : Key} (h : InOrder s) : InOrder (homeWrite bs k s) := .of_atomKept (homeWrite_kept _ _ _) h
theorem testStore (h : InOrder s) : InOrder (testStore r s).2 := .of_serveKept (testStore_kept _ _) h
theorem storeBytes (h : InOrder s) : InOrder (storeBytes r s) := .of_atomKept (storeBytes_kept _ _) h
theorem storeHome (h : InOrder s) : InOrder (storeHome r s) := .of_serveKept (storeHome_kept _ _) h
theorem deliverStore (h : InOrder s) : InOrder (deliverStore r s) := .of_serveKept (deliverStore_kept _ _) h
theorem storeTimeout {e : ByteWrite → Bool} (h : InOrder s) : InOrder (storeTimeout e r s) := .of_serveKept (storeTimeout_kept _ _ _) h
theorem serveId (h : InOrder s) : InOrder (serveId i s) := .of_serveKept (serveId_kept _ _) h
theorem drainOwn (h : InOrder s) : InOrder (drainOwn u s) := .of_serveKept (drainOwn_kept _ _) h
theorem publishFor (h : InOrder s) : InOrder (publishFor u m s) := .of_serveKept (publishFor_kept _ _ _) h
theorem publish (h : InOrder s) : InOrder (publish m s) := .publishFor h
theorem deliverPart (h : InOrder s) : InOrder (deliverPart n r s) := by
  unfold Machine.deliverPart
  simp only
  split
  · exact h
  · exact .ite (.storeHome (.testStore h)) (.storeBytes (.testStore h))
theorem storeArrives (h : InOrder s) : InOrder (storeArrives r s) := by
  have hp : InOrder (Machine.pick s).2 := .pick h
  unfold Machine.storeArrives
  split
  · next heq => exact .ite (.deliverStore (heq ▸ hp :)) h
  · next heq => exact .ite (.deliverPart (heq ▸ hp :)) h

/-! Views and the read-only paths -/

theorem acquire (h : InOrder s) : InOrder (acquire l s) := h
theorem acquireFor (h : InOrder s) : InOrder (acquireFor u l s) :=
  InOrder.onGang (f := fun g => { g with view := acquired s l g }) (fun _ hg => hg) h
theorem setFetched {p : Nat} (h : InOrder s) : InOrder (setFetched c pth l p s) := h
theorem pathRead (h : InOrder s) : InOrder (pathRead c pth view hs s).2 := .foldl (fun _ _ h => .setFetched h) (.pick h)
theorem reach {ls : List Nat} (h : InOrder s) : InOrder (reach pkg ls s) := .ite h h

end InOrder

/-! Loads -/

namespace InOrder

theorem loadDone (h : InOrder s) : InOrder (loadDone accs ws s) := by
  unfold Machine.loadDone
  simp only
  split
  · exact .next (.addPend h)
  · exact .next (.addPend h)
theorem recallAccs (h : InOrder s) : InOrder (recallAccs accs s) := .recallLoad h

end InOrder

theorem execLd_goes {e : AddrForm} : Goes s (execLd d a e z s) := .next (.orTrap fun h => .ite (.next (.addPend h)) (by
  split
  · exact .raise h
  · exact .loadDone (.recallAccs h)))
theorem execLds_goes {o : BitVec 9} : Goes s (execLds d a o z s) := .next fun h => .ite (.next (.addPend h)) (by
  split
  · exact .raise h
  · exact .loadDone (.recallAccs h))
theorem execLdc_goes {o : BitVec 9} : Goes s (execLdc d a o z s) := .next fun h => .ite (.next (.addPend h)) (by
  split
  · exact .raise h
  · exact .loadDone (.pathRead (.combineLines h)))
theorem execLdsp_goes {e y : Bool} : Goes s (execLdsp d a b e y s) := .next (.orTrap (.orTrap fun h => by
  split
  · exact .raise h
  · exact .loadDone (.recallAccs h)))
theorem execLdb_goes {e : BitVec 4} : Goes s (execLdb d a b e s) := .next (.orTrap fun h => by
  split
  · exact .raise h
  · exact .loadDone (.recallAccs h))

/-! Stores and fences -/

namespace InOrder

theorem sendBytes {bs : List ByteWrite} (h : InOrder s) : InOrder (sendBytes accs bs s) := h
theorem storeTo {as : List (Nat × Word)} {e : Nat → Nat} (h : InOrder s) : InOrder (storeTo as n e s) := by
  unfold Machine.storeTo
  simp only
  split
  · exact .raise h
  · exact .ite (.stall h) (.next (.sendBytes h))
theorem fenceStores (hf : ∀ {t}, InOrder t → InOrder (f t)) (h : InOrder s) : InOrder (fenceStores f s) := by
  have ht : InOrder (Machine.drainOwn s.g.uid s) := .drainOwn h
  unfold Machine.fenceStores
  refine .ite (hf ht) ?_
  split
  · exact .deliverFault ht
  · exact .ite (.stall ht) (hf ht)
theorem refresh {e : BitVec 4} (h : InOrder s) : InOrder (refresh e s) := h

end InOrder

theorem execSt_goes {e : AddrForm} : Goes s (execSt d a e z s) := .next (.orTrap fun h => .storeTo h)
theorem execSts_goes {o : BitVec 9} : Goes s (execSts d a o z s) := .next fun h => .storeTo h
theorem execStsp_goes {e y : Bool} : Goes s (execStsp d a b e y s) := .next (.orTrap (.orTrap fun h => .storeTo h))
theorem execStb_goes {e : BitVec 4} : Goes s (execStb d a b e s) := .next (.orTrap fun h => by
  split
  · exact .raise h
  · exact .ite (.stall h) (.next (.sendBytes h)))
theorem execPref_goes {e : AddrForm} : Goes s (execPref a e s) := .next (.orTrap fun h => .next h)
theorem execPfence_goes {e : BitVec 4} : Goes s (execPfence e s) :=
  .next fun h => .ite (.fenceStores (fun h => .next (.refresh h)) h) (.next (.refresh h))
theorem execDrain_goes : Goes s (execDrain s) := .next (.fenceStores fun h => .next h)
theorem execLoadReply_goes : Goes s (execLoadReply c i s) := .next fun h => by
  split
  · exact h
  · split
    · exact h
    · next p _ =>
      exact .onGang (f := fun g => { finishPend p g with
        notBefore := if g.drainFlags then max (finishPend p g).notBefore (s.cycle + 4) else (finishPend p g).notBefore })
        (fun _ hg => GangInOrder.finishPend hg) h
theorem execPostedPermissionTest_goes : Goes s (execPostedPermissionTest i s) := .next fun h => by
  split
  · exact h
  · exact InOrder.testStore h
theorem execStoreAtHome_goes : Goes s (execStoreAtHome i s) := .next fun h => by
  split
  · exact h
  · exact .ite (.storeArrives h) h
theorem execStoreFaultDelivery_goes : Goes s (execStoreFaultDelivery c s) := .next fun h => by
  split
  · exact h
  · refine .ite h ?_
    split
    · exact h
    · exact .deliverFault (.focus h)

end Sys2Proof.Proofs
end

section
/-! SUPPORT. Atomic requests, queues and timelines go on, and keep the order of the results on their way (12 R380 to R390). -/

namespace Sys2Proof.Proofs

open Sys2Proof Sys2Proof.Machine Sys2Proof.Claims Sys2Proof.Laws

variable {s t : State} {g : Gang} {n u l m i id pkg job : Nat} {d a b : Reg} {w : QWait} {x : Word} {c : Coords} {f : State → State}
  {q : AtomReq} {o : QOp} {v : QUnit} {z : Bool} {e : Engine} {k : BitVec 3} {us : QUnit × State} {rec : List W32} {hs : List Hit}

/-! Atomic requests -/

namespace InOrder

theorem sendOne (h : InOrder s) : InOrder (sendOne n q s) := by
  unfold Machine.sendOne
  simp only
  split <;> exact h
theorem sendAtoms {accs : List LaneAcc} {op : Nat → HomeOp} {y : Nat → Word} (h : InOrder s) : InOrder (sendAtoms accs op l m y s) :=
  .next (.foldl (fun _ _ h => .sendOne h) (.addPend h))
theorem atomic {n p q y : Nat} {op : Nat → HomeOp} {e : Nat → Word} (h : InOrder s) : InOrder (atomic d a b n p q y op e s) :=
  .orTrap (fun h => by
    split
    · exact .raise h
    · exact .sendAtoms h) h

end InOrder

theorem execAtom_goes {o : AtomOp} : Goes s (execAtom d a b o s) := .next fun h => .atomic h
theorem execAtom64_goes {o : Atom64Op} : Goes s (execAtom64 d a b o s) := .next fun h => .atomic h
theorem execCasW_goes : Goes s (execCasW d a b s) := .next fun h => .atomic h
theorem execCasD_goes : Goes s (execCasD d a b s) := .next fun h => .atomic h
theorem execChunk_goes : Goes s (execChunk d a b s) := .next fun h => .atomic h
theorem execRed_goes {o : RedOp} : Goes s (execRed d a b o s) := .next (.orTrap fun h => by
  split
  · exact .raise h
  · exact .next h)
theorem execUpdateOnlyEviction_goes : Goes s (execUpdateOnlyEviction i s) := .next fun h => by
  split
  · exact .ite (.lineHome h) h
  · exact h
theorem execCombineMerge_goes : Goes s (execCombineMerge i n s) := .next fun h => by
  split
  · simp only
    split
    · exact h
    · exact .ite h h
  · exact h
theorem execReplySplit_goes : Goes s (execReplySplit id s) := .next fun h => by
  split
  · simp only
    split
    · exact .answer (.answer h)
    · exact h
  · exact h
theorem execAtomicAtHome_goes : Goes s (execAtomicAtHome id s) := .next fun h => by
  split
  · exact .ite (.execRequest h) h
  · exact h
theorem execChunkGroup_goes : Goes s (execChunkGroup id s) := .next fun h => by
  split
  · exact .ite (.execRequest h) h
  · exact h
theorem execAtomicErrorReply_goes : Goes s (execAtomicErrorReply id s) := .next fun h => by
  split
  · exact .ite (.failRequest h) h
  · exact h

/-! Queues -/

theorem GangInOrder.pendDone {ws : List RegWrite} {now flag : Nat} (h : GangInOrder g) : GangInOrder (pendDone id flag now ws g) := h
theorem GangInOrder.advancePath (h : GangInOrder g) : GangInOrder (advancePath i g) := h

namespace InOrder

theorem writeElems (h : InOrder s) : InOrder (writeElems hs rec s) := by
  induction rec generalizing hs s with
  | nil => exact h
  | cons y ys ih => exact ih (.homeWrite h)
theorem pushRec (h : InOrder us.2) : InOrder (pushRec rec us).2 := by
  unfold Machine.pushRec
  simp only
  split
  · exact h
  · split
    · exact .writeElems h
    · exact h
theorem pushRecs {rs : List (List W32)} (h : InOrder us.2) : InOrder (rs.foldl (fun us r => Machine.pushRec r us) us).2 := by
  induction rs generalizing us with
  | nil => exact h
  | cons r rs ih => exact ih (.pushRec h)
theorem acceptOp (h : InOrder s) : InOrder (acceptOp z w v s) := by
  have hgo (g : Gang) (hg : GangInOrder g) : GangInOrder (goOnFrom z s.cycle w g) := .ite (.advancePath hg) (.completeWait hg)
  have hseen : InOrder (poppedState w v s) := .acquireFor h
  by_cases h0 : w.op.kind = 0
  · rw [acceptOp_push h0]
    exact .onGang hgo (InOrder.pushRecs (us := (v, unqueued w s)) h)
  · by_cases h12 : w.op.kind = 1 ∨ w.op.kind = 2
    · rw [acceptOp_pop h12]
      exact .onGang (fun g hg => hgo _ (.pendDone hg)) hseen
    · rw [not_or] at h12
      rw [acceptOp_close h0 h12.1 h12.2]
      exact .onGang hgo h
theorem tryAccept (h : InOrder s) : InOrder (tryAccept z w s) := by
  unfold Machine.tryAccept
  split
  · exact .ite (InOrder.onGang (f := fun g => { g with blocked := false }) (fun _ hg => hg) h) (.ite (.acceptOp h) h)
  · exact h
theorem arrive (h : InOrder s) : InOrder (queueInstr.arrive o v s) := by
  refine .orTrap (fun h => ?_) h
  have hp : InOrder (Machine.pick (if o.kind = 0 || o.kind = 3 then Machine.publish v.reach s else s)).2 := .pick (.ite (.publish h) h)
  exact .ite (.block hp) (.ite (.block (.tryAccept hp)) (.tryAccept hp))
theorem queueInstr {regs : List (Reg × Nat)} (h : InOrder s) : InOrder (queueInstr regs o s) := by
  refine .orTrap (fun h => ?_) h
  have hs : InOrder (if o.kind = 0 || o.kind = 3 then Machine.drainOwn s.g.uid s else s) := .ite (.drainOwn h) h
  split
  · exact .ite (.block (.ite (.tryAccept h) h)) (.ite (.tryAccept h) h)
  · simp only
    split
    · exact .raise hs
    · split
      · exact .raise hs
      · split
        · exact .ite (.raise hs) (.arrive hs)
        · exact .ite (.raise hs) (.arrive hs)
end InOrder

theorem execQpush_goes : Goes s (execQpush d a s) := .next fun h => .queueInstr h
theorem execQpop_goes : Goes s (execQpop d a k s) := .next fun h => .queueInstr h
theorem execQpops_goes : Goes s (execQpops d a s) := .next fun h => .queueInstr h
theorem execQclose_goes : Goes s (execQclose a s) := .next fun h => .queueInstr h
theorem execQueueOpArrival_goes : Goes s (execQueueOpArrival c s) := .next fun h => by
  split
  · exact h
  · split
    · exact h
    · exact .tryAccept h
theorem execQueueOpAccept_goes : Goes s (execQueueOpAccept c s) := .next fun h => by
  split
  · exact h
  · split
    · exact h
    · exact .tryAccept h

/-! Timelines -/

namespace InOrder

variable {o : OpId} {cause : Nat} {y y' : Word} {fl : Fl}

theorem onTimeline {e' : Timeline → Timeline} (h : InOrder s) : InOrder (onTimeline e job e' s) := .ite h h
theorem completeNum (h : InOrder s) : InOrder (completeNum o s) := .onTimeline h
theorem noteFlags (h : InOrder s) : InOrder (noteFlags o u fl s) := .ite h (.onTimeline h)
theorem noteFault (h : InOrder s) : InOrder (noteFault o cause y y' s) := .onTimeline h
theorem tlIssue {k : Option (BitVec 3)} (h : InOrder s) : InOrder (tlIssue e k s).2 := by
  have hs (n : Nat) : InOrder (Machine.onTimeline e (Machine.publish (engLevel e) s).g.job (fun x => { x with last := n })
      (Machine.publish (engLevel e) s)) := .onTimeline (.publish h)
  unfold Machine.tlIssue
  generalize Machine.publish (engLevel e) s = p at hs
  specialize hs ((timelineOf p e p.g.job).last + 1)
  dsimp only
  generalize Machine.onTimeline e p.g.job (fun x => { x with last := (timelineOf p e p.g.job).last + 1 }) p = q at hs
  cases k with
  | none => exact hs
  | some k => exact hs
theorem takeFlags (h : InOrder s) : InOrder (takeFlags e job n s) := by
  have hs (l : List (Nat × Nat × Fl)) : InOrder (l.foldl (fun s f => Machine.onGangAny f.2.1 (fun g => applyReply g (.fp f.2.2)) s) s) :=
    .foldl (fun _ _ h => .onGangAny (fun _ hg => .applyReply hg) h) h
  exact .ite (.onTimeline (hs _)) (hs _)
theorem waitTl (h : InOrder s) : InOrder (waitTl k n s) := by
  unfold Machine.waitTl
  split
  · exact .raise h
  · next e _ =>
    have ht : InOrder (Machine.takeFlags e s.g.job n (Machine.acquire (engLevel e) s)) := .takeFlags (.acquire h)
    refine .ite (.raise h) ?_
    split
    · exact .raise h
    · refine .ite (.block h) ?_
      simp only
      split
      · exact .raise (.onTimeline ht)
      · exact .next ht
theorem expirePromise (h : InOrder s) : InOrder (expirePromise o s) := by
  unfold Machine.expirePromise
  split
  · exact h
  · refine .ite h (InOrder.onGangAny (f := fun g =>
      if g.pme then { g with deferred := g.deferred ++ [⟨cPromise, 0, wd o.n, true, g.inh⟩] } else g) (fun _ hg => .ite hg hg) h)

end InOrder

theorem execTlwait_goes : Goes s (execTlwait k s) := .next fun h => .waitTl h
theorem execTlwaitN_goes : Goes s (execTlwaitN k a s) := .next fun h => .waitTl h
theorem execTlreadCnt_goes : Goes s (execTlreadCnt d k s) := .next fun h => .next (.addPend h)
theorem execTlreadLast_goes : Goes s (execTlreadLast d k s) := .next fun h => .next (.addPend h)
theorem execTlreadSkip_goes : Goes s (execTlreadSkip d k s) := .next fun h => .next (.addPend h)
theorem execSleept_goes : Goes s (execSleept a s) := .next fun h => .ite (.next h) h
theorem execSleepEnd_goes : Goes s (execSleepEnd c s) := .next fun h => by
  split
  · exact h
  · split
    · exact .ite (InOrder.onGang (f := fun g => wakeUp g) (fun _ hg => hg) h) h
    · exact h
    · exact h
theorem execPromiseExpiry_goes {o : OpId} : Goes s (execPromiseExpiry o s) := .next fun h => .expirePromise h

end Sys2Proof.Proofs
end

section
/-! SUPPORT. The carts' operations and launches go on, and keep the order of the results on their way (12 R374 to R379, 02 R43 to R88). -/

namespace Sys2Proof.Proofs

open Sys2Proof Sys2Proof.Machine Sys2Proof.Claims Sys2Proof.Laws

variable {s t : State} {g : Gang} {n u l i pkg job : Nat} {d a b p : Reg} {x : Word} {c : Coords} {f : State → State} {e : Engine} {k : BitVec 3}
  {lv : Level}

/-- A fold of steps that each keep the order of a part of what they fold keeps it. -/
theorem foldl_inOrder {σ ι : Type} (F : σ → State) {f : σ → ι → σ} (hf : ∀ y i, InOrder (F y) → InOrder (F (f y i))) (l : List ι) {y : σ}
    (h : InOrder (F y)) : InOrder (F (l.foldl f y)) :=
  List.foldlRecOn (motive := fun y => InOrder (F y)) l f h fun y hy i _ => hf y i hy

/-! The issue of a cart operation -/

namespace InOrder

theorem issueCart {kind : Nat} (h : InOrder s) : InOrder (issueCart kind k d p lv n s) := by
  have ht : InOrder (Machine.tlIssue (cartOf s.g lv) (some k) s).2 := .tlIssue h
  unfold Machine.issueCart
  dsimp only
  generalize Machine.tlIssue (cartOf s.g lv) (some k) s = r at ht
  exact .next (.ite ht (.putS ht))

end InOrder

theorem execCpy_goes : Goes s (execCpy k d p lv s) := .next (.orTrap fun h => .issueCart h)
theorem execMcopy_goes : Goes s (execMcopy k d p lv s) := .next (.orTrap fun h => .issueCart h)
theorem execReduce_goes : Goes s (execReduce k d p lv s) := .next (.orTrap fun h => .issueCart h)

/-! The moves of an operation (02 R75, R76, 12 R378) -/

namespace InOrder

variable {op : CartOp} {z : Bool} {who : Option Nat} {m : Moved} {q : (Nat × Nat) × Nat} {bs : List (Option Byte)}

theorem faultIf {y : Bool} (h : InOrder m.st) : InOrder (if y then m.fault x else m).st := (faultIf_st y x m).symm ▸ h
theorem engWord {as : List Word} (h : InOrder m.st) : InOrder (engWord op z who as m).2.st := by
  unfold Machine.engWord
  simp only
  split
  · exact h
  · split
    · exact h
    · split
      · exact h
      · split
        · exact .faultIf h
        · exact .pathRead (.reach (.combineLines (.faultIf h)))
theorem engRead {as : List Word} (h : InOrder m.st) : InOrder (engRead op z who as m).2.st :=
  foldl_inOrder (fun y : List (Word × Option (List Byte)) × Moved => y.2.st) (fun _ _ h => .engWord h) _ h
theorem engWrite {bs : List (Word × Byte)} (h : InOrder m.st) : InOrder (engWrite op z who bs m).st := by
  unfold Machine.engWrite
  split
  · exact h
  · split
    · exact h
    · simp only
      split
      · exact h
      · split
        · exact .faultIf h
        · exact .reach (.homeWrite (.faultIf h))
theorem regWrite (h : InOrder s) : InOrder (regWrite u i n bs s) := .ite h (.onGangAny (fun _ hg => .applyW (.settle hg)) h)
theorem movePiece (h : InOrder m.st) : InOrder (movePiece op z q m).st := by
  unfold Machine.movePiece
  split
  · exact h
  · exact .engWrite (.engRead h)
theorem spreadPiece (h : InOrder m.st) : InOrder (spreadPiece op z q m).st := by
  unfold Machine.spreadPiece
  split
  · exact h
  · simp only
    split
    · split
      · exact h
      · split
        · exact .engWrite h
        · exact .regWrite (.engRead h)
    · split
      · exact .engWrite (.engRead h)
      · exact .engWrite (.engRead h)
theorem redList {js : List Nat} (h : InOrder m.st) : InOrder (redList op n i js m).2.st := by
  induction js generalizing m with
  | nil => exact h
  | cons j js ih =>
    unfold Machine.redList
    simp only
    split
    · exact ih h
    · exact ih (.engRead h)
theorem redElem (h : InOrder m.st) : InOrder (redElem op i m).2.st := by
  have hl : InOrder (Machine.redList op (redBytes (dKind op)) i (List.range (selected op).length) m).2.st := .redList h
  unfold Machine.redElem
  simp only
  split
  · next he => exact (he ▸ hl :)
  · next he =>
    rw [he] at hl
    split
    · exact hl
    · split
      · split
        · exact .engRead hl
        · exact .engRead hl
      · exact hl
theorem reducePiece (h : InOrder m.st) : InOrder (reducePiece op z q m).st := by
  refine foldl_inOrder Moved.st (fun _ _ h => .engWrite h) _ ?_
  refine foldl_inOrder (fun y : List (Word × Byte) × Moved => y.2.st) (fun y i h => ?_) _ (y := ([], m)) h
  exact InOrder.redElem (m := y.2) h
theorem movedFaults (h : InOrder m.st) : InOrder (movedFaults op q m).st := foldl_inOrder Moved.st (fun _ _ h => .faultIf h) _ h
theorem runCart {keep : Nat → Bool} (h : InOrder m.st) : InOrder (runCart op z keep m).st := by
  refine foldl_inOrder Moved.st (fun m p h => ?_) _ h
  split
  · exact h
  · split
    · exact .movedFaults h
    · split
      · exact .movePiece h
      · exact .spreadPiece h
      · exact .reducePiece h
theorem finishCart {o : OpId} {ch : Nat} (h : InOrder m.st) : InOrder (finishCart op o ch m) := by
  refine .completeNum ?_
  have ht (t : State) (ht : InOrder t) : InOrder (Machine.noteFlags o op.uid m.fl (Machine.onGangAny op.uid (issuerAfter op o ch m.wr) t)) :=
    .noteFlags (.onGangAny (fun _ hg => hg) ht)
  split
  · exact .noteFault (ht _ h)
  · exact ht _ h
theorem uncut (hf : ∀ {s}, InOrder s → InOrder (f s)) (h : InOrder s) : InOrder (uncut pkg f s) := .ite h (hf h)
theorem moveElements {o : OpId} {es : List Nat} (h : InOrder s) : InOrder (moveElements o es s) := by
  refine .uncut (fun {s} h => ?_) h
  split
  · exact h
  · have hp : InOrder (Machine.pick s).2 := .pick h
    exact InOrder.runCart (m := ⟨_, _, _, _, (Machine.pick s).2⟩) hp

end InOrder

theorem execCartOpComplete_goes {o : OpId} : Goes s (execCartOpComplete o s) := .next fun h => by
  refine .uncut (fun {s} h => ?_) h
  split
  · exact h
  · next op _ =>
    have hp : InOrder (Machine.pick (expirePromise o s)).2 := .pick (.expirePromise h)
    exact .finishCart (op := reachSlots (Machine.pick (expirePromise o s)).2 op) (InOrder.runCart (m := ⟨_, _, _, _, _⟩) hp)

end Sys2Proof.Proofs
end

section
/-! SUPPORT. Launches, barriers, fences, cancels, children and roots go on, and keep the order of the results on their way (02 R43 to R88). -/

namespace Sys2Proof.Proofs

open Sys2Proof Sys2Proof.Machine Sys2Proof.Claims Sys2Proof.Laws

variable {s t : State} {g : Gang} {n u l i k pkg job base : Nat} {d a b : Reg} {x y : Word} {c : Coords} {f : State → State} {lv : Level}
  {v : Launch}

/-! Launches and joins -/

namespace InOrder

theorem takeLaunch {ws : List Word} (h : InOrder s) : InOrder (takeLaunch d l x ws n i s) :=
  InOrder.putS (InOrder.publish (m := l) (s := { s with poolQ := s.poolQ.filter (fun t => !ownTicket s l t) }) h)
theorem openBarrier (h : InOrder s) : InOrder (openBarrier v s) := .foldl (fun _ _ h =>
  InOrder.onGang (f := fun g => { g with barOpen := true, blocked := false }) (fun _ hg => hg) (.acquireFor h)) h
theorem tryOpen (h : InOrder s) : InOrder (tryOpen i s) := by
  unfold Machine.tryOpen
  split
  · exact .ite (.openBarrier h) h
  · exact h
theorem stopSelf (h : InOrder s) : InOrder (stopSelf s) := .ite h (.next h)

end InOrder

theorem execLnch_goes {e : BitVec 6} : Goes s (execLnch d e a lv s) :=
  .next (.orTrap fun h => .ite (.raise h) (.ite (.next (.takeLaunch h)) (.ite (.block h) (.block h))))
theorem execLnchTry_goes {e : BitVec 6} : Goes s (execLnchTry d e a lv s) :=
  .next (.orTrap fun h => .ite (.next (.putS h)) (.ite (.next (.takeLaunch h)) (.next (.putS h))))
theorem execPoolRecordGrant_goes : Goes s (execPoolRecordGrant lv c s) := .next fun h => by
  split
  · exact h
  · exact InOrder.onGang (f := fun g => { g with blocked := false }) (fun _ hg => hg) h
theorem execJoinw_goes : Goes s (execJoinw d a s) := .next fun h => by
  split
  · exact .raise h
  · exact .ite (.block h) (.next (.putS h))
theorem passBarrier_inOrder (h : InOrder s) : InOrder (passBarrier s) := .ite (.next h) (.block h)
theorem execBar_goes : Goes s (execBar lv s) := .next (.orTrap fun h => by
  have hp : InOrder (publish lv.code s) := .publish h
  refine .ite (.next (.acquire (.publish h))) (.ite (.next h) (.ite (.block h) ?_))
  generalize publish lv.code s = p at hp ⊢
  exact passBarrier_inOrder (.tryOpen (s := atBarrier p) hp))
theorem execBarrierOpen_goes : Goes s (execBarrierOpen i s) := .next fun h => .tryOpen h
theorem execFencePub_goes : Goes s (execFencePub lv s) := .next (.fenceStores fun h => .next (.publish h))
theorem execFenceAcq_goes : Goes s (execFenceAcq lv s) := .next fun h => .next (.acquire h)
theorem execFenceAr_goes : Goes s (execFenceAr lv s) := .next (.fenceStores fun h => .next (.acquire (.publish h)))
theorem execCancelL_goes : Goes s (execCancelL a s) := .next fun h => by
  split
  · exact .raise h
  · exact .ite (.next h) (.stopSelf (.cancelLaunches h))
theorem execCancelG_goes : Goes s (execCancelG s) := .next fun h => by
  split
  · exact .stopSelf (.cancelWhole h)
  · exact .stopSelf h
theorem execCancelJ_goes : Goes s (execCancelJ s) := .next fun h => .stopSelf (.cancelWhole h)

/-! Children start -/

theorem forall_mem_append_one {α : Type} {P : α → Prop} {l : List α} {z : α} (hl : ∀ x ∈ l, P x) (hz : P z) : ∀ x ∈ l ++ [z], P x :=
  fun x hx => (List.mem_append.1 hx).elim (hl x) fun hx => List.mem_singleton.1 hx ▸ hz

namespace InOrder

theorem startChild (h : InOrder s) : InOrder (startChild v k c base s) :=
  .slots h rfl h.1 (forall_mem_append_one h.2.1 (show DueOrder [] from .nil))
theorem startAll {ks : List Nat} (h : InOrder s) (ht : startAll i ks s = some t) : InOrder t := by
  induction ks generalizing s with
  | nil => exact Option.some.inj ht ▸ h
  | cons k ks ih =>
    unfold Machine.startAll at ht
    split at ht
    · exact absurd ht nofun
    · split at ht
      · exact absurd ht nofun
      · exact ih (.startChild h) ht
end InOrder

theorem execReeveChildStart_goes : Goes s (execReeveChildStart i k s) := .next fun h => by
  split
  · exact h
  · refine .ite h (.ite (.ite h (.getD h fun t ht => .startAll h ht)) (.ite h (.ite h ?_)))
    split
    · exact .startChild h
    · exact h

/-! Children, launches and roots complete -/

namespace InOrder

theorem rootDone {q : Nat} (h : InOrder s) : InOrder (rootDone pkg job i n q x y s) := by
  unfold Machine.rootDone
  simp only
  split
  · exact .sendMessage h
  · exact .foldl (fun _ _ h => .sendMessage h) h
theorem dropOrphan (h : InOrder s) : InOrder (dropOrphan v s) := h
theorem closeKids (h : InOrder s) : InOrder (closeKids i s) := by
  unfold Machine.closeKids
  split
  · exact h
  · refine .foldl (fun s c h => ?_) h
    split
    · exact .closeChild h
    all_goals exact h
theorem onTile {e : TileStatus → TileStatus} (h : InOrder s) : InOrder (onTile c i e s) := h
theorem abandonMma {e : KilnEntry} (h : InOrder s) : InOrder (abandonMma e s) := by
  refine .completeNum (.noteFlags (.onTile (.images h rfl fun j hj => ?_)))
  obtain ⟨k, hk, rfl⟩ := List.mem_map.1 hj
  exact h.2.2.1 k hk

end InOrder

theorem execLaunchComplete_goes : Goes s (execLaunchComplete i s) := .next fun h => by
  have hc : InOrder (closeKids i s) := .closeKids h
  split
  · exact hc
  · refine .ite hc ?_
    simp only
    split
    · exact .ite (.dropOrphan hc) (.closeChild hc)
    · exact .rootDone hc
theorem execGangEnd_goes : Goes s (execGangEnd c s) := .next fun h => by
  split
  · exact h
  · next g _ =>
    have hm : InOrder ((faultedMmas s g.uid).foldl (fun s k => abandonMma k s) s) := .foldl (fun _ _ h => .abandonMma h) h
    refine .ite h (.ite (InOrder.onGang (f := fun h => { h with fail := some (h.fail.getD (cKiln, h.level)) }) (fun _ hg => hg) hm) (.ite h ?_))
    exact .closeChild (.onGang (fun _ _ => List.Pairwise.nil) (InOrder.combineLines h))
theorem execRootLaunchStart_goes {q : Nat} : Goes s (execRootLaunchStart pkg q s) := .next fun h => by
  split
  · exact h
  · split
    · exact h
    · refine .ite (.rootDone h) (.ite h (.ite (.rootDone h) ?_))
      dsimp only
      split
      · exact h
      · exact .startChild h

end Sys2Proof.Proofs
end

section
/-! SUPPORT. The kiln and the accumulator instructions go on, and keep the order of the results on their way (06 R193 to R218, 13 R396 to
R413). -/

namespace Sys2Proof.Proofs

open Sys2Proof Sys2Proof.Machine Sys2Proof.Claims Sys2Proof.Laws

variable {s : State} {g : Gang} {n i l job : Nat} {d a b : Reg} {x : Word} {c : Coords} {e : KilnEntry} {k : BitVec 3} {z : Bool} {v : Latch}
  {view : Cells Nat} {o : Word × Word}

/-! The kiln -/

namespace InOrder

theorem useLatch (h : InOrder s) : InOrder (useLatch v s) := h
theorem setLatch (h : InOrder s) : InOrder (setLatch v s) := h
theorem dropLatch (h : InOrder s) : InOrder (dropLatch e s) := h
theorem noteError (h : InOrder s) : InOrder (noteError n s) := .onPkg (fun _ => rfl) h
theorem kilnFetch {as : List Word} (h : InOrder s) : InOrder (kilnFetch c job view as s).2.2 := .pathRead (.reach (.combineLines h))
theorem kilnFetchIf {y : Bool} {as : List Word} (h : InOrder s) : InOrder (if y then ([], none, s) else Machine.kilnFetch c job view as s).2.2 := by
  split
  · exact h
  · exact .kilnFetch h
theorem loadTile (h : InOrder s) : InOrder (loadTile i z c job view o s).2.2 := InOrder.kilnFetchIf (.kilnFetch h)
theorem suspend (h : InOrder s) : InOrder (suspend i x s) := by
  unfold Machine.suspend
  split
  · exact h
  · exact .onTile h
theorem stepRows (h : InOrder s) : InOrder (stepRows e s).2.2 := by
  unfold Machine.stepRows
  simp only
  split
  · exact h
  · exact .kilnFetchIf (.kilnFetch h)

end InOrder

theorem execMma_goes {t : BitVec 4} : Goes s (execMma t a b k s) := .next (.orTrap fun h => by
  simp only
  split
  · exact .orTrap (fun h => .next h) h
  · refine .orTrap (fun h => .ite (.stall h) ?_) h
    have ht : InOrder (tlIssue (kilnOf s.g) (some k) s).2 := .tlIssue h
    generalize tlIssue (kilnOf s.g) (some k) s = r at ht ⊢
    exact .next ht)
theorem execMldw_goes : Goes s (execMldw k b s) := .next fun h => .ite (.raise h) (.orTrap (fun h => by
  have ht : InOrder (tlIssue (kilnOf s.g) (some k) s).2 := .tlIssue h
  dsimp only
  generalize tlIssue (kilnOf s.g) (some k) s = r at ht ⊢
  exact .next ht) h)
theorem execMmaStart_goes : Goes s (execMmaStart i s) := .next fun h => by
  split
  · exact h
  · split
    · exact h
    · exact .ite h (.onTile h)
theorem execMmaRestart_goes : Goes s (execMmaRestart i s) := .next fun h => by
  split
  · exact h
  · refine .ite h (.ite h ?_)
    split
    · exact h
    · exact .onTile h
/-- What a latch takes for the entry that waits for its tile (06 R206, R208). -/
theorem latchFor_inOrder (h : InOrder s) : InOrder (let r := loadTile i z e.at_ e.op.job e.view e.opB s
    if r.1.valid then setLatch r.1 r.2.2 else suspend e.id (r.2.1.getD e.opB.1) (setLatch r.1 r.2.2)) := by
  have hl : InOrder (loadTile i z e.at_ e.op.job e.view e.opB s).2.2 := .loadTile h
  exact .ite (.setLatch hl) (.suspend (.setLatch hl))
theorem loadFor_inOrder {m : KilnLoad} (h : InOrder s) : InOrder (loadFor i z m s) := .completeNum (.setLatch (.loadTile h))
theorem execWeightLatchLoaded_goes : Goes s (execWeightLatchLoaded c i z s) := .next fun h => by
  have hp : InOrder (Machine.pick s).2 := .pick h
  refine .uncut (fun {s'} _ => .ite h ?_) h
  split
  · exact latchFor_inOrder hp
  · exact latchFor_inOrder hp
  · next m _ _ => exact .ite (.completeNum hp) (loadFor_inOrder (i := i) (z := z) (m := m) hp)
  · next m _ _ _ => exact .ite (.completeNum hp) (loadFor_inOrder (i := i) (z := z) (m := m) hp)
  · exact h
theorem execMmaStepComplete_goes : Goes s (execMmaStepComplete i s) := .next fun h => by
  split
  · exact h
  · next e _ =>
    refine .uncut (fun {s} h => ?_) h
    have hp : InOrder (Machine.pick s).2 := .pick h
    generalize Machine.pick s = q at hp ⊢
    have hr : InOrder (stepRows e q.2).2.2 := .stepRows hp
    refine .ite hp ?_
    generalize stepRows e q.2 = r at hr ⊢
    obtain ⟨rows, low, t⟩ := r
    cases low with
    | some a => exact .suspend hr
    | none => exact .ite (.completeNum (.noteFlags hr)) hr
theorem execOperandFetchFailure_goes : Goes s (execOperandFetchFailure i n x s) := .next fun h => by
  split
  · exact h
  · exact .ite h (.ite (.suspend h) (.ite (.noteError (.suspend h)) h))

/-! The accumulator instructions -/

namespace InOrder

variable {es : List ((Nat × Nat) × W32)} {t q : BitVec 4}

theorem putAcc (h : InOrder s) : InOrder (putAcc c i es s) := .ite h h
theorem abandonTile (h : InOrder s) : InOrder (abandonTile c job i s) := by
  unfold Machine.abandonTile
  split
  · exact h
  · exact .abandonMma h
theorem actZ (h : InOrder s) : InOrder (actZ t s) := .next (.onTile (.putAcc (.abandonTile h)))
theorem actWr (h : InOrder s) : InOrder (actWr g t a k s) := .next (.putAcc (.onTile (.abandonTile h)))
theorem actAdd (h : InOrder s) : InOrder (actAdd g t q k s) := by
  unfold Machine.actAdd
  extract_lets c es fl s1
  have h1 : InOrder s1 := .putAcc h
  exact .next (.gang h1 rfl h1.1)
theorem actCp (h : InOrder s) : InOrder (actCp g t q k s) := .next (.putAcc h)
theorem fixedIf {y : Prop} {_ : Decidable y} {lat : Nat} {w : RegWrite} (h : InOrder s) : InOrder (if y then Machine.fixed lat w s else s) :=
  .ite (.fixed h) h
theorem actCvt {m : RndSel} (h : InOrder s) : InOrder (actCvt g d t m k s) := .next (.fixedIf (.fixed (.fixedIf (.putGroup h))))
theorem actMx (h : InOrder s) : InOrder (actMx g d t k s) := .next (.putS h)
theorem tileAct {y : TileOp} (h : InOrder s) : InOrder (tileAct g y s) := by
  cases y
  case z => exact .actZ h
  case wr => exact .actWr h
  case add => exact .orTrap (fun h => .actAdd h) h
  case cp => exact .orTrap (fun h => .actCp h) h
  case cvt => exact .orTrap (fun h => .actCvt h) h
  case mx => exact .orTrap (fun h => .actMx h) h
theorem tileOrdered {y : TileOp} (h : InOrder s) : InOrder (tileOrdered y s) := by
  unfold Machine.tileOrdered
  split
  · exact .raise h
  · exact .ite (.tileAct h) h

end InOrder

section

variable {t q : BitVec 4}

theorem execAccz_goes : Goes s (execAccz t s) := .next fun h => .tileOrdered h
theorem execAccwr_goes : Goes s (execAccwr t a k s) := .next fun h => .tileOrdered h
theorem execAccadd_goes : Goes s (execAccadd t q k s) := .next fun h => .tileOrdered h
theorem execAcccp_goes : Goes s (execAcccp t q k s) := .next fun h => .tileOrdered h
theorem execAcccvt_goes {m : RndSel} : Goes s (execAcccvt d t m k s) := .next fun h => .tileOrdered h
theorem execAccmx_goes : Goes s (execAccmx d t k s) := .next fun h => .tileOrdered h
theorem execTileHoldEnd_goes : Goes s (execTileHoldEnd c s) := .next fun h => by
  split
  · exact h
  · next t _ =>
    have hf : InOrder (focus c { s with tickets := s.tickets.filter (fun u => u.ticket ≠ t.ticket) }) := .focus h
    exact .ite h (.tileAct (.gang hf rfl (.endHold hf.1)))
theorem execAccrd_goes : Goes s (execAccrd d t a k s) := .next (.orTrap fun h => .next (.addPend h))

end

theorem execShset_goes : Goes s (execShset k a s) := .next fun h => .ite (.raise h) (.next (.fixed h))
theorem execShget_goes : Goes s (execShget d k s) := .next fun h => .next (.putS h)
theorem execOvfq_goes : Goes s (execOvfq d s) := .next fun h => .next (.addPend h)
theorem execLsapp_goes : Goes s (execLsapp d a s) := .next fun h =>
  .ite (.raise h) (.ite (.next (.fixed (.fixed (.putS h)))) (.ite (.next (.fixed (.putS h))) (.next (.fixed (.putS h)))))

end Sys2Proof.Proofs
end

section
/-! SUPPORT. The granary's operations go on, and keep the order of the results on their way (07 R219 to R240, 13 R414 to R418). -/

namespace Sys2Proof.Proofs

open Sys2Proof Sys2Proof.Machine Sys2Proof.Claims Sys2Proof.Laws

variable {s : State} {n b kind : Nat} {d a : Reg} {x : Word} {c : Coords} {k : BitVec 3} {o : GranaryOp}
  {os : GranaryOp × State} {v : KeySlot}

namespace InOrder

theorem snd_ite {α : Type} {c : Prop} {_ : Decidable c} {p q : α × State} (hp : InOrder p.2) (hq : InOrder q.2) : InOrder (if c then p else q).2 := by
  split
  · exact hp
  · exact hq
theorem issueGranary {ws : List Word} (h : InOrder s) : InOrder (issueGranary kind k x ws s) := by
  have ht : InOrder (Machine.tlIssue (granaryOf s.g) (some k) s).2 := .tlIssue h
  unfold Machine.issueGranary
  dsimp only
  generalize Machine.tlIssue (granaryOf s.g) (some k) s = r at ht ⊢
  exact .ite (.stall h) (.next ht)
theorem setKeySlot (h : InOrder s) : InOrder (setKeySlot v s) := h
theorem setGran (h : InOrder s) : InOrder (setGran o s) := h
theorem granRead (h : InOrder s) : InOrder (granRead o n x s).2 := by
  unfold Machine.granRead
  split
  · exact h
  · exact .pathRead (.reach (.combineLines h))
theorem granPut {bs : List (Nat × Byte × Key)} (h : InOrder s) : InOrder (granPut o n bs s).2 := by
  induction n generalizing bs s with
  | zero => exact h
  | succ n ih =>
    unfold Machine.granPut
    split
    · exact h
    · exact ih (.foldl (fun _ _ h => .setFetched h) (.reach (.homeWrite h)))
theorem granWrite {bs : List Byte} (h : InOrder os.2) : InOrder (granWrite x bs os).2 := by
  unfold Machine.granWrite
  split
  · exact h
  · exact .granPut h
theorem readRows {rs : List Nat} (h : InOrder s) : InOrder (readRows o rs s).2 := by
  induction rs generalizing s with
  | nil => exact h
  | cons r rs ih => exact ih (.granRead h)
theorem runQuery (h : InOrder s) : InOrder (runQuery o v b s).2 := by
  unfold Machine.runQuery
  simp only
  split
  · exact h
  · split
    · exact .granRead h
    · exact .granWrite (.granWrite (.readRows (.granRead h)))
theorem phase1 (h : InOrder s) : InOrder (phase1 o s).2 := by
  unfold Machine.phase1
  simp only
  split
  · exact h
  · split
    · exact .granRead h
    · refine foldl_inOrder Prod.snd (fun os b hs => .granWrite (.readRows hs)) _ ?_
      refine foldl_inOrder (fun acc : List (List W32) × State => acc.2) (fun acc p hs => ?_) _ (y := ([], _)) (InOrder.granRead h)
      exact InOrder.granRead (s := acc.2) hs
theorem beginRow (h : InOrder s) : InOrder (beginRow o n s).2 := by
  unfold Machine.beginRow
  simp only
  split
  · exact .reach (.combineLines h)
  · exact h
theorem writeSeg (h : InOrder s) : InOrder (writeSeg o s).2 := by
  unfold Machine.writeSeg
  split
  · exact h
  · exact InOrder.onGangAny (f := fun h => { h with own := vjoin h.own _ }) (fun _ hg => hg) (.granPut h)
theorem loadKeys (h : InOrder s) : InOrder (loadKeys o s).2 := by
  unfold Machine.loadKeys
  simp only
  split
  · exact h
  · exact .granRead (.granRead (.granRead (.granRead h)))

end InOrder

theorem execPkld_goes : Goes s (execPkld k a s) := .next (.orTrap fun h => .issueGranary h)
theorem execPkq_goes : Goes s (execPkq k d s) := .next (.orTrap fun h => .issueGranary h)
theorem execPkb_goes : Goes s (execPkb k d s) := .next (.orTrap fun h => .issueGranary h)
/-- An operation whose turn has come, with the table of its record as it was read where it stands at its start (07 R228). -/
def startedOp (o : GranaryOp) (s : State) : GranaryOp × State :=
  if !o.table.isEmpty then ({ o with started := true }, s)
  else match granLow s o permR [(o.recA, 256)] with
    | some _ => ({ o with started := true, fault := some (1, o.recA) }, s)
    | none =>
      let r := granRead o 256 o.recA s
      let p := { o with started := true, table := (List.range 32).map (fun i => wd (elemAt 8 r.1 i)) }
      (if recordBad p then { p with fault := some (1, p.recA) } else p, r.2)
/-- What the start of an operation does once its table has been read. -/
def beginOp (c : Coords) (r : GranaryOp × State) : State :=
  match r.1.fault, r.1.kind with
  | some _, _ => setGran r.1 r.2
  | none, 0 => setGran r.1 (setKeySlot ⟨unitOf 3 c, physSlot r.2 r.1, none, #[], #[]⟩ r.2)
  | none, k =>
    if ((keySlot r.2 r.1).bind (·.tag)) ≠ some (keyTag r.1) then setGran { r.1 with fault := some (2, r.1.recA) } r.2
    else if k = 2 then setGran (phase1 r.1 r.2).1 (phase1 r.1 r.2).2
    else setGran r.1 r.2
theorem startedOp_inOrder (h : InOrder s) : InOrder (startedOp o s).2 := by
  unfold startedOp
  split
  · exact h
  · split
    · exact h
    · exact .granRead h
theorem beginOp_inOrder (h : InOrder os.2) : InOrder (beginOp c os) := by
  unfold beginOp
  split
  · exact .setGran h
  · exact .setGran (.setKeySlot h)
  · exact .ite (.setGran h) (.ite (.setGran (.phase1 h)) (.setGran h))
theorem execGranaryOpStart_goes : Goes s (execGranaryOpStart c s) := .next fun h => by
  refine .uncut (fun {s} h => ?_) h
  split
  · exact h
  · next o _ => exact .ite h (show InOrder (beginOp c (startedOp o s)) from beginOp_inOrder (startedOp_inOrder h))
theorem execGranaryQueryBoundary_goes : Goes s (execGranaryQueryBoundary c s) := .next fun h => by
  refine .uncut (fun {s} h => ?_) h
  split
  · exact h
  · refine .ite h ?_
    split
    · exact h
    · exact .setGran (.runQuery h)
theorem execGranarySegmentWrite_goes : Goes s (execGranarySegmentWrite c s) := .next fun h => by
  refine .uncut (fun {s} h => ?_) h
  split
  · exact h
  · refine .ite h (.ite (.setGran (.writeSeg h)) (.ite h ?_))
    have hp : InOrder (Machine.pick s).2 := .pick h
    dsimp only
    split
    · exact h
    · exact .setGran (.writeSeg (.beginRow hp))
/-- A `pkld` that completes has its keys in its key slot, unless a byte of them cannot be read (07 R223). -/
def loadedOp (c : Coords) (o : GranaryOp) (s : State) : GranaryOp × State :=
  if o.kind = 0 && o.started && o.fault.isNone && !granCancelled s o then
    match loadKeys o s with
    | (.error a, s) => ({ o with fault := some (3, a) }, s)
    | (.ok (k, sc), s) => (o, setKeySlot ⟨unitOf 3 c, physSlot s o, some (keyTag o), k, sc⟩ s)
  else (o, s)
/-- The issuer when its operation has completed: the writes count as its own. -/
def granIssuer (o : GranaryOp) (ch : Nat) (g : Gang) : Gang :=
  { g with own := vjoin g.own o.wr, view := if ch % 2 = 1 then vjoin g.view o.wr else g.view }
/-- What the completion does then: the operation leaves its queue, and its writes and flags are recorded. -/
def leaveGran (r : GranaryOp × State) : State :=
  let p := Machine.pick r.2
  noteFlags r.1.id r.1.uid r.1.flags (onGangAny r.1.uid (granIssuer r.1 p.1) { p.2 with
    granary := p.2.granary.filter (fun x => x.id ≠ r.1.id)
    pubs := if r.1.wr.isEmpty then p.2.pubs else addPub ⟨some (r.1.uid, r.1.at_), 3, r.1.wr⟩ p.2.pubs })
/-- Its number completes, with its fault. -/
def finishGran (r : GranaryOp × State) : State :=
  completeNum r.1.id (match r.1.fault with
    | some (k, a) => noteFault r.1.id cGranary a (wd (r.1.id.n % 2 ^ 32 * 2 ^ 32 + k)) (leaveGran r)
    | none => leaveGran r)
theorem loadedOp_inOrder (h : InOrder s) : InOrder (loadedOp c o s).2 := by
  have hl : InOrder (loadKeys o s).2 := .loadKeys h
  unfold loadedOp
  split
  · split
    · next he => exact (he ▸ hl :)
    · next he => exact .setKeySlot (he ▸ hl :)
  · exact h
theorem finishGran_inOrder (h : InOrder os.2) : InOrder (finishGran os) := by
  have hs : InOrder (leaveGran os) := .noteFlags (.onGangAny (fun _ hg => hg) (InOrder.pick h))
  refine .completeNum ?_
  split
  · exact .noteFault hs
  · exact hs
theorem execGranaryOpComplete_goes : Goes s (execGranaryOpComplete c s) := .next fun h => by
  refine .uncut (fun {s} h => ?_) h
  split
  · exact h
  · next o _ => exact .ite h (show InOrder (finishGran (loadedOp c o s)) from finishGran_inOrder (loadedOp_inOrder h))

end Sys2Proof.Proofs
end

section
/-! SUPPORT. The links, the packages and the images go on, and keep the order of the results on their way (17 R465 to R484, 19 R499 to R514,
21 R518 to R534). -/

namespace Sys2Proof.Proofs

open Sys2Proof Sys2Proof.Machine Sys2Proof.Claims Sys2Proof.Laws

variable {s : State} {g : Gang} {n i l pkg port job : Nat} {w : Word} {c : Coords} {p : Pend} {f : State → State} {ws : List Word} {v : SaveImage}
  {bs : List Byte} {k : Key} {e : Func}

/-! Links -/

namespace InOrder

variable {m : Port → Port} {q : Bond → Bond} {z : Bool}

theorem onPort (h : InOrder s) : InOrder (onPort pkg n m s) := .ite h h
theorem onBond (h : InOrder s) : InOrder (onBond pkg n q s) := .ite h h
theorem settleBond (h : InOrder s) : InOrder (settleBond pkg n s) := .ite (.onBond h) (.onBond h)
theorem settleEnds (h : InOrder s) : InOrder (settleEnds pkg port s) := by
  unfold Machine.settleEnds
  simp only
  split
  · exact .settleBond (.settleBond h)
  · exact .settleBond h
theorem fallBack (h : InOrder s) : InOrder (fallBack z pkg n s) := .ite (.onBond h) h
theorem reroute (h : InOrder s) : InOrder (reroute pkg n s) := by
  unfold Machine.reroute
  split <;> exact h
theorem refreshRoutes (h : InOrder s) : InOrder (refreshRoutes pkg s) := h
theorem resend (h : InOrder s) : InOrder (resend pkg n s) := h
theorem loseLane (h : InOrder s) : InOrder (loseLane pkg port l s) := by
  refine .ite h (.reroute ?_)
  split
  · exact .fallBack (.fallBack (.settleEnds (.onPort h)))
  · exact .fallBack (.settleEnds (.onPort h))

end InOrder

theorem execPodBringUp_goes {count : Nat} {ls : List Link} : Goes s (execPodBringUp n count ls s) := .next fun h => by
  refine .ite h (.packages h rfl fun p hp => ?_)
  obtain ⟨q, hq, rfl⟩ := List.mem_map.1 hp
  have hk : KeptInOrder q := by
    obtain hq | hq := List.mem_append.1 hq
    · exact h.2.2.2 q hq
    · obtain ⟨n, _, rfl⟩ := List.mem_map.1 hq
      exact nofun
  split
  · exact hk
  · split
    · exact hk
    · exact hk
theorem execLinkUp_goes : Goes s (execLinkUp pkg port w s) := .next fun h => .ite h (.refreshRoutes (.settleBond (.onPort h)))
theorem execCapabilityWord_goes : Goes s (execCapabilityWord pkg port w s) := .next fun h =>
  .ite h (.ite (.reroute (.settleBond (.onPort h))) (.refreshRoutes (.settleBond (.onPort h))))
theorem execCapabilityTimeout_goes : Goes s (execCapabilityTimeout pkg port s) := .next fun h => .ite h (.settleBond (.onPort h))
theorem execLinkDown_goes : Goes s (execLinkDown pkg port s) := .next fun h => by
  refine .reroute ?_
  split
  · exact .settleBond (.onPort (.settleBond (.onPort h)))
  · exact .settleBond (.onPort h)
theorem execLaneLoss_goes : Goes s (execLaneLoss pkg port l s) := .next fun h => .loseLane h
theorem execRetrainComplete_goes : Goes s (execRetrainComplete pkg n s) := .next fun h =>
  InOrder.foldl (fun _ _ h => .ite (.onBond (.resend h)) h) h
theorem execPortRejoin_goes : Goes s (execPortRejoin pkg port s) := .next fun h => by
  split
  · exact h
  · exact .ite h (.refreshRoutes (.settleEnds (.onPort h)))
theorem execFlitCrcFailure_goes : Goes s (execFlitCrcFailure pkg port s) := .next fun h =>
  have hp : InOrder (Machine.pick s).2 := .pick h
  .ite h (.ite (.loseLane (.onPort hp)) (.onPort hp))

/-! Packages that leave and requests that reach the fabric timeout -/

namespace GangInOrder

theorem failPend (h : GangInOrder g) : GangInOrder (failPend p w l g) := GangInOrder.finishPend h

end GangInOrder

namespace InOrder

theorem loadTimeout (h : InOrder s) : InOrder (loadTimeout g p w l s) :=
  .ite (.onGang (fun _ hg => .failPend hg) h) (.onGangAny (fun _ hg => .steerPend hg) h)
theorem cutRequests (h : InOrder s) : InOrder (cutRequests pkg s) := by
  refine .foldl (fun _ _ h => .storeTimeout h) (.foldl (fun _ _ h => .atomTimeout h) ?_)
  exact InOrder.foldl (fun _ _ h => .loadTimeout h) h
theorem cancelAll (h : InOrder s) : InOrder (cancelAll pkg s) := .foldl (fun _ _ h => .cancelWhole h) h
theorem leavePod (h : InOrder s) : InOrder (leavePod pkg s) :=
  .onPkg (fun _ => rfl) (.cutRequests (.foldl (fun _ _ h => .cancelWhole h) h))

end InOrder

theorem execMemberFailure_goes : Goes s (execMemberFailure pkg s) := .next fun h => .leavePod h
theorem execFabricTimeout_goes {t : TimedOut} : Goes s (execFabricTimeout t s) := .next fun h => by
  cases t with
  | req i =>
    dsimp only
    split
    · exact .ite (.storeTimeout h) h
    · split
      · exact .ite (.atomTimeout h) h
      · exact h
  | load c i =>
    have hp : InOrder (Machine.pick s).2 := .pick h
    dsimp only
    split
    · split
      · exact .ite (.loadTimeout hp) h
      · exact h
    · exact h
  | cart o who w a => exact h
  | kiln e st a =>
    dsimp only
    split
    · exact .ite (.suspend h) h
    · exact h
  | granary c a =>
    dsimp only
    split
    · exact .ite (.setGran h) h
    · exact h

/-! The package -/

namespace InOrder

theorem wipePackage (h : InOrder s) : InOrder (wipePackage pkg s) := by
  refine ⟨GangInOrder.ite .fresh h.1, fun x hx => h.2.1 x (List.mem_of_mem_filter hx), fun i hi => h.2.2.1 i (List.mem_of_mem_filter hi), h.2.2.2⟩
theorem startCkpt (h : InOrder s) : InOrder (startCkpt pkg ws s) := .ite (.onPkg (fun _ => rfl) h) (.onPkg (fun _ => rfl) h)
theorem moveByte (h : InOrder s) : InOrder (moveByte n l s) := by
  have hw : InOrder (Machine.homeWrite [(l, memByte s n)] (memKey s n) s) := .homeWrite h
  unfold Machine.moveByte
  simp only
  split
  · exact .ite hw hw
  · exact hw
  · exact hw
theorem moveBytes (h : InOrder s) : InOrder (moveBytes pkg n l ws s) := .foldl (fun _ _ h => .ite (.moveByte h) (.moveByte h)) h

end InOrder

theorem execPackageReset_goes : Goes s (execPackageReset pkg s) := .next fun h => by
  split
  · exact h
  · exact .onPkg (fun _ => rfl) (.wipePackage (.cancelAll h))
theorem execFunctionReady_goes : Goes s (execFunctionReady pkg e s) := .next fun h => by
  split
  · exact h
  · exact .ite h (.onPkg (fun _ => rfl) h)
theorem execFunctionFailure_goes : Goes s (execFunctionFailure pkg e s) := .next fun h =>
  .ite h (.cancelAll (.leavePod (.onPkg (fun _ => rfl) h)))
theorem execUncorrectableStateError_goes : Goes s (execUncorrectableStateError c s) := .next fun h => by
  split
  · exact h
  · exact .ite h (.escalate (.noteError (.focus (.dropWaits h))))
theorem execScrubPass_goes : Goes s (execScrubPass pkg s) := .next fun h => .onPkg (fun _ => rfl) h
theorem execTelemetryUpdate_goes {v : Sensors} : Goes s (execTelemetryUpdate pkg v s) := .next fun h => .onPkg (fun _ => rfl) h
theorem execPowerLimit_goes {v : Sensors} : Goes s (execPowerLimit pkg v s) := .next fun h => .onPkg (fun _ => rfl) h

/-! Images -/

namespace InOrder

theorem imageWrite (h : InOrder s) : InOrder (imageWrite k l bs s) := .homeWrite h
theorem keepImage (h : InOrder s) : InOrder (keepImage v s) := .foldl (fun _ _ h => .imageWrite h) h
theorem closeImage (h : InOrder s) : InOrder (closeImage v n s) := by
  have hk : InOrder (Machine.keepImage v s) := .keepImage h
  exact .imageWrite (.images hk rfl fun i hi => hk.2.2.1 i (List.mem_of_mem_filter hi))

end InOrder

theorem execCheckpointComplete_goes {at_ : Option Nat} : Goes s (execCheckpointComplete pkg at_ s) := .next fun h => by
  split
  · exact h
  · next fn ws _ =>
    extract_lets src size offs stop n live s1 done back s2
    have h1 : InOrder s1 := .foldl (fun _ _ h => .homeWrite h) (.moveBytes h)
    have hback : ∀ i ∈ back, ImageInOrder i := by
      intro i hi
      unfold back at hi
      split at hi
      · next q hq =>
        split at hi
        · exact h1.2.2.2 q (List.mem_of_find?_eq_some hq) i hi
        · cases hi
      · cases hi
    have h2 : InOrder s2 := .ite (.images h1 rfl fun i hi =>
      (List.mem_append.1 hi).elim (fun hi => h1.2.2.1 i (List.mem_of_mem_filter hi)) (hback i)) h1
    refine .packages h2 rfl (forall_mem_upd h2.2.2.2 fun p hp i hi => ?_)
    change i ∈ (if _ then _ else _ : List Word × List SaveImage).2 at hi
    split at hi
    · exact h2.2.2.1 i (List.mem_of_mem_filter hi)
    · exact hp i hi

end Sys2Proof.Proofs
end

section
/-! SUPPORT. Commands, loads, saves and resumes go on, and keep the order of the results on their way (17 R448 to R464, 18 R485 to R497). -/

namespace Sys2Proof.Proofs

open Sys2Proof Sys2Proof.Machine Sys2Proof.Claims Sys2Proof.Laws

variable {s : State} {g : Gang} {n q l u pkg sess job slot : Nat} {a : Word} {c : Coords} {f : State → State} {ws : List Word} {v : SaveImage}
  {bs : List Byte} {k : Key} {h : Cmd} {i : Instr} {j : Job} {us : List Nat} {y : Bool}

/-! Sessions and commands -/

namespace InOrder

theorem onSess {e : Session → Session} (h : InOrder s) : InOrder (onSess pkg sess e s) := h
theorem reply {o : HostOut} (h : InOrder s) : InOrder (reply o s) := h
theorem closeSess (h : InOrder s) : InOrder (closeSess pkg sess s) := h
theorem onJob {e : Job → Job} (h : InOrder s) : InOrder (onJob pkg job e s) := h

end InOrder

theorem execHello_goes {a b c d : Nat} : Goes s (execHello pkg a b c d bs s) := .next fun h => by
  refine .ite h ?_
  split
  · exact .reply h
  · exact .ite (.reply h) (.reply h)
theorem execConfirm_goes : Goes s (execConfirm pkg sess s) := .next fun h => .onSess h
theorem execMessageAuthFailure_goes : Goes s (execMessageAuthFailure pkg sess s) := .next fun h => by
  split
  · exact h
  · exact .ite (.closeSess h) (.onSess h)
theorem execSessionClose_goes : Goes s (execSessionClose pkg sess s) := .next fun h => .closeSess h
theorem execSessionLinkLoss_goes : Goes s (execSessionLinkLoss pkg sess s) := .next fun h => .closeSess h
theorem takeCommand_goes {o : Option Instr} (hf : ∀ {s}, InOrder s → InOrder (f s)) : Goes s (takeCommand o h y f s) := .next fun hs => by
  split
  · exact hs
  · have hact (e : Session → Session) (z : Bool) : InOrder (if z then reply (.error h) (onSess h.pkg h.sess e s) else f (onSess h.pkg h.sess e s)) :=
      .ite (.reply hs) (hf (.onSess hs))
    exact .ite hs (.ite (.ite (.onSess hs) (hact _ _)) (.ite (.closeSess hs) (.ite (.onSess hs) (hact _ _))))
theorem command_goes (hf : ∀ {s}, InOrder s → InOrder (f s)) : Goes s (command i h y f s) := takeCommand_goes hf
theorem strayCommand_goes : Goes s (strayCommand h s) := takeCommand_goes fun hs => .reply hs
theorem execCommandReadyTimeout_goes : Goes s (execCommandReadyTimeout h s) := .next fun h => by
  split
  · exact h
  · exact .ite h (.reply (.onSess h))

/-! Jobs and keys -/

theorem execJobCreate_goes : Goes s (execJobCreate h ws s) := command_goes fun hs => .ite (.reply hs) (.reply hs)

namespace InOrder

theorem descWord {e : QUnit} (h : InOrder s) : InOrder (descWord e n a s) := .homeWrite h
theorem unbind {e : QUnit} (h : InOrder s) : InOrder (unbind e s) := by
  unfold Machine.unbind
  split
  next v t he =>
  have ht : InOrder t := by
    rw [show t = _ from (congrArg Prod.snd he).symm]
    refine foldl_inOrder (fun us : QUnit × State => us.2) (fun us r h => ?_) _ (y := (e, s)) h
    split
    · exact .writeElems h
    · exact h
  exact .descWord (.descWord (.descWord ht))
theorem scrubLocs {p : Nat → Bool} (h : InOrder s) : InOrder (scrubLocs p s) := h
theorem releaseUnits (h : InOrder s) : InOrder (releaseUnits j s) := InOrder.foldl (fun _ _ h => .unbind h) h
theorem scrubJob (h : InOrder s) : InOrder (scrubJob j s) := h
theorem scrubKeys (h : InOrder s) : InOrder (scrubKeys j s) := h
theorem freeJob (h : InOrder s) : InOrder (freeJob j s) := InOrder.ite (.scrubJob (.releaseUnits h)) h

end InOrder

/-- A JobEnd completes once nothing of its job is left (17 R455). -/
def endJob (h : Cmd) (job : Nat) (s : State) : State :=
  match jobOn s h.pkg job with
  | none => s
  | some j => if j.ending = some h && jobDone s j then reply (.ok h []) (freeJob j s) else s
theorem endJob_inOrder (hs : InOrder s) : InOrder (endJob h job s) := by
  unfold endJob
  split
  · exact hs
  · exact .ite (.reply (.freeJob hs)) hs
theorem execJobEnd_goes : Goes s (execJobEnd h job s) := by
  unfold execJobEnd
  simp only
  split
  · split
    · exact .next fun hs => endJob_inOrder hs
    · refine command_goes fun {s} hs => .ite (.reply hs) (endJob_inOrder (.onJob ?_))
      have hc : InOrder (cancelWhole h.pkg job none s) := .cancelWhole hs
      split
      · exact .ite (.closeImage hc) hc
      · exact hc
  · exact command_goes fun hs => .reply hs
theorem execKeyInstall_goes : Goes s (execKeyInstall h job slot bs s) := command_goes fun hs => by
  split
  · exact .ite (.reply (.onJob hs)) (.reply hs)
  · exact .reply hs

/-! Host reads and writes -/

namespace InOrder

theorem driverWrite (h : InOrder s) : InOrder (driverWrite pkg n l bs s) := by
  induction n generalizing l bs s with
  | zero => exact h
  | succ n ih => exact .ite h (ih (.homeWrite h))
theorem ckptWritten (h : InOrder s) : InOrder (ckptWritten pkg n l s) := .ite h (.ite (.startCkpt h) (.onPkg (fun _ => rfl) h))

end InOrder

theorem execMemWrite_goes : Goes s (execMemWrite h job a bs s) := command_goes fun {s} hs => by
  refine .ite ?_ ?_
  · split
    · exact .reply hs
    · exact .ite (.reply hs) (.reply (.ckptWritten (.driverWrite hs)))
  · simp only
    split
    · exact .reply hs
    · refine .reply ?_
      exact foldl_inOrder (fun us : Cells Nat × State => us.2) (fun us r h => InOrder.homeWrite (s := us.2) h) _ (y := ([], s)) hs
theorem execMemRead_goes : Goes s (execMemRead h job a n s) := command_goes fun {s} hs => by
  refine .ite ?_ (.ite (.reply hs) ?_)
  · split
    · exact .reply hs
    · exact .ite (.reply hs) (.reply hs)
  · split
    · exact .reply hs
    · exact .reply hs

/-! Graphs and queues -/

theorem execGraphCreate_goes : Goes s (execGraphCreate h job s) := command_goes fun hs => by
  split
  · exact .reply hs
  · exact .ite (.reply hs) (.reply (.onJob hs))
theorem execQueueBindCmd_goes : Goes s (execQueueBindCmd h q job s) := command_goes fun hs => .ite (.reply hs) (.reply hs)
theorem takeRecord_inOrder (hs : InOrder s) : InOrder (takeRecord pkg q j s ws) := .ite (.rootDone (.onJob hs)) hs
theorem execSubmit_goes {recs : List (List Word)} : Goes s (execSubmit h q recs s) := command_goes fun hs => by
  split
  · exact .reply hs
  · split
    · exact .reply hs
    · exact .ite (.reply hs) (.ite (.reply hs) (.reply (.foldl (fun _ _ hs => takeRecord_inOrder hs) hs)))
theorem execCancelLaunch_goes : Goes s (execCancelLaunch h q n s) := command_goes fun hs => .ite (.reply hs) (.reply (InOrder.cancelLaunches hs))
theorem execCancelGraph_goes : Goes s (execCancelGraph h job n s) := command_goes fun hs => by
  split
  · exact .ite (.reply (.cancelWhole hs)) (.reply hs)
  · exact .reply hs
theorem execCancelJob_goes : Goes s (execCancelJob h job s) := command_goes fun hs => .ite (.reply hs) (.reply (.cancelWhole hs))
theorem execCounterRead_goes {e : Option Nat} : Goes s (execCounterRead h job e s) := command_goes fun hs => by
  split
  · exact .reply hs
  · split
    · exact .reply hs
    · split
      · exact .reply hs
      · exact .reply hs
theorem execJobClaim_goes : Goes s (execJobClaim pkg sess job a s) := .next fun hs => by
  split
  · exact .ite (.ite (.onSess hs) hs) (.ite (.onSess hs) hs)
  · exact .ite (.onSess hs) hs
  · exact hs
theorem ckptCommand_goes : Goes s (ckptCommand i n h ws s) :=
  command_goes fun hs => .ite (.reply hs) (.reply (.startCkpt (.driverWrite hs)))
theorem execCheckpoint_goes : Goes s (execCheckpoint h ws s) := ckptCommand_goes
theorem execCheckpointRestore_goes : Goes s (execCheckpointRestore h ws s) := ckptCommand_goes

end Sys2Proof.Proofs
end

section
/-! SUPPORT. Saves, resumes, resets, thermal stops and loads go on, and keep the order of the results on their way (18 R485 to R497, 16 R429 to
R447, 21 R531). -/

namespace Sys2Proof.Proofs

open Sys2Proof Sys2Proof.Machine Sys2Proof.Claims Sys2Proof.Laws

variable {s : State} {g : Gang} {n l u pkg job : Nat} {a : Word} {c : Coords} {ws : List Word} {v : SaveImage} {bs : List Byte} {h : Cmd} {j : Job}
  {us : List Nat} {k : KilnEntry} {o : GranaryOp} {op : CartOp}

/-! Saves -/

namespace InOrder

theorem stopGang (h : InOrder s) : InOrder (stopGang s u) := .onGang (fun _ hg => hg) (.dropWaits h)
theorem suspendTile (h : InOrder s) : InOrder (suspendTile k s) := .ite h (.onTile h)
theorem removeGangs (h : InOrder s) : InOrder (removeGangs us s) :=
  .slots h rfl (.ite .fresh h.1) fun x hx => h.2.1 x (List.mem_of_mem_filter hx)
theorem evict (h : InOrder s) : InOrder (evict j s) := .onJob (.scrubJob (.onImage (fun _ hi => hi) (.releaseUnits h)))
theorem after {o : Out} (ho : Goes s o) (h : InOrder s) : InOrder (after o s) := by
  obtain ⟨t, rfl, ht⟩ := ho
  exact ht h
theorem timesDo {f : State → Out} (hf : ∀ s, Goes s (f s)) (h : InOrder s) : InOrder (timesDo f n s) := by
  induction n generalizing s with
  | zero => exact h
  | succ n ih => exact ih (.after (hf s) h)

end InOrder

theorem execSave_goes : Goes s (execSave h ws s) := command_goes fun {s} hs => by
  refine .ite (.reply hs) (.foldl (fun _ _ hs => .stopGang hs) ?_)
  exact .images hs rfl (forall_mem_append_one hs.2.2.1 fun g hg => (List.not_mem_nil hg).elim)
theorem execSaveComplete_goes : Goes s (execSaveComplete job pkg s) := .next fun h => by
  split
  · next i j _ _ =>
    refine .ite h ?_
    extract_lets us s1 s2 gs s3 out ks s4 s5 ws share full s6
    have h1 : InOrder s1 := .foldl (fun _ _ h => .publishFor h) h
    have h2 : InOrder s2 := .foldl (fun _ _ h => .onGang (fun g _ => .settleAll g) (.dropWaits h)) h1
    have h3 : InOrder s3 := .foldl (fun _ _ h => .after execMmaStepComplete_goes h) h2
    have h4 : InOrder s4 := .foldl (fun _ _ h => .suspendTile h) h3
    have hfull : ImageInOrder full := fun g hg => by
      obtain ⟨u, _, hu⟩ := List.mem_filterMap.1 hg
      exact h2.of_gangOf hu
    have h6 : InOrder s6 := .removeGangs (.images (s := s4) h4 rfl (forall_mem_upd h4.2.2.1 fun _ _ => hfull))
    exact .reply (.ite (.evict h6) h6)
  · exact h

/-! A Save that reaches its deadline -/

namespace InOrder

theorem abandonCart (h : InOrder s) : InOrder (abandonCart s op) := by
  have hp : InOrder (Machine.pick s).2 := .pick h
  unfold Machine.abandonCart
  generalize Machine.pick s = r at hp ⊢
  obtain ⟨ch, s1⟩ := r
  dsimp -zeta only
  extract_lets m e0 ls p t
  have ht : InOrder t := .foldl (fun _ _ h => h) hp
  clear_value t ls
  have hg : InOrder (Machine.onGangAny op.uid (fun g => { g with own := ls.foldl (fun v l => cset 0 v l p) (vjoin g.own op.wr) }) t) :=
    .onGangAny (fun _ hg => hg) ht
  exact .completeNum hg
theorem abandonKiln (h : InOrder s) : InOrder (abandonKiln s k) := by
  have hp : InOrder (Machine.pick s).2 := .pick h
  unfold Machine.abandonKiln
  generalize Machine.pick s = r at hp ⊢
  obtain ⟨ch, s1⟩ := r
  dsimp -zeta only
  extract_lets t
  have ht : InOrder t := .ite (.timesDo (fun _ => execMmaStepComplete_goes) hp) hp
  split
  · exact .abandonMma ht
  · exact ht
theorem abandonGranary (h : InOrder s) : InOrder (abandonGranary s o) := by
  have hp : InOrder (Machine.pick s).2 := .pick h
  refine .completeNum ?_
  exact InOrder.ite hp (.ite (.timesDo (fun _ => execGranaryQueryBoundary_goes) hp) (.ite (.timesDo (fun _ => execGranarySegmentWrite_goes) hp) hp))
theorem landOrNot (h : InOrder s) : InOrder (landOrNot u s) :=
  InOrder.foldl (fun _ _ h => .ite (.serveId (.pick h)) (.pick h)) h
theorem resetContext (h : InOrder s) : InOrder (resetContext pkg job s) := by
  unfold Machine.resetContext
  extract_lets gs all_ us s1 s2 s3 s4 s5 dead s6
  have h1 : InOrder s1 := .foldl (fun _ _ h => .abandonCart h) h
  have h2 : InOrder s2 := .foldl (fun _ _ h => .abandonKiln h) h1
  have h3 : InOrder s3 := .foldl (fun _ _ h => .abandonGranary h) h2
  have h4 : InOrder s4 := .foldl (fun _ _ h => .completeNum h) h3
  have h5 : InOrder s5 := .foldl (fun _ _ h => .landOrNot (.dropWaits h)) h4
  have h6 : InOrder s6 := .removeGangs h5
  refine .closeDead (.slots (s := s6) h6 rfl h6.1 fun x hx => (List.mem_append.1 hx).elim (h6.2.1 x) fun hx => ?_)
  obtain ⟨g, _, rfl⟩ := List.mem_map.1 hx
  exact List.Pairwise.nil
end InOrder

theorem execSaveDeadlineExpiry_goes : Goes s (execSaveDeadlineExpiry job pkg s) := .next fun h => by
  split
  · exact h
  · exact .ite h (.reply (.closeImage (.resetContext h)))

/-! Resumes -/

namespace InOrder

theorem readmit (h : InOrder s) : InOrder (readmit j v s) := by
  unfold Machine.readmit
  extract_lets s1 p s2
  have h1 : InOrder { s1 with wseq := p } := h
  have h2 : InOrder s2 := .foldl (fun _ _ h => h) h1
  have hi (i : SaveImage) (hi : ImageInOrder i) : ImageInOrder { i with
      gangs := i.gangs.map (fun g => { g with view := i.windows.foldl (fun w e => cset 0 w e.1 p) g.view }) } := fun x hx => by
    obtain ⟨g, hg, rfl⟩ := List.mem_map.1 hx
    exact hi g hg
  exact InOrder.onImage hi h2
theorem dropStopped (h : InOrder s) : InOrder (dropStopped v s) := by
  unfold Machine.dropStopped
  extract_lets gone s1 s2
  have h1 : InOrder s1 := .foldl (fun _ _ h => .abandonMma h) h
  have h2 : InOrder s2 := .foldl (fun _ _ h => .completeNum h) h1
  exact .onImage (fun _ hi g hg => hi g (List.mem_of_mem_filter hg)) h2
theorem restoreWindow {w : Scratch × List (Nat × Byte)} (h : InOrder s) : InOrder (restoreWindow pkg job s w) := by
  unfold Machine.restoreWindow
  split
  · exact h
  · extract_lets loc p s1 see
    have h1 : InOrder s1 := .foldl (fun _ _ h => h) (s := { s with wseq := p }) h
    refine .onImage (fun i hi x hx => ?_) h1
    obtain ⟨g, hg, rfl⟩ := List.mem_map.1 hx
    exact .ite (hi g hg) (hi g hg)
theorem returnEntry (h : InOrder s) : InOrder (returnEntry s k) := by
  refine .ite h ?_
  extract_lets n e s1
  have h1 : InOrder s1 := .images h rfl fun i hi => by
    obtain ⟨m, hm, rfl⟩ := List.mem_map.1 hi
    exact h.2.2.1 m hm
  exact .ite (.onTile h1) h1
theorem returnGang (hg : GangInOrder g) (h : InOrder s) : InOrder (returnGang pkg job s g) := by
  unfold Machine.returnGang
  split
  · exact h
  · refine .ite h (.onImage (fun i hi x hx => hi x (List.mem_of_mem_filter hx)) (.slots h rfl h.1 (forall_mem_append_one h.2.1 ?_)))
    exact hg
theorem restoreMore (hs : InOrder s) : InOrder (restoreMore job pkg h v s) := by
  unfold Machine.restoreMore
  extract_lets s1 s2 s3 s4
  have h1 : InOrder s1 := .dropStopped hs
  have h2 : InOrder s2 := .foldl (fun _ _ h => .restoreWindow h) h1
  have h3 : InOrder s3 := .foldl (fun _ _ h => .returnEntry h) h2
  have hg : ∀ x ∈ ((imageOf s3 pkg job).map (·.gangs)).getD [], GangInOrder x := by
    cases hi : imageOf s3 pkg job with
    | none => exact fun x hx => (List.not_mem_nil hx).elim
    | some i => exact h3.2.2.1 i (List.mem_of_find?_eq_some hi)
  have h4 : InOrder s4 := List.foldlRecOn _ _ h3 fun _ ht x hx => .returnGang (hg x hx) ht
  split
  · exact h4
  · exact .ite (.reply (.closeImage h4)) h4
end InOrder

theorem execResume_goes : Goes s (execResume h ws s) := command_goes fun hs => by
  split
  · exact .ite (.reply hs) (.onImage (fun _ hi => hi) (.ite (.readmit hs) hs))
  · exact .reply hs
theorem execResumeRestore_goes : Goes s (execResumeRestore job pkg s) := .next fun h => by
  split
  · exact h
  · split
    · exact h
    · exact .ite h (.restoreMore (.keepImage h))
theorem execReplyToImage_goes : Goes s (execReplyToImage job pkg c n s) := .next fun h => by
  split
  · exact h
  · split
    · exact h
    · split
      · exact h
      · exact .onImage (fun i hi => forall_mem_upd hi fun _ hg => .steerPend hg) h

/-! Heat, and loads -/

namespace InOrder

theorem haltEngines (h : InOrder s) : InOrder (haltEngines pkg s) := by
  unfold Machine.haltEngines
  extract_lets s1 s2 s3
  have h1 : InOrder s1 := .foldl (fun _ c h => .completeNum (InOrder.onGangAny (f := fun g => { g with own := vjoin g.own c.wr }) (fun _ hg => hg) h)) h
  have h2 : InOrder s2 := .foldl (fun _ _ h => .abandonMma h) h1
  have h3 : InOrder s3 := .foldl (fun _ _ h => .completeNum h) h2
  exact .foldl (fun _ _ h => .completeNum h) h3
theorem hostPut {m : State} {bs : List (Nat × Byte)} (h : InOrder s) : InOrder (hostPut m pkg job bs s) := by
  unfold Machine.hostPut
  split
  next v t he =>
  have ht : InOrder t := by
    rw [show t = _ from (congrArg Prod.snd he).symm]
    refine foldl_inOrder (fun us : Cells Nat × State => us.2) (fun us r h => ?_) _ (y := ([], s)) h
    split
    · exact .homeWrite h
    · exact h
  exact ht
theorem placeImage {p : Placed} (h : InOrder s) : InOrder (placeImage pkg job p s) := InOrder.hostPut h
theorem noteWords {p : Placed} (h : InOrder s) : InOrder (noteWords bs p s) := .ite h h

end InOrder

theorem execThermalShutdown_goes : Goes s (execThermalShutdown pkg n s) := .next fun h =>
  .ite h (.haltEngines (.onPkg (fun _ => rfl) (.cancelAll h)))
theorem execLoad_goes {x y : Word} : Goes s (execLoad h job bs a x y s) := by
  unfold execLoad
  extract_lets at_ out
  have hout (res : Except FinErr Placed) : Goes s (out res) := command_goes fun {s} hs => by
    extract_lets bytes place
    have hplace : InOrder (place s) := by
      cases res with
      | ok p => exact .noteWords (.placeImage hs)
      | error e => exact hs
    refine .ite (.reply hs) (InOrder.ite ?_ (.ite (.reply hs) (.reply (.hostPut hplace))))
    split
    · exact .reply hs
    · exact .ite (.reply hs) (.reply (.driverWrite hplace))
  split
  · exact hout _
  · split
    · exact hout _
    · split
      · exact .next id
      · exact hout _

end Sys2Proof.Proofs
end

section
/-! SUPPORT. Every instruction and event of the opcode table goes on, and keeps the order of the results on their way. -/

namespace Sys2Proof.Proofs

open Sys2Proof Sys2Proof.Machine Sys2Proof.Claims Sys2Proof.Laws

variable {s : State}

/-- No instruction and no event ends in a fault or a refusal of the model, and none disturbs the order of the results on their way. -/
theorem exec_goes : ∀ i, Goes s (exec i s)
  | .nop => execNop_goes
  | .bra _ => execBra_goes
  | .braIndirect _ _ => execBraIndirect_goes
  | .brcNz _ _ => execBrcNz_goes
  | .brcZ _ _ => execBrcZ_goes
  | .brd _ _ _ => execBrd_goes
  | .join => execJoin_goes
  | .call _ => execCall_goes
  | .callIndirect _ _ => execCallIndirect_goes
  | .ret => execRet_goes
  | .exit => execExit_goes
  | .yield => execYield_goes
  | .yieldPath => execYieldPath_goes
  | .trap _ => execTrap_goes
  | .bkpt => execBkpt_goes
  | .tret => execTret_goes
  | .term => execTerm_goes
  | .rget _ => execRget_goes
  | .rgetGrant _ => execRgetGrant_goes
  | .rput => execRput_goes
  | .winb _ => execWinb_goes
  | .sadd _ _ _ _ => execSadd_goes
  | .ssub _ _ _ _ => execSsub_goes
  | .smul _ _ _ _ => execSmul_goes
  | .sand _ _ _ _ => execSand_goes
  | .sor _ _ _ _ => execSor_goes
  | .sxor _ _ _ _ => execSxor_goes
  | .sshl _ _ _ _ => execSshl_goes
  | .sshr _ _ _ _ => execSshr_goes
  | .sminmax _ _ _ _ => execSminmax_goes
  | .scmp _ _ _ _ => execScmp_goes
  | .ssel _ _ _ _ => execSsel_goes
  | .saddi _ _ _ => execSaddi_goes
  | .slogi _ _ _ _ => execSlogi_goes
  | .sli _ _ => execSli_goes
  | .sbit _ _ _ _ => execSbit_goes
  | .ssprRd _ _ => execSsprRd_goes
  | .ssprWr _ _ => execSsprWr_goes
  | .ssprOr _ _ => execSsprOr_goes
  | .ssprAndn _ _ => execSsprAndn_goes
  | .vadd _ _ _ _ => execVadd_goes
  | .vsub _ _ _ _ => execVsub_goes
  | .vmul _ _ _ _ => execVmul_goes
  | .vand _ _ _ _ => execVand_goes
  | .vor _ _ _ _ => execVor_goes
  | .vxor _ _ _ _ => execVxor_goes
  | .vshl _ _ _ _ _ => execVshl_goes
  | .vshr _ _ _ _ _ => execVshr_goes
  | .vminmax _ _ _ _ _ => execVminmax_goes
  | .vcmp _ _ _ _ _ => execVcmp_goes
  | .vsel _ _ _ _ _ => execVsel_goes
  | .vmov _ => execVmov_goes
  | .vperm _ _ _ _ => execVperm_goes
  | .vvote _ _ _ => execVvote_goes
  | .vscan _ _ _ _ => execVscan_goes
  | .vredl _ _ _ => execVredl_goes
  | .fadd _ _ _ _ => execFadd_goes
  | .fsub _ _ _ _ => execFsub_goes
  | .fmul _ _ _ _ => execFmul_goes
  | .ffma _ _ _ _ => execFfma_goes
  | .fminmax _ _ _ _ _ => execFminmax_goes
  | .fcmp _ _ _ _ _ => execFcmp_goes
  | .ffun _ _ _ => execFfun_goes
  | .fcvt _ _ _ _ _ => execFcvt_goes
  | .fpack _ _ _ _ => execFpack_goes
  | .hadd2 _ _ _ _ => execHadd2_goes
  | .hmul2 _ _ _ _ => execHmul2_goes
  | .hfma2 _ _ _ _ => execHfma2_goes
  | .fclass _ _ _ => execFclass_goes
  | .frng _ _ => execFrng_goes
  | .fscale _ _ _ _ _ => execFscale_goes
  | .fdot2 _ _ _ _ => execFdot2_goes
  | .ld _ _ _ _ => execLd_goes
  | .st _ _ _ _ => execSt_goes
  | .lds _ _ _ _ => execLds_goes
  | .sts _ _ _ _ => execSts_goes
  | .ldc _ _ _ _ => execLdc_goes
  | .ldsp _ _ _ _ _ => execLdsp_goes
  | .stsp _ _ _ _ _ => execStsp_goes
  | .ldb _ _ _ _ => execLdb_goes
  | .stb _ _ _ _ => execStb_goes
  | .pref a _ => execPref_goes (a := a)
  | .pfence _ => execPfence_goes
  | .drain => execDrain_goes
  | .cpy _ _ _ _ => execCpy_goes
  | .tlwait _ => execTlwait_goes
  | .tlwaitN _ _ => execTlwaitN_goes
  | .tlreadCnt _ _ => execTlreadCnt_goes
  | .tlreadLast _ _ => execTlreadLast_goes
  | .tlreadSkip _ _ => execTlreadSkip_goes
  | .sleept _ => execSleept_goes
  | .sleepEnd _ => execSleepEnd_goes
  | .promiseExpiry _ => execPromiseExpiry_goes
  | .atom _ _ _ _ => execAtom_goes
  | .atom64 _ _ _ _ => execAtom64_goes
  | .casW _ _ _ => execCasW_goes
  | .casD _ _ _ => execCasD_goes
  | .red _ _ _ _ => execRed_goes
  | .chunk _ _ _ => execChunk_goes
  | .qpush _ _ => execQpush_goes
  | .qpop _ _ _ => execQpop_goes
  | .qpops _ _ => execQpops_goes
  | .qclose _ => execQclose_goes
  | .lnch _ _ _ _ => execLnch_goes
  | .lnchTry _ _ _ _ => execLnchTry_goes
  | .joinw _ _ => execJoinw_goes
  | .bar _ => execBar_goes
  | .mcopy _ _ _ _ => execMcopy_goes
  | .reduce _ _ _ _ => execReduce_goes
  | .fencePub _ => execFencePub_goes
  | .fenceAcq _ => execFenceAcq_goes
  | .fenceAr _ => execFenceAr_goes
  | .cancelL _ => execCancelL_goes
  | .cancelG => execCancelG_goes
  | .cancelJ => execCancelJ_goes
  | .mma _ _ _ _ => execMma_goes
  | .mldw _ _ => execMldw_goes
  | .accz _ => execAccz_goes
  | .accrd _ _ _ _ => execAccrd_goes
  | .accwr _ _ _ => execAccwr_goes
  | .acccvt _ _ _ _ => execAcccvt_goes
  | .accadd _ _ _ => execAccadd_goes
  | .acccp _ _ _ => execAcccp_goes
  | .shset _ _ => execShset_goes
  | .shget _ _ => execShget_goes
  | .pkld _ _ => execPkld_goes
  | .pkq _ _ => execPkq_goes
  | .pkb _ _ => execPkb_goes
  | .ovfq _ => execOvfq_goes
  | .lsapp _ _ => execLsapp_goes
  | .accmx _ _ _ => execAccmx_goes
  | .tileHoldEnd _ => execTileHoldEnd_goes
  | .loadReply _ _ => execLoadReply_goes
  | .replyToImage _ _ _ _ => execReplyToImage_goes
  | .atomicErrorReply _ => execAtomicErrorReply_goes
  | .postedPermissionTest _ => execPostedPermissionTest_goes
  | .storeAtHome _ => execStoreAtHome_goes
  | .storeFaultDelivery _ => execStoreFaultDelivery_goes
  | .updateOnlyEviction _ => execUpdateOnlyEviction_goes
  | .combineMerge _ _ => execCombineMerge_goes
  | .replySplit _ => execReplySplit_goes
  | .atomicAtHome _ => execAtomicAtHome_goes
  | .chunkGroup _ => execChunkGroup_goes
  | .queueOpArrival _ => execQueueOpArrival_goes
  | .queueOpAccept _ => execQueueOpAccept_goes
  | .poolRecordGrant _ _ => execPoolRecordGrant_goes
  | .reeveChildStart _ _ => execReeveChildStart_goes
  | .gangEnd _ => execGangEnd_goes
  | .launchComplete _ => execLaunchComplete_goes
  | .barrierOpen _ => execBarrierOpen_goes
  | .pathAgeingTakeover _ => execPathAgeingTakeover_goes
  | .rootLaunchStart _ _ => execRootLaunchStart_goes
  | .mmaStart _ => execMmaStart_goes
  | .mmaStepComplete _ => execMmaStepComplete_goes
  | .mmaRestart _ => execMmaRestart_goes
  | .operandFetchFailure _ _ _ => execOperandFetchFailure_goes
  | .weightLatchLoaded _ _ _ => execWeightLatchLoaded_goes
  | .granaryOpStart _ => execGranaryOpStart_goes
  | .granaryOpComplete _ => execGranaryOpComplete_goes
  | .cartOpComplete _ => execCartOpComplete_goes
  | .fabricTimeout _ => execFabricTimeout_goes
  | .laneLoss _ _ _ => execLaneLoss_goes
  | .retrainComplete _ _ => execRetrainComplete_goes
  | .portRejoin _ _ => execPortRejoin_goes
  | .capabilityWord _ _ _ => execCapabilityWord_goes
  | .capabilityTimeout _ _ => execCapabilityTimeout_goes
  | .linkDown _ _ => execLinkDown_goes
  | .podBringUp _ _ _ => execPodBringUp_goes
  | .memberFailure _ => execMemberFailure_goes
  | .hello _ _ _ _ _ _ => execHello_goes
  | .confirm _ _ => execConfirm_goes
  | .messageAuthFailure _ _ => execMessageAuthFailure_goes
  | .sessionClose _ _ => execSessionClose_goes
  | .sessionLinkLoss _ _ => execSessionLinkLoss_goes
  | .jobCreate _ _ => execJobCreate_goes
  | .jobEnd _ _ => execJobEnd_goes
  | .keyInstall _ _ _ _ => execKeyInstall_goes
  | .load _ _ _ _ _ _ => execLoad_goes
  | .memWrite _ _ _ _ => execMemWrite_goes
  | .memRead _ _ _ _ => execMemRead_goes
  | .graphCreate _ _ => execGraphCreate_goes
  | .queueBindCmd _ _ _ => execQueueBindCmd_goes
  | .submit _ _ _ => execSubmit_goes
  | .cancelLaunch _ _ _ => execCancelLaunch_goes
  | .cancelGraph _ _ _ => execCancelGraph_goes
  | .cancelJob _ _ => execCancelJob_goes
  | .counterRead _ _ _ => execCounterRead_goes
  | .save _ _ => execSave_goes
  | .saveComplete _ _ => execSaveComplete_goes
  | .saveDeadlineExpiry _ _ => execSaveDeadlineExpiry_goes
  | .resume _ _ => execResume_goes
  | .resumeRestore _ _ => execResumeRestore_goes
  | .packageReset _ => execPackageReset_goes
  | .functionReady _ _ => execFunctionReady_goes
  | .commandReadyTimeout _ => execCommandReadyTimeout_goes
  | .functionFailure _ _ => execFunctionFailure_goes
  | .uncorrectableStateError _ => execUncorrectableStateError_goes
  | .scrubPass _ => execScrubPass_goes
  | .telemetryUpdate _ _ => execTelemetryUpdate_goes
  | .powerLimit _ _ => execPowerLimit_goes
  | .thermalShutdown _ _ => execThermalShutdown_goes
  | .checkpoint _ _ => execCheckpoint_goes
  | .checkpointRestore _ _ => execCheckpointRestore_goes
  | .checkpointComplete _ _ => execCheckpointComplete_goes
  | .illegalInstruction _ => execIllegalInstruction_goes
  | .granarySegmentWrite _ => execGranarySegmentWrite_goes
  | .granaryQueryBoundary _ => execGranaryQueryBoundary_goes
  | .linkUp _ _ _ => execLinkUp_goes
  | .flitCrcFailure _ _ => execFlitCrcFailure_goes
  | .jobClaim _ _ _ _ => execJobClaim_goes

end Sys2Proof.Proofs
end

section
/-! SUPPORT. What a step runs, runs on a state in which the results on their way stand in order as well (03 R111, log 3); so a step keeps them
in order. -/

namespace Sys2Proof.Proofs

open Sys2Proof Sys2Proof.Machine Sys2Proof.Claims Sys2Proof.Laws

/-- The state that a choice leaves, or runs an instruction or event on, has its results on their way in order. -/
def ChoiceInOrder : Choice → Prop
  | .run _ t | .done t => InOrder t
  | .hold _ => True

variable {s : State} {g : Gang} {n : Nat} {c : Coords} {ch : Choice}

theorem ChoiceInOrder.ite {p : Prop} {d : Decidable p} {a b : Choice} (ha : ChoiceInOrder a) (hb : ChoiceInOrder b) :
    ChoiceInOrder (if p then a else b) := by
  split
  · exact ha
  · exact hb

theorem GangInOrder.tick (h : GangInOrder g) : GangInOrder (tick s g) := .ite h h


/-! The next instruction of a gang -/

theorem InOrder.wakeDue (h : InOrder s) : InOrder (wakeDue s) := by
  unfold Machine.wakeDue
  split
  · exact .ite h h
  · exact h
  · exact h
theorem ChoiceInOrder.issueBody {a : Word} (h : InOrder s) : ChoiceInOrder (issueBody a s) := by
  unfold Machine.issueBody
  extract_lets g pc ix
  split
  · exact InOrder.raise h
  · extract_lets x w j flag free t
    have ht : InOrder t := .gang h rfl (.atIssue h.1)
    refine .ite trivial (.ite trivial (.ite trivial (.ite trivial ?_)))
    clear_value j
    cases j with
    | error e => exact InOrder.raise h
    | ok y =>
      dsimp only
      split
      · exact .ite ht ht
      · exact ht
theorem ChoiceInOrder.enterClause (h : InOrder s) : ChoiceInOrder (enterClause s) := by
  unfold Machine.enterClause
  extract_lets g pc
  split
  · exact InOrder.raise h
  · split
    · exact InOrder.raise h
    · exact .ite (InOrder.illegal h) (.ite trivial (.issueBody h))
theorem ChoiceInOrder.issueNext (h : InOrder s) : ChoiceInOrder (issueNext s) := by
  unfold Machine.issueNext
  extract_lets t g _ u
  have ht : InOrder t := .wakeDue h
  have hu : InOrder u := ht
  refine .ite (InOrder.dropWaits (u := g.uid) ht) ?_
  split
  · exact InOrder.enterTrap ht
  · split
    · exact InOrder.deliverFault ht
    · refine .ite (InOrder.stopGang ht) (.ite (InOrder.gang ht rfl (.ageOver ht.1)) (.ite trivial (.ite trivial ?_)))
      split
      · exact .enterClause hu
      · split
        · exact .issueBody hu
        · exact InOrder.raise hu
      · exact InOrder.raise hu

/-! Time -/

theorem InOrder.countThrottle (h : InOrder s) : InOrder (countThrottle n s) := .packages h rfl (forall_mem_upd h.2.2.2 fun _ hp => hp)
theorem InOrder.expirePromises (h : InOrder s) : InOrder (expirePromises s) := .foldl (fun _ _ h => .expirePromise h) h
theorem InOrder.passTime (h : InOrder s) : InOrder (passTime n s) := by
  have hg : InOrder (Machine.onGangs (tick s) s) := .onGangs (fun _ hg => .tick hg) h
  have ht : InOrder (Machine.countThrottle (timeFor n s) (linkTraffic (Machine.onGangs (tick s) s))) := .countThrottle hg
  exact .ite h (.expirePromises ht)

/-! The moves of the agenda, and the default order -/

theorem ChoiceInOrder.goOn (h : InOrder s) : ChoiceInOrder (goOn c s) := by
  unfold Machine.goOn
  extract_lets t
  have ht : InOrder t := .focus h
  refine .ite ?_ h
  have hn := ChoiceInOrder.issueNext ht
  split
  · exact h
  · next u he => rwa [he] at hn
  · next i u he => exact InOrder.ite (he ▸ hn : ChoiceInOrder (.run i u)) (he ▸ hn : ChoiceInOrder (.run i u))
theorem ChoiceInOrder.serve {p k : Nat} (h : InOrder s) : ChoiceInOrder (serve p k s) := by
  unfold Machine.serve
  split
  · exact h
  · next x i _ =>
    extract_lets t
    have ht : InOrder t := .onSess h
    split
    · exact ht
    · obtain ⟨u, hu, hk⟩ := strayCommand_goes (h := x) (s := t)
      rw [hu]
      exact hk ht
theorem ChoiceInOrder.elsewhere (h : InOrder s) : ChoiceInOrder (elsewhere s) := by
  unfold Machine.elsewhere
  split
  · exact h
  · exact .serve h
  · split
    · exact .goOn h
    · exact InOrder.passTime h
theorem ChoiceInOrder.byDefault (h : InOrder s) : ChoiceInOrder (byDefault s) := by
  unfold Machine.byDefault
  extract_lets t
  have ht : InOrder t := h
  refine .ite ?_ (.elsewhere ht)
  split
  · exact .elsewhere ht
  · exact .goOn ht
  · exact .goOn ht
theorem InOrder.mismatched (hc : ChoiceInOrder ch) (h : InOrder s) : InOrder (mismatched ch s) := by
  unfold Machine.mismatched
  split
  · exact h
  · exact h
  · next i u =>
    split
    · exact .ite (.escalate (InOrder.dropWaits (u := u.g.uid) hc)) h
    · exact h
theorem ChoiceInOrder.byAgenda {m : Move} (h : InOrder s) : ChoiceInOrder (byAgenda m s) := by
  cases m with
  | event i => exact .ite h h
  | issue c => exact .goOn h
  | wait n => exact InOrder.passTime h
  | part c id i m =>
    change InOrder (match gangAt s c with | some g => _ | none => _)
    split
    · exact .ite h (.onGang (fun _ hg => .showPart hg) h)
    · exact h
  | elements o es => exact InOrder.moveElements h
  | error l => exact h
  | mismatch c => exact InOrder.mismatched (.goOn h) h
  | miss c n =>
    change InOrder (match gangAt s c with | some g => _ | none => _)
    split
    · exact .onGang (fun _ hg => .ite hg hg) h
    · exact h
  | serve p n => exact .serve h
  | stray x =>
    obtain ⟨u, hu, hk⟩ := strayCommand_goes (h := x) (s := s)
    change InOrder (match strayCommand x s with | .next t => t | .fault _ | .refused _ => s)
    rw [hu]
    exact hk h
theorem ChoiceInOrder.plan (h : InOrder s) : ChoiceInOrder (plan s) := by
  unfold Machine.plan
  split
  · exact .byDefault h
  · exact .byAgenda h


/-- A step goes on, and keeps the order of the results on their way. -/
theorem step_goes : Goes s (step s) := by
  have hp : InOrder s → ChoiceInOrder (plan s) := .plan
  unfold step
  split
  · next i t he =>
    obtain ⟨u, hu, hk⟩ := exec_goes (s := t) i
    exact ⟨u, hu, fun h => hk (he ▸ hp h :)⟩
  · next t he => exact .next fun h => (he ▸ hp h :)
  · exact .next id

end Sys2Proof.Proofs
end

section
/-! SUPPORT. A step goes on and keeps the results on their way in order; a clause's header and the agenda's moves (03 R103, R106, R108, log 3). -/

namespace Sys2Proof.Proofs

open Sys2Proof Sys2Proof.Machine Sys2Proof.Claims Sys2Proof.Laws

variable {s : State}

/-- `InOrder` in the words of the obligation: the images in use and the kept ones in one list. -/
theorem inOrder_iff : InOrder s ↔ (∀ g ∈ s.g :: s.others, g.inflight.Pairwise (fun a b => a.due ≤ b.due)) ∧
    ∀ i ∈ s.images ++ s.pkgs.flatMap (fun p => p.kept.2), ∀ g ∈ i.gangs, g.inflight.Pairwise (fun a b => a.due ≤ b.due) := by
  simp only [List.forall_mem_cons, List.forall_mem_append, List.mem_flatMap, forall_exists_index, and_imp]
  constructor
  · rintro ⟨hg, ho, hi, hp⟩
    exact ⟨⟨hg, ho⟩, hi, fun i p hp' hi' => hp p hp' i hi'⟩
  · rintro ⟨⟨hg, ho⟩, hi, hp⟩
    exact ⟨hg, ho, hi, fun p hp' i hi' => hp i p hp' hi'⟩

/-- Settles O9: every instruction and event keeps the order, every rule by the shape of its own definition, and so does what a step runs it on. -/
theorem stepKeepsResultsInOrder : Obligations.StepKeepsResultsInOrder := by
  intro s t hs ht
  obtain ⟨u, hu, hk⟩ := step_goes (s := s)
  obtain rfl : u = t := by
    rw [hu] at ht
    exact Host.Outcome.next.inj ht
  exact inOrder_iff.1 (hk (inOrder_iff.2 hs))

/-! The clause's header -/

theorem stepAlwaysGoesOn : StepAlwaysGoesOn := fun s =>
  let ⟨t, ht, _⟩ := step_goes (s := s)
  ⟨t, ht⟩
theorem enterClause_of_fetched {h : W32} {ws : List W32} (hh : fetchWord s s.g (path s.g).pc = .ok h)
    (hws : fetchWords s s.g (hCount h) ((path s.g).pc + 4) = .ok ws) :
    enterClause s = if !headerOk h ws then .done (illegal h s) else if !Machine.waitMet s.g h then .hold none
      else issueBody (path s.g).pc (setPc ((path s.g).pc + 4) s) := by
  simp only [enterClause, hh, hws]
theorem stepEntersAClause : StepEntersAClause := fun s h ws hh hws hok hw => by
  rw [enterClause_of_fetched hh hws, hok, hw]
  rfl
theorem clauseHeaderTrapsOrHolds : ClauseHeaderTrapsOrHolds := fun s h ws hh hws => by
  rw [enterClause_of_fetched hh hws]
  constructor
  · intro hbad
    rw [hbad]
    rfl
  · intro hok hw
    rw [hok, hw]
    rfl

/-! The agenda's moves -/

/-- A promise that runs out moves no clock, no byte and no move of the agenda. -/
theorem expirePromise_keeps (o : OpId) (s : State) :
    ((expirePromise o s).cycle, (expirePromise o s).mem, (expirePromise o s).agenda) = (s.cycle, s.mem, s.agenda) := by
  unfold expirePromise
  split
  · rfl
  · dsimp only
    split
    · split <;> rfl
    · split <;> rfl
theorem expirePromises_keeps (s : State) :
    ((expirePromises s).cycle, (expirePromises s).mem, (expirePromises s).agenda) = (s.cycle, s.mem, s.agenda) :=
  foldl_keeps (fun s : State => (s.cycle, s.mem, s.agenda)) (fun s c => expirePromise_keeps c.id s) _ _
/-- Time passes by the cycles that `timeFor` allows, and moves no byte and no move of the agenda. -/
theorem passTime_keeps (n : Nat) (s : State) :
    ((passTime n s).cycle, (passTime n s).mem, (passTime n s).agenda) = (s.cycle + timeFor n s, s.mem, s.agenda) := by
  unfold passTime
  dsimp only
  split
  · next h0 => rw [h0]; rfl
  · exact expirePromises_keeps _
theorem plan_of_agenda {m : Move} {r : List Move} (ha : s.agenda = m :: r) : plan s = byAgenda m { s with agenda := r } := by
  simp only [plan, ha]
theorem stepTakesTheAgendasMove : StepTakesTheAgendasMove := by
  intro s r
  constructor
  · intro i ha hi
    simp only [step, plan_of_agenda ha, byAgenda, hi, if_true]
  · intro n ha
    have hk := passTime_keeps n { s with agenda := r }
    simp only [Prod.mk.injEq] at hk
    exact ⟨passTime n { s with agenda := r }, by simp only [step, plan_of_agenda ha, byAgenda], hk⟩

/-- Settles O5: a step goes on since every instruction and event does; the header's checks are those of `enterClause`. -/
theorem stepsAtClauseBoundaries : Obligations.StepsAtClauseBoundaries :=
  ⟨stepAlwaysGoesOn, stepEntersAClause, clauseHeaderTrapsOrHolds, stepTakesTheAgendasMove⟩

end Sys2Proof.Proofs
end
